-- ==== Sys2Proof/Word.lean ====
section
/-! DEFINITION. Word types of the Cilvare CV8 and their plainest arithmetic (R6: little-endian values, bit 0 least significant). -/

namespace Sys2Proof

abbrev Byte := BitVec 8
abbrev W16 := BitVec 16
abbrev W32 := BitVec 32
abbrev W64 := BitVec 64

/-- An optional step word (R64) of an instruction group. -/
abbrev StepWord := Option (BitVec 32)

/-- An optional modifier word (R65) of an X group. -/
abbrev ModWord := Option (BitVec 32)

/-- The bits `[lo + len - 1 : lo]` of a word (R6). -/
def fld {n : Nat} (w : BitVec n) (lo len : Nat) : BitVec len := w.extractLsb' lo len

/-- One bit of a word as a Bool. -/
def bitAt {n : Nat} (w : BitVec n) (i : Nat) : Bool := w.getLsbD i

end Sys2Proof
end

