-- ==== Sys2Proof/Config.lean ====
section
/-! DEFINITION. What the manual leaves to an implementation, and the free values. A free value is an opaque constant: nothing can evaluate it, so a statement that holds, holds whatever it is. Each is numbered by a counter of the state (assumption 2). -/

namespace Sys2Proof.Config

/-- The value of a poisoned result (R52: "Its value is not defined"). -/
opaque freeWord : Nat → BitVec 64

/-- The number of reference cycles that a freeze adds (R84: a freeze adds reference cycles only, and the manual gives no number). -/
opaque freeDelay : Nat → Nat

/-- Whether the root port completes AtomicOps (R110). -/
opaque rootPortAtomics : Bool

/-- Which line of a full L1 a new line replaces (R232: "except replacement"). -/
opaque freeVictim : Nat → Nat

/-- Bytes that the manual leaves open: digests, certificates, signatures and keys (R429 to R431), an error's syndrome. -/
opaque freeByte : Nat → Nat → BitVec 8

/-- The module number of this device in the scale-up domain when no policy word gives one (R423). -/
opaque freeModule : Nat

/-- The bytes of a save slot whose encoding the manual leaves open: the state block and the poison tags (R350). -/
opaque freeCells : Nat → List (Nat × BitVec 8)

/-- A verdict that rests on cryptography or on analogue hardware that the manual does not reduce to its state (R424, R429). -/
opaque freeVerdict : Nat → Bool

/-- SHA-256 (R429 to R431), which the manual names and does not define. -/
opaque sha256 : List (BitVec 8) → BitVec 256

/-- The alias key that firmware derives from the keys of the configuration region and the measurements (R430); the manner of the derivation is open. -/
opaque aliasKey : List (BitVec 8) → List (List (BitVec 8)) → BitVec 256

/-- The certificate chain of an alias key (R430): its length and its bytes. -/
opaque chainLength : Nat
opaque chainByte : BitVec 256 → Nat → BitVec 8

/-- The bytes of a signature of a message by an alias key (R430, R431); the first number tells one signing from another. -/
opaque signByte : Nat → BitVec 256 → List (BitVec 8) → Nat → BitVec 8

/-- How many translation misses a stack has outstanding at a time (R420): the model answers a miss at once, and the manual gives no number. -/
opaque freeMisses : Nat → Nat → BitVec 64

/-- The context that owns the data at a physical address at a time (R415): the manual does not tell whose a frame is that several contexts may map. -/
opaque freeOwner : Nat → Nat → Nat

/-- The identity and capability registers of BAR0 but BOOTST, by doubleword (R367: "Identity and capabilities, RO"). -/
opaque identity : Nat → BitVec 64

end Sys2Proof.Config
end

