-- ==== Sys2Proof/Syntax.lean ====
section
/-! DEFINITION. The instructions of the Cilvare CV8: one constructor of `Instr` per row of the opcode table. An instruction word keeps the fields of its form (R59 to R65); a row without an encoding is an event, a step or a message, and carries what it brings in. -/

namespace Sys2Proof

/-- The four instruction sequencers of a core (R54, R205). -/
inductive Engine where
  | s | l | x | w
  deriving DecidableEq, Repr

/-- S register form (R59). -/
structure SReg where
  sd : BitVec 6
  sa : BitVec 6
  sb : BitVec 6
  st : StepWord
  deriving DecidableEq, Repr

/-- S immediate form (R59). -/
structure SImm where
  sd : BitVec 6
  sa : BitVec 6
  imm : BitVec 14
  st : StepWord
  deriving DecidableEq, Repr

/-- S branch form (R59). -/
structure Br where
  pred : BitVec 4
  inv : BitVec 1
  off : BitVec 21
  st : StepWord
  deriving DecidableEq, Repr

/-- X vector form (R60) with its step and modifier words. -/
structure XVec where
  dreg : BitVec 8
  dir : BitVec 2
  slice : BitVec 5
  qa : BitVec 3
  qb : BitVec 3
  tr : BitVec 5
  st : StepWord
  md : ModWord
  deriving DecidableEq, Repr

/-- X matrix form (R61). -/
structure XMat where
  tile : BitVec 10
  odA : BitVec 4
  odB : BitVec 4
  fmt : BitVec 4
  flags : BitVec 4
  st : StepWord
  deriving DecidableEq, Repr

/-- L and W memory form (R62). -/
structure LWord where
  base : BitVec 6
  idx : BitVec 6
  off : BitVec 14
  st : StepWord
  deriving DecidableEq, Repr

/-- VRD and SPRD form (R168). -/
structure SliceQ where
  reg : BitVec 8
  dir : BitVec 2
  slice : BitVec 5
  q : BitVec 3
  st : StepWord
  deriving DecidableEq, Repr

/-- MST and SPWR form (R168). -/
structure MstWord where
  base : BitVec 6
  reg : BitVec 8
  dir : BitVec 2
  slice : BitVec 5
  off : BitVec 5
  st : StepWord
  deriving DecidableEq, Repr

/-- Semaphore group form of the command processor (R321). -/
structure SemWord where
  sd : BitVec 6
  sa : BitVec 6
  sem : BitVec 10
  st : StepWord
  deriving DecidableEq, Repr

/-- Queue group form of the command processor (R321). -/
structure QueWord where
  sd : BitVec 6
  sa : BitVec 6
  q : BitVec 4
  ser : BitVec 1
  st : StepWord
  deriving DecidableEq, Repr

/-- LOOP with an immediate count (R98); `len` is LEN - 1. -/
structure LoopImm where
  len : BitVec 5
  cimm : BitVec 14
  st : StepWord
  deriving DecidableEq, Repr

/-- LOOP with a register count (R98). -/
structure LoopReg where
  len : BitVec 5
  creg : BitVec 6
  st : StepWord
  deriving DecidableEq, Repr

/-- SIG and WAIT form (R98). -/
structure TokWord where
  tok : BitVec 5
  n : BitVec 16
  st : StepWord
  deriving DecidableEq, Repr

/-- An access that another agent makes to this device (a window, a peer's range, a BAR): R228, R361, R367. `put` is a write of a peer's tile copy, ladle or step, which goes to the hidden backing of a twin page (R253). -/
inductive Access where
  | read (len : Nat)
  | write (data : List Byte) (poison : Bool)
  | put (data : List Byte) (poison : Bool)
  | amo (op : BitVec 4) (d : Bool) (value : W64)
  | cas (d : Bool) (expected value : W64)
  deriving DecidableEq, Repr

/-- An access of a peer: the module it comes from, which its reply goes back to, and the access (R361). -/
structure PeerAccess where
  src : Nat
  acc : Access
  deriving DecidableEq, Repr

/-- A PCIe AtomicOp (R110). -/
inductive AtomicOp where
  | fetchAdd | swap | cas
  deriving DecidableEq, Repr

/-- A barrier arrival message as the group's home receives it (R104, R222, R223), with the generation of its record. -/
structure Arrival where
  ctx : Nat
  group : BitVec 8
  gen : Nat
  grank : Nat
  phase : W64
  op : Option (BitVec 3)
  value : W64
  poison : Bool
  deriving DecidableEq, Repr

/-- One riser block of a collective message as it reaches its receiver (R268, R269). `poison` has one flag per 32-bit word of `data`. -/
structure Block where
  group : BitVec 8
  seq : BitVec 32
  src : Nat
  ctag : BitVec 4
  addend : Bool
  total : Nat
  idx : Nat
  data : List Byte
  poison : List Bool
  deriving DecidableEq, Repr

/-- Where an error was detected (R412, R415). `residue` is a lane whose arithmetic fails its check (R416), with the words of the matrix register file that it was to give, by offset. -/
inductive ErrSite where
  | scratchpad (core off : Nat)
  | matrix (core off : Nat)
  | accumulator (core off : Nat)
  | queue (core q entry lane : Nat)
  | scalar (core n : Nat)
  | predicate (core n : Nat)
  | riser (core block word : Nat)
  | l1 (core addr : Nat)
  | instructionStore (core : Nat)
  | memorySideCache (addr : Nat)
  | tableStore (stack addr : Nat)
  | semaphore (n : Nat)
  | hbm (addr : Nat)
  | chill (core : Nat) (slotB : Bool) (off : Nat)
  | pcie
  | coreControl (core : Nat)
  | moduleControl (stack : Nat)
  | residue (core : Nat) (lane : BitVec 5) (words : List Nat)
  deriving DecidableEq, Repr

/-- A detected error, corrected or not (R412). -/
structure ErrorReport where
  site : ErrSite
  uncorrected : Bool
  syn : BitVec 16
  lane : Option (BitVec 5)
  deriving DecidableEq, Repr

/-- What a scrub found (R391, R413). -/
inductive ScrubResult where
  | clean | corrected | uncorrectable
  deriving DecidableEq, Repr

/-- What a patrol scrub reads: a block of HBM or a line of the memory-side cache, by its address (R413). -/
inductive ScrubSite where
  | hbm (addr : Nat)
  | cache (addr : Nat)
  deriving DecidableEq, Repr

/-- The contents of the sealed configuration region (R392). -/
structure ConfigImage where
  spares : List (Nat × BitVec 6)
  trims : List Byte
  keys : List Byte
  policy : List (BitVec 32)
  svn : BitVec 16
  deriving DecidableEq, Repr

/-- A firmware stage as the boot ROM finds it: the verdict of its signature check, its security version and its measurement (R429). -/
structure BootStage where
  signatureOk : Bool
  svn : BitVec 16
  digest : List Byte
  deriving DecidableEq, Repr

/-- What a module reset meets (R429): the self-test verdict and the three firmware stages, supervisor, CP and link. -/
structure BootInput where
  selfTestOk : Bool
  romDigest : List Byte
  supervisor : BootStage
  cp : BootStage
  link : BootStage
  deriving DecidableEq, Repr

/-- A firmware image that arrives through the vendor DOE object (R429, R392): the contents that it gives the configuration region, and the firmware stages that it replaces, 0 supervisor, 1 CP, 2 link. -/
structure FirmwareImage where
  signatureOk : Bool
  config : ConfigImage
  stages : List (Nat × BootStage)
  deriving DecidableEq, Repr

/-- The instructions and events of the opcode table. The order is free; the rows that a step itself forms stand first. -/
inductive Instr where
  /-- ADD (R88). -/
  | add (f : SReg)
  /-- SUB (R88). -/
  | sub (f : SReg)
  /-- MUL (R88). -/
  | mul (f : SReg)
  /-- MULH (R88). -/
  | mulh (f : SReg)
  /-- MULHU (R88). -/
  | mulhu (f : SReg)
  /-- DIV (R89). -/
  | div (f : SReg)
  /-- DIVU (R89). -/
  | divu (f : SReg)
  /-- REM (R89). -/
  | rem (f : SReg)
  /-- REMU (R89). -/
  | remu (f : SReg)
  /-- MIN (R88). -/
  | min (f : SReg)
  /-- MAX (R88). -/
  | max (f : SReg)
  /-- MINU (R88). -/
  | minu (f : SReg)
  /-- MAXU (R88). -/
  | maxu (f : SReg)
  /-- AND (R90). -/
  | and (f : SReg)
  /-- OR (R90). -/
  | or (f : SReg)
  /-- XOR (R90). -/
  | xor (f : SReg)
  /-- ANDN (R90). -/
  | andn (f : SReg)
  /-- SHL (R90). -/
  | shl (f : SReg)
  /-- SHR (R90). -/
  | shr (f : SReg)
  /-- SRA (R90). -/
  | sra (f : SReg)
  /-- CLZ (R90). -/
  | clz (f : SReg)
  /-- CTZ (R90). -/
  | ctz (f : SReg)
  /-- POPC (R90). -/
  | popc (f : SReg)
  /-- SEXT (R91). -/
  | sext (f : SReg)
  /-- ZEXT (R91). -/
  | zext (f : SReg)
  /-- BEXT (R91). -/
  | bext (f : SReg)
  /-- BINS (R91). -/
  | bins (f : SReg)
  /-- MOV (R92). -/
  | mov (f : SReg)
  /-- SEL (R92). -/
  | sel (f : SReg)
  /-- CMP (R93). -/
  | cmp (cc : BitVec 3) (f : SReg)
  /-- ADDI (R88). -/
  | addi (f : SImm)
  /-- ANDI (R90). -/
  | andi (f : SImm)
  /-- ORI (R90). -/
  | ori (f : SImm)
  /-- XORI (R90). -/
  | xori (f : SImm)
  /-- SHLI (R90). -/
  | shli (f : SImm)
  /-- SHRI (R90). -/
  | shri (f : SImm)
  /-- SRAI (R90). -/
  | srai (f : SImm)
  /-- LI (R92). -/
  | li (f : SImm) (ext : BitVec 32)
  /-- LIH (R92). -/
  | lih (f : SImm) (ext : BitVec 32)
  /-- CMPI_LO (R93). -/
  | cmpiLo (f : SImm)
  /-- CMPI_HI (R93). -/
  | cmpiHi (f : SImm)
  /-- LD (R106). -/
  | ld (w : BitVec 2) (f : SImm)
  /-- ST (R106). -/
  | st (w : BitVec 2) (f : SImm)
  /-- LD_SPEC (R107). -/
  | ldSpec (w : BitVec 2) (f : SImm)
  /-- LDA (R108). -/
  | lda (d : BitVec 1) (f : SReg)
  /-- STL (R108). -/
  | stl (d : BitVec 1) (f : SReg)
  /-- CAS (R109). -/
  | cas (d : BitVec 1) (f : SReg)
  /-- AMO (R109). -/
  | amo (d : BitVec 1) (op : BitVec 4) (f : SReg)
  /-- FENCE (R111). -/
  | fence (kind scope : BitVec 3) (f : SReg)
  /-- PFEN (R112). -/
  | pfen (f : SReg)
  /-- PROBE (R113). -/
  | probe (f : SReg)
  /-- UNPIN (R114). -/
  | unpin (f : SReg)
  /-- TRAP (R115). -/
  | trap (f : SReg)
  /-- UHRET (R290). -/
  | uhret (f : SReg)
  /-- DECLINE (R291). -/
  | decline (f : SReg)
  /-- CLKDIV (R117). -/
  | clkdiv (f : SReg)
  /-- CHK (R118). -/
  | chk (f : SReg)
  /-- YIELD (R119). -/
  | yield (f : SReg)
  /-- NPOST (R120). -/
  | npost (f : SReg)
  /-- LPOST (R121). -/
  | lpost (f : SReg)
  /-- TKSET (R103). -/
  | tkset (f : SReg)
  /-- TKRD (R103). -/
  | tkrd (f : SReg)
  /-- SYSRD (R116). -/
  | sysrd (f : SImm)
  /-- SYSWR (R116). -/
  | syswr (f : SImm)
  /-- BR (R95). -/
  | br (f : Br)
  /-- CALL (R95). -/
  | call (f : Br)
  /-- JMPI (R95). -/
  | jmpi (f : Br)
  /-- JMP (R96). -/
  | jmp (f : SReg)
  /-- RET (R96). -/
  | ret (f : SReg)
  /-- HALT (R97). -/
  | halt (f : SReg)
  /-- BARV (R104). -/
  | barv (f : SImm)
  /-- BARW (R105). -/
  | barw (f : SImm)
  /-- BARRED (R104). -/
  | barred (f : SImm)
  /-- PLOG (R94). -/
  | plog (op : BitVec 2) (f : SReg)
  /-- PSET (R94). -/
  | pset (f : SReg)
  /-- MOVP_TO_SCALAR (R94). -/
  | movpToScalar (f : SReg)
  /-- MOVP_TO_PREDICATE (R94). -/
  | movpToPredicate (f : SReg)
  /-- ECPROT (R400). -/
  | ecprot (f : SReg)
  /-- ECUNPROT (R401). -/
  | ecunprot (f : SReg)
  /-- ECSEAL (R402). -/
  | ecseal (f : SReg)
  /-- ECCLOSE (R404). -/
  | ecclose (f : SReg)
  /-- ECSTAT (R405). -/
  | ecstat (f : SReg)
  /-- SEMWGE (R322). -/
  | semwge (f : SemWord)
  /-- SEMADD (R322). -/
  | semadd (f : SemWord)
  /-- SEMSET (R322). -/
  | semset (f : SemWord)
  /-- QSUB (R323). -/
  | qsub (f : QueWord)
  /-- INTR (R324). -/
  | intr (f : QueWord)
  /-- LOOP_IMM (R99). -/
  | loopImm (e : Engine) (f : LoopImm)
  /-- LOOP_REG (R99). -/
  | loopReg (e : Engine) (f : LoopReg)
  /-- SIG (R47). -/
  | sig (e : Engine) (f : TokWord)
  /-- WAIT (R47). -/
  | wait (e : Engine) (f : TokWord)
  /-- NOP (R122). -/
  | nop (e : Engine) (st : StepWord)
  /-- PFEN_MARK (R112). -/
  | pfenMark (e : Engine) (st : StepWord)
  /-- VRD (R170). -/
  | vrd (f : SliceQ)
  /-- VLD (R171). -/
  | vld (f : LWord)
  /-- GATH (R172). -/
  | gath (f : LWord)
  /-- MLD_H (R173). -/
  | mldH (f : LWord)
  /-- MLD_V (R173). -/
  | mldV (f : LWord)
  /-- SPRD (R170). -/
  | sprd (f : SliceQ)
  /-- XLD (R178). -/
  | xld (f : LWord)
  /-- XLD_T (R178). -/
  | xldT (f : LWord)
  /-- XLDN (R180). -/
  | xldn (f : LWord)
  /-- XLDF (R181). -/
  | xldf (f : LWord)
  /-- ODSET (R175). -/
  | odset (f : LWord)
  /-- CDSET (R176). -/
  | cdset (f : LWord)
  /-- WAITC_CHUNK (R184). -/
  | waitcChunk (e : Engine) (f : LWord)
  /-- WAITC_POSTING (R184). -/
  | waitcPosting (e : Engine) (f : LWord)
  /-- SEQSET (R185). -/
  | seqset (f : LWord)
  /-- MST (R174). -/
  | mst (f : MstWord)
  /-- SPWR (R174). -/
  | spwr (f : MstWord)
  /-- SCAT (R172). -/
  | scat (f : LWord)
  /-- XST (R178). -/
  | xst (f : LWord)
  /-- XSTN (R180). -/
  | xstn (f : LWord)
  /-- XSTF (R181). -/
  | xstf (f : LWord)
  /-- STB (R186). -/
  | stb (f : LWord)
  /-- BCLOSE (R187). -/
  | bclose (f : LWord)
  /-- PUB (R188). -/
  | pub (f : LWord)
  /-- VADD (R129). -/
  | vadd (f : XVec)
  /-- VSUB (R129). -/
  | vsub (f : XVec)
  /-- VMUL (R129). -/
  | vmul (f : XVec)
  /-- VFMA (R129). -/
  | vfma (f : XVec) (ext : BitVec 32)
  /-- VFMS (R129). -/
  | vfms (f : XVec) (ext : BitVec 32)
  /-- VFNMA (R129). -/
  | vfnma (f : XVec) (ext : BitVec 32)
  /-- VMIN (R130). -/
  | vmin (f : XVec)
  /-- VMAX (R130). -/
  | vmax (f : XVec)
  /-- VMINNUM (R130). -/
  | vminnum (f : XVec)
  /-- VMAXNUM (R130). -/
  | vmaxnum (f : XVec)
  /-- VRCP (R131). -/
  | vrcp (f : XVec)
  /-- VRSQ (R131). -/
  | vrsq (f : XVec)
  /-- VSQRT (R131). -/
  | vsqrt (f : XVec)
  /-- VEXP2 (R131). -/
  | vexp2 (f : XVec)
  /-- VLOG2 (R131). -/
  | vlog2 (f : XVec)
  /-- VCMP (R132). -/
  | vcmp (f : XVec)
  /-- VCLASS (R133). -/
  | vclass (f : XVec)
  /-- VIADD (R134). -/
  | viadd (f : XVec)
  /-- VISUB (R134). -/
  | visub (f : XVec)
  /-- VIMUL (R134). -/
  | vimul (f : XVec)
  /-- VIMULH (R134). -/
  | vimulh (f : XVec)
  /-- VIMAD (R134). -/
  | vimad (f : XVec) (ext : BitVec 32)
  /-- VIADDW (R135). -/
  | viaddw (f : XVec)
  /-- VIMADW (R135). -/
  | vimadw (f : XVec) (ext : BitVec 32)
  /-- VAND (R134). -/
  | vand (f : XVec)
  /-- VOR (R134). -/
  | vor (f : XVec)
  /-- VXOR (R134). -/
  | vxor (f : XVec)
  /-- VSHL (R134). -/
  | vshl (f : XVec)
  /-- VSHR (R134). -/
  | vshr (f : XVec)
  /-- VSRA (R134). -/
  | vsra (f : XVec)
  /-- VIMIN (R134). -/
  | vimin (f : XVec)
  /-- VIMAX (R134). -/
  | vimax (f : XVec)
  /-- VCLZ (R134). -/
  | vclz (f : XVec)
  /-- VPOPC (R134). -/
  | vpopc (f : XVec)
  /-- VCVT (R136). -/
  | vcvt (f : XVec) (ext : BitVec 32)
  /-- VQMX (R138). -/
  | vqmx (f : XVec) (ext : BitVec 32)
  /-- VDQMX (R139). -/
  | vdqmx (f : XVec) (ext : BitVec 32)
  /-- VSCAN (R140). -/
  | vscan (f : XVec)
  /-- VSCAN_WIDE (R140). -/
  | vscanWide (f : XVec)
  /-- VRED (R141). -/
  | vred (f : XVec)
  /-- VPERM (R142). -/
  | vperm (f : XVec)
  /-- VROT (R142). -/
  | vrot (f : XVec) (ext : BitVec 32)
  /-- VBCAST (R142). -/
  | vbcast (f : XVec) (ext : BitVec 32)
  /-- VSEL (R142). -/
  | vsel (f : XVec) (ext : BitVec 32)
  /-- VEXT (R143). -/
  | vext (f : XVec) (ext : BitVec 32)
  /-- VINS (R143). -/
  | vins (f : XVec) (ext : BitVec 32)
  /-- VMOV (R142). -/
  | vmov (f : XVec)
  /-- VLANE (R142). -/
  | vlane (f : XVec)
  /-- MMA (R154). -/
  | mma (f : XMat)
  /-- MMAC (R155). -/
  | mmac (f : XMat)
  /-- MMAR (R156). -/
  | mmar (f : XMat)
  /-- MCONV (R158). -/
  | mconv (f : XMat)
  /-- MSHAPE (R157). -/
  | mshape (f : XMat) (ext : BitVec 32)
  /-- ACCZ (R160). -/
  | accz (f : XMat)
  /-- ACCRD (R161). -/
  | accrd (f : XMat) (ext : BitVec 32)
  /-- ACCWR (R161). -/
  | accwr (f : XMat) (ext : BitVec 32)
  /-- ACCARM (R162). -/
  | accarm (f : XMat) (ext : BitVec 32)
  /-- MEXC (R163). -/
  | mexc (f : XMat)
  /-- FETCH_LINE (R57). -/
  | fetchLine (core : Nat)
  /-- MEMORY_DATA_ARRIVAL (R84). -/
  | memoryDataArrival (core : Nat)
  /-- MATRIX_TILE_WRITE (R154). -/
  | matrixTileWrite (core : Nat)
  /-- INGOT_FAULT (R202). -/
  | ingotFault (core : Nat)
  /-- REMOTE_OPERAND_FAULT (R156). -/
  | remoteOperandFault (core : Nat)
  /-- TRAP_TAKEN (R282). -/
  | trapTaken (core : Nat)
  /-- COPY_CHUNK_COMPLETE (R183). -/
  | copyChunkComplete (core copy : Nat)
  /-- COPY_ARRIVAL_POSTED (R184). -/
  | copyArrivalPosted (core copy : Nat)
  /-- NEIGHBOUR_ARRIVAL (R180). -/
  | neighbourArrival (core copy : Nat)
  /-- WINDOW_ACCESS (R228). -/
  | windowAccess (ctx core off : Nat) (acc : Access)
  /-- PEER_ACCESS (R361). -/
  | peerAccess (ctx va : Nat) (acc : PeerAccess)
  /-- STB_SUMMARY_REPLY (R187). -/
  | stbSummaryReply (core : Nat) (tag : BitVec 2) (rank : BitVec 16) (err : BitVec 8) (deliv : Nat)
  /-- BARRIER_ARRIVAL (R223). -/
  | barrierArrival (a : Arrival)
  /-- RISER_BLOCK_ARRIVAL (R269). -/
  | riserBlockArrival (core : Nat) (b : Block)
  /-- CREDIT_RETURN (R269). -/
  | creditReturn (core : Nat) (g : BitVec 8) (dst : Nat)
  /-- COLLECTIVE_WATCHDOG (R270). -/
  | collectiveWatchdog (core : Nat) (g : BitVec 8) (src : Nat) (h : Nat) (sendsHere : Bool)
  /-- LANE_EVENT (R416). -/
  | laneEvent (core : Nat) (lane : BitVec 5)
  /-- STORE_VISIBLE (R239). -/
  | storeVisible (core idx : Nat)
  /-- SEND (R264). -/
  | send (core : Nat) (w : BitVec 64)
  /-- RECV (R264). -/
  | recv (core : Nat) (w : BitVec 64)
  /-- RRS (R265). -/
  | rrs (core : Nat) (w : BitVec 64)
  /-- RRA (R266). -/
  | rra (core : Nat) (w : BitVec 64)
  /-- COPY_STEP (R264). -/
  | copyStep (core : Nat) (w : BitVec 64)
  /-- HALO (R264). -/
  | halo (core : Nat) (w : BitVec 64)
  /-- WAITS (R271). -/
  | waits (core : Nat) (w : BitVec 64)
  /-- SIGS (R271). -/
  | sigs (core : Nat) (w : BitVec 64)
  /-- LBEG (R271). -/
  | lbeg (core : Nat) (w : BitVec 64)
  /-- LEND (R271). -/
  | lend (core : Nat) (w : BitVec 64)
  /-- END (R271). -/
  | endStep (core : Nat) (w : BitVec 64)
  /-- PERSIST_IMAGE_SEALED (R384). -/
  | persistImageSealed (core : Nat)
  /-- CORE_POWER_LOSS (R5). -/
  | corePowerLoss (cluster : Bool) (n : Nat)
  /-- CHILL_RESUME (R386). -/
  | chillResume (core : Nat)
  /-- ITERATION_HANDOUT (R340). -/
  | iterationHandout (core : Nat)
  /-- ITERATION_RETIRE (R313). -/
  | iterationRetire (core : Nat)
  /-- RECORD_COMPLETE (R315). -/
  | recordComplete (rec : Nat)
  /-- LOADER_FILL (R317). -/
  | loaderFill (core rec : Nat)
  /-- PLANE_FLIP (R318). -/
  | planeFlip (core : Nat)
  /-- PREEMPTION (R343). -/
  | preemption (rec : Nat)
  /-- CHECKPOINT_STOP (R346). -/
  | checkpointStop (core : Nat)
  /-- KILL (R347). -/
  | kill (core : Nat)
  /-- ITERATION_RESTORE (R355). -/
  | iterationRestore (ctx slot : Nat)
  /-- LADLE_WAKE (R328). -/
  | ladleWake (ctx q : Nat)
  /-- LADLE_SLOT_TAKE (R331). -/
  | ladleSlotTake (ladle : Nat)
  /-- NOPK (R335). -/
  | nopk (ladle : Nat)
  /-- COPY (R335). -/
  | copy (ladle : Nat)
  /-- FILL (R335). -/
  | fill (ladle : Nat)
  /-- QMX (R335). -/
  | qmx (ladle : Nat)
  /-- QCB4 (R335). -/
  | qcb4 (ladle : Nat)
  /-- INGOT (R335). -/
  | ingot (ladle : Nat)
  /-- HIST (R335). -/
  | hist (ladle : Nat)
  /-- TRANSLATION_WALK (R362). -/
  | translationWalk (ctx va : Nat) (wr : Bool)
  /-- HOST_BAR2_ACCESS (R367). -/
  | hostBar2Access (off : Nat) (acc : Access)
  /-- REGISTER_WRITE (R7). -/
  | registerWrite (off : Nat) (value : BitVec 64)
  /-- CLOSE (R407). -/
  | close (src : Nat) (q : Nat)
  /-- DELTA (R406). -/
  | delta (src q t j : Nat) (data : List (BitVec 8))
  /-- ACK (R407). -/
  | ack (src q t j : Nat)
  /-- PREPARED (R408). -/
  | prepared (src q : Nat)
  /-- REFUSE (R408). -/
  | refuse (src q : Nat)
  /-- COMMIT (R408). -/
  | commit (src q : Nat)
  /-- ABORT (R408). -/
  | abort (src q : Nat)
  /-- DEAD (R407). -/
  | dead (src pos : Nat)
  /-- QUERY (R408). -/
  | query (src q : Nat)
  /-- ANSWER (R408). -/
  | answer (src q : Nat) (yes : Bool)
  /-- MEMBER_UNREACHABLE_TIMEOUT (R407). -/
  | memberUnreachableTimeout (pos : Nat)
  /-- ILLEGAL_INSTRUCTION (R73). -/
  | illegalInstruction (e : Engine) (w : BitVec 32)
  /-- RESERVED_STEP (R262). -/
  | reservedStep (core : Nat) (w : BitVec 64)
  /-- HOST_ATOMICOP (R110). -/
  | hostAtomicop (off : Nat) (op : AtomicOp) (d : Bool) (value cmp : BitVec 64)
  /-- GCFG_ENABLE (R394). -/
  | gcfgEnable (value : BitVec 64)
  /-- REBUILD_START (R411). -/
  | rebuildStart (pos : Nat) (value : BitVec 64)
  /-- ERROR_DETECTED (R412). -/
  | errorDetected (e : ErrorReport)
  /-- PATROL_SCRUB (R413). -/
  | patrolScrub (addr : ScrubSite) (found : ScrubResult)
  /-- CHILL_SCRUB (R391). -/
  | chillScrub (core : Nat) (slotB : Bool) (granule : Nat) (found : ScrubResult)
  /-- FLIT_CHECK_FAILURE (R417). -/
  | flitCheckFailure (link : Nat)
  /-- LINK_TRAINING_STEP (R421). -/
  | linkTrainingStep (link : Nat) (ok : Bool) (partner : BitVec 32)
  /-- LINK_STATE_TIMEOUT (R421). -/
  | linkStateTimeout (link : Nat)
  /-- KEYX_REKEY (R424). -/
  | keyxRekey (port : Nat) (ok : Bool)
  /-- RAMP_COMPLETE (R427). -/
  | rampComplete (cluster : Nat)
  /-- THERMAL_THROTTLE_TICK (R428). -/
  | thermalThrottleTick (cluster : Nat)
  /-- THERMAL_RELEASE_TICK (R428). -/
  | thermalReleaseTick (cluster : Nat)
  /-- THERMAL_TRIP (R428). -/
  | thermalTrip (cluster : Nat)
  /-- TRIP_RECOVERY (R428). -/
  | tripRecovery (cluster : Nat)
  /-- DROOP_FIRE (R428). -/
  | droopFire (cluster : Nat) (stretch : BitVec 2)
  /-- DROOP_CLEAR (R428). -/
  | droopClear (cluster : Nat)
  /-- MODULE_RESET (R429). -/
  | moduleReset (b : BootInput)
  /-- FIRMWARE_IMAGE (R429). -/
  | firmwareImage (f : FirmwareImage)
  /-- GET_VERSION (R431). -/
  | getVersion (r : List (BitVec 8))
  /-- GET_CAPABILITIES (R431). -/
  | getCapabilities (r : List (BitVec 8))
  /-- NEGOTIATE_ALGORITHMS (R431). -/
  | negotiateAlgorithms (r : List (BitVec 8))
  /-- GET_DIGESTS (R431). -/
  | getDigests (r : List (BitVec 8))
  /-- GET_CERTIFICATE (R431). -/
  | getCertificate (r : List (BitVec 8))
  /-- CHALLENGE (R431). -/
  | challenge (r : List (BitVec 8))
  /-- GET_MEASUREMENTS (R431). -/
  | getMeasurements (r : List (BitVec 8))
  /-- SPDM_UNSUPPORTED_REQUEST (R431). -/
  | spdmUnsupportedRequest (r : List (BitVec 8))
  /-- MSIX_VECTOR_UNMASK (R324). -/
  | msixVectorUnmask (v : BitVec 11)
  /-- CONTEXT_SWITCH (R353). -/
  | contextSwitch (ctx : Nat) (off : Bool)
  /-- BASE_TIER_LOSS (R390). -/
  | baseTierLoss (stack : Nat)
  /-- ENABLE_CHECK_CRC (R394). -/
  | enableCheckCrc (src : Nat) (crc : BitVec 32)
  /-- MEMBER_DECLARED_DEAD (R407). -/
  | memberDeclaredDead (pos : Nat)
  /-- MODULE_POWER_LOSS (R390). -/
  | modulePowerLoss
  /-- RECORD_ACCEPT (R339). -/
  | recordAccept
  /-- CTX_CREATE (R371). -/
  | ctxCreate
  /-- CTX_END (R370). -/
  | ctxEnd
  /-- TLB_HOLD (R364). -/
  | tlbHold
  /-- TLB_RELEASE (R364). -/
  | tlbRelease
  /-- TWIN_SET (R365). -/
  | twinSet
  /-- ESC_ANSWER (R354). -/
  | escAnswer
  /-- LQ_BIND (R329). -/
  | lqBind
  /-- CP_START (R320). -/
  | cpStart
  /-- OP_SET (R426). -/
  | opSet
  /-- OP_GET (R426). -/
  | opGet
  /-- LIMIT_GET (R426). -/
  | limitGet
  /-- REBUILD_COMPLETE (R411). -/
  | rebuildComplete
  /-- SWEEP_COMPLETE (R406). -/
  | sweepComplete
  /-- POWER_LIMIT_TICK (R428). -/
  | powerLimitTick
  /-- POWER_LIMIT_RELEASE_TICK (R428). -/
  | powerLimitReleaseTick
  /-- SNAPSHOT_FIRE (R419). -/
  | snapshotFire
  /-- UNKNOWN_OPCODE (R370). -/
  | unknownOpcode
  /-- DOORBELL_WHILE_BUSY (R369). -/
  | doorbellWhileBusy
  deriving DecidableEq, Repr

end Sys2Proof
end

