-- ==== Sys2Proof/WellFormed.lean ====
section
/-! DEFINITION. The well-formedness of an instruction: exactly the words that raise no illegal-instruction fault by R8, R65, R73 and R74 (zero fields, reserved sub-field codes, modifier classes). Operand-value faults are no matter of form. -/

namespace Sys2Proof

/-- The modifier word of the class "full" (R65, R74). -/
def modFullOk (md : ModWord) : Bool :=
  match md with
  | none => true
  | some m =>
    fld m 30 2 == 0
    && (bitAt m 28 || (fld m 24 4 == 0 && !bitAt m 29))
    && (fld m 10 2 == 2 || (fld m 18 6 == 0 && fld m 12 6 == 0))
    && fld m 10 2 != 3

/-- The modifier word of the class "guard" (R74): only GEN, GINV and GPRED may be nonzero. -/
def modGuardOk (md : ModWord) : Bool :=
  modFullOk md &&
  match md with
  | none => true
  | some m => fld m 0 24 == 0

/-- The floating-point reading of `tr` (R60). -/
def trFp (tr : BitVec 5) : Bool := fld tr 3 2 != 3 && decide ((fld tr 0 3).toNat ≤ 4)

/-- The round codes of R60, as VCVT, VQMX and VDQMX hold them with `tr[4:3]` zero. -/
def trRound (tr : BitVec 5) : Bool := fld tr 3 2 == 0 && decide ((fld tr 0 3).toNat ≤ 4)

/-- The integer reading of `tr` where the round bits are zero fields (R60). -/
def trIntNoRound (tr : BitVec 5) : Bool := fld tr 0 2 == 0

/-- The type list of the widening forms (R135, R140): i32 or u32. -/
def trWiden (tr : BitVec 5) : Bool := decide ((fld tr 2 3).toNat ≤ 1)

/-- `tr` of VSCAN and VRED, whose class stands in `qb[2]` (R81, R140). -/
def trScan (qb : BitVec 3) (tr : BitVec 5) : Bool :=
  fld qb 0 2 != 3 && (!bitAt qb 2 || trFp tr)

/-- Both direction codes of R60 that are assigned; 0b11 is reserved. -/
def dirOk (d : BitVec 2) : Bool := d != 3

/-- VCMP's own fields (R132). -/
def vcmpOk (f : XVec) : Bool :=
  fld f.dreg 4 4 == 0 && f.dir == 0
  && (if bitAt f.slice 4
      then decide ((fld f.slice 0 4).toNat ≤ 5) && trIntNoRound f.tr
      else decide ((fld f.slice 0 4).toNat ≤ 7) && fld f.tr 3 2 != 3 && fld f.tr 0 3 == 0)

/-- The extension word of VCVT (R136). -/
def vcvtExtOk (tr : BitVec 5) (e : BitVec 32) : Bool :=
  fld e 16 16 == 0 && fld e 7 1 == 0 && fld e 0 4 == 0
  && decide ((fld e 12 4).toNat ≤ 13) && decide ((fld e 8 4).toNat ≤ 13)
  && !(fld tr 0 3 == 4 && decide (6 ≤ (fld e 12 4).toNat))

/-- The extension word of VQMX (R138); `sat` says whether bit 18 may be set. -/
def mxExtOk (sat : Bool) (e : BitVec 32) : Bool :=
  fld e 19 13 == 0 && (sat || fld e 18 1 == 0) && fld e 16 2 != 3
  && fld e 14 2 == 0 && fld e 3 5 == 0

/-- The S register words with unused fields, by which of sd, sa and sb must be zero (R87, R8). -/
def SReg.zero (f : SReg) (d a b : Bool) : Bool :=
  (!d || f.sd == 0) && (!a || f.sa == 0) && (!b || f.sb == 0)

/-- The matrix words whose low sixteen bits are zero fields (R161 to R163). -/
def XMat.lowZero (f : XMat) : Bool := f.odA == 0 && f.odB == 0 && f.fmt == 0 && f.flags == 0

/-- The multiply words (R146, R153). -/
def XMat.mulOk (f : XMat) : Bool := decide (f.fmt.toNat ≤ 11) && !bitAt f.flags 0

/-- The well-formed instructions. An event or a step row has no encoding and is always well formed. -/
def Instr.wf : Instr → Bool
  | .add _ => true
  | .sub _ => true
  | .mul _ => true
  | .mulh _ => true
  | .mulhu _ => true
  | .div _ => true
  | .divu _ => true
  | .rem _ => true
  | .remu _ => true
  | .min _ => true
  | .max _ => true
  | .minu _ => true
  | .maxu _ => true
  | .and _ => true
  | .or _ => true
  | .xor _ => true
  | .andn _ => true
  | .shl _ => true
  | .shr _ => true
  | .sra _ => true
  | .clz f => f.zero false false true
  | .ctz f => f.zero false false true
  | .popc f => f.zero false false true
  | .sext _ => true
  | .zext _ => true
  | .bext _ => true
  | .bins _ => true
  | .mov f => f.zero false false true
  | .sel _ => true
  | .cmp _ f => fld f.sd 0 2 == 0
  | .addi _ => true
  | .andi _ => true
  | .ori _ => true
  | .xori _ => true
  | .shli f => fld f.imm 6 8 == 0
  | .shri f => fld f.imm 6 8 == 0
  | .srai f => fld f.imm 6 8 == 0
  | .li f _ => f.sa == 0 && f.imm == 0
  | .lih f _ => f.sa == 0 && f.imm == 0
  | .cmpiLo _ => true
  | .cmpiHi _ => true
  | .ld _ _ => true
  | .st _ _ => true
  | .ldSpec _ _ => true
  | .lda _ f => decide ((fld f.sb 3 3).toNat ≤ 4) && fld f.sb 0 3 == 0
  | .stl _ f => decide ((fld f.sb 3 3).toNat ≤ 4) && fld f.sb 0 3 == 0
  | .cas _ _ => true
  | .amo _ op _ => decide (op.toNat ≤ 8)
  | .fence kind scope f => decide (kind.toNat ≤ 4) && decide (scope.toNat ≤ 4) && f.zero true true true
  | .pfen f => f.zero true true true
  | .probe f => fld f.sd 2 4 == 0 && fld f.sd 0 2 != 3
  | .unpin f => f.zero true false false
  | .trap f => f.zero false false true
  | .uhret f => f.zero true true true
  | .decline f => f.zero true true true
  | .clkdiv f => f.zero true false true
  | .chk f => fld f.sd 4 2 != 3 && f.sb == 0
  | .yield f => f.zero true true true
  | .npost f => f.zero true false false
  | .lpost _ => true
  | .tkset f => fld f.sd 5 1 == 0 && f.sb == 0
  | .tkrd f => fld f.sa 5 1 == 0 && f.sb == 0
  | .sysrd f => f.sa == 0
  | .syswr f => f.sd == 0
  | .br _ => true
  | .call _ => true
  | .jmpi _ => true
  | .jmp f => f.zero true false true
  | .ret f => f.zero true false true
  | .halt f => f.zero true true true
  | .barv f => f.sa == 0 && fld f.imm 8 6 == 0
  | .barw f => fld f.imm 8 6 == 0
  | .barred f => decide ((fld f.imm 11 3).toNat ≤ 4) && fld f.imm 8 3 == 0
  | .plog _ f => fld f.sd 4 2 == 0 && fld f.sa 4 2 == 0 && fld f.sb 4 2 == 0
  | .pset f => fld f.sd 4 2 == 0
  | .movpToScalar f => fld f.sa 4 2 == 0 && f.sb == 0
  | .movpToPredicate f => fld f.sd 4 2 == 0 && f.sb == 0
  | .ecprot _ => true
  | .ecunprot f => f.sb == 0
  | .ecseal _ => true
  | .ecclose f => f.sb == 0
  | .ecstat f => f.sa == 0 && f.sb == 0
  | .semwge _ => true
  | .semadd _ => true
  | .semset f => f.sd == 0
  | .qsub _ => true
  | .intr f => f.sd == 0 && f.q == 0 && f.ser == 0
  | .loopImm _ f => f.st == none
  | .loopReg _ f => f.st == none
  | .sig _ _ => true
  | .wait _ _ => true
  | .nop _ _ => true
  | .pfenMark _ _ => true
  | .vrd f => dirOk f.dir
  | .vld _ => true
  | .gath f => fld f.off 0 11 == 0
  | .mldH f => fld f.off 0 4 == 0 && fld f.off 4 2 != 3
  | .mldV f => fld f.off 0 4 == 0 && fld f.off 4 2 != 3
  | .sprd f => dirOk f.dir
  | .xld f => fld f.off 4 10 == 0
  | .xldT f => fld f.off 4 10 == 0
  | .xldn f => fld f.off 4 10 == 0
  | .xldf f => fld f.off 4 10 == 0
  | .odset f => fld f.off 4 10 == 0
  | .cdset f => fld f.off 4 10 == 0
  | .waitcChunk e f => (e == .l || e == .w) && fld f.off 0 8 == 0
  | .waitcPosting e f => (e == .l || e == .w) && f.idx == 0 && bitAt f.off 7
  | .seqset f => f.idx == 0 && fld f.off 0 8 == 0
  | .mst f => dirOk f.dir
  | .spwr f => dirOk f.dir
  | .scat f => f.off == 0
  | .xst f => fld f.off 4 10 == 0
  | .xstn f => fld f.off 4 10 == 0
  | .xstf f => fld f.off 4 10 == 0
  | .stb f => fld f.off 0 4 == 0
  | .bclose f => fld f.off 2 12 == 0
  | .pub f => f.off == 0
  | .vadd f => dirOk f.dir && trFp f.tr && modFullOk f.md
  | .vsub f => dirOk f.dir && trFp f.tr && modFullOk f.md
  | .vmul f => dirOk f.dir && trFp f.tr && modFullOk f.md
  | .vfma f _ => dirOk f.dir && trFp f.tr && modFullOk f.md
  | .vfms f _ => dirOk f.dir && trFp f.tr && modFullOk f.md
  | .vfnma f _ => dirOk f.dir && trFp f.tr && modFullOk f.md
  | .vmin f => dirOk f.dir && trFp f.tr && modFullOk f.md
  | .vmax f => dirOk f.dir && trFp f.tr && modFullOk f.md
  | .vminnum f => dirOk f.dir && trFp f.tr && modFullOk f.md
  | .vmaxnum f => dirOk f.dir && trFp f.tr && modFullOk f.md
  | .vrcp f => dirOk f.dir && trFp f.tr && f.qb == 0 && modFullOk f.md
  | .vrsq f => dirOk f.dir && trFp f.tr && f.qb == 0 && modFullOk f.md
  | .vsqrt f => dirOk f.dir && trFp f.tr && f.qb == 0 && modFullOk f.md
  | .vexp2 f => dirOk f.dir && trFp f.tr && f.qb == 0 && modFullOk f.md
  | .vlog2 f => dirOk f.dir && trFp f.tr && f.qb == 0 && modFullOk f.md
  | .vcmp f => vcmpOk f && modGuardOk f.md
  | .vclass f => dirOk f.dir && fld f.tr 3 2 != 3 && fld f.tr 0 3 == 0 && f.qb == 0 && modGuardOk f.md
  | .viadd f => dirOk f.dir && modFullOk f.md
  | .visub f => dirOk f.dir && modFullOk f.md
  | .vimul f => dirOk f.dir && modFullOk f.md
  | .vimulh f => dirOk f.dir && modFullOk f.md
  | .vimad f _ => dirOk f.dir && modFullOk f.md
  | .viaddw f => dirOk f.dir && trWiden f.tr && modFullOk f.md
  | .vimadw f _ => dirOk f.dir && trWiden f.tr && modFullOk f.md
  | .vand f => dirOk f.dir && modFullOk f.md
  | .vor f => dirOk f.dir && modFullOk f.md
  | .vxor f => dirOk f.dir && modFullOk f.md
  | .vshl f => dirOk f.dir && modFullOk f.md
  | .vshr f => dirOk f.dir && modFullOk f.md
  | .vsra f => dirOk f.dir && modFullOk f.md
  | .vimin f => dirOk f.dir && modFullOk f.md
  | .vimax f => dirOk f.dir && modFullOk f.md
  | .vclz f => dirOk f.dir && f.qb == 0 && modFullOk f.md
  | .vpopc f => dirOk f.dir && f.qb == 0 && modFullOk f.md
  | .vcvt f ext => dirOk f.dir && trRound f.tr && f.qb == 0 && vcvtExtOk f.tr ext && modFullOk f.md
  | .vqmx f ext => dirOk f.dir && trRound f.tr && f.qb == 0 && mxExtOk true ext && f.md == none
  | .vdqmx f ext => dirOk f.dir && trRound f.tr && f.qb == 0 && mxExtOk false ext && f.md == none
  | .vscan f => dirOk f.dir && trScan f.qb f.tr && modFullOk f.md
  | .vscanWide f => dirOk f.dir && f.qb == 0 && trWiden f.tr && modFullOk f.md
  | .vred f => dirOk f.dir && trScan f.qb f.tr && modFullOk f.md
  | .vperm f => dirOk f.dir && f.tr == 0 && f.md == none
  | .vrot f _ => dirOk f.dir && f.tr == 0 && f.qb == 0 && f.md == none
  | .vbcast f _ => dirOk f.dir && trIntNoRound f.tr && f.qa == 0 && f.qb == 0 && f.md == none
  | .vsel f ext => dirOk f.dir && f.tr == 0 && fld ext 5 27 == 0 && f.md == none
  | .vext f ext => fld f.dreg 6 2 == 0 && f.dir == 0 && f.slice == 0 && f.qb == 0 && trIntNoRound f.tr && fld ext 8 24 == 0 && f.md == none
  | .vins f ext => dirOk f.dir && f.qa == 0 && f.qb == 0 && trIntNoRound f.tr && fld ext 14 18 == 0 && f.md == none
  | .vmov f => dirOk f.dir && f.tr == 0 && f.qb == 0 && f.md == none
  | .vlane f => dirOk f.dir && trIntNoRound f.tr && f.qa == 0 && f.qb == 0 && f.md == none
  | .mma f => f.mulOk
  | .mmac f => f.mulOk
  | .mmar f => f.mulOk
  | .mconv f => f.mulOk
  | .mshape f ext => f.tile == 0 && f.lowZero && fld ext 21 11 == 0
  | .accz f => f.fmt == 0 && f.flags == 0
  | .accrd f ext => f.lowZero && fld ext 9 23 == 0
  | .accwr f ext => f.lowZero && fld ext 8 24 == 0
  | .accarm f ext => f.lowZero && fld ext 30 2 == 0 && fld ext 9 7 == 0 && (bitAt ext 29 || fld ext 24 5 == 0)
  | .mexc f => f.lowZero && f.st == none
  | .fetchLine _ => true
  | .memoryDataArrival _ => true
  | .matrixTileWrite _ => true
  | .ingotFault _ => true
  | .remoteOperandFault _ => true
  | .trapTaken _ => true
  | .copyChunkComplete _ _ => true
  | .copyArrivalPosted _ _ => true
  | .neighbourArrival _ _ => true
  | .windowAccess _ _ _ _ => true
  | .peerAccess _ _ _ => true
  | .stbSummaryReply _ _ _ _ _ => true
  | .barrierArrival _ => true
  | .riserBlockArrival _ _ => true
  | .creditReturn _ _ _ => true
  | .collectiveWatchdog _ _ _ _ _ => true
  | .send _ _ => true
  | .recv _ _ => true
  | .rrs _ _ => true
  | .rra _ _ => true
  | .copyStep _ _ => true
  | .halo _ _ => true
  | .waits _ _ => true
  | .sigs _ _ => true
  | .lbeg _ _ => true
  | .lend _ _ => true
  | .endStep _ _ => true
  | .persistImageSealed _ => true
  | .corePowerLoss _ _ => true
  | .chillResume _ => true
  | .modulePowerLoss => true
  | .recordAccept => true
  | .iterationHandout _ => true
  | .iterationRetire _ => true
  | .recordComplete _ => true
  | .loaderFill _ _ => true
  | .planeFlip _ => true
  | .preemption _ => true
  | .checkpointStop _ => true
  | .kill _ => true
  | .iterationRestore _ _ => true
  | .ladleWake _ _ => true
  | .ladleSlotTake _ => true
  | .nopk _ => true
  | .copy _ => true
  | .fill _ => true
  | .qmx _ => true
  | .qcb4 _ => true
  | .ingot _ => true
  | .hist _ => true
  | .ctxCreate => true
  | .ctxEnd => true
  | .tlbHold => true
  | .tlbRelease => true
  | .twinSet => true
  | .escAnswer => true
  | .lqBind => true
  | .cpStart => true
  | .opSet => true
  | .opGet => true
  | .limitGet => true
  | .translationWalk _ _ _ => true
  | .hostBar2Access _ _ => true
  | .hostAtomicop _ _ _ _ _ => true
  | .registerWrite _ _ => true
  | .gcfgEnable _ => true
  | .rebuildStart _ _ => true
  | .rebuildComplete => true
  | .sweepComplete => true
  | .close _ _ => true
  | .delta _ _ _ _ _ => true
  | .ack _ _ _ _ => true
  | .prepared _ _ => true
  | .refuse _ _ => true
  | .commit _ _ => true
  | .abort _ _ => true
  | .dead _ _ => true
  | .query _ _ => true
  | .answer _ _ _ => true
  | .memberUnreachableTimeout _ => true
  | .errorDetected _ => true
  | .patrolScrub _ _ => true
  | .chillScrub _ _ _ _ => true
  | .laneEvent _ _ => true
  | .flitCheckFailure _ => true
  | .linkTrainingStep _ _ _ => true
  | .linkStateTimeout _ => true
  | .keyxRekey _ _ => true
  | .rampComplete _ => true
  | .thermalThrottleTick _ => true
  | .thermalReleaseTick _ => true
  | .thermalTrip _ => true
  | .tripRecovery _ => true
  | .powerLimitTick => true
  | .powerLimitReleaseTick => true
  | .droopFire _ _ => true
  | .droopClear _ => true
  | .snapshotFire => true
  | .moduleReset _ => true
  | .firmwareImage _ => true
  | .getVersion _ => true
  | .getCapabilities _ => true
  | .negotiateAlgorithms _ => true
  | .getDigests _ => true
  | .getCertificate _ => true
  | .challenge _ => true
  | .getMeasurements _ => true
  | .spdmUnsupportedRequest _ => true
  | .illegalInstruction _ _ => true
  | .reservedStep _ _ => true
  | .unknownOpcode => true
  | .doorbellWhileBusy => true
  | .msixVectorUnmask _ => true
  | .storeVisible _ _ => true
  | .contextSwitch _ _ => true
  | .baseTierLoss _ => true
  | .enableCheckCrc _ _ => true
  | .memberDeclaredDead _ => true

end Sys2Proof
end

