-- ==== Sys2Proof/Decode.lean ====
section
/-! DEFINITION. Decoding of instruction words, total on every word and rejecting by `none`, and the encoder, both written from the encoding tables of R59 to R65, R75 to R81, R98, R153 to R163, R168, R262, R321 and R399. Which space a word is read in follows from the lane nibble that delivered it (R54). -/

namespace Sys2Proof

/-- The four engine spaces and the command processor's space (R75, R79 to R81, R319). -/
inductive Space where
  | s | cp | l | w | x
  deriving DecidableEq, Repr

/-- The space of an engine of a compute core. -/
def Engine.space : Engine → Space
  | .s => .s
  | .l => .l
  | .x => .x
  | .w => .w

/-- The order of R40 among the sequencers of one cycle; N's evaluations follow W's (R271). -/
def Engine.rank : Engine → Nat
  | .s => 0
  | .l => 1
  | .x => 2
  | .w => 3

/-- The words of one instruction group (R55). -/
structure Code where
  word : BitVec 32
  ext : Option (BitVec 32)
  st : StepWord
  md : ModWord
  deriving DecidableEq, Repr

def regOf (w : W32) (st : StepWord) : SReg := ⟨fld w 20 6, fld w 14 6, fld w 8 6, st⟩
def immOf (w : W32) (st : StepWord) : SImm := ⟨fld w 20 6, fld w 14 6, fld w 0 14, st⟩
def brOf (w : W32) (st : StepWord) : Br := ⟨fld w 22 4, fld w 21 1, fld w 0 21, st⟩
def lwOf (w : W32) (st : StepWord) : LWord := ⟨fld w 20 6, fld w 14 6, fld w 0 14, st⟩
def sliceQOf (w : W32) (st : StepWord) : SliceQ := ⟨fld w 18 8, fld w 16 2, fld w 11 5, fld w 8 3, st⟩
def mstOf (w : W32) (st : StepWord) : MstWord := ⟨fld w 20 6, fld w 12 8, fld w 10 2, fld w 5 5, fld w 0 5, st⟩
def vecOf (w : W32) (st : StepWord) (md : ModWord) : XVec :=
  ⟨fld w 18 8, fld w 16 2, fld w 11 5, fld w 8 3, fld w 5 3, fld w 0 5, st, md⟩
def matOf (w : W32) (st : StepWord) : XMat := ⟨fld w 16 10, fld w 12 4, fld w 8 4, fld w 4 4, fld w 0 4, st⟩

/-- The ALU functions of S major code 0x00 (R76). -/
def parseAlu (f : SReg) (fn : BitVec 8) : Option Instr :=
  match fn.toNat with
  | 0 => some (.add f)
  | 1 => some (.sub f)
  | 2 => some (.mul f)
  | 3 => some (.mulh f)
  | 4 => some (.mulhu f)
  | 5 => some (.div f)
  | 6 => some (.divu f)
  | 7 => some (.rem f)
  | 8 => some (.remu f)
  | 9 => some (.min f)
  | 10 => some (.max f)
  | 11 => some (.minu f)
  | 12 => some (.maxu f)
  | 16 => some (.and f)
  | 17 => some (.or f)
  | 18 => some (.xor f)
  | 19 => some (.andn f)
  | 20 => some (.shl f)
  | 21 => some (.shr f)
  | 22 => some (.sra f)
  | 24 => some (.clz f)
  | 25 => some (.ctz f)
  | 26 => some (.popc f)
  | 27 => some (.sext f)
  | 28 => some (.zext f)
  | 29 => some (.bext f)
  | 30 => some (.bins f)
  | 32 => some (.mov f)
  | 33 => some (.sel f)
  | 40 => some (.cmp 0#3 f)
  | 41 => some (.cmp 1#3 f)
  | 42 => some (.cmp 2#3 f)
  | 43 => some (.cmp 3#3 f)
  | 44 => some (.cmp 4#3 f)
  | 45 => some (.cmp 5#3 f)
  | 46 => some (.cmp 6#3 f)
  | 47 => some (.cmp 7#3 f)
  | _ => none

/-- The memory group (R77). -/
def parseMem (f : SReg) (fn : BitVec 8) : Option Instr :=
  match fn.toNat with
  | 0 => some (.lda 0#1 f)
  | 1 => some (.lda 1#1 f)
  | 2 => some (.stl 0#1 f)
  | 3 => some (.stl 1#1 f)
  | 4 => some (.cas 0#1 f)
  | 5 => some (.cas 1#1 f)
  | 16 => some (.amo 0#1 0#4 f)
  | 17 => some (.amo 0#1 1#4 f)
  | 18 => some (.amo 0#1 2#4 f)
  | 19 => some (.amo 0#1 3#4 f)
  | 20 => some (.amo 0#1 4#4 f)
  | 21 => some (.amo 0#1 5#4 f)
  | 22 => some (.amo 0#1 6#4 f)
  | 23 => some (.amo 0#1 7#4 f)
  | 24 => some (.amo 0#1 8#4 f)
  | 32 => some (.amo 1#1 0#4 f)
  | 33 => some (.amo 1#1 1#4 f)
  | 34 => some (.amo 1#1 2#4 f)
  | 35 => some (.amo 1#1 3#4 f)
  | 36 => some (.amo 1#1 4#4 f)
  | 37 => some (.amo 1#1 5#4 f)
  | 38 => some (.amo 1#1 6#4 f)
  | 39 => some (.amo 1#1 7#4 f)
  | 40 => some (.amo 1#1 8#4 f)
  | _ => none

/-- The fence group (R77). -/
def parseFence (f : SReg) (fn : BitVec 8) : Option Instr :=
  if fld fn 6 2 = 0 then some (.fence (fld fn 3 3) (fld fn 0 3) f)
  else match fn.toNat with
    | 64 => some (.pfen f)
    | 128 => some (.probe f)
    | 129 => some (.unpin f)
    | _ => none

/-- The system group (R77). -/
def parseSys (f : SReg) (fn : BitVec 8) : Option Instr :=
  match fn.toNat with
  | 0 => some (.trap f)
  | 1 => some (.uhret f)
  | 2 => some (.decline f)
  | 3 => some (.clkdiv f)
  | 4 => some (.chk f)
  | 5 => some (.yield f)
  | 6 => some (.npost f)
  | 7 => some (.lpost f)
  | 8 => some (.tkset f)
  | 9 => some (.tkrd f)
  | _ => none

/-- The control group (R77). -/
def parseControl (f : SReg) (fn : BitVec 8) : Option Instr :=
  match fn.toNat with
  | 0 => some (.jmp f)
  | 1 => some (.ret f)
  | 2 => some (.halt f)
  | _ => none

/-- The predicate group (R77). -/
def parsePred (f : SReg) (fn : BitVec 8) : Option Instr :=
  match fn.toNat with
  | 0 => some (.plog 0#2 f)
  | 1 => some (.plog 1#2 f)
  | 2 => some (.plog 2#2 f)
  | 3 => some (.plog 3#2 f)
  | 8 => some (.pset f)
  | 9 => some (.movpToScalar f)
  | 10 => some (.movpToPredicate f)
  | _ => none

/-- The pour group (R77, R399). -/
def parsePour (f : SReg) (fn : BitVec 8) : Option Instr :=
  match fn.toNat with
  | 0 => some (.ecprot f)
  | 1 => some (.ecunprot f)
  | 2 => some (.ecseal f)
  | 3 => some (.ecclose f)
  | 4 => some (.ecstat f)
  | _ => none

/-- The common control codes of every space (R78, R98). -/
def parseCommon (e : Engine) (w : W32) (st : StepWord) : Option Instr :=
  match (fld w 26 6).toNat with
  | 60 =>
    if bitAt w 20 then
      if fld w 0 14 = 0 then some (.loopReg e ⟨fld w 21 5, fld w 14 6, st⟩) else none
    else if fld w 14 6 = 0 then some (.loopImm e ⟨fld w 21 5, fld w 0 14, st⟩) else none
  | 61 => if fld w 16 5 = 0 then some (.sig e ⟨fld w 21 5, fld w 0 16, st⟩) else none
  | 62 => if fld w 16 5 = 0 then some (.wait e ⟨fld w 21 5, fld w 0 16, st⟩) else none
  | 63 =>
    if fld w 0 24 = 0 then
      match (fld w 24 2).toNat with
      | 0 => some (.nop e st)
      | 1 => some (.pfenMark e st)
      | _ => none
    else none
  | _ => none

/-- The S major codes (R75). -/
def parseS (w : W32) (ext : Option W32) (st : StepWord) : Option Instr :=
  match (fld w 26 6).toNat with
  | 0 => parseAlu (regOf w st) (fld w 0 8)
  | 1 => some (.addi (immOf w st))
  | 2 => some (.andi (immOf w st))
  | 3 => some (.ori (immOf w st))
  | 4 => some (.xori (immOf w st))
  | 5 => some (.shli (immOf w st))
  | 6 => some (.shri (immOf w st))
  | 7 => some (.srai (immOf w st))
  | 8 => ext.map (.li (immOf w st))
  | 9 => ext.map (.lih (immOf w st))
  | 10 => some (.cmpiLo (immOf w st))
  | 11 => some (.cmpiHi (immOf w st))
  | 12 => some (.ld (fld w 26 2) (immOf w st))
  | 13 => some (.ld (fld w 26 2) (immOf w st))
  | 14 => some (.ld (fld w 26 2) (immOf w st))
  | 15 => some (.ld (fld w 26 2) (immOf w st))
  | 16 => some (.st (fld w 26 2) (immOf w st))
  | 17 => some (.st (fld w 26 2) (immOf w st))
  | 18 => some (.st (fld w 26 2) (immOf w st))
  | 19 => some (.st (fld w 26 2) (immOf w st))
  | 20 => some (.ldSpec (fld w 26 2) (immOf w st))
  | 21 => some (.ldSpec (fld w 26 2) (immOf w st))
  | 22 => some (.ldSpec (fld w 26 2) (immOf w st))
  | 23 => some (.ldSpec (fld w 26 2) (immOf w st))
  | 24 => parseMem (regOf w st) (fld w 0 8)
  | 25 => parseFence (regOf w st) (fld w 0 8)
  | 26 => parseSys (regOf w st) (fld w 0 8)
  | 27 => some (.sysrd (immOf w st))
  | 28 => some (.syswr (immOf w st))
  | 32 => some (.br (brOf w st))
  | 33 => some (.call (brOf w st))
  | 34 => some (.jmpi (brOf w st))
  | 35 => parseControl (regOf w st) (fld w 0 8)
  | 36 => some (.barv (immOf w st))
  | 37 => some (.barw (immOf w st))
  | 38 => some (.barred (immOf w st))
  | 39 => parsePred (regOf w st) (fld w 0 8)
  | 40 => parsePour (regOf w st) (fld w 0 8)
  | _ => none

/-- The command processor's added codes (R321). -/
def parseCp (w : W32) (st : StepWord) : Option Instr :=
  match (fld w 26 6).toNat with
  | 41 =>
    let f : SemWord := ⟨fld w 20 6, fld w 14 6, fld w 4 10, st⟩
    match (fld w 0 4).toNat with
    | 0 => some (.semwge f)
    | 1 => some (.semadd f)
    | 2 => some (.semset f)
    | _ => none
  | 42 =>
    let f : QueWord := ⟨fld w 20 6, fld w 14 6, fld w 8 4, fld w 7 1, st⟩
    if fld w 12 2 = 0 then
      match (fld w 0 7).toNat with
      | 0 => some (.qsub f)
      | 1 => some (.intr f)
      | _ => none
    else none
  | _ => none

/-- The L major codes (R79). -/
def parseL (w : W32) (st : StepWord) : Option Instr :=
  match (fld w 26 6).toNat with
  | 0 => if fld w 0 8 = 0 then some (.vrd (sliceQOf w st)) else none
  | 1 => some (.vld (lwOf w st))
  | 2 => some (.gath (lwOf w st))
  | 3 => some (.mldH (lwOf w st))
  | 4 => some (.mldV (lwOf w st))
  | 5 => if fld w 0 8 = 0 then some (.sprd (sliceQOf w st)) else none
  | 8 => some (.xld (lwOf w st))
  | 9 => some (.xldT (lwOf w st))
  | 10 => some (.xldn (lwOf w st))
  | 11 => some (.xldf (lwOf w st))
  | 16 => some (.odset (lwOf w st))
  | 17 => some (.cdset (lwOf w st))
  | 18 => if bitAt w 7 then some (.waitcPosting .l (lwOf w st)) else some (.waitcChunk .l (lwOf w st))
  | 19 => some (.seqset (lwOf w st))
  | _ => none

/-- The W major codes (R80). -/
def parseW (w : W32) (st : StepWord) : Option Instr :=
  match (fld w 26 6).toNat with
  | 18 => if bitAt w 7 then some (.waitcPosting .w (lwOf w st)) else some (.waitcChunk .w (lwOf w st))
  | 0 => some (.mst (mstOf w st))
  | 1 => some (.spwr (mstOf w st))
  | 2 => some (.scat (lwOf w st))
  | 8 => some (.xst (lwOf w st))
  | 9 => some (.xstn (lwOf w st))
  | 10 => some (.xstf (lwOf w st))
  | 11 => some (.stb (lwOf w st))
  | 12 => some (.bclose (lwOf w st))
  | 16 => some (.pub (lwOf w st))
  | _ => none

/-- The X major codes (R81). -/
def parseX (w : W32) (ext : Option W32) (st : StepWord) (md : ModWord) : Option Instr :=
  match (fld w 26 6).toNat with
  | 0 => some (.vadd (vecOf w st md))
  | 1 => some (.vsub (vecOf w st md))
  | 2 => some (.vmul (vecOf w st md))
  | 3 => ext.map (.vfma (vecOf w st md))
  | 4 => ext.map (.vfms (vecOf w st md))
  | 5 => ext.map (.vfnma (vecOf w st md))
  | 6 => some (.vmin (vecOf w st md))
  | 7 => some (.vmax (vecOf w st md))
  | 8 => some (.vminnum (vecOf w st md))
  | 9 => some (.vmaxnum (vecOf w st md))
  | 10 => some (.vrcp (vecOf w st md))
  | 11 => some (.vrsq (vecOf w st md))
  | 12 => some (.vsqrt (vecOf w st md))
  | 13 => some (.vexp2 (vecOf w st md))
  | 14 => some (.vlog2 (vecOf w st md))
  | 15 => some (.vcmp (vecOf w st md))
  | 16 => some (.vclass (vecOf w st md))
  | 17 => some (.viadd (vecOf w st md))
  | 18 => some (.visub (vecOf w st md))
  | 19 => some (.vimul (vecOf w st md))
  | 20 => some (.vimulh (vecOf w st md))
  | 21 => ext.map (.vimad (vecOf w st md))
  | 22 => some (.viaddw (vecOf w st md))
  | 23 => ext.map (.vimadw (vecOf w st md))
  | 24 => some (.vand (vecOf w st md))
  | 25 => some (.vor (vecOf w st md))
  | 26 => some (.vxor (vecOf w st md))
  | 27 => some (.vshl (vecOf w st md))
  | 28 => some (.vshr (vecOf w st md))
  | 29 => some (.vsra (vecOf w st md))
  | 30 => some (.vimin (vecOf w st md))
  | 31 => some (.vimax (vecOf w st md))
  | 32 => some (.vclz (vecOf w st md))
  | 33 => some (.vpopc (vecOf w st md))
  | 34 => ext.map (.vcvt (vecOf w st md))
  | 35 => ext.map (.vqmx (vecOf w st md))
  | 36 => ext.map (.vdqmx (vecOf w st md))
  | 37 => some (.vscan (vecOf w st md))
  | 38 => some (.vscanWide (vecOf w st md))
  | 39 => some (.vred (vecOf w st md))
  | 40 => some (.vperm (vecOf w st md))
  | 41 => ext.map (.vrot (vecOf w st md))
  | 42 => ext.map (.vbcast (vecOf w st md))
  | 43 => ext.map (.vsel (vecOf w st md))
  | 44 => ext.map (.vext (vecOf w st md))
  | 45 => ext.map (.vins (vecOf w st md))
  | 46 => some (.vmov (vecOf w st md))
  | 47 => some (.vlane (vecOf w st md))
  | 48 => if md.isNone then some (.mma (matOf w st)) else none
  | 49 => if md.isNone then some (.mmac (matOf w st)) else none
  | 50 => if md.isNone then some (.mmar (matOf w st)) else none
  | 51 => if md.isNone then some (.mconv (matOf w st)) else none
  | 52 => if md.isNone then ext.map (.mshape (matOf w st)) else none
  | 53 => if md.isNone then some (.accz (matOf w st)) else none
  | 54 => if md.isNone then ext.map (.accrd (matOf w st)) else none
  | 55 => if md.isNone then ext.map (.accwr (matOf w st)) else none
  | 56 => if md.isNone then ext.map (.accarm (matOf w st)) else none
  | 57 => if md.isNone then some (.mexc (matOf w st)) else none
  | _ => none

/-- How many immediate extension words a word of a space requires (the Ext columns of R75 to R81). -/
def extCount (sp : Space) (w : W32) : Nat :=
  match sp with
  | .s | .cp => if (fld w 26 6).toNat = 8 ∨ (fld w 26 6).toNat = 9 then 1 else 0
  | .l | .w => 0
  | .x =>
    if (fld w 26 6).toNat ∈ [0x03, 0x04, 0x05, 0x15, 0x17, 0x22, 0x23, 0x24, 0x29, 0x2A, 0x2B, 0x2C, 0x2D, 0x34, 0x36, 0x37, 0x38]
    then 1 else 0

/-- The S codes that the command processor refuses (R319). -/
def cpRefused : Instr → Bool
  | .barv _ => true
  | .barw _ => true
  | .barred _ => true
  | .ecprot _ => true
  | .ecunprot _ => true
  | .ecseal _ => true
  | .ecclose _ => true
  | .ecstat _ => true
  | .pfen _ => true
  | .probe _ => true
  | .unpin _ => true
  | .npost _ => true
  | .clkdiv _ => true
  | .yield _ => true
  | .pfenMark _ _ => true
  | _ => false

/-- The fields of a word, before its form is checked. -/
def parse (sp : Space) (g : Code) : Option Instr :=
  if 60 ≤ (fld g.word 26 6).toNat then
    if g.md.isSome then none
    else parseCommon (match sp with | .s | .cp => .s | .l => .l | .w => .w | .x => .x) g.word g.st
  else
    match sp with
    | .s => if g.md.isSome then none else parseS g.word g.ext g.st
    | .cp =>
      if g.md.isSome then none
      else match parseCp g.word g.st with
        | some i => some i
        | none => parseS g.word g.ext g.st
    | .l => if g.md.isSome then none else parseL g.word g.st
    | .w => if g.md.isSome then none else parseW g.word g.st
    | .x => parseX g.word g.ext g.st g.md

/-- Decoding of one group (R73): `none` is the illegal instruction. The decoder refuses a group with the wrong number of extension words, a nonzero zero field, a reserved sub-field code and, on the command processor, the refused codes. -/
def decode (sp : Space) (g : Code) : Option Instr :=
  if g.ext.isSome ≠ decide (extCount sp g.word = 1) then none
  else
    match parse sp g with
    | none => none
    | some i => if i.wf && !(sp == .cp && cpRefused i) then some i else none

/-! The encoder. -/

def encReg (op : BitVec 6) (f : SReg) (fn : BitVec 8) : W32 := op ++ f.sd ++ f.sa ++ f.sb ++ fn
def encImm (op : BitVec 6) (f : SImm) : W32 := op ++ f.sd ++ f.sa ++ f.imm
def encLw (op : BitVec 6) (f : LWord) : W32 := op ++ f.base ++ f.idx ++ f.off
def encVec (op : BitVec 6) (f : XVec) : W32 := op ++ f.dreg ++ f.dir ++ f.slice ++ f.qa ++ f.qb ++ f.tr
def encMat (op : BitVec 6) (f : XMat) : W32 := op ++ f.tile ++ f.odA ++ f.odB ++ f.fmt ++ f.flags

/-- The function code of AMO: 0x10 + op for .w, 0x20 + op for .d (R77). -/
def amoFunc (d : BitVec 1) (op : BitVec 4) : BitVec 8 :=
  (if d = 1#1 then 2#4 else 1#4) ++ op

/-- The space and the words of an instruction; `none` for the rows that have no encoding. -/
def encode : Instr → Option (Space × Code)
  | .add f => some (.s, ⟨encReg 0#6 f 0#8, none, f.st, none⟩)
  | .sub f => some (.s, ⟨encReg 0#6 f 1#8, none, f.st, none⟩)
  | .mul f => some (.s, ⟨encReg 0#6 f 2#8, none, f.st, none⟩)
  | .mulh f => some (.s, ⟨encReg 0#6 f 3#8, none, f.st, none⟩)
  | .mulhu f => some (.s, ⟨encReg 0#6 f 4#8, none, f.st, none⟩)
  | .div f => some (.s, ⟨encReg 0#6 f 5#8, none, f.st, none⟩)
  | .divu f => some (.s, ⟨encReg 0#6 f 6#8, none, f.st, none⟩)
  | .rem f => some (.s, ⟨encReg 0#6 f 7#8, none, f.st, none⟩)
  | .remu f => some (.s, ⟨encReg 0#6 f 8#8, none, f.st, none⟩)
  | .min f => some (.s, ⟨encReg 0#6 f 9#8, none, f.st, none⟩)
  | .max f => some (.s, ⟨encReg 0#6 f 10#8, none, f.st, none⟩)
  | .minu f => some (.s, ⟨encReg 0#6 f 11#8, none, f.st, none⟩)
  | .maxu f => some (.s, ⟨encReg 0#6 f 12#8, none, f.st, none⟩)
  | .and f => some (.s, ⟨encReg 0#6 f 16#8, none, f.st, none⟩)
  | .or f => some (.s, ⟨encReg 0#6 f 17#8, none, f.st, none⟩)
  | .xor f => some (.s, ⟨encReg 0#6 f 18#8, none, f.st, none⟩)
  | .andn f => some (.s, ⟨encReg 0#6 f 19#8, none, f.st, none⟩)
  | .shl f => some (.s, ⟨encReg 0#6 f 20#8, none, f.st, none⟩)
  | .shr f => some (.s, ⟨encReg 0#6 f 21#8, none, f.st, none⟩)
  | .sra f => some (.s, ⟨encReg 0#6 f 22#8, none, f.st, none⟩)
  | .clz f => some (.s, ⟨encReg 0#6 f 24#8, none, f.st, none⟩)
  | .ctz f => some (.s, ⟨encReg 0#6 f 25#8, none, f.st, none⟩)
  | .popc f => some (.s, ⟨encReg 0#6 f 26#8, none, f.st, none⟩)
  | .sext f => some (.s, ⟨encReg 0#6 f 27#8, none, f.st, none⟩)
  | .zext f => some (.s, ⟨encReg 0#6 f 28#8, none, f.st, none⟩)
  | .bext f => some (.s, ⟨encReg 0#6 f 29#8, none, f.st, none⟩)
  | .bins f => some (.s, ⟨encReg 0#6 f 30#8, none, f.st, none⟩)
  | .mov f => some (.s, ⟨encReg 0#6 f 32#8, none, f.st, none⟩)
  | .sel f => some (.s, ⟨encReg 0#6 f 33#8, none, f.st, none⟩)
  | .cmp cc f => some (.s, ⟨encReg 0#6 f (5#5 ++ cc), none, f.st, none⟩)
  | .addi f => some (.s, ⟨encImm 1#6 f, none, f.st, none⟩)
  | .andi f => some (.s, ⟨encImm 2#6 f, none, f.st, none⟩)
  | .ori f => some (.s, ⟨encImm 3#6 f, none, f.st, none⟩)
  | .xori f => some (.s, ⟨encImm 4#6 f, none, f.st, none⟩)
  | .shli f => some (.s, ⟨encImm 5#6 f, none, f.st, none⟩)
  | .shri f => some (.s, ⟨encImm 6#6 f, none, f.st, none⟩)
  | .srai f => some (.s, ⟨encImm 7#6 f, none, f.st, none⟩)
  | .li f ext => some (.s, ⟨encImm 8#6 f, (some ext), f.st, none⟩)
  | .lih f ext => some (.s, ⟨encImm 9#6 f, (some ext), f.st, none⟩)
  | .cmpiLo f => some (.s, ⟨encImm 10#6 f, none, f.st, none⟩)
  | .cmpiHi f => some (.s, ⟨encImm 11#6 f, none, f.st, none⟩)
  | .ld w f => some (.s, ⟨encImm (3#4 ++ w) f, none, f.st, none⟩)
  | .st w f => some (.s, ⟨encImm (4#4 ++ w) f, none, f.st, none⟩)
  | .ldSpec w f => some (.s, ⟨encImm (5#4 ++ w) f, none, f.st, none⟩)
  | .lda d f => some (.s, ⟨encReg 24#6 f (0#7 ++ d), none, f.st, none⟩)
  | .stl d f => some (.s, ⟨encReg 24#6 f (1#7 ++ d), none, f.st, none⟩)
  | .cas d f => some (.s, ⟨encReg 24#6 f (2#7 ++ d), none, f.st, none⟩)
  | .amo d op f => some (.s, ⟨encReg 24#6 f (amoFunc d op), none, f.st, none⟩)
  | .fence kind scope f => some (.s, ⟨encReg 25#6 f (0#2 ++ kind ++ scope), none, f.st, none⟩)
  | .pfen f => some (.s, ⟨encReg 25#6 f 64#8, none, f.st, none⟩)
  | .probe f => some (.s, ⟨encReg 25#6 f 128#8, none, f.st, none⟩)
  | .unpin f => some (.s, ⟨encReg 25#6 f 129#8, none, f.st, none⟩)
  | .trap f => some (.s, ⟨encReg 26#6 f 0#8, none, f.st, none⟩)
  | .uhret f => some (.s, ⟨encReg 26#6 f 1#8, none, f.st, none⟩)
  | .decline f => some (.s, ⟨encReg 26#6 f 2#8, none, f.st, none⟩)
  | .clkdiv f => some (.s, ⟨encReg 26#6 f 3#8, none, f.st, none⟩)
  | .chk f => some (.s, ⟨encReg 26#6 f 4#8, none, f.st, none⟩)
  | .yield f => some (.s, ⟨encReg 26#6 f 5#8, none, f.st, none⟩)
  | .npost f => some (.s, ⟨encReg 26#6 f 6#8, none, f.st, none⟩)
  | .lpost f => some (.s, ⟨encReg 26#6 f 7#8, none, f.st, none⟩)
  | .tkset f => some (.s, ⟨encReg 26#6 f 8#8, none, f.st, none⟩)
  | .tkrd f => some (.s, ⟨encReg 26#6 f 9#8, none, f.st, none⟩)
  | .sysrd f => some (.s, ⟨encImm 27#6 f, none, f.st, none⟩)
  | .syswr f => some (.s, ⟨encImm 28#6 f, none, f.st, none⟩)
  | .br f => some (.s, ⟨32#6 ++ f.pred ++ f.inv ++ f.off, none, f.st, none⟩)
  | .call f => some (.s, ⟨33#6 ++ f.pred ++ f.inv ++ f.off, none, f.st, none⟩)
  | .jmpi f => some (.s, ⟨34#6 ++ f.pred ++ f.inv ++ f.off, none, f.st, none⟩)
  | .jmp f => some (.s, ⟨encReg 35#6 f 0#8, none, f.st, none⟩)
  | .ret f => some (.s, ⟨encReg 35#6 f 1#8, none, f.st, none⟩)
  | .halt f => some (.s, ⟨encReg 35#6 f 2#8, none, f.st, none⟩)
  | .barv f => some (.s, ⟨encImm 36#6 f, none, f.st, none⟩)
  | .barw f => some (.s, ⟨encImm 37#6 f, none, f.st, none⟩)
  | .barred f => some (.s, ⟨encImm 38#6 f, none, f.st, none⟩)
  | .plog op f => some (.s, ⟨encReg 39#6 f (0#6 ++ op), none, f.st, none⟩)
  | .pset f => some (.s, ⟨encReg 39#6 f 8#8, none, f.st, none⟩)
  | .movpToScalar f => some (.s, ⟨encReg 39#6 f 9#8, none, f.st, none⟩)
  | .movpToPredicate f => some (.s, ⟨encReg 39#6 f 10#8, none, f.st, none⟩)
  | .ecprot f => some (.s, ⟨encReg 40#6 f 0#8, none, f.st, none⟩)
  | .ecunprot f => some (.s, ⟨encReg 40#6 f 1#8, none, f.st, none⟩)
  | .ecseal f => some (.s, ⟨encReg 40#6 f 2#8, none, f.st, none⟩)
  | .ecclose f => some (.s, ⟨encReg 40#6 f 3#8, none, f.st, none⟩)
  | .ecstat f => some (.s, ⟨encReg 40#6 f 4#8, none, f.st, none⟩)
  | .semwge f => some (.cp, ⟨41#6 ++ f.sd ++ f.sa ++ f.sem ++ 0#4, none, f.st, none⟩)
  | .semadd f => some (.cp, ⟨41#6 ++ f.sd ++ f.sa ++ f.sem ++ 1#4, none, f.st, none⟩)
  | .semset f => some (.cp, ⟨41#6 ++ f.sd ++ f.sa ++ f.sem ++ 2#4, none, f.st, none⟩)
  | .qsub f => some (.cp, ⟨42#6 ++ f.sd ++ f.sa ++ 0#2 ++ f.q ++ f.ser ++ 0#7, none, f.st, none⟩)
  | .intr f => some (.cp, ⟨42#6 ++ f.sd ++ f.sa ++ 0#2 ++ f.q ++ f.ser ++ 1#7, none, f.st, none⟩)
  | .loopImm e f => some (e.space, ⟨60#6 ++ f.len ++ 0#1 ++ 0#6 ++ f.cimm, none, f.st, none⟩)
  | .loopReg e f => some (e.space, ⟨60#6 ++ f.len ++ 1#1 ++ f.creg ++ 0#14, none, f.st, none⟩)
  | .sig e f => some (e.space, ⟨61#6 ++ f.tok ++ 0#5 ++ f.n, none, f.st, none⟩)
  | .wait e f => some (e.space, ⟨62#6 ++ f.tok ++ 0#5 ++ f.n, none, f.st, none⟩)
  | .nop e st => some (e.space, ⟨63#6 ++ 0#2 ++ 0#24, none, st, none⟩)
  | .pfenMark e st => some (e.space, ⟨63#6 ++ 1#2 ++ 0#24, none, st, none⟩)
  | .vrd f => some (.l, ⟨0#6 ++ f.reg ++ f.dir ++ f.slice ++ f.q ++ 0#8, none, f.st, none⟩)
  | .vld f => some (.l, ⟨encLw 1#6 f, none, f.st, none⟩)
  | .gath f => some (.l, ⟨encLw 2#6 f, none, f.st, none⟩)
  | .mldH f => some (.l, ⟨encLw 3#6 f, none, f.st, none⟩)
  | .mldV f => some (.l, ⟨encLw 4#6 f, none, f.st, none⟩)
  | .sprd f => some (.l, ⟨5#6 ++ f.reg ++ f.dir ++ f.slice ++ f.q ++ 0#8, none, f.st, none⟩)
  | .xld f => some (.l, ⟨encLw 8#6 f, none, f.st, none⟩)
  | .xldT f => some (.l, ⟨encLw 9#6 f, none, f.st, none⟩)
  | .xldn f => some (.l, ⟨encLw 10#6 f, none, f.st, none⟩)
  | .xldf f => some (.l, ⟨encLw 11#6 f, none, f.st, none⟩)
  | .odset f => some (.l, ⟨encLw 16#6 f, none, f.st, none⟩)
  | .cdset f => some (.l, ⟨encLw 17#6 f, none, f.st, none⟩)
  | .waitcChunk e f => some (e.space, ⟨encLw 18#6 f, none, f.st, none⟩)
  | .waitcPosting e f => some (e.space, ⟨encLw 18#6 f, none, f.st, none⟩)
  | .seqset f => some (.l, ⟨encLw 19#6 f, none, f.st, none⟩)
  | .mst f => some (.w, ⟨0#6 ++ f.base ++ f.reg ++ f.dir ++ f.slice ++ f.off, none, f.st, none⟩)
  | .spwr f => some (.w, ⟨1#6 ++ f.base ++ f.reg ++ f.dir ++ f.slice ++ f.off, none, f.st, none⟩)
  | .scat f => some (.w, ⟨encLw 2#6 f, none, f.st, none⟩)
  | .xst f => some (.w, ⟨encLw 8#6 f, none, f.st, none⟩)
  | .xstn f => some (.w, ⟨encLw 9#6 f, none, f.st, none⟩)
  | .xstf f => some (.w, ⟨encLw 10#6 f, none, f.st, none⟩)
  | .stb f => some (.w, ⟨encLw 11#6 f, none, f.st, none⟩)
  | .bclose f => some (.w, ⟨encLw 12#6 f, none, f.st, none⟩)
  | .pub f => some (.w, ⟨encLw 16#6 f, none, f.st, none⟩)
  | .vadd f => some (.x, ⟨encVec 0#6 f, none, f.st, f.md⟩)
  | .vsub f => some (.x, ⟨encVec 1#6 f, none, f.st, f.md⟩)
  | .vmul f => some (.x, ⟨encVec 2#6 f, none, f.st, f.md⟩)
  | .vfma f ext => some (.x, ⟨encVec 3#6 f, (some ext), f.st, f.md⟩)
  | .vfms f ext => some (.x, ⟨encVec 4#6 f, (some ext), f.st, f.md⟩)
  | .vfnma f ext => some (.x, ⟨encVec 5#6 f, (some ext), f.st, f.md⟩)
  | .vmin f => some (.x, ⟨encVec 6#6 f, none, f.st, f.md⟩)
  | .vmax f => some (.x, ⟨encVec 7#6 f, none, f.st, f.md⟩)
  | .vminnum f => some (.x, ⟨encVec 8#6 f, none, f.st, f.md⟩)
  | .vmaxnum f => some (.x, ⟨encVec 9#6 f, none, f.st, f.md⟩)
  | .vrcp f => some (.x, ⟨encVec 10#6 f, none, f.st, f.md⟩)
  | .vrsq f => some (.x, ⟨encVec 11#6 f, none, f.st, f.md⟩)
  | .vsqrt f => some (.x, ⟨encVec 12#6 f, none, f.st, f.md⟩)
  | .vexp2 f => some (.x, ⟨encVec 13#6 f, none, f.st, f.md⟩)
  | .vlog2 f => some (.x, ⟨encVec 14#6 f, none, f.st, f.md⟩)
  | .vcmp f => some (.x, ⟨encVec 15#6 f, none, f.st, f.md⟩)
  | .vclass f => some (.x, ⟨encVec 16#6 f, none, f.st, f.md⟩)
  | .viadd f => some (.x, ⟨encVec 17#6 f, none, f.st, f.md⟩)
  | .visub f => some (.x, ⟨encVec 18#6 f, none, f.st, f.md⟩)
  | .vimul f => some (.x, ⟨encVec 19#6 f, none, f.st, f.md⟩)
  | .vimulh f => some (.x, ⟨encVec 20#6 f, none, f.st, f.md⟩)
  | .vimad f ext => some (.x, ⟨encVec 21#6 f, (some ext), f.st, f.md⟩)
  | .viaddw f => some (.x, ⟨encVec 22#6 f, none, f.st, f.md⟩)
  | .vimadw f ext => some (.x, ⟨encVec 23#6 f, (some ext), f.st, f.md⟩)
  | .vand f => some (.x, ⟨encVec 24#6 f, none, f.st, f.md⟩)
  | .vor f => some (.x, ⟨encVec 25#6 f, none, f.st, f.md⟩)
  | .vxor f => some (.x, ⟨encVec 26#6 f, none, f.st, f.md⟩)
  | .vshl f => some (.x, ⟨encVec 27#6 f, none, f.st, f.md⟩)
  | .vshr f => some (.x, ⟨encVec 28#6 f, none, f.st, f.md⟩)
  | .vsra f => some (.x, ⟨encVec 29#6 f, none, f.st, f.md⟩)
  | .vimin f => some (.x, ⟨encVec 30#6 f, none, f.st, f.md⟩)
  | .vimax f => some (.x, ⟨encVec 31#6 f, none, f.st, f.md⟩)
  | .vclz f => some (.x, ⟨encVec 32#6 f, none, f.st, f.md⟩)
  | .vpopc f => some (.x, ⟨encVec 33#6 f, none, f.st, f.md⟩)
  | .vcvt f ext => some (.x, ⟨encVec 34#6 f, (some ext), f.st, f.md⟩)
  | .vqmx f ext => some (.x, ⟨encVec 35#6 f, (some ext), f.st, f.md⟩)
  | .vdqmx f ext => some (.x, ⟨encVec 36#6 f, (some ext), f.st, f.md⟩)
  | .vscan f => some (.x, ⟨encVec 37#6 f, none, f.st, f.md⟩)
  | .vscanWide f => some (.x, ⟨encVec 38#6 f, none, f.st, f.md⟩)
  | .vred f => some (.x, ⟨encVec 39#6 f, none, f.st, f.md⟩)
  | .vperm f => some (.x, ⟨encVec 40#6 f, none, f.st, f.md⟩)
  | .vrot f ext => some (.x, ⟨encVec 41#6 f, (some ext), f.st, f.md⟩)
  | .vbcast f ext => some (.x, ⟨encVec 42#6 f, (some ext), f.st, f.md⟩)
  | .vsel f ext => some (.x, ⟨encVec 43#6 f, (some ext), f.st, f.md⟩)
  | .vext f ext => some (.x, ⟨encVec 44#6 f, (some ext), f.st, f.md⟩)
  | .vins f ext => some (.x, ⟨encVec 45#6 f, (some ext), f.st, f.md⟩)
  | .vmov f => some (.x, ⟨encVec 46#6 f, none, f.st, f.md⟩)
  | .vlane f => some (.x, ⟨encVec 47#6 f, none, f.st, f.md⟩)
  | .mma f => some (.x, ⟨encMat 48#6 f, none, f.st, none⟩)
  | .mmac f => some (.x, ⟨encMat 49#6 f, none, f.st, none⟩)
  | .mmar f => some (.x, ⟨encMat 50#6 f, none, f.st, none⟩)
  | .mconv f => some (.x, ⟨encMat 51#6 f, none, f.st, none⟩)
  | .mshape f ext => some (.x, ⟨encMat 52#6 f, (some ext), f.st, none⟩)
  | .accz f => some (.x, ⟨encMat 53#6 f, none, f.st, none⟩)
  | .accrd f ext => some (.x, ⟨encMat 54#6 f, (some ext), f.st, none⟩)
  | .accwr f ext => some (.x, ⟨encMat 55#6 f, (some ext), f.st, none⟩)
  | .accarm f ext => some (.x, ⟨encMat 56#6 f, (some ext), f.st, none⟩)
  | .mexc f => some (.x, ⟨encMat 57#6 f, none, f.st, none⟩)
  | .fetchLine _ => none
  | .memoryDataArrival _ => none
  | .matrixTileWrite _ => none
  | .ingotFault _ => none
  | .remoteOperandFault _ => none
  | .trapTaken _ => none
  | .copyChunkComplete _ _ => none
  | .copyArrivalPosted _ _ => none
  | .neighbourArrival _ _ => none
  | .windowAccess _ _ _ _ => none
  | .peerAccess _ _ _ => none
  | .stbSummaryReply _ _ _ _ _ => none
  | .barrierArrival _ => none
  | .riserBlockArrival _ _ => none
  | .creditReturn _ _ _ => none
  | .collectiveWatchdog _ _ _ _ _ => none
  | .send _ _ => none
  | .recv _ _ => none
  | .rrs _ _ => none
  | .rra _ _ => none
  | .copyStep _ _ => none
  | .halo _ _ => none
  | .waits _ _ => none
  | .sigs _ _ => none
  | .lbeg _ _ => none
  | .lend _ _ => none
  | .endStep _ _ => none
  | .persistImageSealed _ => none
  | .corePowerLoss _ _ => none
  | .chillResume _ => none
  | .modulePowerLoss => none
  | .recordAccept => none
  | .iterationHandout _ => none
  | .iterationRetire _ => none
  | .recordComplete _ => none
  | .loaderFill _ _ => none
  | .planeFlip _ => none
  | .preemption _ => none
  | .checkpointStop _ => none
  | .kill _ => none
  | .iterationRestore _ _ => none
  | .ladleWake _ _ => none
  | .ladleSlotTake _ => none
  | .nopk _ => none
  | .copy _ => none
  | .fill _ => none
  | .qmx _ => none
  | .qcb4 _ => none
  | .ingot _ => none
  | .hist _ => none
  | .ctxCreate => none
  | .ctxEnd => none
  | .tlbHold => none
  | .tlbRelease => none
  | .twinSet => none
  | .escAnswer => none
  | .lqBind => none
  | .cpStart => none
  | .opSet => none
  | .opGet => none
  | .limitGet => none
  | .translationWalk _ _ _ => none
  | .hostBar2Access _ _ => none
  | .hostAtomicop _ _ _ _ _ => none
  | .registerWrite _ _ => none
  | .gcfgEnable _ => none
  | .rebuildStart _ _ => none
  | .rebuildComplete => none
  | .sweepComplete => none
  | .close _ _ => none
  | .delta _ _ _ _ _ => none
  | .ack _ _ _ _ => none
  | .prepared _ _ => none
  | .refuse _ _ => none
  | .commit _ _ => none
  | .abort _ _ => none
  | .dead _ _ => none
  | .query _ _ => none
  | .answer _ _ _ => none
  | .memberUnreachableTimeout _ => none
  | .errorDetected _ => none
  | .patrolScrub _ _ => none
  | .chillScrub _ _ _ _ => none
  | .laneEvent _ _ => none
  | .flitCheckFailure _ => none
  | .linkTrainingStep _ _ _ => none
  | .linkStateTimeout _ => none
  | .keyxRekey _ _ => none
  | .rampComplete _ => none
  | .thermalThrottleTick _ => none
  | .thermalReleaseTick _ => none
  | .thermalTrip _ => none
  | .tripRecovery _ => none
  | .powerLimitTick => none
  | .powerLimitReleaseTick => none
  | .droopFire _ _ => none
  | .droopClear _ => none
  | .snapshotFire => none
  | .moduleReset _ => none
  | .firmwareImage _ => none
  | .getVersion _ => none
  | .getCapabilities _ => none
  | .negotiateAlgorithms _ => none
  | .getDigests _ => none
  | .getCertificate _ => none
  | .challenge _ => none
  | .getMeasurements _ => none
  | .spdmUnsupportedRequest _ => none
  | .illegalInstruction _ _ => none
  | .reservedStep _ _ => none
  | .unknownOpcode => none
  | .doorbellWhileBusy => none
  | .msixVectorUnmask _ => none
  | .storeVisible _ _ => none
  | .contextSwitch _ _ => none
  | .baseTierLoss _ => none
  | .enableCheckCrc _ _ => none
  | .memberDeclaredDead _ => none

/-! Step words of the communication sequencer (R262, R263, R266, R271). -/

/-- The zero fields of each step operation (R262, R263, R266, R271), and the MODE codes of R264 and R265. -/
def stepOk (w : W64) : Bool :=
  let mode := (fld w 4 3).toNat
  match (fld w 60 4).toNat with
  | 0 => fld w 16 37 == 0
  | 1 => decide (mode ≤ 1)
  | 2 => decide (mode = 0)
  | 3 => decide (mode ≤ 4)
  | 4 => fld w 4 31 == 0
  | 5 => fld w 35 25 == 0 && fld w 0 4 == 0 && fld w 5 2 == 0
  | 6 => decide (mode = 0)
  | 7 => fld w 16 39 == 0
  | 8 => fld w 16 39 == 0
  | 9 => fld w 32 19 == 0 && (bitAt w 51 || fld w 52 8 == 0)
  | 10 => fld w 0 60 == 0
  | _ => false

/-- The step that a core's N reads from a 64-bit word (R262); a reserved code or a nonzero zero field is the reserved step. -/
def decodeStep (core : Nat) (w : W64) : Instr :=
  if stepOk w then
    match (fld w 60 4).toNat with
    | 0 => .endStep core w
    | 1 => .send core w
    | 2 => .recv core w
    | 3 => .rrs core w
    | 4 => .rra core w
    | 5 => .copyStep core w
    | 6 => .halo core w
    | 7 => .waits core w
    | 8 => .sigs core w
    | 9 => .lbeg core w
    | 10 => .lend core w
    | _ => .reservedStep core w
  else .reservedStep core w

/-! Decoding of a word as the opcode table numbers it. -/

/-- The group of a word with the words above it zero: the extension word is present where the space requires one. -/
def tableCode (sp : Space) (w : Nat) : Code :=
  let word := BitVec.ofNat 32 w
  { word := word
    ext := if extCount sp word = 1 then some (BitVec.ofNat 32 (w >>> 32)) else none
    st := none
    md := none }

/-- The spaces in the order in which `decodeTableWord` tries them. DESIGN CHOICE (assumption 3): the table gives a word without the lane nibble that says which engine it is for, and the spaces overlap. -/
def tableSpaces : List Space := [.s, .cp, .l, .w, .x]

/-- The first space that accepts a word, with what it decodes to. -/
def decodeTableIn : List Space → Nat → Option (Space × Instr)
  | [], _ => none
  | sp :: rest, w =>
    match decode sp (tableCode sp w) with
    | some i => some (sp, i)
    | none => decodeTableIn rest w

/-- The instruction that the decoder reads from a word numbered as the opcode table numbers it. -/
def decodeTableWord (_nbits w : Nat) : Option Instr :=
  (decodeTableIn tableSpaces w).map (·.2)

end Sys2Proof
end

