-- ==== Sys2Proof/Machine/Tab.lean ====
section
/-! DEFINITION. Canonical finite tables over an index: a table lists, with strictly rising keys, exactly the entries that differ from the default, so that equal contents are equal data. A register file, a set of cores and a set of contexts are held so. -/

namespace Sys2Proof.Machine

/-- A table from Nat to α, all but finitely many entries at a default that its accessors name. -/
abbrev Tab (α : Type) := List (Nat × α)

/-- The entry at `k`. -/
def tget {α : Type} (d : α) (t : Tab α) (k : Nat) : α :=
  match t with
  | [] => d
  | (a, v) :: rest => if a = k then v else tget d rest k

/-- Insert or replace the entry at `k`, in key order. -/
def tput {α : Type} (t : Tab α) (k : Nat) (v : α) : Tab α :=
  match t with
  | [] => [(k, v)]
  | (a, x) :: rest =>
    if a < k then (a, x) :: tput rest k v
    else if a = k then (k, v) :: rest
    else (k, v) :: (a, x) :: rest

/-- Remove the entry at `k`. -/
def tdel {α : Type} (t : Tab α) (k : Nat) : Tab α :=
  match t with
  | [] => []
  | (a, x) :: rest => if a = k then tdel rest k else (a, x) :: tdel rest k

/-- Set the entry at `k`; setting the default removes it, so that the table stays canonical. -/
def tset {α : Type} [DecidableEq α] (d : α) (t : Tab α) (k : Nat) (v : α) : Tab α :=
  if v = d then tdel t k else tput t k v

/-- Set `n` entries from `k` on. -/
def tsetMany {α : Type} [DecidableEq α] (d : α) (t : Tab α) (k : Nat) : List α → Tab α
  | [] => t
  | v :: rest => tsetMany d (tset d t k v) (k + 1) rest

/-- A table is canonical: keys strictly rising, no entry at the default. -/
def twf {α : Type} [DecidableEq α] (d : α) (t : Tab α) : Bool :=
  match t with
  | [] => true
  | [(_, v)] => decide (v ≠ d)
  | (a, v) :: (b, w) :: rest => decide (a < b) && decide (v ≠ d) && twf d ((b, w) :: rest)

/-- Replace the element at a position of a list; a position beyond the end changes nothing. -/
def lset {α : Type} : List α → Nat → α → List α
  | [], _, _ => []
  | _ :: rest, 0, v => v :: rest
  | x :: rest, n + 1, v => x :: lset rest n v

/-- Apply a function at one position of a list. -/
def lmod {α : Type} : List α → Nat → (α → α) → List α
  | [], _, _ => []
  | x :: rest, 0, f => f x :: rest
  | x :: rest, n + 1, f => x :: lmod rest n f

/-- Insert before the first element for which `before` says so, keeping a list sorted. -/
def insertBy {α : Type} (before : α → α → Bool) (x : α) : List α → List α
  | [] => [x]
  | y :: rest => if before x y then x :: y :: rest else y :: insertBy before x rest

/-- A number is a member of a sorted list of numbers without repeats. -/
def smem (n : Nat) : List Nat → Bool
  | [] => false
  | a :: rest => if a = n then true else smem n rest

/-- Add a number to a sorted list without repeats. -/
def sadd (n : Nat) : List Nat → List Nat
  | [] => [n]
  | a :: rest => if n < a then n :: a :: rest else if a = n then a :: rest else a :: sadd n rest

/-- Remove a number from a sorted list without repeats. -/
def sdel (n : Nat) : List Nat → List Nat
  | [] => []
  | a :: rest => if a = n then rest else a :: sdel n rest

end Sys2Proof.Machine
end

