-- ==== Sys2Proof/Machine/Mem.lean ====
section
/-! DEFINITION. The physical byte memory in one canonical form (addresses strictly rising, no entry equal to what an unlisted address reads as) and the list of poisoned granules (R52, R412). Multi-byte values are little-endian (R6). -/

namespace Sys2Proof.Machine

/-- What an unlisted address reads as. The spec gives 0 for scratchpad, matrix registers, tiles (R38), semaphores (R325) and code tables (R196); for HBM and host memory it gives nothing, and 0 is a DESIGN CHOICE (assumption 4). -/
def memDefault : Byte := 0#8

/-- Memory is a canonical list of cells. -/
abbrev Memory := List Host.Cell

/-- One byte. -/
def Memory.rd (m : Memory) (a : Nat) : Byte := tget memDefault m a

/-- Write one byte. -/
def Memory.wr (m : Memory) (a : Nat) (b : Byte) : Memory := tset memDefault m a b

/-- The canonical form. -/
def Memory.wf (m : Memory) : Bool := twf memDefault m

/-- `n` bytes from `a`, ascending. -/
def Memory.rdN (m : Memory) (a : Nat) : Nat → List Byte
  | 0 => []
  | n + 1 => m.rd a :: Memory.rdN m (a + 1) n

/-- Write bytes ascending from `a`. -/
def Memory.wrN (m : Memory) (a : Nat) : List Byte → Memory
  | [] => m
  | b :: rest => Memory.wrN (m.wr a b) (a + 1) rest

/-- The cells of `n` bytes from `a`, relative to `a`. -/
def Memory.cut (m : Memory) (a n : Nat) : Memory :=
  (m.filter (fun c => decide (a ≤ c.1) && decide (c.1 < a + n))).map (fun c => (c.1 - a, c.2))

/-- Everything but the `n` bytes from `a`. -/
def Memory.without (m : Memory) (a n : Nat) : Memory :=
  m.filter (fun c => !(decide (a ≤ c.1) && decide (c.1 < a + n)))

/-- Put cells, relative to `a`, into the `n` bytes from `a`. -/
def Memory.putCells (m : Memory) (a n : Nat) : Memory → Memory
  | [] => m
  | c :: rest => Memory.putCells (if c.1 < n then m.wr (a + c.1) c.2 else m) a n rest

/-- Replace the `n` bytes from `a` by cells relative to `a`. -/
def Memory.paste (m : Memory) (a n : Nat) (cells : Memory) : Memory := (m.without a n).putCells a n cells

/-- Make `n` bytes at `dst` equal to what the `n` bytes at `src` hold. -/
def Memory.copyRange (m : Memory) (src dst n : Nat) : Memory := m.paste dst n (m.cut src n)

/-- The value of bytes read little-endian. -/
def leNat : List Byte → Nat
  | [] => 0
  | b :: rest => b.toNat + 256 * leNat rest

/-- The `n` little-endian bytes of a number. -/
def natLe : Nat → Nat → List Byte
  | 0, _ => []
  | n + 1, v => BitVec.ofNat 8 v :: natLe n (v / 256)

/-- Split a list into pieces of `n` elements, with fuel for the number of pieces. -/
def chunksOf {α : Type} (n : Nat) : Nat → List α → List (List α)
  | 0, _ => []
  | _, [] => []
  | k + 1, x :: xs => (x :: xs).take n :: chunksOf n k ((x :: xs).drop n)

/-- The 32-bit words of a byte string. -/
def wordsOf (bs : List Byte) : List W32 :=
  (chunksOf 4 bs.length bs).map (fun p => BitVec.ofNat 32 (leNat p))

/-- The bytes of 32-bit words. -/
def bytesOf (ws : List W32) : List Byte := ws.flatMap (fun w => natLe 4 w.toNat)

/-! Poison granules. The list `pz` of a state holds the base addresses of the poisoned granules, rising. -/

/-- The size in bytes of the poison granule that holds a physical address (R52, R198, R412): 4 for matrix registers and tiles, 64 for a code table, 8 elsewhere. -/
def granule (a : Nat) : Nat :=
  if 0x000F000000000000 ≤ a then
    if a % 0x1000000 < 0x400000 then 8 else 4
  else if 0x000E000100000000 ≤ a then 64
  else 8

/-- The base of the granule of an address. -/
def granuleBase (a : Nat) : Nat := a - a % granule a

/-- Whether the byte at `a` lies in a poisoned granule. -/
def poisonedAt (pz : List Nat) (a : Nat) : Bool := smem (granuleBase a) pz

/-- Whether any of `n` bytes from `a` lies in a poisoned granule. -/
def poisonedIn (pz : List Nat) (a : Nat) : Nat → Bool
  | 0 => false
  | n + 1 => poisonedAt pz a || poisonedIn pz (a + 1) n

/-- Poison every granule that `n` bytes from `a` touch (R52). -/
def poisonRange (pz : List Nat) (a : Nat) : Nat → List Nat
  | 0 => pz
  | n + 1 => poisonRange (sadd (granuleBase a) pz) (a + 1) n

/-- Unpoisoned data clears the granules that it covers wholly (R52). -/
def cleanRange (pz : List Nat) (a n : Nat) : Nat → List Nat
  | 0 => pz
  | k + 1 =>
    let b := granuleBase (a + k)
    if a ≤ b ∧ b + granule b ≤ a + n then cleanRange (sdel b pz) a n k
    else cleanRange pz a n k

/-- The poison list after a write of `n` bytes at `a`. -/
def pzWrite (pz : List Nat) (a n : Nat) (poison : Bool) : List Nat :=
  if poison then poisonRange pz a n else cleanRange pz a n n

/-! Dirty granules (R379, R384): 512 bytes of scratchpad and matrix registers, 4 KiB tiles. -/

/-- Whether an address lies in a core window (R357). -/
def inWindow (a : Nat) : Bool := decide (0x000F000000000000 ≤ a) && decide (a < 0x0010000000000000)

/-- The base of the granule or frame that an address of a core window lies in. -/
def dirtyKey (a : Nat) : Nat := if 0x800000 ≤ a % 0x1000000 then a - a % 4096 else a - a % 512

/-- Mark what `n` bytes from `a` touch. -/
def markDirty (l : List Nat) (a n : Nat) : List Nat :=
  sadd (dirtyKey (a + n - 1)) ((List.range (n / 512 + 1)).foldl (fun l i => if 512 * i < n then sadd (dirtyKey (a + 512 * i)) l else l) l)

/-- The poisoned granules of `n` bytes from `a`, relative to `a`, and their replacement. -/
def pzCut (pz : List Nat) (a n : Nat) : List Nat :=
  (pz.filter (fun x => decide (a ≤ x) && decide (x < a + n))).map (· - a)
def pzPaste (pz : List Nat) (a n : Nat) (new : List Nat) : List Nat :=
  new.foldl (fun l x => if x < n then sadd (x + a) l else l)
    (pz.filter (fun x => !(decide (a ≤ x) && decide (x < a + n))))

end Sys2Proof.Machine
end

