-- ==== Sys2Proof/Machine/State.lean ====
section
/-! DEFINITION. The state of a whole CV8 module as plain data: every store, register and queue that the spec gives it, and its value after reset. -/

namespace Sys2Proof.Machine

/-! Poison records and scalar-like registers. -/

/-- A deferred record (R276): a poisoned scalar or predicate holds one. -/
structure PRec where
  cause : BitVec 4
  addr : BitVec 52
  deriving DecidableEq, Repr

/-- A scalar register or a predicate with its poison (R52, R276): `none` is unpoisoned. -/
structure Tagged (n : Nat) where
  v : BitVec n
  pz : Option PRec
  deriving DecidableEq, Repr

/-- One entry of an operand queue (R42): 32 lane words, their poison, the cycle from which it is visible and the cycle of its issue. -/
structure QEntry where
  lanes : List W32
  pz : List Bool
  vis : Nat
  cyc : Nat
  deriving DecidableEq, Repr

/-- A token (R47). -/
structure Tok where
  count : BitVec 16
  ceiling : BitVec 16
  deriving DecidableEq, Repr

/-- A place of a posting record (R184): reserved by a copy or step, or posted with a byte count and a status. -/
inductive Place where
  | reserved (id : Nat)
  | posted (bytes : BitVec 40) (status : BitVec 8)
  deriving DecidableEq, Repr

/-- A sequence-tag entry (R49). -/
structure TagEntry where
  expected : BitVec 16
  arrived : BitVec 16
  first : Nat
  count : Nat
  pending : Bool
  deriving DecidableEq, Repr

/-- One touched peer of a batch (R187). `left` counts the STBs and XSTFs that no summary reply covers yet. -/
structure BatchPeer where
  rank : BitVec 16
  count : BitVec 32
  bytes : BitVec 64
  deliv : BitVec 64
  err : BitVec 8
  left : Nat
  deriving DecidableEq, Repr

/-- A membership slot (R104, R221, R222, R268): group, its generation, group rank, arrival phase and collective sequence counter. -/
structure Member where
  group : BitVec 8
  gen : Nat
  grank : Nat
  size : Nat
  ph : W64
  seq : W32
  deriving DecidableEq, Repr

/-! Sequencers. -/

/-- A fetched group with the place it came from (R55). -/
structure Group where
  line : Nat
  lane : Nat
  code : Code
  deriving DecidableEq, Repr

/-- One level of a loop buffer (R99, R100): the body starts at `start` of the captured groups and has `len` groups; `idx` is the next of them. -/
structure LoopLevel where
  start : Nat
  len : Nat
  idx : Nat
  pass : Nat
  count : Nat
  deriving DecidableEq, Repr

/-- An instruction sequencer (R57, R205 to R213). `queue` holds delivered groups that have not issued, `lbuf` the captured ones, `levels` the open loops, innermost first. `free` is the first cycle at which the issue occupancy has elapsed. `parked` marks a sequencer that has issued its PFEN and waits for the others (R112). `from` is the line and lane from which the sequencer takes delivered groups after a resumption (R290). -/
structure Seq where
  queue : List Group
  lbuf : List Group
  levels : List LoopLevel
  free : Nat
  parked : Bool
  ended : Bool
  line : Nat
  lane : Nat
  fromLine : Nat
  fromLane : Nat
  deriving DecidableEq, Repr

/-- The fetch unit (R57, R58, R208, R209): the next line to read and the earliest cycle at which it may be read. `waiting` holds while an S control transfer is unresolved, `stopped` after HALT; the lines before `seen` have come, while a later one may still be late. -/
structure FetchUnit where
  next : Nat
  ready : Nat
  waiting : Bool
  stopped : Bool
  illegal : Option (Nat × Nat)
  pastEnd : Bool
  seen : Nat
  deriving DecidableEq, Repr

/-! Results in flight. -/

/-- An arming for fabric addends (R162, R266, R267): `nt` tiles from `tile` on; `applied` addends of source number `src` have been applied. `closed` says that every addend has: the tiles stay armed to the end of the cycle, and the arming stays until its token has been signalled. `checks` gives, for the sources that the watchdog has checked, the reference cycle of the last check (R270). -/
structure Arming where
  tile : Nat
  nt : Nat
  group : BitVec 8
  seq : W32
  ctag : Option (BitVec 4)
  int : Bool
  per : Nat
  src : Nat
  applied : Nat
  tok : Option (BitVec 5)
  line : Nat
  lane : Nat
  waited : Nat
  closed : Bool
  checks : List (Nat × Nat)
  deriving DecidableEq, Repr

/-- What one result writes when it becomes visible (R10, R40). -/
inductive Write where
  | scalar (n : Nat) (v : W64) (pz : Option PRec)
  | byteOf (n : Nat) (part : Nat) (v : Byte) (old : W64) (pz : Option PRec)
  | predicate (n : Nat) (v mask : W32) (pz : Option PRec)
  | bytes (addr : Nat) (data : List Byte) (poison : Bool)
  | words (addr : Nat) (ws : List (W32 × Bool))
  | store (order : Nat)
  | flags (f : W32)
  | fpflags (v : W32)
  | fpctl (v : W32)
  | acclive (j : Nat) (v : W64)
  | srseed (j : Nat) (v : W64)
  | od (n : Nat) (v : BitVec 128) (pz : Bool)
  | cd (n : Nat) (v : BitVec 512) (pz : Bool)
  | shape (v : BitVec 256) (pz : Bool)
  | clkdiv (d : Nat)
  | zeroTile (t : Nat)
  | seqset (m : Nat) (tag : BitVec 16) (first count : Nat)
  | trSpos (v : W64)
  | twin (frames : List Nat)
  | arm (a : Arming)
  deriving DecidableEq, Repr

/-- A result in flight: the cycle in which it becomes visible and the issue position that R40 orders by. -/
structure Pend where
  due : Nat
  cyc : Nat
  rank : Nat
  w : Write
  deriving DecidableEq, Repr

/-- Why the core does not enter a cycle (R82, R84): a datum that is late, the completing instruction that S has issued, whose condition does not hold yet, or an image that is being written (R112). -/
inductive HoldKind where
  | data
  | retry
  | persist
  deriving DecidableEq, Repr

/-- A condition that must hold before the core enters cycle `due`. -/
structure Hold where
  due : Nat
  kind : HoldKind
  deriving DecidableEq, Repr

/-! Matrix work. -/

/-- One accumulator element of a multiply in flight (R154, R163): value, poison, and what its inputs were. -/
structure AccElt where
  v : W32
  pz : Bool
  nonFinite : Bool
  nanIn : Bool
  wrapped : Bool
  live : Bool
  deriving DecidableEq, Repr

/-- Where a multiply's operand comes from, resolved at issue (R147, R148, R155, R156, R158). -/
inductive Operand where
  | local (base pitch : Nat) (tr : Bool) (saddr : Nat)
  | ingot (columns : List (List W32)) (pz : List Bool) (scales : List (List Byte)) (codebook : List W16) (fault : Option (Nat × Nat × W64))
  | remote (addr pitch : Nat) (peer : Nat)
  | conv (base : Nat) (shape : BitVec 256) (o0 : Nat)
  deriving DecidableEq, Repr

/-- A multiply in flight (R154 to R165). Group `g` is the next to read; it is read in cycle `start + g`. `kk` is K; `scA` and `scB` are the scale bytes of the current k-block with their poison (R149); `undo` is X as it stood before an MMAR issued, with the groups that the issue took (R156); `part` marks the groups that an MMAR read before it stopped, which set no flag and count nothing; `src` are the places of an MMAC's segment in the scratchpad with the bytes that they held at its issue (R200). -/
structure MatOp where
  tile : Nat
  fmt : Nat
  start : Nat
  groups : Nat
  g : Nat
  a : Operand
  b : Operand
  acc : List AccElt
  line : Nat
  lane : Nat
  cyc : Nat
  kk : Nat
  scA : List (Byte × Bool)
  scB : List (Byte × Bool)
  undo : Option Seq
  part : Bool
  src : List (Nat × List Byte)
  deriving DecidableEq, Repr

/-- The matrix progress state (R48, R156): the group at which an MMAR stopped, its cells, and its operands and K as they were resolved at its issue. -/
structure MProg where
  p : Nat
  cells : List AccElt
  a : Operand
  b : Operand
  kk : Nat
  deriving DecidableEq, Repr

/-! Copies. -/

/-- The form of a tile copy (R178). -/
inductive CopyForm where
  | xld | xldT | xldn | xldf | xst | xstn | xstf
  deriving DecidableEq, Repr

/-- A tile copy in flight (R177 to R190). `next` is the number of the next element in box order; `begun` says that its issue has taken effect (R82); `cyc` is the cycle of its issue; `chunks` are the chunks it holds, each with the last element that touches it; `range` is the chunk range it writes; `pins` are its far pages, each with its size and the physical backing bound at issue; `tiles` are the tiles that it owns (R182); `ahead` are later elements that have moved already (R235); `cdn` is the number of its descriptor register (R352); `landed` says that an XSTN has reached the neighbour's posting record (R180), or that a store of an XSTF has left the module; `posted` that the copy's own arrival is posted. -/
structure CopyOp where
  id : Nat
  form : CopyForm
  cd : BitVec 512
  loc : Nat
  o0 : Int
  o1 : Int
  next : Nat
  status : BitVec 8
  begun : Bool
  landed : Bool
  posted : Bool
  cyc : Nat
  line : Nat
  lane : Nat
  byStep : Bool
  chunks : List (Nat × Nat)
  range : Nat × Nat
  pins : List (Nat × Nat × Nat)
  tiles : List Nat
  ahead : List Nat
  cdn : Nat
  deriving DecidableEq, Repr

/-- A store between its issue and its visibility to the core itself and at the point of coherence (R237, R239). `seen` says that the core's own reads see it (R80); `done` says that it has been performed at its point of coherence, and `old` are then the bytes, from the poison granule of its first byte on, that the core's own reads return until they see it (R10). One that is done and seen has been performed before an older one to its bytes: the core's own reads return it until a later write replaces it (R236, R243). `so` marks a strongly ordered page, `uo` an unordered one; `cyc` is the cycle of its issue, `rank` its engine and `ep` the number of fences before it (R243); `batch` names the batch and the rank of an STB to the module itself (R186); `stl` is the scope of an STL (R108). -/
structure PendStore where
  order : Nat
  seen : Bool
  addr : Nat
  data : List Byte
  poison : Bool
  so : Bool
  uo : Bool
  release : Bool
  cyc : Nat
  rank : Nat
  ep : Nat
  done : Bool
  old : List (Byte × Bool)
  batch : Option (Nat × BitVec 16)
  stl : Option Nat
  deriving DecidableEq, Repr

/-- What a late unit of a load goes to: a scalar register, a word of a queue entry, or a word of a matrix register. -/
inductive LateTo where
  | scalar (n : Nat) (va : Nat)
  | lane (q i : Nat)
  | word (addr : Nat) (sgn : Bool)
  deriving DecidableEq, Repr

/-- A unit of a load whose data is late (R84, R235, R241): its physical bytes, the cycle of its issue and the cycle in which the result is due. Until then the memory may still be read for it. `uo` marks an unordered page, and `acq` is the scope of an LDA (R247). -/
structure LateUnit where
  pa : Nat
  n : Nat
  cyc : Nat
  due : Nat
  uo : Bool
  dst : LateTo
  acq : Option Nat
  deriving DecidableEq, Repr

/-- What has reached a core's window in a cycle of it, or in a freeze before that cycle (R85): bytes, chunk bits of a map, an arrived tag with its range, or a fabric addend for a tile. The core's own reads see it from the next cycle on. -/
inductive Inflow where
  | bytes (addr : Nat) (data : List Byte) (poison : Bool)
  | chunks (m : Nat) (bits : BitVec 4096)
  | tag (m : Nat) (arrived : BitVec 16) (first count : Nat)
  | addend (tile : Nat) (int : Bool) (ws : List (W32 × Bool))
  deriving DecidableEq, Repr

/-- A line of the L1 (R232): its physical base, its 128 bytes and their poison. -/
structure L1Line where
  base : Nat
  data : List Byte
  pz : List Bool
  deriving DecidableEq, Repr

/-- An entry of a core's translation cache (R361): the first virtual byte, the page's size and its leaf. -/
structure TlbEntry where
  va : Nat
  size : Nat
  leaf : W64
  deriving DecidableEq, Repr

/-! The communication sequencer. -/

/-- A loop level of N (R261, R271). -/
structure NLoop where
  lc : Nat
  count : Nat
  start : Nat
  deriving DecidableEq, Repr

/-- A step of N in progress (R261, R264): its send and receive parts, each with the peer's group rank, the local address, the bytes done and the box's bytes. `holds` are the chunks held, each with its map; `place` is its reserved posting place; `armed` says that it is an RRA whose arming `seq` runs; `waited` is the reference cycle of the last watchdog check (R270). -/
structure NStep where
  word : W64
  seq : W32
  sendTo : Option Nat
  sendAt : Nat
  sent : Nat
  acked : Nat
  sendBytes : Nat
  sendStatus : BitVec 8
  recvFrom : Option Nat
  recvAt : Nat
  recvd : Nat
  recvBytes : Nat
  recvStatus : BitVec 8
  recvCd : BitVec 512
  sendCd : BitVec 512
  holds : List (Nat × Nat)
  place : Option (Nat × Nat)
  copyId : Option Nat
  tiles : List Nat
  armed : Bool
  waited : Nat
  deriving DecidableEq, Repr

/-- A command in the queue of N (R120, R261): the step address, the argument with its poison, and the cycle from which N sees it. -/
structure NCmd where
  addr : Nat
  arg : W64
  argPz : Bool
  vis : Nat
  deriving DecidableEq, Repr

/-- The command that N runs (R261). `word` is the word of a step that has started and has had no effect yet. -/
structure NRun where
  base : Nat
  addr : Nat
  arg : W64
  argPz : Bool
  loops : List NLoop
  word : Option W64
  step : Option NStep
  faulted : Bool
  deriving DecidableEq, Repr

/-- The record of a step fault beside the trap registers (R270, R272): the command's step address, the step word, the subcode, the loop stack and the bytes that its parts have done; for a collective-order fault also the group, the number, the source and the number that it has reached. -/
structure NRec where
  addr : Nat
  word : W64
  sub : Nat
  loops : List NLoop
  sent : Nat
  recvd : Nat
  group : BitVec 8
  n : W32
  b : Nat
  h : Nat
  deriving DecidableEq, Repr

/-- Blocks a sender has unacknowledged toward one group and destination (R269). `refused` are the blocks whose data it keeps: those that a core of this module has refused, and those toward another module that are not acknowledged. -/
structure Credit where
  group : BitVec 8
  dst : Nat
  used : Nat
  refused : List Block
  deriving DecidableEq, Repr

/-! Traps. -/

/-- What a trap reports (R280, R285, R287). -/
structure TrapInfo where
  code : Nat
  sub : Nat
  eng : Nat
  async : Bool
  pcause : Nat
  addr : Nat
  detail : W64
  deriving DecidableEq, Repr

/-- The pipeline snapshot (R217): results with their offsets from the stop cycle, the sequencers, the holds and the matrix work as they stood. Every cycle in it counts from the stop cycle. -/
structure Snapshot where
  stop : Nat
  pend : List Pend
  seqs : List Seq
  holds : List Hold
  mats : List MatOp
  fetch : FetchUnit
  banks : List (Nat × Nat × Nat)
  deriving DecidableEq, Repr

/-- What the core is doing (R288, R291, R346). -/
inductive Mode where
  | idle
  | user
  | handler
  | escalated
  | held
  deriving DecidableEq, Repr

/-! A core. -/

/-- A core's state (R38, R50, R57, R84, R99, R112, R162, R184, R187, R216, R221, R261, R269, R284). Scratchpad, matrix registers and tiles are held in memory at the core's window (R227). `back` is the cycle of the last resumption (R290), `moved` a position that the handler wrote into %tr.spos (R286). `tref` counts the reference cycles of the core's cluster and `tun` its time in units of 1/336 ns (R425). `frozen` marks a core that an instruction freezes within its cycle (R84). `fences` counts the fences that order the stores to one location of an unordered page (R243); `stuck` says that at the start of the cycle every sequencer waited, was idle or had ended (R215); `inbox` holds what has reached the core's window since (R85). `blockedBy` is the sequencer that keeps fetch from its next line, as at the start of the cycle (R210). `shown` is the issue cycle before which the core's stores to its own scratchpad are visible to others (R239), although its own reads see them at their latency; `lates` are the units of loads whose data is late. `voided` names the messages, by group, number and source, that a mismatch has discarded (R268); `nbWaits` the arrivals of neighbours, each a map and a byte count, that wait for a place of the posting record (R184), the last `nbNew` of them since the last fence; `heldArr` the barrier arrivals that a core image brings back (R226). `refusals` names the group and source rank of the blocks of other modules that the core has refused and not yet asked for again (R269); `nrec` is the record of its last step fault (R272). `banks` lists the bank accesses that issued loads and stores make in this cycle and later ones, as cycle, bank and block (R151, R167). -/
structure Core where
  s : Tab (Tagged 64)
  p : Tab (Tagged 32)
  q : Tab (List QEntry)
  k : Tab Tok
  k0 : Tab Tok
  od : Tab (BitVec 128 × Bool)
  cd : Tab (BitVec 512 × Bool)
  cm : Tab (BitVec 4096)
  post : Tab (List Place)
  tg : Tab TagEntry
  fpflags : W32
  fpctl : W32
  acclive : Tab W64
  srseed : List W32
  spmap : W32
  shape : BitVec 256
  shapePz : Bool
  exc : Tab W64
  mprog : Option MProg
  batches : Tab (List BatchPeer)
  slots : List Member
  es : Seq
  el : Seq
  ex : Seq
  ew : Seq
  fetch : FetchUnit
  plane0 : Tab W32
  plane1 : Tab W32
  active : Bool
  shadow : Option Nat
  now : Nat
  turn : Nat
  frozen : Bool
  blockedBy : Nat
  tref : Nat
  tun : Nat
  div : Nat
  pend : List Pend
  holds : List Hold
  mats : List MatOp
  arms : List Arming
  copies : List CopyOp
  copySeq : Nat
  banks : List (Nat × Nat × Nat)
  stores : List PendStore
  lates : List LateUnit
  shown : Nat
  fences : Nat
  stuck : Bool
  inbox : List Inflow
  l1 : List L1Line
  tlb : List TlbEntry
  ncmds : List NCmd
  nrun : Option NRun
  riser : List Block
  voided : List (BitVec 8 × W32 × Nat)
  nbWaits : List (Nat × Nat)
  nbNew : Nat
  heldArr : List Arrival
  credits : List Credit
  refusals : List (BitVec 8 × Nat)
  nrec : Option NRec
  mode : Mode
  tr : Tab W64
  snap : Option Snapshot
  asyncs : List TrapInfo
  escSeq : Option Nat
  ctx : Option Nat
  run : Option (Nat × Nat)
  iter : W64
  began : Nat
  powered : Bool
  offline : Bool
  chilled : Bool
  pre : Nat
  goes : Option Nat
  plane : Option Nat
  spent : Nat
  epoch : W64
  ordinal : Nat
  back : Nat
  moved : Option (Nat × Nat)
  deriving DecidableEq, Repr

/-! Contexts, records and the runner. -/

/-- A registered twin pair (R365): lower frame, page size and twin state TS. -/
structure Twin where
  lower : Nat
  size : Nat
  ts : Bool
  deriving DecidableEq, Repr

/-- A ladle queue bound to a ladle (R328, R329): the header's physical address and the captured BASE and LSZ. `held` is a head packet that has been read and waits on its semaphore (R333). -/
structure LadleBind where
  hdr : Nat
  hdrVa : Nat
  base : Nat
  lsz : Nat
  ladle : Nat
  held : Option (List Byte)
  deriving DecidableEq, Repr

/-- A saved iteration (R348 to R352): what its save slot holds in structured form, the state block and the poison tags, with the fields of its header. The header, the granule map, the registers, tiles and scratchpad stand in the slot's memory. -/
structure SavedCore where
  core : Core
  pz : List Nat
  recAddr : Nat
  l : Nat
  from_ : Nat
  yielded : Bool
  spent : Nat
  deriving DecidableEq, Repr

/-- What a core held when a restartable iteration began (R145, R347): its state and what its window held, which a kill brings back. -/
structure Origin where
  core : Core
  cells : List Host.Cell
  pz : List Nat
  deriving DecidableEq, Repr

/-- A context (R320, R329, R348, R353, R354, R371). `gens` counts the records started for each group (R222), `onModule` is false while a context switch has taken it off (R353), `dead` says that it has taken the fatal context error (R292). -/
structure Context where
  ptbr : Nat
  cores : List Nat
  rcount : Nat
  ranks : List (Option Nat)
  ownRank : Nat
  wdt : Nat
  save : Nat
  nslot : Nat
  slots : Tab (Option SavedCore)
  semFirst : Nat
  semCount : Nat
  cqMask : Nat
  cqLevels : Nat
  lqTable : Nat
  lqs : Tab (Option LadleBind)
  escVector : Nat
  escCount : Nat
  usedPour : Bool
  gens : Tab Nat
  onModule : Bool
  dead : Bool
  deriving DecidableEq, Repr

/-- An escalation ring entry (R354); the number 0 marks an escalation that waits for a place, and `place` is where in the ring its bytes stand. -/
structure EscEntry where
  ctx : Nat
  core : Nat
  cp : Bool
  seq : Nat
  regs : List W64
  hcause : W64
  hpos : W64
  place : Nat
  deriving DecidableEq, Repr

/-- A member of a group as the record's table names it (R219). -/
structure GroupMember where
  drank : Nat
  core : Nat
  deriving DecidableEq, Repr

/-- An accepted record (R307, R310, R338 to R344). `gens` gives the generation of each of its groups once they have started (R222). `handout` is what is left of the hand-out order, as ranges first to last; `started` lists the cores on which it has run. `going` says that a pre-emption has taken the set of a gang, which it leaves once no iteration of it runs; `saving` says that every core of the set has a save slot promised (R349); `kept` holds the membership slots of its cores from then on (R221). `origins` holds, by iteration, what the core held at the start of one that was killed (R145). `pins` are the pages of its kernel image (R361, R363). -/
structure RecordRun where
  ctx : Nat
  addr : Nat
  fields : BitVec 1024
  level : Nat
  cores : List Nat
  groups : Tab (List GroupMember)
  gens : Tab Nat
  handout : List (Nat × Nat)
  n : Nat
  retired : Nat
  cr : Int
  gang : Bool
  admitted : Bool
  started : List Nat
  going : Bool
  saving : Bool
  kept : Tab (List Member)
  origins : Tab (Option Origin)
  pins : List (Nat × Nat × Nat)
  order : Nat
  queue : Nat
  deriving DecidableEq, Repr

/-- A pending record address in a compute queue (R323, R326). -/
structure CqEntry where
  addr : Nat
  ser : Bool
  deriving DecidableEq, Repr

/-- One open phase of a barrier (R222). -/
structure BarPhase where
  members : List Nat
  op : Option (BitVec 3)
  mixed : Bool
  value : W64
  poison : Bool
  deriving DecidableEq, Repr

/-- Barrier state of one group of a record (R222 to R224): a context's records of one group number differ by their generation. `expect` is the number of members, 0 before the record has started here, and `far` says that members lie on other devices. `held` are the arrivals waiting in their members' slots, `early` those that wait for an older generation's release or for the record's start. `closing` says that this device has completed its record of the generation. -/
structure BarGroup where
  ctx : Nat
  group : BitVec 8
  gen : Nat
  expect : Nat
  far : Bool
  cph : W64
  phases : List BarPhase
  history : List BarPhase
  held : List Arrival
  early : List Arrival
  closing : Bool
  deriving DecidableEq, Repr

/-- A ladle (R328, R333): the queue whose packet it performs, and the queue whose turn is next. `owed` says that the packet's writes have left for another module and are not yet known to be visible there (R250). -/
structure Ladle where
  busy : Option (Nat × Nat)
  packet : List Byte
  turn : Nat
  owed : Bool
  deriving DecidableEq, Repr

/-- A message that leaves the module, as plain data; `source` is the core that a packet comes from, and `module` where it goes (R173, R181, R186, R268, R269, R270, R273, R324, R407, R417). A `reply` with no module answers an agent of this one. -/
inductive Message where
  | msix (vector : Nat)
  | block (ctx module core : Nat) (b : Block) (source : Nat)
  | creditReturn (ctx module core : Nat) (g : BitVec 8) (src : Nat) (source : Nat)
  | riserFull (ctx module core : Nat) (g : BitVec 8) (src : Nat) (source : Nat)
  | riserFree (ctx module core : Nat) (g : BitVec 8) (src : Nat) (source : Nat)
  | readRequest (ctx module addr n : Nat) (source : Nat)
  | query (ctx module core : Nat) (g : BitVec 8) (source : Nat)
  | arrival (module : Nat) (a : Arrival) (source : Nat)
  | store (ctx module addr : Nat) (data : List Byte) (poison : Bool) (core batch : Nat) (hid : Bool)
  | pour (kind : Nat) (dst q t j : Nat) (data : List Byte)
  | enableCrc (crc : BitVec 32)
  | doe (data : List Byte)
  | supervisor (core lane : Nat)
  | errorReport (code : Nat)
  | fatalReport (ctx cause addr core : Nat)
  | completion (ok : Bool) (data : List Byte) (poison : Bool)
  | aer (link : Nat)
  | reply (module : Option Nat) (status : BitVec 8) (data : List Byte) (poison : Bool)
  deriving DecidableEq, Repr

/-! Chill tier. -/

/-- A seal record (R381), field by field; `crc` covers the others. -/
structure Seal where
  seq : W64
  valid : Bool
  fmt : Nat
  core : Nat
  ctx : Nat
  l : Nat
  record : Nat
  pour : W64
  nfrm : Nat
  splen : Nat
  mrlen : Nat
  stlen : Nat
  scrc : W32
  crc : W32
  deriving DecidableEq, Repr

/-- A chill image slot (R379, R380, R382): the sealed core state and the cells of its registers, scratchpad and frames relative to the window. `stateCrc` is the CRC-32C of its state region as it stands (R381); the region's encoding is not given, so that the number is a free value. -/
structure Slot where
  sl : Seal
  core : Option Core
  cells : List Host.Cell
  pz : List Nat
  frames : List Nat
  stateCrc : W32
  deriving DecidableEq, Repr

/-- An effect journal entry (R387). -/
structure JEntry where
  pz : Bool
  kind : Nat
  epoch : Nat
  addr : Nat
  value : W64
  deriving DecidableEq, Repr

/-- The chill tier's part for one core (R379, R384, R387). Until `cleanA` every dirty bit for slot A is set; afterwards the state's `dirtyA` lists the dirty granules and frames; B likewise. `writing` names the slot that a fence writes (true for B) and the bytes that it writes. `replay` is the number of the next kept entry while the core replays. -/
structure Chill where
  a : Slot
  b : Slot
  cleanA : Bool
  cleanB : Bool
  writing : Option (Bool × Nat)
  journal : List JEntry
  replay : Option Nat
  deriving DecidableEq, Repr

/-! The stripe parity engine. -/

/-- A protected region (R400, R401). -/
structure Region where
  ctx : Nat
  va : Nat
  frames : List Nat
  fu : Nat
  nu : Nat
  leaving : Bool
  fresh : Bool
  deriving DecidableEq, Repr

/-- A unit's two pour stamps (R397); all ones is absent. `sealed` refuses writes (R403). -/
structure UnitMap where
  stamp0 : W64
  stamp1 : W64
  sealed : Bool
  deriving DecidableEq, Repr

/-- State of the member in the pour protocol (R405, R408). -/
inductive PourState where
  | open_ | sealing | sweeping | prepared | querying | rebuilding | lost | notEnabled
  deriving DecidableEq, Repr

/-- The stripe parity engine and the coding group registers (R393 to R411). `gmat` is indexed 16 j + i; `live` lists the positions whose LIVE bit is set, rising; `want` is a GCFG value whose check awaits the other members' checks in `crcs` (R394); `acksDue` are the stripe and row of each DELTA without its ACK, `held` says that a REFUSE has stopped the sweep (R406); `votes`, `refused` and `coordNo` are the coordinator's part (R408); `answers` the members whose ANSWER a querier awaits; `owed` that contexts end once the pour is settled (R409); `ecseals` are the units that stood sealed when a rebuild began (R403). -/
structure Spe where
  gcfg : W64
  eccst : W64
  pmbase : W64
  ctxen : W64
  memb : Tab W64
  gmat : Tab Byte
  pour : W64
  regions : Tab (Option Region)
  data : Tab UnitMap
  parity : Tab UnitMap
  st : PourState
  ab : Bool
  dpour : W32
  live : List Nat
  want : Option W64
  crcs : List (Nat × W32)
  acksDue : List (Nat × Nat)
  held : Bool
  votes : List Nat
  refused : Bool
  coordNo : Bool
  answers : List Nat
  owed : Bool
  rebuilding : Option Nat
  ecseals : List Nat
  deriving DecidableEq, Repr

/-! Errors, links, clusters and boot. -/

/-- The error log (R414). The ring's records are held by slot number. -/
structure ErrorLog where
  ctl : W64
  widx : W64
  ridx : W64
  drop : W64
  corrected : Nat
  ring : Tab (BitVec 256)
  deriving DecidableEq, Repr

/-- The common snapshot trigger and the latched registers (R419, R420), by BAR0 offset. -/
structure Trigger where
  ctl : W64
  cyc : W64
  widx : W64
  miss : BitVec 16
  regs : Tab W64
  deriving DecidableEq, Repr

/-- A link's training state (R421). -/
inductive LinkState where
  | down | detect | equalise | feclock | ident | keyx | up
  deriving DecidableEq, Repr

/-- A UCIe link (0 to 27), an Ivaraog port (28 to 43) or the PCI Express link (44) (R417, R418, R420, R421). `tries` counts the failed tries, `fails` the failures of one flit, its first sending among them; `wasDown` says that it has gone down since it was last up, `retraining` that its training is a retrain. -/
structure Link where
  st : LinkState
  tries : Nat
  replays : W32
  fails : Nat
  wasDown : Bool
  retraining : Bool
  deriving DecidableEq, Repr

/-- A cluster's operating point, ramp and protective state (R425 to R428). -/
structure Cluster where
  cur : BitVec 3
  tgt : BitVec 3
  ramp : Bool
  pv : Bool
  pend : BitVec 3
  therm : Nat
  plim : Nat
  stretch : Nat
  powered : Bool
  deriving DecidableEq, Repr

/-- Boot and identity state (R429 to R431, R392). `copyA` and `copyB` are the two sealed copies of the configuration region, each with its seal; `writing` says that the newer seal has been written since the last boot, so that a loss of power may still have torn it. `stages` are the firmware stages that images have replaced; `key` is the alias key of the last boot. -/
structure Boot where
  bootst : W64
  copyA : Option (Seal × ConfigImage)
  copyB : Option (Seal × ConfigImage)
  writing : Bool
  stages : Tab (Option BootStage)
  measurements : List (List Byte)
  key : BitVec 256
  spdm : Nat
  transcript : List Byte
  deriving DecidableEq, Repr

/-- The mailbox (R368, R369). `cmd` is the request as it stood at submission. -/
structure Mailbox where
  cmd : List Byte
  req : List Byte
  rsp : List Byte
  mbst : W64
  deriving DecidableEq, Repr

/-- Which agent moves next; the host moves when it stores bytes at an offset of its own memory (R372). -/
inductive AgendaItem where
  | event (i : Instr)
  | core (n : Nat)
  | cp (ctx : Nat)
  | n (core : Nat)
  | host (off : Nat) (data : List Byte)
  deriving DecidableEq, Repr

/-- The agent whose instruction `exec` runs: a core or a command stream (R319, R320). -/
inductive Mover where
  | core (n : Nat)
  | cp (ctx : Nat)
  deriving DecidableEq, Repr

/-- A fatal context error that has been raised and not yet carried out (R292). -/
structure FatalErr where
  ctx : Nat
  cause : Nat
  addr : Nat
  core : Nat
  deriving DecidableEq, Repr

/-- The machine. `cpLast` is the command stream that issued last, `cpFree` the time at which the command processor's next cycle may begin (R320); `starts` is what a core held before a restartable iteration (R347). `ref` is the module's time in units of 1/336 ns. `tablePz` lists the blocks of code tables that an error has poisoned in the table store of one stack, each with that stack (R198, R412). `recovery` holds, by core, the image that the last lane event has left in the core's recovery slot (R416). `here` is the agent that issues; `agenda` says which agent moves next, `fresh` numbers the free values, `outbox` holds what has left the module, oldest first; these four are the model's own. -/
structure State where
  mem : Memory
  pz : List Nat
  tablePz : List (Nat × Nat)
  dirtyA : List Nat
  dirtyB : List Nat
  cores : Tab Core
  cps : Tab Core
  cpBase : Tab Nat
  cpLast : Nat
  cpFree : Nat
  here : Mover
  agenda : List AgendaItem
  fresh : Nat
  fatal : List FatalErr
  outbox : List Message
  ref : Nat
  contexts : Tab (Option Context)
  records : List RecordRun
  accepted : Nat
  reserving : Option Nat
  cqs : Tab (List CqEntry)
  cqLast : Tab (Option Nat)
  barriers : List BarGroup
  ladles : Tab Ladle
  escs : List EscEntry
  locks : Tab Nat
  twins : List Twin
  tlbHolds : List (Nat × Nat × Nat)
  mbox : Mailbox
  msixMask : BitVec 2048
  msixPend : BitVec 2048
  msixTable : Tab W64
  chill : Tab Chill
  starts : Tab (Option Origin)
  recovery : Tab (Option Origin)
  spe : Spe
  elog : ErrorLog
  laneErrs : Tab Nat
  trig : Trigger
  links : Tab Link
  clusters : Tab Cluster
  events : BitVec 64
  checked : Bool
  boot : Boot
  peerMem : List (Nat × Nat × Byte)
  peerPz : List (Nat × Nat)
  peerFail : List (Nat × Nat × Nat × BitVec 8)
  deriving DecidableEq, Repr

/-! Reset values. -/

/-- The reset values of the registers of R38, R47, R49. -/
def Scalar.zero : Tagged 64 := ⟨0, none⟩
def Predicate.zero : Tagged 32 := ⟨0, none⟩
def Tok.reset : Tok := ⟨0, 0xFFFF⟩
def TagEntry.reset : TagEntry := ⟨0, 0, 0, 0, false⟩
def Seq.reset : Seq := ⟨[], [], [], 0, false, false, 0, 1, 0, 1⟩
def FetchUnit.reset : FetchUnit := ⟨0, 0, false, false, none, false, 0⟩

/-- The lane states of %srseed at reset: lane i holds i + 1 (R23, R50). -/
def srseedReset : List W32 := (List.range 32).map (fun i => BitVec.ofNat 32 (i + 1))

/-- A core after reset (R38, R39, R50). It runs no iteration and belongs to no context. -/
def Core.reset : Core :=
  { s := [], p := [], q := [], k := [], k0 := [], od := [], cd := [], cm := [], post := [], tg := []
    fpflags := 0, fpctl := 0, acclive := [], srseed := srseedReset, spmap := 0, shape := 0
    shapePz := false, exc := [], mprog := none, batches := [], slots := []
    es := Seq.reset, el := Seq.reset, ex := Seq.reset, ew := Seq.reset, fetch := FetchUnit.reset
    plane0 := [], plane1 := [], active := false, shadow := none
    now := 0, turn := 0, frozen := false, blockedBy := 0, tref := 0, tun := 0, div := 2
    pend := [], holds := [], mats := [], arms := [], copies := [], copySeq := 0, banks := [], stores := [], lates := [], shown := 0
    fences := 0, stuck := false, inbox := []
    l1 := [], tlb := [], ncmds := [], nrun := none, riser := [], voided := [], nbWaits := [], nbNew := 0, heldArr := [], credits := [], refusals := [], nrec := none
    mode := .idle, tr := [], snap := none, asyncs := [], escSeq := none
    ctx := none, run := none, iter := 0, began := 0
    powered := true, offline := false, chilled := false, pre := 0, goes := none
    plane := none, spent := 0, epoch := 0, ordinal := 0, back := 0, moved := none }

def Seal.empty : Seal := ⟨0, false, 0, 0, 0, 0, 0, 0, 0, 0, 0, 0, 0, 0⟩
def Slot.empty : Slot := ⟨Seal.empty, none, [], [], [], 0⟩
def Chill.reset : Chill := ⟨Slot.empty, Slot.empty, false, false, none, [], none⟩

/-- The stamp of an absent slot (R397). -/
def stampAbsent : W64 := 0xFFFFFFFFFFFFFFFF

def UnitMap.reset : UnitMap := ⟨stampAbsent, stampAbsent, false⟩

/-- The SPE after reset: not enabled (R393, R405). -/
def Spe.reset : Spe :=
  { gcfg := 0, eccst := 0, pmbase := 0, ctxen := 0, memb := [], gmat := [], pour := 0, regions := []
    data := [], parity := [], st := .notEnabled, ab := false, dpour := 0, live := [], want := none
    crcs := [], acksDue := [], held := false, votes := [], refused := false, coordNo := false
    answers := [], owed := false, rebuilding := none, ecseals := [] }

def Link.reset : Link := ⟨.down, 0, 0, 0, false, false⟩
def Cluster.reset : Cluster := ⟨0, 0, false, false, 0, 0, 0, 0, true⟩
def Ladle.reset : Ladle := ⟨none, [], 0, false⟩

/-- The boot state before any boot: the configuration region is empty (assumption 6). -/
def Boot.reset : Boot := ⟨0, none, none, false, [], [], 0, 0, []⟩

/-- The module right after reset. Nothing is in memory, no context exists, no agent is asked to move; the agent `here` is core 0. -/
def State.reset : State :=
  { mem := [], pz := [], tablePz := [], dirtyA := [], dirtyB := [], cores := [], cps := [], cpBase := [], cpLast := 63, cpFree := 0, here := .core 0, agenda := []
    fresh := 0, fatal := [], outbox := [], ref := 0, contexts := [], records := [], accepted := 0
    reserving := none, cqs := [], cqLast := [], barriers := [], ladles := [], escs := []
    locks := [], twins := [], tlbHolds := [], mbox := ⟨[], [], [], 0⟩, msixMask := BitVec.allOnes 2048, msixPend := 0
    msixTable := [], chill := [], starts := [], recovery := [], spe := Spe.reset
    elog := ⟨0, 0, 0, 0, 0, []⟩, laneErrs := [], trig := ⟨0, 0, 0, 0, []⟩
    links := [], clusters := [], events := 0, checked := false
    boot := Boot.reset, peerMem := [], peerPz := [], peerFail := [] }

/-! Faults and refusals. -/

/-- Reasons for which a step stops with a fault. Every error that the spec describes is a next state (a trap, an escalation, a fatal context error), so the type has one constructor. -/
inductive Fault where
  /-- Raised by `step` after a module machine check (R415) when no event is waiting: the CP and the runner are stopped, every context has ended, and only a module reset moves the module again. Safe: the machine stops as the rule says. -/
  | machineChecked
  deriving DecidableEq, Repr

/-- Reasons for which a step refuses. -/
inductive Refusal where
  /-- Raised by an arm of `exec` whose instruction has no meaning in the model. Safe: nothing is claimed of it. -/
  | notModelled (mnemonic : String)
  deriving DecidableEq, Repr

end Sys2Proof.Machine
end

