-- ==== Sys2Proof/Machine/Base.lean ====
section
/-! DEFINITION. The agents of the machine, their registers, and the sequencers with their queues and loop buffers (R99, R100, R206, R212). -/

namespace Sys2Proof.Machine

/-! Agents. -/

/-- A core by its module-wide number (R2). -/
def State.core (s : State) (n : Nat) : Core := tget Core.reset s.cores n

/-- Replace a core. -/
def State.setCore (s : State) (n : Nat) (c : Core) : State :=
  { s with cores := tset Core.reset s.cores n c }

/-- The state record of an agent: a core, or a command stream with the S state of one (R320). -/
def State.agent (s : State) (m : Mover) : Core :=
  match m with
  | .core n => s.core n
  | .cp x => tget Core.reset s.cps x

/-- Replace an agent's record. -/
def State.setAgent (s : State) (m : Mover) (c : Core) : State :=
  match m with
  | .core n => s.setCore n c
  | .cp x => { s with cps := tset Core.reset s.cps x c }

/-- The agent that issues. -/
def State.cur (s : State) : Core := s.agent s.here

/-- Replace the agent that issues. -/
def State.setCur (s : State) (c : Core) : State := s.setAgent s.here c

/-- Change the agent that issues. -/
def State.modCur (s : State) (f : Core → Core) : State := s.setCur (f s.cur)

/-- Change a core. -/
def State.modCore (s : State) (n : Nat) (f : Core → Core) : State := s.setCore n (f (s.core n))

/-- The number of the issuing core; a command stream has none and answers 0. -/
def State.me (s : State) : Nat :=
  match s.here with
  | .core n => n
  | .cp _ => 0

/-- Whether the issuing agent is a command stream. -/
def State.isCp (s : State) : Bool :=
  match s.here with
  | .core _ => false
  | .cp _ => true

/-- The context of an agent, and of the one that issues. -/
def State.ctxOf (s : State) (m : Mover) : Option Nat :=
  match m with
  | .core n => (s.core n).ctx
  | .cp x => some x
def State.myCtx (s : State) : Option Nat := s.ctxOf s.here

/-- The first byte of a core's window (R227). -/
def winBase (n : Nat) : Nat := 0x000F000000000000 + n * 0x1000000

/-- A context that exists. -/
def State.context (s : State) (x : Nat) : Option Context := tget none s.contexts x

/-- Replace a context. -/
def State.setContext (s : State) (x : Nat) (c : Context) : State :=
  { s with contexts := tset none s.contexts x (some c) }

/-- A fresh free word (R52; assumption 2), and the state with the counter advanced. -/
def State.freeW (s : State) : W64 := Config.freeWord s.fresh
def State.bump (s : State) : State := { s with fresh := s.fresh + 1 }

/-- Send a message out of the module. -/
def State.send (s : State) (m : Message) : State := { s with outbox := s.outbox ++ [m] }

/-- Send an MSI-X vector; a masked one is held pending (R324). -/
def State.interrupt (s : State) (v : Nat) : State :=
  if bitAt s.msixMask v then { s with msixPend := s.msixPend ||| (1#2048 <<< v) }
  else s.send (.msix v)

/-! Time (R86, R425, R428). -/

/-- The reference clock's period of an operating point, in units of 1/336 ns: 3.2, 2.8, 2.4, 2.0, 3.2, 3.2, 1.6 and 0.8 GHz (R425). -/
def opPeriod (p : Nat) : Nat := [105, 120, 140, 168, 105, 105, 210, 420].getD p 105

/-- The supply of a point in units of 10 mV, and its minimum divisor (R425). -/
def opSupply (p : Nat) : Nat := [80, 75, 70, 65, 80, 80, 60, 55].getD p 80
def opMinDiv (p : Nat) : Nat := [2, 2, 2, 2, 3, 4, 2, 2].getD p 2

/-- The point whose clock is in force: a falling ramp changes the clock first, a rising one last (R427). -/
def Cluster.clockPoint (k : Cluster) : Nat :=
  if k.ramp && decide (opSupply k.tgt.toNat ≤ opSupply k.cur.toNat) then k.tgt.toNat else k.cur.toNat

/-- The largest of the point's minimum divisor and the protective divisor (R425, R426, R428). -/
def Cluster.emin (k : Cluster) : Nat := max (opMinDiv k.cur.toNat) (max k.therm k.plim)

/-- A cluster, and that of a core (R2). -/
def State.cluster (s : State) (k : Nat) : Cluster := tget Cluster.reset s.clusters k
def State.setCluster (s : State) (k : Nat) (v : Cluster) : State := { s with clusters := tset Cluster.reset s.clusters k v }

/-- The period of an agent's reference clock, and the reference cycles of its engine cycle: the largest of three divisors, and the droop's stretch (R86, R425, R428). -/
def State.period (s : State) (m : Mover) : Nat :=
  match m with
  | .core n => opPeriod (s.cluster (n / 32)).clockPoint
  | .cp _ => 105
def State.cycleLen (s : State) (m : Mover) : Nat :=
  match m with
  | .core n => max (s.core n).div (s.cluster (n / 32)).emin + (s.cluster (n / 32)).stretch
  | .cp _ => 2

/-- Reference cycles pass for an agent; the module's time is that of its foremost agent. -/
def State.pass (s : State) (m : Mover) (k : Nat) : State :=
  let c := s.agent m
  let u := c.tun + k * s.period m
  { s.setAgent m { c with tref := c.tref + k, tun := u } with ref := max s.ref u }

/-- A core that has stood still comes to the module's time. -/
def State.catchUp (s : State) (n : Nat) : State :=
  let c := s.core n
  s.setCore n { c with tref := c.tref + (s.ref - c.tun) / s.period (.core n), tun := max c.tun s.ref }

/-! Registers. -/

/-- s[n] (R38): s0 reads as zero. -/
def Core.rs (c : Core) (n : Nat) : Tagged 64 := if n = 0 then Scalar.zero else tget Scalar.zero c.s n

/-- Write s[n]: a write to s0 is discarded (R38). -/
def Core.ws (c : Core) (n : Nat) (v : W64) (pz : Option PRec) : Core :=
  if n = 0 then c else { c with s := tset Scalar.zero c.s n ⟨v, pz⟩ }

/-- p[n] (R38): p0 reads as all ones. -/
def Core.rp (c : Core) (n : Nat) : Tagged 32 :=
  if n = 0 then ⟨0xFFFFFFFF, none⟩ else tget Predicate.zero c.p n

/-- The poison of a predicate after a write of some of its bits: only a whole write clears it (R52). -/
def mergePz (mask : W32) (old new : Option PRec) : Option PRec :=
  match new with
  | some r => some r
  | none => if mask = 0xFFFFFFFF then none else old

/-- Write the masked bits of p[n]; a write to p0 is discarded (R38, R132). -/
def Core.wp (c : Core) (n : Nat) (v mask : W32) (pz : Option PRec) : Core :=
  if n = 0 then c
  else
    let o := c.rp n
    { c with p := tset Predicate.zero c.p n ⟨(o.v &&& ~~~mask) ||| (v &&& mask), mergePz mask o.pz pz⟩ }

/-- A token (R47), and as it stood at the start of the cycle (R103). -/
def Core.tok (c : Core) (n : Nat) : Tok := tget Tok.reset c.k n
def Core.tok0 (c : Core) (n : Nat) : Tok := tget Tok.reset c.k0 n
def Core.setTok (c : Core) (n : Nat) (t : Tok) : Core := { c with k := tset Tok.reset c.k n t }

/-- Operand queues (R42). -/
def Core.queue (c : Core) (n : Nat) : List QEntry := tget [] c.q n
def Core.setQueue (c : Core) (n : Nat) (q : List QEntry) : Core := { c with q := tset [] c.q n q }

/-- Chunk maps, posting records, tag entries and descriptors (R48, R49, R184). -/
def Core.map (c : Core) (m : Nat) : BitVec 4096 := tget 0 c.cm m
def Core.setMap (c : Core) (m : Nat) (v : BitVec 4096) : Core := { c with cm := tset 0 c.cm m v }
def Core.posts (c : Core) (m : Nat) : List Place := tget [] c.post m
def Core.setPosts (c : Core) (m : Nat) (l : List Place) : Core := { c with post := tset [] c.post m l }
def Core.tag (c : Core) (m : Nat) : TagEntry := tget TagEntry.reset c.tg m
def Core.setTag (c : Core) (m : Nat) (t : TagEntry) : Core := { c with tg := tset TagEntry.reset c.tg m t }
def Core.odOf (c : Core) (n : Nat) : BitVec 128 × Bool := tget (0, false) c.od n
def Core.cdOf (c : Core) (n : Nat) : BitVec 512 × Bool := tget (0, false) c.cd n

/-! Batches (R187). -/

/-- Add a store of some bytes to a batch's peer; `none` for a 65th peer. -/
def addBatch (l : List BatchPeer) (rank : BitVec 16) (bytes : Nat) : Option (List BatchPeer) :=
  if l.any (fun p => p.rank = rank) then
    some (l.map (fun p => if p.rank = rank then
      { p with count := p.count + 1, bytes := p.bytes + BitVec.ofNat 64 bytes, left := p.left + 1 } else p))
  else if 64 ≤ l.length then none
  else some (insertBy (fun a b => decide (a.rank.toNat < b.rank.toNat)) ⟨rank, 1, BitVec.ofNat 64 bytes, 0, 0, 1⟩ l)

/-- What a batch's peer reports of some of its stores; `all` of one STB or XSTF, or of a part of one. -/
def replyBatch (l : List BatchPeer) (rank : BitVec 16) (err : BitVec 8) (deliv all : Nat) : List BatchPeer :=
  l.map (fun p => if p.rank = rank then
    { p with err := p.err ||| err, deliv := p.deliv + BitVec.ofNat 64 deliv, left := p.left - all } else p)

def Core.batch (c : Core) (t : Nat) : List BatchPeer := tget [] c.batches t
def Core.setBatch (c : Core) (t : Nat) (l : List BatchPeer) : Core := { c with batches := tset [] c.batches t l }

/-- Set or clear chunk bits `first` to `first + n - 1` of a map. -/
def setBits (v : BitVec 4096) (first : Nat) (on : Bool) : Nat → BitVec 4096
  | 0 => v
  | n + 1 =>
    let b : BitVec 4096 := (1#4096) <<< (first + n)
    setBits (if on then v ||| b else v &&& ~~~b) first on n

/-- The record of the first poisoned source (R277). -/
def firstPz : List (Option PRec) → Option PRec
  | [] => none
  | some r :: _ => some r
  | none :: rest => firstPz rest

/-- The record of data poison (R276, cause 0x1). -/
def dataPz (addr : Nat) : PRec := ⟨1, BitVec.ofNat 52 addr⟩

/-! Engines and positions. -/

def Core.seqOf (c : Core) (e : Engine) : Seq :=
  match e with
  | .s => c.es
  | .l => c.el
  | .x => c.ex
  | .w => c.ew

def Core.setSeq (c : Core) (e : Engine) (q : Seq) : Core :=
  match e with
  | .s => { c with es := q }
  | .l => { c with el := q }
  | .x => { c with ex := q }
  | .w => { c with ew := q }

/-- The place of the group that a sequencer issues next, among captured and delivered groups (R99, R212). -/
def Seq.nextGroup (q : Seq) : Option Group :=
  match q.levels with
  | [] => q.queue.head?
  | lv :: _ =>
    match q.lbuf[lv.start + lv.idx]? with
    | some g => some g
    | none => q.queue.head?

/-- The line and lane of the next group; a sequencer without one names the place after the first word of its last group (R286; assumption 5). -/
def Seq.pos (q : Seq) : Nat × Nat :=
  match q.nextGroup with
  | some g => (g.line, g.lane)
  | none => if q.lane < 8 then (q.line, q.lane) else (q.line + 1, 1)

/-- Whether the sequencer replays or captures a loop body (R64, R101). -/
def Seq.inLoop (q : Seq) : Bool := !q.levels.isEmpty

/-- The pass number of the innermost loop (R101). -/
def Seq.passNo (q : Seq) : Nat :=
  match q.levels with
  | [] => 0
  | lv :: _ => lv.pass

/-- Close the innermost level when its body is at its end: the next pass starts, or the level closes and its parent moves past the body (R99, R100). -/
def closeOne : List LoopLevel → List LoopLevel
  | [] => []
  | lv :: rest =>
    if lv.idx < lv.len then lv :: rest
    else if lv.pass + 1 < lv.count then { lv with idx := 0, pass := lv.pass + 1 } :: rest
    else
      match rest with
      | [] => []
      | p :: more => { p with idx := p.idx + lv.len } :: more

/-- Close both levels of the loop buffer where they are at their ends (R100). -/
def closeLevels (l : List LoopLevel) : List LoopLevel := closeOne (closeOne l)

/-- Drop the captured groups once no loop is open (R212). -/
def Seq.tidy (q : Seq) : Seq := if q.levels.isEmpty then { q with lbuf := [] } else q

/-- Take the next group off its place: a captured group stays in the loop buffer, a delivered one leaves the queue and is captured inside a loop (R212). -/
def Seq.take (q : Seq) : Seq :=
  match q.levels with
  | [] => { q with queue := q.queue.tail }
  | lv :: rest =>
    let lv' := { lv with idx := lv.idx + 1 }
    if lv.start + lv.idx < q.lbuf.length then { q with levels := lv' :: rest }
    else { q with lbuf := q.lbuf ++ q.queue.take 1, queue := q.queue.tail, levels := lv' :: rest }

/-- Pass over the groups of a body with count 0, as far as they are delivered: they are not decoded and take no cycle (R99). -/
def Seq.skip (q : Seq) : Nat → Seq
  | 0 => q
  | n + 1 =>
    match q.levels with
    | lv :: _ =>
      if lv.count = 0 ∧ lv.idx < lv.len ∧ (lv.start + lv.idx < q.lbuf.length ∨ !q.queue.isEmpty)
      then Seq.skip q.take n
      else { q with levels := closeLevels q.levels }.tidy
    | [] => q.tidy

/-- The sequencer after its next group has issued in cycle `now` with issue occupancy `occ` (R83, R206). -/
def Seq.issued (q : Seq) (now occ : Nat) : Seq :=
  let (ln, la) := q.pos
  let q' := q.take
  ({ q' with levels := closeLevels q'.levels, free := now + occ, line := ln, lane := la + 1 }).tidy.skip 64

end Sys2Proof.Machine
end

