-- ==== Sys2Proof/Machine/Coh.lean ====
section
/-! DEFINITION. The point of coherence (R231): byte accesses by physical address, with the redirection of protected units to their slots (R397). -/

namespace Sys2Proof.Machine

/-! Plain memory accesses by physical address. -/

/-- Read bytes at a physical address. -/
def State.rdB (s : State) (a n : Nat) : List Byte := s.mem.rdN a n

/-- Read a number of `n` bytes. -/
def State.rdNat (s : State) (a n : Nat) : Nat := leNat (s.rdB a n)

/-- Whether any of `n` bytes is poisoned. -/
def State.pzB (s : State) (a n : Nat) : Bool := poisonedIn s.pz a n

/-- Write bytes, with poison as R52 gives; a write that changes a granule of a core's storage sets its dirty bits (R384). -/
def State.wrB (s : State) (a : Nat) (d : List Byte) (poison : Bool) : State :=
  let pz := pzWrite s.pz a d.length poison
  let hit := inWindow a && (s.rdB a d.length != d || pz != s.pz)
  { s with
    mem := s.mem.wrN a d
    pz := pz
    dirtyA := if hit then markDirty s.dirtyA a d.length else s.dirtyA
    dirtyB := if hit then markDirty s.dirtyB a d.length else s.dirtyB }

/-- Write a number of `n` bytes, unpoisoned. -/
def State.wrNat (s : State) (a n v : Nat) : State := s.wrB a (natLe n v) false

/-! Protected units (R396, R397). -/

/-- Where an address of a protected unit lies: the unit, the offset in it, and the base of its slot 0. -/
structure UnitAt where
  unit : Nat
  off : Nat
  base : Nat
  deriving DecidableEq, Repr

/-- The place of an address among the frames of a region. -/
def frameAt (fu pa : Nat) : List Nat → Nat → Option UnitAt
  | [], _ => none
  | f :: rest, x => if f ≤ pa ∧ pa < f + 65536 then some ⟨fu + x, pa - f, f⟩ else frameAt fu pa rest (x + 1)

/-- The protected unit that an address belongs to. -/
def unitIn (pa : Nat) : Tab (Option Region) → Option UnitAt
  | [] => none
  | (_, none) :: rest => unitIn pa rest
  | (_, some r) :: rest =>
    match frameAt r.fu pa r.frames 0 with
    | some u => some u
    | none => unitIn pa rest

def State.unitAt (s : State) (pa : Nat) : Option UnitAt := unitIn pa s.spe.regions

def Spe.unit (p : Spe) (u : Nat) : UnitMap := tget UnitMap.reset p.data u

/-- The base of a data unit's slot: slot 0 is the region's own memory, slot 1 lies in the pour area (R397; assumption 8). -/
def Spe.slotBase (p : Spe) (u : UnitAt) (slot : Nat) : Nat :=
  if slot = 0 then u.base else p.pmbase.toNat + 65536 * u.unit

/-- The slot of the committed view: the larger stamp at or below %pour (R397). -/
def committedSlot (m : UnitMap) (pour : W64) : Option Nat :=
  let a := m.stamp0 ≤ pour
  let b := m.stamp1 ≤ pour
  if a ∧ b then (if m.stamp0 < m.stamp1 then some 1 else some 0)
  else if a then some 0
  else if b then some 1
  else none

/-- The slot stamped with the open pour, if the unit is touched (R397). -/
def touchedSlot (m : UnitMap) (pour : W64) : Option Nat :=
  if m.stamp0 = pour + 1 then some 0 else if m.stamp1 = pour + 1 then some 1 else none

/-- The slot that an access reaches; `none` is the all-zero view (R397). -/
def liveSlot (m : UnitMap) (pour : W64) : Option Nat :=
  match touchedSlot m pour with
  | some x => some x
  | none => committedSlot m pour

/-- The physical byte that a read of `pa` reaches (R397). -/
def State.redirect (s : State) (pa : Nat) : Option Nat :=
  match s.unitAt pa with
  | none => some pa
  | some u =>
    match liveSlot (s.spe.unit u.unit) s.spe.pour with
    | some x => some (s.spe.slotBase u x + u.off)
    | none => none

/-- Whether a unit that the address belongs to refuses writes (R403). -/
def State.sealedAt (s : State) (pa : Nat) : Bool :=
  match s.unitAt pa with
  | none => false
  | some u => (s.spe.unit u.unit).sealed

/-- Copy memory with its poison. -/
def State.copyBytes (s : State) (src dst n : Nat) : State :=
  { s with mem := s.mem.copyRange src dst n, pz := pzPaste s.pz dst n (pzCut s.pz src n) }

/-- Make `n` bytes zero and unpoisoned. -/
def State.zeroBytes (s : State) (a n : Nat) : State :=
  { s with mem := s.mem.paste a n [], pz := pzPaste s.pz a n [] }

/-- Replace a unit's stamps. -/
def State.setUnit (s : State) (u : Nat) (m : UnitMap) : State :=
  { s with spe := { s.spe with data := tset UnitMap.reset s.spe.data u m } }

/-- The first write to a unit in a pour copies its committed view into the other slot and stamps it (R397). -/
def State.touch (s : State) (u : UnitAt) : State :=
  let m := s.spe.unit u.unit
  let q := s.spe.pour + 1
  match touchedSlot m s.spe.pour with
  | some _ => s
  | none =>
    match committedSlot m s.spe.pour with
    | some 0 => (s.copyBytes u.base (s.spe.slotBase u 1) 65536).setUnit u.unit { m with stamp1 := q }
    | some _ => (s.copyBytes (s.spe.slotBase u 1) u.base 65536).setUnit u.unit { m with stamp0 := q }
    | none => (s.zeroBytes u.base 65536).setUnit u.unit { m with stamp0 := q }

/-- One byte at its point of coherence, with its poison. -/
def State.byteC (s : State) (pa : Nat) : Byte × Bool :=
  match s.redirect pa with
  | some x => (s.mem.rd x, poisonedAt s.pz x)
  | none => (0, false)

/-- Bytes with their poison at the point of coherence. -/
def State.rdC (s : State) (pa n : Nat) : List (Byte × Bool) := (List.range n).map (fun i => s.byteC (pa + i))

/-- Write bytes at the point of coherence; the bytes of one call lie in one page, so in one unit. -/
def State.wrC (s : State) (pa : Nat) (d : List Byte) (poison : Bool) : State :=
  match s.unitAt pa with
  | none => s.wrB pa d poison
  | some u =>
    let s1 := s.touch u
    match s1.redirect pa with
    | some x => s1.wrB x d poison
    | none => s1

/-- A number of `n` bytes at the point of coherence. -/
def State.rdNatC (s : State) (pa n : Nat) : Nat := leNat ((s.rdC pa n).map (·.1))

/-- Whether any of `n` bytes is poisoned at the point of coherence. -/
def State.pzC (s : State) (pa n : Nat) : Bool := (s.rdC pa n).any (·.2)

end Sys2Proof.Machine
end

