-- ==== Sys2Proof/Machine/CopyDesc.lean ====
section
/-! DEFINITION. The fields of a copy descriptor (R176), the box order of a copy (R178), and what a copy's issue does in the cycle after it (R49, R82, R179, R183, R184). -/

namespace Sys2Proof.Machine

/-! Descriptor fields (R176). -/

def cdAddr (d : BitVec 512) : Nat := (fld d 0 52).toNat
def cdBtag (d : BitVec 512) : Nat := (fld d 52 2).toNat
def cdEsz (d : BitVec 512) : Nat := 2 ^ (fld d 54 2).toNat
def cdTgen (d : BitVec 512) : Bool := bitAt d 56
def cdCm (d : BitVec 512) : Nat := (fld d 58 6).toNat
def cdPeer (d : BitVec 512) : BitVec 16 := fld d 64 16
def cdTag (d : BitVec 512) : BitVec 16 := fld d 80 16
def cdExt (d : BitVec 512) (i : Nat) : Nat := (fld d (96 + 16 * i) 16).toNat
def cdTs (d : BitVec 512) (i : Nat) : Nat := (fld d (160 + 32 * (i - 1)) 32).toNat
def cdAsrc (d : BitVec 512) : Bool := bitAt d 256
def cdLp (d : BitVec 512) (i : Nat) : Nat := (fld d (257 + 21 * (i - 1)) 21).toNat
def cdBnd (d : BitVec 512) (i : Nat) : Nat := (fld d (320 + 32 * i) 32).toNat
def cdFill (d : BitVec 512) : Nat := (fld d 448 64).toNat

/-- The number of elements of the box, and its bytes (R178). -/
def cdCount (d : BitVec 512) : Nat := cdExt d 0 * cdExt d 1 * cdExt d 2 * cdExt d 3
def cdBytes (d : BitVec 512) : Nat := cdCount d * cdEsz d

/-- The coordinates of an element in box order, i0 fastest (R178). -/
def cdCoord (d : BitVec 512) (k : Nat) : Nat × Nat × Nat × Nat :=
  (k % cdExt d 0, k / cdExt d 0 % cdExt d 1, k / (cdExt d 0 * cdExt d 1) % cdExt d 2,
    k / (cdExt d 0 * cdExt d 1 * cdExt d 2))

/-- The local offset of an element from the local address; `tr` is XLD.T (R178). -/
def cdLocal (d : BitVec 512) (tr : Bool) (k : Nat) : Nat :=
  let (i0, i1, i2, i3) := cdCoord d k
  (if tr then i1 * cdEsz d + i0 * cdLp d 1 else i0 * cdEsz d + i1 * cdLp d 1) + i2 * cdLp d 2 + i3 * cdLp d 3

/-- The far address of an element (R178). -/
def cdFar (d : BitVec 512) (o0 o1 : Int) (k : Nat) : Nat :=
  let (i0, i1, i2, i3) := cdCoord d k
  (((cdAddr d : Int) + (o0 + i0) * cdEsz d + (o1 + i1) * cdTs d 1 + i2 * cdTs d 2 + i3 * cdTs d 3) % 2 ^ 52).toNat

/-- Whether an element lies inside the tensor (R178). -/
def cdIn (d : BitVec 512) (o0 o1 : Int) (k : Nat) : Bool :=
  let (i0, i1, i2, i3) := cdCoord d k
  decide (0 ≤ o0 + i0) && decide (o0 + i0 < cdBnd d 0) && decide (0 ≤ o1 + i1) && decide (o1 + i1 < cdBnd d 1)
    && decide (i2 < cdBnd d 2) && decide (i3 < cdBnd d 3)

/-- Whether a form writes the core's own scratchpad. -/
def CopyForm.loads (f : CopyForm) : Bool :=
  match f with
  | .xld | .xldT | .xldn | .xldf => true
  | _ => false

/-! Neighbours (R2, R180). -/

/-- The mesh neighbour of a core (R2, R180). -/
def neighbour (n : Nat) (dir : Nat) : Option Nat :=
  let x := n % 8
  let y := n / 8 % 4
  match dir with
  | 0 => if y = 0 then none else some (n - 8)
  | 1 => if y = 3 then none else some (n + 8)
  | 2 => if x = 7 then none else some (n + 1)
  | _ => if x = 0 then none else some (n - 1)

def CopyOp.neighbour (k : CopyOp) (n : Nat) : Option Nat := Machine.neighbour n (fld k.cd 64 2).toNat

/-- The status of a copy's arrival: that of its elements, each tested as it lands; a neighbour copy with no element in the tensor is tested when it posts (R180). -/
def State.copyStatus (s : State) (n : Nat) (k : CopyOp) : BitVec 8 :=
  if (k.form = .xldn ∨ k.form = .xstn) ∧ !((List.range (cdCount k.cd)).any (fun i => cdIn k.cd k.o0 k.o1 i)) then
    match k.neighbour n with
    | some nb => if (s.core nb).ctx ≠ (s.core n).ctx then 5 else k.status
    | none => k.status
  else k.status

/-! The effect of an issue in the next cycle. -/

/-- Clear chunk bits. -/
def clearChunks (v : BitVec 4096) : List (Nat × Nat) → BitVec 4096
  | [] => v
  | (b, _) :: rest => clearChunks (v &&& ~~~((1#4096) <<< b)) rest

/-- Turn a reserved place into a posted one (R184). -/
def postPlace (l : List Place) (id : Nat) (bytes : Nat) (st : BitVec 8) : List Place :=
  l.map (fun p => if p = .reserved id then .posted (BitVec.ofNat 40 bytes) st else p)

/-- A copy takes effect: the bits of its chunks clear, a tagged load copy writes its tag and range, and a copy of no element posts its arrival and ends (R49, R82, R179, R183). -/
def Core.beginCopy (c : Core) (k : CopyOp) : Core :=
  let m := cdCm k.cd
  let c1 := c.setMap m (clearChunks (c.map m) k.chunks)
  if cdTgen k.cd && k.form.loads then
    c1.setTag m { c1.tag m with arrived := cdTag k.cd, first := k.range.1, count := k.range.2 }
  else c1

/-- Whether a copy of no element still has an arrival to bring to its neighbour (R179, R180). -/
def CopyOp.owes (k : CopyOp) : Bool := k.form == .xstn && bitAt k.cd 78

/-- Every copy whose issue has not taken effect does so; `st` gives the status of an arrival. -/
def Core.beginCopies (st : CopyOp → BitVec 8) (c : Core) : Core :=
  let fresh := c.copies.filter (fun k => !k.begun)
  let c1 := fresh.foldl Core.beginCopy c
  let c2 := (fresh.filter (fun k => cdCount k.cd = 0)).foldl
    (fun c k => c.setPosts (cdCm k.cd) (postPlace (c.posts (cdCm k.cd)) k.id 0 (st k))) c1
  let on : List CopyOp := c2.copies.map (fun k => { k with begun := true, posted := k.posted || cdCount k.cd == 0 })
  { c2 with copies := on.filter (fun k => !k.posted || k.owes) }

/-- An agent at the end of a cycle: the copies that it has issued begin (R82). -/
def State.begun (s : State) (m : Mover) : Core :=
  match m with
  | .core n => (s.core n).beginCopies (s.copyStatus n)
  | .cp _ => s.agent m

end Sys2Proof.Machine
end

