-- ==== Sys2Proof/Machine/Walk.lean ====
section
/-! DEFINITION. The physical space and address translation (R357 to R365). -/

namespace Sys2Proof.Machine

/-! The physical space (R357). -/

def semBase : Nat := 0x000E000000000000
def tableBase : Nat := 0x000E000100000000
def winStart : Nat := 0x000F000000000000
def hostBase : Nat := 0x0008000000000000

def isHbm (a : Nat) : Bool := decide (a < 0x10000000000)
def isHost (a : Nat) : Bool := decide (hostBase ≤ a) && decide (a < 0x000C000000000000)
def isSem (a : Nat) : Bool := decide (semBase ≤ a) && decide (a < semBase + 0x2000)
def isTable (a : Nat) : Bool := decide (tableBase ≤ a) && decide (a < tableBase + 64 * 4096)
def isWin (a : Nat) : Bool := decide (winStart ≤ a) && decide (a < winStart + 4096 * 0x1000000)

/-- A reserved physical address (R357). -/
def reservedPhys (a : Nat) : Bool := !(isHbm a || isHost a || isSem a || isTable a || isWin a)

/-- A reserved offset of a core window (R227). -/
def reservedOff (o : Nat) : Bool :=
  !(decide (o < 0x200000) || (decide (0x400000 ≤ o) && decide (o < 0x4C0000))
    || (decide (0x800000 ≤ o) && decide (o < 0xC00000)))

/-! Page-table entries (R359). -/

def leafKind (e : W64) : Nat := (fld e 62 2).toNat
def leafTwin (e : W64) : Bool := bitAt e 61
def leafProt (e : W64) : Bool := bitAt e 60
def leafC (e : W64) : Bool := bitAt e 59
def leafU (e : W64) : Bool := bitAt e 58
def leafW (e : W64) : Bool := bitAt e 57
def leafX (e : W64) : Bool := bitAt e 56
def leafA (e : W64) : Bool := bitAt e 55
def leafD (e : W64) : Bool := bitAt e 54
def leafFrame (e : W64) : Nat := (fld e 14 38).toNat * 16384

/-- An entry that translates as invalid: V = 0 or malformed (R359), at a level whose page has `size` bytes. -/
def badEntry (e : W64) (level size : Nat) : Bool :=
  !(bitAt e 0) || fld e 52 2 != 0 || fld e 2 12 != 0 || leafKind e == 3
    || (bitAt e 1 && (level == 0 || leafFrame e % size != 0))
    || (!(bitAt e 1) && (level == 3 || fld e 54 10 != 0))
    || reservedPhys (leafFrame e)

/-- The result of a walk: a miss, a poisoned entry (R373), or the leaf with its place and its page's size. -/
inductive Walk where
  | miss
  | bad (a : Nat)
  | leaf (a : Nat) (e : W64) (size : Nat)
  deriving DecidableEq, Repr

/-- The four levels: the shift of the index and its bits (R358). -/
def walkLevels : List (Nat × Nat) := [(47, 5), (36, 11), (25, 11), (14, 11)]

/-- Walk from a table on (R358). -/
def State.walk (s : State) (va : Nat) : List (Nat × Nat) → Nat → Nat → Walk
  | [], _, _ => .miss
  | (sh, bits) :: rest, level, table =>
    let a := table + 8 * (va / 2 ^ sh % 2 ^ bits)
    let e : W64 := BitVec.ofNat 64 (s.rdNatC a 8)
    if s.pzC a 8 then .bad a
    else if badEntry e level (2 ^ sh) then .miss
    else if bitAt e 1 then .leaf a e (2 ^ sh)
    else State.walk s va rest (level + 1) (leafFrame e)

/-! Translation. -/

/-- What a page gives an access: the visible backing's address and the one that asynchronous engines write (R253), and the page's kind. -/
structure Trans where
  pa : Nat
  hid : Nat
  so : Bool
  uo : Bool
  cache : Bool
  twin : Bool
  deriving DecidableEq, Repr

/-- The outcome of a translation: with the state after its A and D updates, a miss, a permission failure, a poisoned entry, or a hold that delays it (R364). -/
inductive Xlat where
  | ok (s : State) (t : Trans)
  | miss
  | prot
  | bad (a : Nat)
  | held

/-- The registered pair of a frame (R365). -/
def State.twinOf (s : State) (frame size : Nat) : Option Twin :=
  s.twins.find? (fun t => t.lower = frame ∧ t.size = size)

/-- Whether the TWIN bit agrees with the registration (R360, R365). -/
def State.twinAgrees (s : State) (e : W64) (size : Nat) : Bool :=
  let f := leafFrame e
  if leafTwin e then (s.twinOf f size).isSome
  else s.twins.all (fun t => decide (f + size ≤ t.lower) || decide (t.lower + 2 * t.size ≤ f))

/-- Whether context `x` may reach `n` bytes at a physical address: none is reserved, and none lies in the code-table window of another context (R357, R360). -/
def bytesAllowed (x pa n : Nat) : Bool :=
  (List.range n).all (fun i => !reservedPhys (pa + i) && (!isTable (pa + i) || decide ((pa + i - tableBase) / 4096 = x)))

/-- Whether a leaf permits an access of `n` bytes at physical address `pa` by context `x` (R360). -/
def State.permits (s : State) (x : Nat) (e : W64) (size pa n : Nat) (wr fetch : Bool) : Bool :=
  leafU e && (!wr || leafW e) && (!fetch || leafX e)
    && (!(isWin (leafFrame e) || isSem (leafFrame e)) || !leafC e)
    && s.twinAgrees e size && bytesAllowed x pa n

/-- What a leaf translates to. -/
def State.transOf (s : State) (e : W64) (size va : Nat) : Trans :=
  let f := leafFrame e
  let o := va % size
  let up := if leafTwin e then (match s.twinOf f size with | some t => t.ts | none => false) else false
  { pa := if up then f + size + o else f + o
    hid := if leafTwin e && !up then f + size + o else f + o
    so := leafKind e == 1, uo := leafKind e == 2, cache := leafC e, twin := leafTwin e }

/-- Set A, and D for a write, in the entry (R362). -/
def State.markLeaf (s : State) (a : Nat) (e : W64) (wr : Bool) : State × W64 :=
  let e' := e ||| (1#64 <<< 55) ||| (if wr then 1#64 <<< 54 else 0)
  (if e' = e then s else s.wrC a (natLe 8 e'.toNat) false, e')

/-- A hold of TLB_HOLD covers the bytes (R364). -/
def State.heldRange (s : State) (x va n : Nat) : Bool :=
  s.tlbHolds.any (fun h => h.1 = x && decide (h.2.1 < va + n) && decide (va < h.2.1 + h.2.2))

/-- The translation cache of a core; other accessors have none. -/
def State.tlbOf (s : State) (c : Option Nat) : List TlbEntry :=
  match c with
  | some n => (s.core n).tlb
  | none => []

/-- Keep a leaf in a core's translation cache. -/
def State.fillTlb (s : State) (c : Option Nat) (t : TlbEntry) : State :=
  match c with
  | some n => s.modCore n (fun r => { r with tlb := t :: r.tlb.filter (fun x => x.va ≠ t.va) })
  | none => s

/-- Translate `n` bytes that lie in one 16 KiB page (R358 to R362). `c` names the core whose translation cache serves the access. -/
def State.translate (s : State) (x : Nat) (c : Option Nat) (va n : Nat) (wr fetch : Bool) : Xlat :=
  match s.context x with
  | none => .miss
  | some cx =>
    if s.heldRange x va n then .held
    else
      match (s.tlbOf c).find? (fun t => decide (t.va ≤ va) && decide (va < t.va + t.size) && (!wr || leafD t.leaf)) with
      | some t =>
        let tr := s.transOf t.leaf t.size va
        if s.permits x t.leaf t.size tr.pa n wr fetch then .ok s tr else .prot
      | none =>
        match s.walk va walkLevels 0 cx.ptbr with
        | .miss => .miss
        | .bad a => .bad a
        | .leaf a e size =>
          let tr := s.transOf e size va
          if s.permits x e size tr.pa n wr fetch then
            let (s1, e') := s.markLeaf a e wr
            .ok (s1.fillTlb c ⟨va - va % size, size, e'⟩) tr
          else .prot

/-- The words of a line of a command image, read through its context's translations (R319, R360); a line that no fetch may read gives zeros. -/
def State.cpLine (s : State) (x l : Nat) : List W32 :=
  let va := tget 0 s.cpBase x + 32 * l
  let bytes : List Byte :=
    match s.context x with
    | none => List.replicate 32 0
    | some cx =>
      match s.walk va walkLevels 0 cx.ptbr with
      | .leaf _ e size =>
        let t := s.transOf e size va
        if decide (va < 2 ^ 52) && s.permits x e size t.pa 32 false true then (s.rdC t.pa 32).map (·.1) else List.replicate 32 0
      | _ => List.replicate 32 0
  wordsOf bytes

end Sys2Proof.Machine
end

