-- ==== Sys2Proof/Machine/Fetch.lean ====
section
/-! DEFINITION. Lines and their groups (R53 to R56), fetch (R57, R58, R208 to R210), step words (R64, R101, R155, R169) and which group an engine issues next (R206). -/

namespace Sys2Proof.Machine

/-! Lines. -/

/-- The engine of an instruction nibble (R54). -/
def laneEngine (n : Nat) : Option Engine :=
  match n with
  | 1 => some .s
  | 2 => some .l
  | 3 => some .x
  | 4 => some .w
  | _ => none

/-- The space in which the words of an engine are read. -/
def spaceOf (cp : Bool) (e : Engine) : Space := if cp then .cp else e.space

/-- A group under construction while a line is read: its engine, lane, word, extension words and modifier. -/
structure Building where
  e : Engine
  lane : Nat
  word : W32
  exts : List W32
  md : ModWord
  deriving DecidableEq, Repr

/-- How many words of class 0x5 the group may hold: the required extensions and one step word (R55). -/
def Building.need (b : Building) (cp : Bool) : Nat := extCount (spaceOf cp b.e) b.word

/-- Close a group: fewer extension words than required makes the line illegal at the instruction's own nibble (R56). -/
def Building.close (b : Building) (cp : Bool) (line : Nat) : Except Nat (Engine × Group) :=
  let n := b.need cp
  if b.exts.length < n then .error b.lane
  else .ok (b.e, ⟨line, b.lane, ⟨b.word, if n = 1 then b.exts.head? else none, b.exts[n]?, b.md⟩⟩)

/-- Read lanes 1 to 7 of a line: the groups in ascending lane order, or the position of the first illegal nibble (R54 to R56). `open_` is the group that may still take words. -/
def parseLanes (cp : Bool) (line header : Nat) : List W32 → Nat → Option Building → Except Nat (List (Engine × Group))
  | [], _, none => .ok []
  | [], _, some b =>
    match b.close cp line with
    | .error p => .error p
    | .ok g => .ok [g]
  | w :: rest, lane, b =>
    let nib := header / 16 ^ lane % 16
    if nib = 5 then
      match b with
      | none => .error lane
      | some g =>
        if g.md.isSome ∨ g.exts.length ≥ g.need cp + 1 then
          (if g.exts.length < g.need cp then .error g.lane else .error lane)
        else parseLanes cp line header rest (lane + 1) (some { g with exts := g.exts ++ [w] })
    else if nib = 6 ∧ !cp then
      match b with
      | none => .error lane
      | some g =>
        if g.exts.length < g.need cp then .error g.lane
        else if g.e ≠ .x ∨ g.md.isSome then .error lane
        else parseLanes cp line header rest (lane + 1) (some { g with md := some w })
    else
      -- the open group ends here
      match (match b with
        | none => Except.ok []
        | some g =>
          match g.close cp line with
          | .error p => .error p
          | .ok x => .ok [x]) with
      | .error p => .error p
      | .ok done =>
        if nib = 0 then
          match parseLanes cp line header rest (lane + 1) none with
          | .error p => .error p
          | .ok more => .ok (done ++ more)
        else
          match laneEngine nib with
          | none => .error lane
          | some e =>
            if cp ∧ e ≠ .s then .error lane
            else
              match parseLanes cp line header rest (lane + 1) (some ⟨e, lane, w, [], none⟩) with
              | .error p => .error p
              | .ok more => .ok (done ++ more)

/-- The lowest failing position of a line decides (R56): a lower reserved nibble or header failure comes before a later one. -/
def parseLine (cp : Bool) (line : Nat) (words : List W32) : Except Nat (List (Engine × Group)) :=
  match words with
  | [] => .error 0
  | h :: rest => if h.toNat % 16 ≠ 0xA then .error 0 else parseLanes cp line h.toNat rest 1 none

/-- The eight words of a line of the agent's active plane; a command stream reads its image through the context's map (R319), which `cpLine` supplies. -/
def Core.lineWords (c : Core) (n : Nat) : List W32 :=
  (List.range 8).map (fun j => tget 0 (if c.active then c.plane1 else c.plane0) (8 * n + j))

/-- Whether an S word is a control transfer by its codes (R100, R209). -/
def isTransfer (w : W32) : Bool :=
  let op := (fld w 26 6).toNat
  let fn := (fld w 0 8).toNat
  op = 0x20 || op = 0x21 || op = 0x22 || (op = 0x23 && fn ≤ 2) || (op = 0x1A && fn ≤ 2)

/-- Whether fetch waits on an S control transfer that is delivered and neither issued nor discarded (R209). -/
def Core.fetchBlocked (c : Core) : Bool := c.es.queue.any (fun g => isTransfer g.code.word)

/-- The number of words of a group (R208). -/
def Group.words (g : Group) : Nat :=
  1 + (if g.code.ext.isSome then 1 else 0) + (if g.code.st.isSome then 1 else 0)
    + (if g.code.md.isSome then 1 else 0)

/-- What becomes of a line when fetch reaches it. -/
inductive LineRead where
  | groups (gs : List (Engine × Group))
  | illegal (pos : Nat)
  deriving DecidableEq, Repr

/-- Parse a line of an agent. -/
def readLine (cp : Bool) (words : List W32) (n : Nat) : LineRead :=
  match parseLine cp n words with
  | .ok gs => .groups gs
  | .error p => .illegal p

/-- The words of a sequencer before its next unissued delivered group in that group's line, but for those of captured groups (R208). -/
def Seq.passedWords (cp : Bool) (words : Nat → List W32) (q : Seq) (e : Engine) : Nat :=
  match q.queue.head? with
  | none => 0
  | some g =>
    match readLine cp (words g.line) g.line with
    | .illegal _ => 0
    | .groups gs => ((gs.filter (fun x => x.1 = e && decide (x.2.lane < g.lane) && !(q.lbuf.any (fun y => y.line = x.2.line && y.lane = x.2.lane)))).map
        (fun x => x.2.words)).sum

/-- Whether a line whose groups are `gs` is readable for a sequencer (R208): the sequencer's words from the line of its next unissued delivered group up to this line, without those captured, are at most 16. -/
def readableFor (cp : Bool) (words : Nat → List W32) (q : Seq) (e : Engine) (gs : List (Engine × Group)) : Bool :=
  let mine := gs.filter (fun x => x.1 = e)
  mine.isEmpty
    || decide (q.passedWords cp words e + (q.queue.map Group.words).sum + (mine.map (fun x => x.2.words)).sum ≤ 16)

/-- Deliver the groups of a line to their queues; in handler mode only S groups are delivered (R288), and a sequencer that resumes takes groups from its position on (R290). -/
def Core.deliver (c : Core) (gs : List (Engine × Group)) : Core :=
  gs.foldl (fun c x =>
    let e := x.1
    let q := c.seqOf e
    if c.mode = .handler ∧ e ≠ .s then c
    else if q.ended then c
    else if x.2.line < q.fromLine ∨ (x.2.line = q.fromLine ∧ x.2.lane < q.fromLane) then c
    else c.setSeq e ({ q with queue := q.queue ++ [x.2] }.skip 64)) c

/-- Whether fetch may read its next line for every sequencer that has a word in it (R208, R209). -/
def Core.canRead (c : Core) (cp : Bool) (words : Nat → List W32) (gs : List (Engine × Group)) : Bool :=
  (c.mode = .handler || (readableFor cp words c.el .l gs && readableFor cp words c.ex .x gs && readableFor cp words c.ew .w gs))
    && readableFor cp words c.es .s gs

/-- Read one line if fetch may (R57, R208, R209): `none` when fetch may not go on. -/
def Core.fetchOne (c : Core) (cp : Bool) (words : Nat → List W32) : Option Core :=
  if c.fetch.stopped ∨ c.fetch.illegal.isSome ∨ c.fetch.pastEnd ∨ c.fetchBlocked ∨ c.now < c.fetch.ready then none
  else if 2048 ≤ c.fetch.next then some { c with fetch := { c.fetch with pastEnd := true } }
  else
    match readLine cp (words c.fetch.next) c.fetch.next with
    | .illegal p => some { c with fetch := { c.fetch with illegal := some (c.fetch.next, p) } }
    | .groups gs =>
      if c.canRead cp words gs then some { c.deliver gs with fetch := { c.fetch with next := c.fetch.next + 1 } }
      else none

/-- Whether a sequencer's next group is at hand (R206). -/
def Core.hasGroup (c : Core) (e : Engine) : Bool := (c.seqOf e).nextGroup.isSome

/-- Whether a sequencer's issue occupancy has elapsed and it is neither parked, ended nor out of its body's groups (R206). In handler mode only S issues (R288). -/
def Core.free (c : Core) (e : Engine) : Bool :=
  let q := c.seqOf e
  decide (q.free ≤ c.now) && !q.parked && !q.ended
    && (match c.mode with | .user => true | .handler => e == .s | _ => false)

/-- What lies ahead of a sequencer in the lines that fetch reads before it waits on a transfer (R206): a group of it, nothing, or an illegal line. -/
inductive Ahead where
  | group (line lane : Nat)
  | nothing
  | illegal (line : Nat)
  deriving DecidableEq, Repr

/-- Scan the horizon of R206 from line `n`, with fuel. -/
def ahead (cp : Bool) (words : Nat → List W32) (e : Engine) : Nat → Nat → Ahead
  | 0, _ => .nothing
  | k + 1, n =>
    if 2048 ≤ n then .nothing
    else
      match readLine cp (words n) n with
      | .illegal _ => .illegal n
      | .groups gs =>
        match gs.find? (fun x => x.1 = e) with
        | some x => .group n x.2.lane
        | none =>
        if gs.any (fun x => x.1 = .s && isTransfer x.2.code.word) then .nothing
        else ahead cp words e k (n + 1)

/-- The horizon of a sequencer that has no delivered group (R206, R207). -/
def Core.aheadOf (c : Core) (cp : Bool) (words : Nat → List W32) (e : Engine) : Ahead :=
  if c.fetch.stopped ∨ c.fetch.pastEnd ∨ c.fetchBlocked then .nothing
  else
    match c.fetch.illegal with
    | some (l, _) => .illegal l
    | none => ahead cp words e 2048 c.fetch.next

/-- Whether a group of a sequencer lies ahead that fetch can reach. -/
def Core.groupAhead (c : Core) (cp : Bool) (words : Nat → List W32) (e : Engine) : Bool :=
  match c.aheadOf cp words e with
  | .group _ _ => true
  | _ => false

/-- Fetch lines while an engine that is due has no group and a line may be read (R57): for S to the end of what it can reach, for another engine only if a group of it lies there; `n` bounds the lines. -/
def Core.fetchFor (c : Core) (cp : Bool) (words : Nat → List W32) (e : Engine) : Nat → Core
  | 0 => c
  | n + 1 =>
    if c.free e && !c.hasGroup e && (e == .s || c.groupAhead cp words e) then
      match c.fetchOne cp words with
      | some c' => Core.fetchFor c' cp words e n
      | none => c
    else c

/-- Whether the next group of a sequencer that is due lies in a line that may come late (R57). -/
def Core.mayLate (c : Core) (e : Engine) : Bool :=
  c.free e &&
  (match (c.seqOf e).nextGroup with
   | some g => decide (c.fetch.seen ≤ g.line) && (c.seqOf e).queue.any (fun x => x.line = g.line && x.lane = g.lane)
   | none => false)

/-- The position of a sequencer (R286): its next group, the first that lies ahead of it, lane 1 of the illegal line it has reached (R56), or, idle or ended, the place after its last group (assumption 5). -/
def Core.nextPos (c : Core) (cp : Bool) (words : Nat → List W32) (e : Engine) : Nat × Nat :=
  let q := c.seqOf e
  if q.nextGroup.isSome ∨ q.ended then q.pos
  else
    match c.aheadOf cp words e with
    | .group l p => (l, p)
    | .illegal l => (l, 1)
    | .nothing => q.pos

/-- The words of a line for an agent: a core reads its active plane, a command stream its image (R319, R320). -/
def State.wordsOf (s : State) (m : Mover) : Nat → List W32 :=
  match m with
  | .core n => (s.core n).lineWords
  | .cp x => s.cpLine x

/-! Step words. -/

/-- KSTEP, SSTEP and the address step of a step word (R64). -/
def kstep (w : W32) : Int := (fld w 0 8).toInt
def sstep (w : W32) : Int := (fld w 8 5).toInt
def astep (w : W32) : Int := (fld w 16 16).toInt * 2 ^ (fld w 13 3).toNat

/-- Step a field on pass `p` modulo its range. -/
def stepField {n : Nat} (f : BitVec n) (p : Nat) (k : Int) : BitVec n := BitVec.ofInt n (f.toNat + p * k)

/-- The address step of an instruction that issues inside a loop body on the present pass (R64, R101); 0 outside a loop. -/
def Core.addrStep (c : Core) (e : Engine) (st : StepWord) : Int :=
  match st with
  | none => 0
  | some w => if (c.seqOf e).inLoop then (c.seqOf e).passNo * astep w else 0

/-- Which steps a word may take: KSTEP, SSTEP, address step. -/
def stepAllowed (w : W32) (k s a : Bool) : Bool :=
  (k || kstep w == 0) && (s || sstep w == 0) && (a || astep w == 0)

/-- Step an S word's scalar fields (R101); a word without one takes no step. -/
def stepReg (f : SReg) (w : W32) (p : Nat) (d a b : Bool) : Option SReg :=
  if stepAllowed w (d || a || b) false false then
    some { f with
      sd := if d then stepField f.sd p (kstep w) else f.sd
      sa := if a then stepField f.sa p (kstep w) else f.sa
      sb := if b then stepField f.sb p (kstep w) else f.sb }
  else none

def stepImm (f : SImm) (w : W32) (p : Nat) (d a : Bool) : Option SImm :=
  if stepAllowed w (d || a) false false then
    some { f with
      sd := if d then stepField f.sd p (kstep w) else f.sd
      sa := if a then stepField f.sa p (kstep w) else f.sa }
  else none

/-- Step the scalar fields of the command processor's words (R64, R101, R321). -/
def stepSem (f : SemWord) (w : W32) (p : Nat) (d a : Bool) : Option SemWord :=
  if stepAllowed w (d || a) false false then
    some { f with
      sd := if d then stepField f.sd p (kstep w) else f.sd
      sa := if a then stepField f.sa p (kstep w) else f.sa }
  else none

def stepQue (f : QueWord) (w : W32) (p : Nat) (d a : Bool) : Option QueWord :=
  if stepAllowed w (d || a) false false then
    some { f with
      sd := if d then stepField f.sd p (kstep w) else f.sd
      sa := if a then stepField f.sa p (kstep w) else f.sa }
  else none

/-- Step a vector word: `d` when dreg and slice name a matrix slice (R64). -/
def stepVec (f : XVec) (w : W32) (p : Nat) (d : Bool) : Option XVec :=
  if stepAllowed w d d false then
    some (if d then { f with dreg := stepField f.dreg p (kstep w), slice := stepField f.slice p (sstep w) } else f)
  else none

/-- Step a matrix word's tile (R64, R155); `a` when the address step is allowed. -/
def stepMat (f : XMat) (w : W32) (p : Nat) (t a : Bool) : Option XMat :=
  if stepAllowed w t false a then
    some (if t then { f with tile := stepField f.tile p (kstep w) } else f)
  else none

/-- Step the register of VRD and SPRD (R169). -/
def stepSliceQ (f : SliceQ) (w : W32) (p : Nat) : Option SliceQ :=
  if stepAllowed w true true false then
    some { f with reg := stepField f.reg p (kstep w), slice := stepField f.slice p (sstep w) }
  else none

/-- Step the register of MST and SPWR (R169). -/
def stepMst (f : MstWord) (w : W32) (p : Nat) : Option MstWord :=
  if stepAllowed w true true true then
    some { f with reg := stepField f.reg p (kstep w), slice := stepField f.slice p (sstep w) }
  else none

/-- Step an L or W memory word: `a` when the address step applies (R169). -/
def stepLw (f : LWord) (w : W32) (a : Bool) : Option LWord :=
  if stepAllowed w false false a then some f else none

/-- Step the register of MLD, which stands in bits [13:6] (R168, R169). -/
def stepMld (f : LWord) (w : W32) (p : Nat) : Option LWord :=
  if stepAllowed w true false true then
    some { f with off := stepField (fld f.off 6 8) p (kstep w) ++ fld f.off 0 6 }
  else none

/-- A word with no stepped field. -/
def stepNone (i : Instr) (w : W32) : Option Instr :=
  if stepAllowed w false false false then some i else none

/-- Whether the address step of a multiply is allowed (R155). -/
def matAddr (f : XMat) : Bool := bitAt f.flags 3 || bitAt f.flags 2

/-- The fields of an instruction on pass `p` of the loop that holds it, under its step word `sw` (R64, R101, R155, R160, R161, R169); `none` for a nonzero step of a field that it does not have. -/
def stepInstr (p : Nat) (sw : W32) (i : Instr) : Option Instr :=
  match i with
  | .add f => (stepReg f sw p true true true).map (fun x => .add x)
  | .sub f => (stepReg f sw p true true true).map (fun x => .sub x)
  | .mul f => (stepReg f sw p true true true).map (fun x => .mul x)
  | .mulh f => (stepReg f sw p true true true).map (fun x => .mulh x)
  | .mulhu f => (stepReg f sw p true true true).map (fun x => .mulhu x)
  | .div f => (stepReg f sw p true true true).map (fun x => .div x)
  | .divu f => (stepReg f sw p true true true).map (fun x => .divu x)
  | .rem f => (stepReg f sw p true true true).map (fun x => .rem x)
  | .remu f => (stepReg f sw p true true true).map (fun x => .remu x)
  | .min f => (stepReg f sw p true true true).map (fun x => .min x)
  | .max f => (stepReg f sw p true true true).map (fun x => .max x)
  | .minu f => (stepReg f sw p true true true).map (fun x => .minu x)
  | .maxu f => (stepReg f sw p true true true).map (fun x => .maxu x)
  | .and f => (stepReg f sw p true true true).map (fun x => .and x)
  | .or f => (stepReg f sw p true true true).map (fun x => .or x)
  | .xor f => (stepReg f sw p true true true).map (fun x => .xor x)
  | .andn f => (stepReg f sw p true true true).map (fun x => .andn x)
  | .shl f => (stepReg f sw p true true true).map (fun x => .shl x)
  | .shr f => (stepReg f sw p true true true).map (fun x => .shr x)
  | .sra f => (stepReg f sw p true true true).map (fun x => .sra x)
  | .clz f => (stepReg f sw p true true false).map (fun x => .clz x)
  | .ctz f => (stepReg f sw p true true false).map (fun x => .ctz x)
  | .popc f => (stepReg f sw p true true false).map (fun x => .popc x)
  | .sext f => (stepReg f sw p true true false).map (fun x => .sext x)
  | .zext f => (stepReg f sw p true true false).map (fun x => .zext x)
  | .bext f => (stepReg f sw p true true true).map (fun x => .bext x)
  | .bins f => (stepReg f sw p true true true).map (fun x => .bins x)
  | .mov f => (stepReg f sw p true true false).map (fun x => .mov x)
  | .sel f => (stepReg f sw p true true true).map (fun x => .sel x)
  | .cmp cc f => (stepReg f sw p false true true).map (fun x => .cmp cc x)
  | .addi f => (stepImm f sw p true true).map (fun x => .addi x)
  | .andi f => (stepImm f sw p true true).map (fun x => .andi x)
  | .ori f => (stepImm f sw p true true).map (fun x => .ori x)
  | .xori f => (stepImm f sw p true true).map (fun x => .xori x)
  | .shli f => (stepImm f sw p true true).map (fun x => .shli x)
  | .shri f => (stepImm f sw p true true).map (fun x => .shri x)
  | .srai f => (stepImm f sw p true true).map (fun x => .srai x)
  | .li f ext => (stepImm f sw p true false).map (fun x => .li x ext)
  | .lih f ext => (stepImm f sw p true false).map (fun x => .lih x ext)
  | .cmpiLo f => (stepImm f sw p false true).map (fun x => .cmpiLo x)
  | .cmpiHi f => (stepImm f sw p false true).map (fun x => .cmpiHi x)
  | .ld w f => (stepImm f sw p true true).map (fun x => .ld w x)
  | .st w f => (stepImm f sw p true true).map (fun x => .st w x)
  | .ldSpec w f => (stepImm f sw p true true).map (fun x => .ldSpec w x)
  | .lda d f => (stepReg f sw p true true false).map (fun x => .lda d x)
  | .stl d f => (stepReg f sw p true true false).map (fun x => .stl d x)
  | .cas d f => (stepReg f sw p true true true).map (fun x => .cas d x)
  | .amo d op f => (stepReg f sw p true true true).map (fun x => .amo d op x)
  | .fence kind scope f => (stepReg f sw p false false false).map (fun x => .fence kind scope x)
  | .pfen f => (stepReg f sw p false false false).map (fun x => .pfen x)
  | .probe f => (stepReg f sw p false true true).map (fun x => .probe x)
  | .unpin f => (stepReg f sw p false true true).map (fun x => .unpin x)
  | .trap f => (stepReg f sw p false false false).map (fun x => .trap x)
  | .uhret f => (stepReg f sw p false false false).map (fun x => .uhret x)
  | .decline f => (stepReg f sw p false false false).map (fun x => .decline x)
  | .clkdiv f => (stepReg f sw p false true false).map (fun x => .clkdiv x)
  | .chk f => (stepReg f sw p false false false).map (fun x => .chk x)
  | .yield f => (stepReg f sw p false false false).map (fun x => .yield x)
  | .npost f => (stepReg f sw p false true true).map (fun x => .npost x)
  | .lpost f => (stepReg f sw p true true true).map (fun x => .lpost x)
  | .tkset f => (stepReg f sw p false true false).map (fun x => .tkset x)
  | .tkrd f => (stepReg f sw p true false false).map (fun x => .tkrd x)
  | .sysrd f => (stepImm f sw p true false).map (fun x => .sysrd x)
  | .syswr f => (stepImm f sw p false true).map (fun x => .syswr x)
  | .br _ => stepNone i sw
  | .call _ => stepNone i sw
  | .jmpi _ => stepNone i sw
  | .jmp f => (stepReg f sw p false true false).map (fun x => .jmp x)
  | .ret f => (stepReg f sw p false true false).map (fun x => .ret x)
  | .halt f => (stepReg f sw p false false false).map (fun x => .halt x)
  | .barv f => (stepImm f sw p true false).map (fun x => .barv x)
  | .barw f => (stepImm f sw p true true).map (fun x => .barw x)
  | .barred f => (stepImm f sw p true true).map (fun x => .barred x)
  | .plog op f => (stepReg f sw p false false false).map (fun x => .plog op x)
  | .pset f => (stepReg f sw p false true true).map (fun x => .pset x)
  | .movpToScalar f => (stepReg f sw p true false false).map (fun x => .movpToScalar x)
  | .movpToPredicate f => (stepReg f sw p false true false).map (fun x => .movpToPredicate x)
  | .ecprot f => (stepReg f sw p true true true).map (fun x => .ecprot x)
  | .ecunprot f => (stepReg f sw p true true false).map (fun x => .ecunprot x)
  | .ecseal f => (stepReg f sw p true true true).map (fun x => .ecseal x)
  | .ecclose f => (stepReg f sw p true true false).map (fun x => .ecclose x)
  | .ecstat f => (stepReg f sw p true false false).map (fun x => .ecstat x)
  | .semwge f => (stepSem f sw p true true).map (fun x => .semwge x)
  | .semadd f => (stepSem f sw p true true).map (fun x => .semadd x)
  | .semset f => (stepSem f sw p false true).map (fun x => .semset x)
  | .qsub f => (stepQue f sw p true true).map (fun x => .qsub x)
  | .intr f => (stepQue f sw p false true).map (fun x => .intr x)
  | .loopImm _ _ => stepNone i sw
  | .loopReg _ _ => stepNone i sw
  | .sig _ _ => stepNone i sw
  | .wait _ _ => stepNone i sw
  | .nop _ _ => stepNone i sw
  | .pfenMark _ _ => stepNone i sw
  | .vrd f => (stepSliceQ f sw p).map (fun x => .vrd x)
  | .vld f => (stepLw f sw true).map (fun x => .vld x)
  | .gath f => (stepLw f sw true).map (fun x => .gath x)
  | .mldH f => (stepMld f sw p).map (fun x => .mldH x)
  | .mldV f => (stepMld f sw p).map (fun x => .mldV x)
  | .sprd f => (stepSliceQ f sw p).map (fun x => .sprd x)
  | .xld f => (stepLw f sw true).map (fun x => .xld x)
  | .xldT f => (stepLw f sw true).map (fun x => .xldT x)
  | .xldn f => (stepLw f sw true).map (fun x => .xldn x)
  | .xldf f => (stepLw f sw true).map (fun x => .xldf x)
  | .odset f => (stepLw f sw false).map (fun x => .odset x)
  | .cdset f => (stepLw f sw false).map (fun x => .cdset x)
  | .waitcChunk e f => (stepLw f sw false).map (fun x => .waitcChunk e x)
  | .waitcPosting e f => (stepLw f sw false).map (fun x => .waitcPosting e x)
  | .seqset f => (stepLw f sw false).map (fun x => .seqset x)
  | .mst f => (stepMst f sw p).map (fun x => .mst x)
  | .spwr f => (stepMst f sw p).map (fun x => .spwr x)
  | .scat f => (stepLw f sw true).map (fun x => .scat x)
  | .xst f => (stepLw f sw true).map (fun x => .xst x)
  | .xstn f => (stepLw f sw true).map (fun x => .xstn x)
  | .xstf f => (stepLw f sw true).map (fun x => .xstf x)
  | .stb f => (stepLw f sw true).map (fun x => .stb x)
  | .bclose f => (stepLw f sw false).map (fun x => .bclose x)
  | .pub f => (stepLw f sw false).map (fun x => .pub x)
  | .vadd f => (stepVec f sw p true).map (fun x => .vadd x)
  | .vsub f => (stepVec f sw p true).map (fun x => .vsub x)
  | .vmul f => (stepVec f sw p true).map (fun x => .vmul x)
  | .vfma f ext => (stepVec f sw p true).map (fun x => .vfma x ext)
  | .vfms f ext => (stepVec f sw p true).map (fun x => .vfms x ext)
  | .vfnma f ext => (stepVec f sw p true).map (fun x => .vfnma x ext)
  | .vmin f => (stepVec f sw p true).map (fun x => .vmin x)
  | .vmax f => (stepVec f sw p true).map (fun x => .vmax x)
  | .vminnum f => (stepVec f sw p true).map (fun x => .vminnum x)
  | .vmaxnum f => (stepVec f sw p true).map (fun x => .vmaxnum x)
  | .vrcp f => (stepVec f sw p true).map (fun x => .vrcp x)
  | .vrsq f => (stepVec f sw p true).map (fun x => .vrsq x)
  | .vsqrt f => (stepVec f sw p true).map (fun x => .vsqrt x)
  | .vexp2 f => (stepVec f sw p true).map (fun x => .vexp2 x)
  | .vlog2 f => (stepVec f sw p true).map (fun x => .vlog2 x)
  | .vcmp f => (stepVec f sw p false).map (fun x => .vcmp x)
  | .vclass f => (stepVec f sw p true).map (fun x => .vclass x)
  | .viadd f => (stepVec f sw p true).map (fun x => .viadd x)
  | .visub f => (stepVec f sw p true).map (fun x => .visub x)
  | .vimul f => (stepVec f sw p true).map (fun x => .vimul x)
  | .vimulh f => (stepVec f sw p true).map (fun x => .vimulh x)
  | .vimad f ext => (stepVec f sw p true).map (fun x => .vimad x ext)
  | .viaddw f => (stepVec f sw p true).map (fun x => .viaddw x)
  | .vimadw f ext => (stepVec f sw p true).map (fun x => .vimadw x ext)
  | .vand f => (stepVec f sw p true).map (fun x => .vand x)
  | .vor f => (stepVec f sw p true).map (fun x => .vor x)
  | .vxor f => (stepVec f sw p true).map (fun x => .vxor x)
  | .vshl f => (stepVec f sw p true).map (fun x => .vshl x)
  | .vshr f => (stepVec f sw p true).map (fun x => .vshr x)
  | .vsra f => (stepVec f sw p true).map (fun x => .vsra x)
  | .vimin f => (stepVec f sw p true).map (fun x => .vimin x)
  | .vimax f => (stepVec f sw p true).map (fun x => .vimax x)
  | .vclz f => (stepVec f sw p true).map (fun x => .vclz x)
  | .vpopc f => (stepVec f sw p true).map (fun x => .vpopc x)
  | .vcvt f ext => (stepVec f sw p true).map (fun x => .vcvt x ext)
  | .vqmx f ext => (stepVec f sw p true).map (fun x => .vqmx x ext)
  | .vdqmx f ext => (stepVec f sw p true).map (fun x => .vdqmx x ext)
  | .vscan f => (stepVec f sw p true).map (fun x => .vscan x)
  | .vscanWide f => (stepVec f sw p true).map (fun x => .vscanWide x)
  | .vred f => (stepVec f sw p true).map (fun x => .vred x)
  | .vperm f => (stepVec f sw p true).map (fun x => .vperm x)
  | .vrot f ext => (stepVec f sw p true).map (fun x => .vrot x ext)
  | .vbcast f ext => (stepVec f sw p true).map (fun x => .vbcast x ext)
  | .vsel f ext => (stepVec f sw p true).map (fun x => .vsel x ext)
  | .vext f ext => (stepVec f sw p false).map (fun x => .vext x ext)
  | .vins f ext => (stepVec f sw p true).map (fun x => .vins x ext)
  | .vmov f => (stepVec f sw p true).map (fun x => .vmov x)
  | .vlane f => (stepVec f sw p true).map (fun x => .vlane x)
  | .mma f => (stepMat f sw p true (matAddr f)).map (fun x => .mma x)
  | .mmac f => (stepMat f sw p true (matAddr f)).map (fun x => .mmac x)
  | .mmar f => (stepMat f sw p true (matAddr f)).map (fun x => .mmar x)
  | .mconv f => (stepMat f sw p true (matAddr f)).map (fun x => .mconv x)
  | .mshape f ext => (stepMat f sw p false false).map (fun x => .mshape x ext)
  | .accz f => (stepMat f sw p true false).map (fun x => .accz x)
  | .accrd f ext => (stepMat f sw p true false).map (fun x => .accrd x (fld ext 8 24 ++ stepField (fld ext 0 8) p (kstep sw)))
  | .accwr f ext => (stepMat f sw p true false).map (fun x => .accwr x (fld ext 8 24 ++ stepField (fld ext 0 8) p (kstep sw)))
  | .accarm f ext => (stepMat f sw p true false).map (fun x => .accarm x ext)
  | .mexc f => (stepMat f sw p false false).map (fun x => .mexc x)
  | _ => some i

/-- What an engine issues: the instruction of its next group, or the word that decodes to none. -/
inductive Due where
  | run (i : Instr)
  | illegal (w : W32)
  deriving DecidableEq, Repr

/-- Decode the next group of a sequencer, with its step word applied inside a loop body (R64, R73). -/
def decodeGroup (cp : Bool) (e : Engine) (q : Seq) (g : Group) : Due :=
  match decode (spaceOf cp e) g.code with
  | none => .illegal g.code.word
  | some i =>
    match g.code.st with
    | none => .run i
    | some w =>
      if q.inLoop then
        match stepInstr q.passNo w i with
        | some j => .run j
        | none => .illegal g.code.word
      else .run i

end Sys2Proof.Machine
end

