-- ==== Sys2Proof/Machine/Flags.lean ====
section
/-! DEFINITION. Flag computations: the scalar conditions (R76, R93) and the sticky floating-point flags (R30). -/

namespace Sys2Proof.Machine

/-- Whether condition code `cc` holds between two 64-bit values (R76, R93). -/
def condHolds (cc : BitVec 3) (a b : W64) : Bool :=
  match cc.toNat with
  | 0 => a == b
  | 1 => a != b
  | 2 => a.slt b
  | 3 => !(a.slt b)
  | 4 => a.ult b
  | 5 => !(a.ult b)
  | 6 => b.slt a
  | _ => !(b.slt a)

/-- A predicate of all ones or all zeros (R93). -/
def condMask (x : Bool) : W32 := if x then 0xFFFFFFFF else 0

/-- The sticky flags of R30 that one operation raises. -/
structure FpFlags where
  iv : Bool
  dz : Bool
  of_ : Bool
  uf : Bool
  ix : Bool
  nf : Bool
  deriving DecidableEq, Repr

def FpFlags.none : FpFlags := ⟨false, false, false, false, false, false⟩

def FpFlags.or (a b : FpFlags) : FpFlags :=
  ⟨a.iv || b.iv, a.dz || b.dz, a.of_ || b.of_, a.uf || b.uf, a.ix || b.ix, a.nf || b.nf⟩

/-- The bits of %fpflags (R30). -/
def FpFlags.word (f : FpFlags) : W32 :=
  BitVec.ofNat 32
    ((if f.iv then 1 else 0) + (if f.dz then 2 else 0) + (if f.of_ then 4 else 0)
      + (if f.uf then 8 else 0) + (if f.ix then 16 else 0) + (if f.nf then 32 else 0))

end Sys2Proof.Machine
end

