-- ==== Sys2Proof/Machine/Fp.lean ====
section
/-! DEFINITION. Number formats and exact arithmetic (R12 to R35): values are exact dyadic numbers, and every operation rounds in one place. -/

namespace Sys2Proof.Machine

/-- The floating-point formats of R13 but for E8M0. -/
inductive Fmt where
  | f32 | bf16 | f16 | e4m3 | e5m2 | e2m1
  deriving DecidableEq, Repr

/-- Rounding modes (R20). -/
inductive Rm where
  | rne | rtz | rdn | rup | sr
  deriving DecidableEq, Repr

/-- Width in bits, mantissa bits, bias (R13). -/
def Fmt.width : Fmt → Nat
  | .f32 => 32
  | .bf16 => 16
  | .f16 => 16
  | .e4m3 => 8
  | .e5m2 => 8
  | .e2m1 => 4
def Fmt.mb : Fmt → Nat
  | .f32 => 23
  | .bf16 => 7
  | .f16 => 10
  | .e4m3 => 3
  | .e5m2 => 2
  | .e2m1 => 1
def Fmt.bias : Fmt → Int
  | .f32 => 127
  | .bf16 => 127
  | .f16 => 15
  | .e4m3 => 7
  | .e5m2 => 15
  | .e2m1 => 1

/-- Exponent bits, and the exponent of the smallest normal (R13). -/
def Fmt.eb (f : Fmt) : Nat := f.width - 1 - f.mb
def Fmt.emin (f : Fmt) : Int := 1 - f.bias

/-- The code of the largest finite magnitude (R13). -/
def Fmt.maxCode : Fmt → Nat
  | .f32 => 0x7F7FFFFF
  | .bf16 => 0x7F7F
  | .f16 => 0x7BFF
  | .e4m3 => 0x7E
  | .e5m2 => 0x7B
  | .e2m1 => 0x7

/-- The canonical NaN (R13); E2M1 has none, and a NaN converted to it gives 0 (R137). -/
def Fmt.nanCode : Fmt → Nat
  | .f32 => 0x7FC00000
  | .bf16 => 0x7FC0
  | .f16 => 0x7E00
  | .e4m3 => 0x7F
  | .e5m2 => 0x7E
  | .e2m1 => 0

def Fmt.signBit (f : Fmt) (neg : Bool) : Nat := if neg then 2 ^ (f.width - 1) else 0

/-- What "∞" means in a format (R13, R21): E4M3 has its NaN there and E2M1 its largest magnitude. -/
def Fmt.infCode (f : Fmt) (neg : Bool) : Nat :=
  match f with
  | .f32 => f.signBit neg + 0x7F800000
  | .bf16 => f.signBit neg + 0x7F80
  | .f16 => f.signBit neg + 0x7C00
  | .e4m3 => 0x7F
  | .e5m2 => f.signBit neg + 0x7C
  | .e2m1 => f.signBit neg + 0x7

/-- An exact value: a NaN (signalling or not), an infinity, or the number (-1)^neg · m · 2^e; a zero keeps its sign. -/
inductive Fv where
  | nan (signalling : Bool)
  | inf (neg : Bool)
  | num (neg : Bool) (m : Nat) (e : Int)
  deriving DecidableEq, Repr

/-- Decode a code of a format (R12 to R14). -/
def Fmt.decode (f : Fmt) (code : Nat) : Fv :=
  let neg := code / 2 ^ (f.width - 1) % 2 = 1
  let e := code / 2 ^ f.mb % 2 ^ f.eb
  let m := code % 2 ^ f.mb
  let top := 2 ^ f.eb - 1
  match f with
  | .e4m3 => if e = top ∧ m = 7 then .nan false else if e = 0 then .num neg m (f.emin - 3) else .num neg (8 + m) ((e : Int) - f.bias - 3)
  | .e2m1 => if e = 0 then .num neg m (f.emin - 1) else .num neg (2 + m) ((e : Int) - f.bias - 1)
  | _ =>
    if e = top then (if m = 0 then .inf neg else .nan (m < 2 ^ (f.mb - 1)))
    else if e = 0 then .num neg m (f.emin - f.mb)
    else .num neg (2 ^ f.mb + m) ((e : Int) - f.bias - f.mb)

/-- A subnormal input is read as zero of its sign (R26). -/
def Fmt.flushIn (f : Fmt) (v : Fv) : Fv :=
  match v with
  | .num n m e => if m < 2 ^ f.mb then .num n 0 e else v
  | _ => v

/-- A scale code of E8M0 (R12, R16): 2^(c - 127), and NaN for 0xFF. -/
def e8m0 (c : Nat) : Fv := if c = 255 then .nan false else .num false 1 ((c : Int) - 127)

/-- Whether a code is an infinity or a NaN (R30). -/
def Fmt.nonFinite (f : Fmt) (code : Nat) : Bool :=
  match f.decode code with
  | .num _ _ _ => false
  | _ => true

/-! Exact operations. -/

/-- The exact value of a signed number. -/
def Fv.ofInt (k : Int) : Fv := .num (decide (k < 0)) k.natAbs 0

/-- A number as an integer multiple of 2^e, for an e at or below its exponent. -/
def scaled (neg : Bool) (m : Nat) (e to_ : Int) : Int :=
  let v : Int := ((m <<< (e - to_).toNat : Nat) : Int)
  if neg then -v else v

def Fv.isNan : Fv → Bool
  | .nan _ => true
  | _ => false
def Fv.isSig : Fv → Bool
  | .nan x => x
  | _ => false
def Fv.isInf : Fv → Bool
  | .inf _ => true
  | _ => false
def Fv.isZero : Fv → Bool
  | .num _ m _ => m = 0
  | _ => false
def Fv.isNeg : Fv → Bool
  | .nan _ => false
  | .inf n => n
  | .num n _ _ => n
def Fv.neg : Fv → Fv
  | .nan x => .nan x
  | .inf n => .inf (!n)
  | .num n m e => .num (!n) m e
def Fv.abs : Fv → Fv
  | .nan x => .nan x
  | .inf _ => .inf false
  | .num _ m e => .num false m e
def Fv.scale (k : Int) : Fv → Fv
  | .num n m e => .num n m (e + k)
  | v => v

/-- An operation's exact value and whether it is invalid (R24). -/
abbrev Ev := Fv × Bool

/-- The value of an operation with a NaN operand: the canonical NaN, invalid when one of them signals (R14, R24). -/
def nanOf (l : List Fv) : Ev := (.nan false, l.any Fv.isSig)

/-- a + b (R24, R25): an exact zero sum of operands of opposite sign is -0 in RDN and +0 otherwise. -/
def addV (rdn : Bool) (a b : Fv) : Ev :=
  match a, b with
  | .num na ma ea, .num nb mb eb =>
    let e := min ea eb
    let s := scaled na ma ea e + scaled nb mb eb e
    if s = 0 then (.num (if ma = 0 ∧ mb = 0 ∧ na = nb then na else rdn) 0 e, false)
    else (.num (decide (s < 0)) s.natAbs e, false)
  | .inf x, .inf y => if x = y then (.inf x, false) else (.nan false, true)
  | .inf x, .num _ _ _ => (.inf x, false)
  | .num _ _ _, .inf y => (.inf y, false)
  | _, _ => nanOf [a, b]

/-- a × b (R24). -/
def mulV (a b : Fv) : Ev :=
  match a, b with
  | .num na ma ea, .num nb mb eb => (.num (na != nb) (ma * mb) (ea + eb), false)
  | .nan _, _ => nanOf [a, b]
  | _, .nan _ => nanOf [a, b]
  | _, _ => if a.isZero || b.isZero then (.nan false, true) else (.inf (a.isNeg != b.isNeg), false)

/-- a × t + b with one rounding to come; `np` negates the product and `nb` the addend (R129). -/
def fmaV (rdn np nb : Bool) (a t b : Fv) : Ev :=
  let p := mulV a t
  let x := addV rdn (if np then p.1.neg else p.1) (if nb then b.neg else b)
  (x.1, p.2 || x.2 || b.isSig)

/-- a < b on numbers and infinities; zeros of both signs are equal. -/
def ltV (a b : Fv) : Bool :=
  match a, b with
  | .num na ma ea, .num nb mb eb => decide (scaled na ma ea (min ea eb) < scaled nb mb eb (min ea eb))
  | .inf x, .inf y => x && !y
  | .inf x, .num _ _ _ => x
  | .num _ _ _, .inf y => !y
  | _, _ => false

/-- a < b where -0 counts as less than +0 (R130). -/
def ltZ (a b : Fv) : Bool := ltV a b || (a.isZero && b.isZero && a.isNeg && !b.isNeg)

/-- Minimum and maximum of two values that are no NaN (R130). -/
def minZ (a b : Fv) : Fv := if ltZ b a then b else a
def maxZ (a b : Fv) : Fv := if ltZ a b then b else a

/-- VMIN and VMAX (R130). -/
def minmaxV (mx : Bool) (a b : Fv) : Ev :=
  if a.isNan || b.isNan then nanOf [a, b] else (if mx then maxZ a b else minZ a b, false)

/-- VMINNUM and VMAXNUM (R130). -/
def minmaxNumV (mx : Bool) (a b : Fv) : Ev :=
  let iv := a.isSig || b.isSig
  if a.isNan && b.isNan then (.nan false, iv)
  else if a.isNan then (b, iv)
  else if b.isNan then (a, iv)
  else (if mx then maxZ a b else minZ a b, false)

/-! Rounding. -/

/-- The exponent of the leading bit of m · 2^e. -/
def topExp (m : Nat) (e : Int) : Int := (m.log2 : Int) + e

/-- m · 2^e as a multiple of 2^k: the quotient, and the remainder over its denominator. -/
def splitAt2 (m : Nat) (e k : Int) : Nat × Nat × Nat :=
  if k ≤ e then (m <<< (e - k).toNat, 0, 1)
  else
    let d := (k - e).toNat
    (m >>> d, m % 2 ^ d, 2 ^ d)

/-- Whether a magnitude with quotient `q` and remainder `r` over `d` is rounded to the larger neighbour (R20, R23). -/
def roundsUp (mode : Rm) (st : W32) (neg : Bool) (q r d : Nat) : Bool :=
  match mode with
  | .rne => decide (d < 2 * r) || (decide (2 * r = d) && decide (q % 2 = 1))
  | .rtz => false
  | .rdn => neg && decide (0 < r)
  | .rup => !neg && decide (0 < r)
  | .sr => decide (st.toNat < r * 2 ^ 32 / d)

/-- A magnitude rounded to a multiple of 2^k, whether it changed, and whether the larger neighbour was taken. -/
def roundMag (mode : Rm) (st : W32) (neg : Bool) (m : Nat) (e k : Int) : Nat × Bool × Bool :=
  let (q, r, d) := splitAt2 m e k
  let up := roundsUp mode st neg q r d
  (if up then q + 1 else q, decide (0 < r), up)

/-- The exponent of the spacing of a format at a magnitude, unbounded above and subnormal below (R20). -/
def Fmt.ulp (f : Fmt) (m : Nat) (e : Int) : Int := max (topExp m e) f.emin - f.mb

/-- The code of q · 2^k, a value of the format, with k the spacing at it or one below. -/
def Fmt.encode (f : Fmt) (neg : Bool) (q : Nat) (k : Int) : Nat :=
  let s := f.signBit neg
  if q = 0 then s
  else
    let t := topExp q k
    if t < f.emin then s + (splitAt2 q k (f.emin - f.mb)).1
    else s + ((t + f.bias).toNat * 2 ^ f.mb + (splitAt2 q k (t - f.mb)).1 % 2 ^ f.mb)

/-- A rounded element with its flags. -/
structure Rounded where
  code : Nat
  fl : FpFlags
  deriving DecidableEq, Repr

/-- The largest finite magnitude of a format as a value. -/
def Fmt.maxFin (f : Fmt) (neg : Bool) : Fv :=
  match f.decode f.maxCode with
  | .num _ m e => .num neg m e
  | v => v

/-- What an overflow gives (R21): whether it is "∞". -/
def overflowInf (mode : Rm) (neg up : Bool) : Bool :=
  match mode with
  | .rne => true
  | .rtz => false
  | .rdn => neg
  | .rup => !neg
  | .sr => up

/-- Round a nonzero magnitude m · 2^e to a format (R20 to R22, R26). `st` is the stochastic draw, `ne` says that the value already differs from what the operation defines (R131), `sat` is saturation to type, `fzo` flushes. -/
def Fmt.roundNum (f : Fmt) (mode : Rm) (st : W32) (sat fzo ne neg : Bool) (m : Nat) (e : Int) : Rounded :=
  let k := f.ulp m e
  let (q, ch, up) := roundMag mode st neg m e k
  if ltV (f.maxFin false) (.num false q k) then
    let inf := overflowInf mode neg up && !sat
    let code := if inf then f.infCode neg else f.signBit neg + f.maxCode
    ⟨code, { FpFlags.none with of_ := true, ix := true, nf := f.nonFinite code }⟩
  else
    let ix := ch || ne
    let j := roundMag mode st neg m e (topExp m e - f.mb)
    let tiny := decide (topExp j.1 (topExp m e - f.mb) < f.emin)
    let code := f.encode neg q k
    if fzo ∧ 0 < q ∧ topExp q k < f.emin then
      ⟨f.signBit neg, { FpFlags.none with uf := true, ix := true }⟩
    else ⟨code, { FpFlags.none with ix := ix, uf := tiny && ix }⟩

/-- Round an exact value to a format (R20 to R24, R137). -/
def Fmt.round (f : Fmt) (mode : Rm) (st : W32) (sat fzo ne : Bool) (v : Fv) : Rounded :=
  match v with
  | .nan _ => ⟨f.nanCode, if f = .e2m1 then { FpFlags.none with iv := true } else { FpFlags.none with nf := true }⟩
  | .inf n =>
    match f with
    | .e2m1 => ⟨f.infCode n, { FpFlags.none with of_ := true, ix := true }⟩
    | _ =>
      if sat then ⟨f.signBit n + f.maxCode, FpFlags.none⟩
      else ⟨f.infCode n, { FpFlags.none with nf := true }⟩
  | .num n m e =>
    if m = 0 then ⟨f.signBit n, { FpFlags.none with ix := ne }⟩
    else f.roundNum mode st sat fzo ne n m e

/-- Round to FP32 to nearest even, as the matrix array, the fabric addends and the code-table arithmetic do (R20). -/
def roundF32 (v : Fv) : W32 := BitVec.ofNat 32 (Fmt.f32.round .rne 0 false false false v).code

/-- One step of a stochastic generator (R23). -/
def srNext (s : W32) : W32 :=
  let a := if s = 0 then 0x2545F491#32 else s
  let b := a ^^^ (a <<< 13)
  let c := b ^^^ (b >>> 17)
  c ^^^ (c <<< 5)

/-- An exact value rounded to an integer (R20). -/
def roundIntV (mode : Rm) (st : W32) (neg : Bool) (m : Nat) (e : Int) : Int × Bool :=
  let (q, ch, _) := roundMag mode st neg m e 0
  (if neg then -(q : Int) else (q : Int), ch)

/-! Functions of one operand (R131). -/

/-- floor(√n) by bits from bit k - 1 down. -/
def isqrtGo (n : Nat) : Nat → Nat → Nat
  | 0, r => r
  | k + 1, r => if (r + 2 ^ k) * (r + 2 ^ k) ≤ n then isqrtGo n k (r + 2 ^ k) else isqrtGo n k r
def isqrt (n : Nat) : Nat := isqrtGo n (n.log2 / 2 + 1) 0

/-- √(m · 2^e) exactly, or, when it is no dyadic number, a value between its two nearest multiples of a spacing far below any rounding threshold: rounding it in any mode is rounding the root. -/
def sqrtV (m : Nat) (e : Int) : Fv :=
  let e1 := e - 160
  let e2 := if e1 % 2 = 0 then e1 else e1 - 1
  let n := m <<< (e - e2).toNat
  let r := isqrt n
  if r * r = n then .num false r (e2 / 2) else .num false (2 * r + 1) (e2 / 2 - 1)

/-- A positive real y given as floor(y · 2^f), with whether it is exact, rounded down to a quarter of the format's spacing (R131). -/
def gridOf (fm : Fmt) (neg : Bool) (n : Nat) (f : Int) (exact_ : Bool) : Fv × Bool :=
  let k := fm.ulp n (-f) - 2
  let (q, r, _) := splitAt2 n (-f) k
  (.num neg q k, !(exact_ && r == 0))

/-- 1 / (m · 2^e) as 300 fraction bits below its leading bit. -/
def recipGrid (fm : Fmt) (neg : Bool) (m : Nat) (e : Int) : Fv × Bool :=
  let b := m.log2 + 300
  gridOf fm neg (2 ^ b / m) ((b : Int) + e) (decide (2 ^ b % m = 0))

/-- 1 / √(m · 2^e). -/
def rsqrtGrid (fm : Fmt) (m : Nat) (e : Int) : Fv × Bool :=
  let e2 := if e % 2 = 0 then e else e - 1
  let m2 := m <<< (e - e2).toNat
  let b := m2.log2 + 600
  let c := if b % 2 = 0 then b else b + 1
  let n := 2 ^ c / m2
  let r := isqrt n
  gridOf fm false r ((c : Int) / 2 + e2 / 2) (decide (r * r * m2 = 2 ^ c))

/-- Fraction bits of the fixed-point numbers of exp2 and log2: far more than any argument needs to settle the grid value (assumption 11). -/
def fxBits : Nat := 320

/-- 2^f for the fraction f = n / 2^k, k bits from the top one down, as a fixed-point number: `root` is 2^(2^-i) of the bits before. -/
def exp2Go : Nat → Nat → Nat → Nat → Nat
  | 0, _, _, acc => acc
  | k + 1, n, root, acc =>
    let r := isqrt (root * 2 ^ fxBits)
    exp2Go k n r (if n / 2 ^ k % 2 = 1 then acc * r / 2 ^ fxBits else acc)

/-- 2^a for a nonzero number a = ±m · 2^e (R131). A magnitude of a beyond 2^12 stands for its limit on the exponent, which every format leaves far behind; an argument below 2^-100 moves the result off 1 by less than any spacing. -/
def exp2Grid (fm : Fmt) (neg : Bool) (m : Nat) (e : Int) : Fv × Bool :=
  if topExp m e < -100 then
    if neg then gridOf fm false (2 ^ 201 - 1) 201 false else gridOf fm false (2 ^ 200) 200 false
  else
    let k := (if e < 0 then (-e).toNat else 0)
    let a : Int := scaled neg m e (-(k : Int))
    let i := a / 2 ^ k
    let f := (a % 2 ^ k).toNat
    let ic := max (-4096) (min 4096 i)
    gridOf fm false (exp2Go k f (2 * 2 ^ fxBits) (2 ^ fxBits)) ((fxBits : Int) - ic) (decide (f = 0))

/-- The binary digits of log2 x for x in [1, 2) as a fixed-point number. -/
def log2Go : Nat → Nat → Nat → Nat
  | 0, _, acc => acc
  | k + 1, x, acc =>
    let y := x * x / 2 ^ fxBits
    if 2 * 2 ^ fxBits ≤ y then log2Go k (y / 2) (2 * acc + 1) else log2Go k y (2 * acc)

/-- log2 (m · 2^e) for m · 2^e ≠ 1 (R131). -/
def log2Grid (fm : Fmt) (m : Nat) (e : Int) : Fv × Bool :=
  let t := topExp m e
  let x := m <<< (fxBits - m.log2)
  if m = 2 ^ m.log2 then gridOf fm (decide (t < 0)) t.natAbs 0 true
  else
    let l := log2Go 128 x 0
    if t < 0 then gridOf fm true ((-t).toNat * 2 ^ 128 - l - 1) 128 false
    else gridOf fm false (t.toNat * 2 ^ 128 + l) 128 false

/-- What a function of one operand gives: its value, whether that differs from f(a), and the flags it raises by itself. -/
structure FnVal where
  v : Fv
  ne : Bool
  iv : Bool
  dz : Bool

def FnVal.plain (v : Fv) : FnVal := ⟨v, false, false, false⟩
def FnVal.invalid : FnVal := ⟨.nan false, false, true, false⟩
def FnVal.pole (neg : Bool) : FnVal := ⟨.inf neg, false, false, true⟩
def FnVal.grid (g : Fv × Bool) : FnVal := ⟨g.1, g.2, false, false⟩

/-- VRCP, VRSQ, VSQRT, VEXP2 and VLOG2 with their special operands (R131). -/
def rcpV (fm : Fmt) : Fv → FnVal
  | .nan x => ⟨.nan false, false, x, false⟩
  | .inf n => .plain (.num n 0 0)
  | .num n m e => if m = 0 then .pole n else .grid (recipGrid fm n m e)
def rsqV (fm : Fmt) : Fv → FnVal
  | .nan x => ⟨.nan false, false, x, false⟩
  | .inf n => if n then .invalid else .plain (.num false 0 0)
  | .num n m e => if m = 0 then .pole n else if n then .invalid else .grid (rsqrtGrid fm m e)
def sqrtFn : Fv → FnVal
  | .nan x => ⟨.nan false, false, x, false⟩
  | .inf n => if n then .invalid else .plain (.inf false)
  | .num n m e => if m = 0 then .plain (.num n 0 0) else if n then .invalid else .plain (sqrtV m e)
def exp2V (fm : Fmt) : Fv → FnVal
  | .nan x => ⟨.nan false, false, x, false⟩
  | .inf n => if n then .plain (.num false 0 0) else .plain (.inf false)
  | .num n m e => if m = 0 then .plain (.num false 1 0) else .grid (exp2Grid fm n m e)
def log2V (fm : Fmt) : Fv → FnVal
  | .nan x => ⟨.nan false, false, x, false⟩
  | .inf n => if n then .invalid else .plain (.inf false)
  | .num n m e =>
    if m = 0 then .pole true
    else if n then .invalid
    else if m = 2 ^ m.log2 ∧ topExp m e = 0 then .plain (.num false 0 0)
    else .grid (log2Grid fm m e)

/-! Block formats. -/

/-- An MX element format by its code (R138). -/
def mxElem (c : Nat) : Fmt := match c with
  | 0 => .e4m3
  | 1 => .e5m2
  | _ => .e2m1

def Fmt.emaxElem : Fmt → Int
  | .e4m3 => 8
  | .e5m2 => 15
  | _ => 2

/-- The largest finite magnitude of a list, as a value. -/
def maxAbs (l : List Fv) : Fv :=
  l.foldl (fun a v => match v with | .num _ m e => maxZ a (.num false m e) | _ => a) (.num false 0 0)

/-- The shared exponent of a block (R17). -/
def mxShared (elem : Fmt) (l : List Fv) : Int :=
  match maxAbs l with
  | .num _ 0 _ => -127
  | .num _ m e => max (topExp m e - elem.emaxElem) (-127)
  | _ => -127

/-- One element of a block that holds no NaN, scaled and rounded (R17). -/
def mxElement (elem : Fmt) (sat : Bool) (mode : Rm) (st : W32) (xs : Int) (v : Fv) : Rounded :=
  match v with
  | .inf n => elem.round mode st sat false false (.inf n)
  | v => elem.round mode st sat false false (v.scale (-xs))

/-- Quantise a block of values (R17) with one stochastic draw for each: the scale code, the element codes and the flags. -/
def mxQuantise (x : List Fv) (elem : Fmt) (sat : Bool) (mode : Rm) (st : List W32) : Nat × List Nat × FpFlags :=
  if x.any Fv.isNan then (255, x.map (fun _ => 0), { FpFlags.none with nf := true, iv := x.any Fv.isSig })
  else
    let xs := mxShared elem x
    let rs := (List.range x.length).map (fun i => mxElement elem sat mode (st.getD i 0) xs (x.getD i (.num false 0 0)))
    ((xs + 127).toNat, rs.map (·.code), rs.foldl (fun a r => a.or r.fl) FpFlags.none)

/-- An element of an MX block, and whether reading it is invalid (R14, R16). -/
def mxEv (scale : Nat) (v : Fv) : Ev := mulV (e8m0 scale) v
def mxValue (scale : Nat) (v : Fv) : Fv := (mxEv scale v).1

/-- Encode a CB4 block (R19): the BF16 scale and the indices. -/
def cb4Nearest (cb : List Fv) (v : Fv) : Nat :=
  let dist (c : Fv) : Fv := ((addV false v c.neg).1).abs
  let best := (List.range cb.length).foldl (fun (a : Option (Nat × Fv)) j =>
    match cb.getD j (.nan false) with
    | .num n m e =>
      let d := dist (.num n m e)
      match a with
      | none => some (j, d)
      | some (_, d0) => if ltV d d0 then some (j, d) else a
    | _ => a) none
  match best with
  | some (j, _) => j
  | none => 0

/-- The exact quotient of two numbers, the second not zero, as a value that rounds as the quotient does. -/
def divV (a b : Fv) : Fv :=
  match a, b with
  | .num na ma ea, .num nb mb eb =>
    let k := mb.log2 + 200
    let n := ma <<< k
    if n % mb = 0 then .num (na != nb) (n / mb) (ea - eb - k)
    else .num (na != nb) (2 * (n / mb) + 1) (ea - eb - k - 1)
  | _, _ => .nan false

def cb4Encode (x cb : List Fv) : Nat × List Nat :=
  if x.any (fun v => v.isNan || v.isInf) then (0x7FC0, x.map (fun _ => 0))
  else
    let m := maxAbs x
    let s := if m.isZero then 0 else (Fmt.bf16.round .rup 0 true false false m).code
    (s, x.map (fun v =>
      let n := if s = 0 then Fv.num false 0 0
        else Fmt.f32.decode (Fmt.f32.round .rne 0 false false false (divV v (Fmt.bf16.decode s))).code
      cb4Nearest cb n))

/-- A CB4 element (R18): scale times codebook entry, exactly. -/
def cb4Value (scale entry : Fv) : Fv := (mulV scale entry).1

end Sys2Proof.Machine
end

