-- ==== Sys2Proof/Machine/Ops.lean ====
section
/-! DEFINITION. The named operations over the state: results in flight (R10, R40), the end of an instruction, taking a trap (R216, R217, R284 to R291) and the return from one (R218, R290). -/

namespace Sys2Proof.Machine

/-! Results in flight. -/

/-- The order of results that become visible (R40): by cycle, then by issue cycle, then by the issuing sequencer. -/
def Pend.before (a b : Pend) : Bool :=
  decide (a.due < b.due)
  || (a.due == b.due && (decide (a.cyc < b.cyc) || (a.cyc == b.cyc && decide (a.rank < b.rank))))

/-- Add a result of engine `e` that becomes visible `lat` cycles from now. -/
def Core.emit (c : Core) (e : Engine) (lat : Nat) (w : Write) : Core :=
  { c with pend := insertBy Pend.before ⟨c.now + lat, c.now, e.rank, w⟩ c.pend }

/-- Add results in order. -/
def Core.emits (c : Core) (e : Engine) (lat : Nat) : List Write → Core
  | [] => c
  | w :: rest => Core.emits (c.emit e lat w) e lat rest

/-- A result of a scalar destination. -/
def Core.emitS (c : Core) (e : Engine) (lat : Nat) (n : BitVec 6) (v : W64) (pz : Option PRec) : Core :=
  c.emit e lat (.scalar n.toNat v pz)

/-- Add a condition that must hold before cycle `due` is entered (R84). -/
def Core.hold (c : Core) (lat : Nat) (k : HoldKind) : Core :=
  { c with holds := c.holds ++ [⟨c.now + lat, k⟩] }

/-! Landing of results. -/

/-- The byte of a scalar replaced by VQMX's scale code (R138): the other bytes keep the value held at issue. -/
def putByte (old : W64) (part : Nat) (v : Byte) : W64 :=
  (old &&& ~~~((0xFF#64) <<< (8 * part))) ||| (v.zeroExtend 64 <<< (8 * part))

/-- The frames of twin pairs whose state a PUB inverts (R188, R365). -/
def flipTwins (ts : List Twin) (frames : List Nat) : List Twin :=
  ts.map (fun t => if t.lower ∈ frames then { t with ts := !t.ts } else t)

/-- The poison that a byte carries after a write of `n` bytes at `a` (R52): poisoned data poisons the whole granule of the byte, clean data clears it only when it covers it. -/
def wordPz (a n : Nat) (poison : Bool) (x : Nat) (old : Bool) : Bool :=
  let g := granuleBase x
  let k := granule x
  if g < a + n ∧ a < g + k then poison || (old && !(decide (a ≤ g) && decide (g + k ≤ a + n))) else old

/-- A byte after a write of bytes `d` at `a` (R52). -/
def overByte (a : Nat) (d : List Byte) (poison : Bool) (x : Nat) (b : Byte × Bool) : Byte × Bool :=
  (if a ≤ x ∧ x < a + d.length then d.getD (x - a) 0 else b.1, wordPz a d.length poison x b.2)

/-- Update a line of the L1 with stored bytes, if it is present (R52, R232). -/
def l1Store (l : List L1Line) (a : Nat) (d : List Byte) (poison : Bool) : List L1Line :=
  l.map (fun ln =>
    let bs := (List.range 128).map (fun i => overByte a d poison (ln.base + i) (ln.data.getD i 0, ln.pz.getD i false))
    { ln with data := bs.map (·.1), pz := bs.map (·.2) })

/-! The core's own view of memory (R10, R106, R236, R237). -/

/-- The first byte of the poison granule that holds a store's first byte, and the length up to the end of the granule of its last. -/
def PendStore.base (st : PendStore) : Nat := granuleBase st.addr
def PendStore.span (st : PendStore) : Nat :=
  let z := st.addr + st.data.length - 1
  granuleBase z + granule z - st.base

/-- Two stores touch a common byte; a store touches one of `n` bytes. -/
def PendStore.meets (a b : PendStore) : Bool :=
  decide (a.addr < b.addr + b.data.length) && decide (b.addr < a.addr + a.data.length)
def PendStore.touches (st : PendStore) (pa n : Nat) : Bool :=
  decide (st.addr < pa + n) && decide (pa < st.addr + st.data.length)

/-- Two stores of one instruction: the word of its last lane remains (R172). -/
def PendStore.sameIssue (k st : PendStore) : Bool := k.cyc == st.cyc && k.rank == st.rank

/-- A store `k` that has not been performed holds back a later one (R172, R239, R242, R243, R246): to a common byte, unless both lie on unordered pages with no fence between them and come from two instructions; before a release; or both strongly ordered. -/
def PendStore.holdsBack (k st : PendStore) : Bool :=
  (k.meets st && !(k.uo && st.uo && k.ep == st.ep && !k.sameIssue st)) || (st.release && !k.uo) || (st.so && k.so)

/-- The stores that must be performed so that those touching `n` bytes are, oldest first. -/
def neededStores (pa n : Nat) (l : List PendStore) : List PendStore :=
  l.foldr (fun st acc => if st.touches pa n || acc.any (fun x => st.holdsBack x) then st :: acc else acc) []

/-- The core's own stores over a byte that its reads see, the youngest last (R106, R236). -/
def ownByte (l : List PendStore) (pa : Nat) (b : Byte × Bool) : Byte × Bool :=
  l.foldl (fun b st => if st.seen then overByte st.addr st.data st.poison pa b else b) b

/-- The byte that the core's reads return for memory: where a store has been performed that the core does not see yet, what stood there before it. -/
def hiddenByte (l : List PendStore) (pa : Nat) (b : Byte × Bool) : Byte × Bool :=
  match l.find? (fun st => st.done && !st.seen && decide (st.base ≤ pa) && decide (pa < st.base + st.span)) with
  | some st => st.old.getD (pa - st.base) b
  | none => b

/-- The core's own view of a byte, past its L1. -/
def ownView (l : List PendStore) (pa : Nat) (b : Byte × Bool) : Byte × Bool := ownByte l pa (hiddenByte l pa b)

/-- A store that the core sees has been performed: what older ones would still show the core gives way to it. -/
def PendStore.under (st x : PendStore) : PendStore :=
  if x.done && !x.seen then
    { x with
      data := if x.order < st.order then (List.range x.data.length).map (fun i => (overByte st.addr st.data st.poison (x.addr + i) (x.data.getD i 0, false)).1) else x.data
      old := (List.range x.old.length).map (fun i => overByte st.addr st.data st.poison (x.base + i) (x.old.getD i (0, false))) }
  else x

/-- The stores that have not been performed. -/
def Core.openStores (c : Core) : List PendStore := c.stores.filter (fun x => !x.done)

/-! Windows (R227, R228). -/

/-- Tiles that an arming names (R162). -/
def Core.tileArmed (c : Core) (t : Nat) : Bool :=
  c.arms.any (fun a => decide ((t + 1024 - a.tile) % 1024 < a.nt))

/-- The multiplies of a core in flight, those that a trap has set aside among them (R165, R217). -/
def Core.allMats (c : Core) : List MatOp := c.mats ++ (match c.snap with | some sn => sn.mats | none => [])

/-- The tiles that the running step of N owns: those that it sends (R182, R267). -/
def Core.stepTiles (c : Core) : List Nat :=
  match c.nrun.bind (fun r => r.step) with
  | some st => st.tiles
  | none => []

/-- Tiles that a matrix instruction, a copy or a transfer of N owns (R46, R159, R182). -/
def Core.tileOwned (c : Core) (t : Nat) : Bool :=
  c.allMats.any (fun o => o.tile = t) || c.copies.any (fun k => k.tiles.any (· = t))
    || c.stepTiles.any (· = t)

/-- The test of a window access (R228, R385). -/
inductive WinTest where
  | ok
  | refused
  | foreign
  | wait
  deriving DecidableEq, Repr

/-- Test an access of context `x` to `n` bytes at a window address, made when the access takes effect (R228); while the target writes an image or has no power, it waits (R385). What it writes is then seen from the target's next cycle on (R85). -/
def State.winTest (s : State) (x pa n : Nat) (wr : Bool) : WinTest :=
  let core := (pa - winStart) / 0x1000000
  let off := (pa - winStart) % 0x1000000
  let c := s.core core
  let t := (off - 0x800000) / 4096
  if (List.range n).any (fun i => reservedOff (off + i)) then .refused
  else if c.ctx ≠ some x then .foreign
  else if !c.powered || c.holds.any (fun h => h.kind = .persist) then .wait
  else if wr && decide (0x800000 ≤ off) && (c.tileArmed t || c.tileOwned t) then .refused
  else .ok

/-! The outside's view of a core's window (R85, R228, R239). -/

/-- The core whose window holds an address. -/
def winCore (pa : Nat) : Option Nat := if inWindow pa then some ((pa - 0x000F000000000000) / 0x1000000) else none

/-- Whether a core stands in a cycle, or is frozen before one: what reaches its window then is seen from the next cycle on (R85). -/
def Core.amid (c : Core) : Bool := c.turn != 0 || c.frozen || c.holds.any (fun h => decide (h.due ≤ c.now))

/-- A store of L, S or W to the core's own scratchpad in flight that the other agents see already. -/
def Core.shows (c : Core) (p : Pend) : Bool := decide (p.cyc < c.shown) && p.rank != Engine.x.rank

/-- The results in flight of a core, those that a trap has set aside first (R217). -/
def Core.allPend (c : Core) : List Pend := (match c.snap with | some sn => sn.pend | none => []) ++ c.pend

/-- Armings that ACCARMs have drawn and that have not yet taken effect (R162). -/
def Core.dueArms (c : Core) : List Arming := c.allPend.filterMap (fun p => match p.w with | .arm a => some a | _ => none)

/-- Whether an error has poisoned the block of a code table that holds an address in the table store of some stack (R198, R412). -/
def State.tableLost (s : State) (pa : Nat) : Bool := isTable pa && s.tablePz.any (fun t => decide (t.2 ≤ pa) && decide (pa < t.2 + 64))

/-- A byte of memory as agents other than the core itself see it: what has reached the core's window counts at once, and stores of the core to its own window that a fence, a release or an atomic of it covers are visible, although the core's own reads see both later. -/
def State.outByte (s : State) (pa : Nat) : Byte × Bool :=
  let b := (s.mem.rd pa, poisonedAt s.pz pa)
  match winCore pa with
  | none => (b.1, b.2 || s.tableLost pa)
  | some n =>
    let c := s.core n
    let b1 := c.inbox.foldl (fun b x => match x with | .bytes a d poison => overByte a d poison pa b | _ => b) b
    c.allPend.foldl (fun b p =>
      match p.w with
      | .bytes a d poison => if c.shows p then overByte a d poison pa b else b
      | _ => b) b1

/-- The parts of stored bytes outside `n` bytes at `lo`. -/
def cutOut (a : Nat) (d : List Byte) (lo n : Nat) : List (Nat × List Byte) :=
  [(a, d.take (lo - a)), (max a (lo + n), d.drop (lo + n - a))].filter (fun x => !x.2.isEmpty)

/-- The results in flight without those parts of visible stores that `n` bytes at `pa` cover. -/
def Core.trimPend (c : Core) (pa n : Nat) (l : List Pend) : List Pend :=
  l.flatMap (fun p =>
    match p.w with
    | .bytes a d poison =>
      if c.shows p ∧ a < pa + n ∧ pa < a + d.length then (cutOut a d pa n).map (fun x => { p with w := .bytes x.1 x.2 poison }) else [p]
    | _ => [p])

/-- A write of another agent follows the stores that are visible to it: they land no more over its bytes. -/
def State.trimShown (s : State) (pa n : Nat) : State :=
  match winCore pa with
  | none => s
  | some k =>
    let c := s.core k
    if c.allPend.any (fun p => c.shows p) then
      s.setCore k { c with
        pend := c.trimPend pa n c.pend
        snap := c.snap.map (fun sn => { sn with pend := c.trimPend pa n sn.pend }) }
    else s

/-- Write bytes of a store of the base tiers. Unpoisoned data that covers a block of a code table clears it in every stack (R198). -/
def State.wrBase (s : State) (pa : Nat) (d : List Byte) (poison : Bool) : State :=
  { s.wrB pa d poison with
    tablePz := if poison then s.tablePz else s.tablePz.filter (fun t => !(decide (pa ≤ t.2) && decide (t.2 + 64 ≤ pa + d.length))) }

/-- Words of 8 bytes that stood poisoned stay so (R325, R406). -/
def State.keepPz (s : State) (old : List Nat) (pa n : Nat) : State :=
  { s with pz := (old.filter (fun x => decide (pa < x + 8) && decide (x < pa + n))).foldl (fun l x => sadd x l) s.pz }

/-- Write bytes of a core's window, which the core sees at once between two cycles and else from its next cycle on (R85), or of another store of the base tiers. -/
def State.wrWin (s : State) (pa : Nat) (d : List Byte) (poison : Bool) : State :=
  match winCore pa with
  | none => s.wrBase pa d poison
  | some k =>
    if (s.core k).amid then s.modCore k (fun c => { c with inbox := c.inbox ++ [.bytes pa d poison] })
    else s.wrB pa d poison

/-- The address of word e(r, c) of matrix register `n` of a core (R227). -/
def mAddr (core n r c : Nat) : Nat := winBase core + 0x400000 + 4096 * n + 128 * r + 4 * c

/-- The address of word (r, c) of tile `t` (R182, R227). -/
def tAddr (core t r c : Nat) : Nat := winBase core + 0x800000 + 4096 * t + 128 * r + 4 * c

/-- A 32-bit word and its poison. -/
def State.word (s : State) (a : Nat) : W32 × Bool :=
  (BitVec.ofNat 32 (s.rdNat a 4), poisonedAt s.pz a)

/-- Write consecutive words, each with its poison. -/
def State.wrWords (s : State) (a : Nat) : List (W32 × Bool) → State
  | [] => s
  | (w, p) :: rest => State.wrWords (s.wrB a (natLe 4 w.toNat) p) (a + 4) rest

/-- Apply one addend of 1,024 words to a tile (R36): FP32 to nearest even, or a wrapping sum. -/
def State.addAddend (s : State) (core tile : Nat) (int : Bool) (ws : List (W32 × Bool)) : State :=
  let out := (List.range 1024).map (fun k =>
    let a := s.word (tAddr core tile 0 0 + 4 * k)
    let b := ws.getD k (0, false)
    if a.2 || b.2 then (fld (Config.freeWord (s.fresh + k)) 0 32, true)
    else (if int then a.1 + b.1 else roundF32 (addV false (Fmt.f32.decode a.1.toNat) (Fmt.f32.decode b.1.toNat)).1, false))
  { s.wrWords (tAddr core tile 0 0) out with fresh := s.fresh + 1024 }

/-- What has reached the window of core `n` is seen by it. -/
def State.takeIn (s : State) (n : Nat) (x : Inflow) : State :=
  match x with
  | .bytes a d poison => s.wrB a d poison
  | .chunks m v => s.modCore n (fun c => c.setMap m (c.map m ||| v))
  | .tag m t first k => s.modCore n (fun c => c.setTag m { c.tag m with arrived := t, first := first, count := k })
  | .addend t int ws => s.addAddend n t int ws

/-- All that has reached the window of core `n` in its cycle is seen by it, before the core's own writes of that cycle (R40, R85). -/
def State.landInbox (s : State) (n : Nat) : State :=
  let c := s.core n
  if c.inbox.isEmpty then s else c.inbox.foldl (fun s x => s.takeIn n x) (s.setCore n { c with inbox := [] })

/-- An addend of the fabric, or another write of it to a tile, takes effect in the core's present cycle, and is seen from the next one on (R40, R85, R162). -/
def State.bringLate (s : State) (n : Nat) (x : Inflow) : State := s.modCore n (fun c => { c with inbox := c.inbox ++ [x] })

/-- Chunk bits or an arrived tag reach core `n` (R85, R180, R183). -/
def State.bring (s : State) (n : Nat) (x : Inflow) : State :=
  if (s.core n).amid then s.modCore n (fun c => { c with inbox := c.inbox ++ [x] }) else s.takeIn n x

/-- The parts of a store that the core's own reads return although an older one has been performed after it, where no later write covers them (R236, R243). -/
def PendStore.keep (pa n : Nat) (x : PendStore) : List PendStore :=
  if x.done && x.seen && x.touches pa n then (cutOut x.addr x.data pa n).map (fun y => { x with addr := y.1, data := y.2 }) else [x]

/-- A write of `n` bytes at `pa` comes later in coherence order than every store that has been performed there; a store of an agent itself, with its order number, is not later than that agent's younger ones (R236, R243). -/
def State.trimPassed (s : State) (pa n : Nat) (own : Option (Mover × Nat)) : State :=
  let movers := s.cores.map (fun c => Mover.core c.1) ++ s.cps.map (fun c => Mover.cp c.1)
  movers.foldl (fun s m =>
    let c := s.agent m
    let covers (x : PendStore) : Bool := (match own with | some (o, k) => !(o = m && decide (k < x.order)) | none => true)
    if c.stores.any (fun x => x.done && x.seen) then
      s.setAgent m { c with stores := c.stores.flatMap (fun x => if covers x then x.keep pa n else [x]) }
    else s) s

/-- Write at a translated address of HBM, host memory, a window or a store of the base tiers, at the point of coherence; `own` names a core's store. Only a store of a core clears the poison of a semaphore here (R325). -/
def State.pokeBy (s : State) (own : Option (Mover × Nat)) (pa : Nat) (d : List Byte) (poison : Bool) : State :=
  if isHbm pa || isHost pa then (s.trimPassed pa d.length own).wrC pa d poison
  else
    let s1 := (s.trimShown pa d.length).wrWin pa d poison
    if isSem pa && own.isNone then s1.keepPz s.pz pa d.length else s1

/-- The same for a write that is no store of a core. -/
def State.poke (s : State) (pa : Nat) (d : List Byte) (poison : Bool) : State := s.pokeBy none pa d poison

/-- The core's view of the words that a store touches, past its L1. -/
def State.viewOf (s : State) (l : List PendStore) (st : PendStore) : List (Byte × Bool) :=
  (List.range st.span).map (fun i =>
    ownView l (st.base + i) (if isHbm st.addr || isHost st.addr then s.byteC (st.base + i) else s.outByte (st.base + i)))

/-! Synchronisation (R238, R247). -/

/-- Whether agent `b` lies within a scope of agent `a` (R238); the narrowest scope of the command processor is .module. -/
def inScope (scope : Nat) (a b : Mover) : Bool :=
  match a, b with
  | .core m, .core n => scope ≥ 3 || m == n || (decide (1 ≤ scope) && m / 32 == n / 32) || (scope == 2 && m / 512 == n / 512)
  | .core _, .cp _ => scope ≥ 3
  | .cp _, _ => true

/-- Put what a late unit has now read in its place: in the result in flight or in the queue entry. -/
def LateUnit.put (u : LateUnit) (d : List (Byte × Bool)) (c : Core) : Core :=
  let v := leNat (d.map (·.1))
  let pz := d.any (·.2)
  let mine (p : Pend) : Bool := p.due == u.due && p.cyc == u.cyc
  match u.dst with
  | .scalar n va => { c with pend := c.pend.map (fun p =>
      match p.w with
      | .scalar k _ _ => if mine p && k == n then { p with w := .scalar n (BitVec.ofNat 64 v) (if pz then some (dataPz va) else none) } else p
      | _ => p) }
  | .lane q i => c.setQueue q ((c.queue q).map (fun e =>
      if e.vis == u.due && e.cyc == u.cyc then { e with lanes := lset e.lanes i (BitVec.ofNat 32 v), pz := lset e.pz i pz } else e))
  | .word a sgn => { c with pend := c.pend.map (fun p =>
      match p.w with
      | .words b ws => if mine p && decide (b ≤ a) then
          { p with w := .words b (lset ws ((a - b) / 4) (if sgn then (BitVec.ofNat 16 v).signExtend 32 else BitVec.ofNat 32 v, pz)) } else p
      | _ => p) }

/-- An acquire of agent `b` whose data has not come takes what a release of `a` has now written, a free choice, where the scope of one of them leaves the other agent out: the pair gives no order, and the acquire may be performed after later loads (R241, R247). -/
def State.retake (s : State) (a b : Mover) (st : PendStore) (scope : Nat) (u : LateUnit) : State :=
  match u.acq with
  | none => s
  | some own =>
    let c := s.agent b
    let d := (List.range u.n).map (fun i => ownView c.stores (u.pa + i) (s.byteC (u.pa + i)))
    if st.touches u.pa u.n && !(inScope scope a b && inScope own b a) && !(d.any (·.2)) then
      (if Config.freeVerdict s.fresh then s.setAgent b (u.put d { c with l1 := l1Store c.l1 u.pa (d.map (·.1)) false }) else s).bump
    else s

/-- The same for every acquire under way of the other agents. -/
def State.unsynced (s : State) (m : Mover) (st : PendStore) : State :=
  match st.stl with
  | none => s
  | some scope =>
    let movers := s.cores.map (fun c => Mover.core c.1) ++ s.cps.map (fun c => Mover.cp c.1)
    if isHbm st.addr || isHost st.addr then
      movers.foldl (fun s b => if b = m then s else (s.agent b).lates.foldl (fun s u => s.retake m b st scope u) s) s
    else s

/-- Perform one store at its point of coherence (R237, R239). A store that the core sees leaves the store buffer, unless an older store to the same bytes of an unordered page is still to come: the core goes on seeing its own last one (R243). A store that the core does not see yet stays, with what the core sees in its place. A release shows what the core has stored to its scratchpad before it. -/
def State.perform (s : State) (m : Mover) (st : PendStore) : State :=
  let c := s.agent m
  let rest := c.stores.filter (fun x => x.order ≠ st.order)
  let passed := c.openStores.any (fun x => x.order < st.order && x.meets st)
  let l := if st.seen && !passed then rest.map st.under
    else c.stores.map (fun x => if x.order = st.order then { x with done := true, old := if st.seen then [] else s.viewOf c.stores st } else x)
  let c1 : Core := { c with stores := l, shown := if st.release then max c.shown st.cyc else c.shown }
  let c2 := match st.batch with
    | some (t, rank) => c1.setBatch t (replyBatch (c1.batch t) rank (if st.poison then 16 else 0) st.data.length 1)
    | none => c1
  ((s.setAgent m c2).pokeBy (if isSem st.addr && st.batch.isSome then none else some (m, st.order)) st.addr st.data st.poison).unsynced m st

/-- Perform a store whose turn it is. One to another core's window is tested now (R228): it stays while that core writes an image or has no power (R385), and a refused one is dropped with its batch's report (R186). -/
def State.tryStore (s : State) (m : Mover) (st : PendStore) : State :=
  if isWin st.addr then
    match s.winTest ((s.ctxOf m).getD 64) st.addr st.data.length true with
    | .ok => s.perform m st
    | .wait => s
    | _ =>
      let c := s.agent m
      let c1 : Core := { c with stores := c.stores.filter (fun x => x.order ≠ st.order) }
      s.setAgent m (match st.batch with
        | some (t, rank) => c1.setBatch t (replyBatch (c1.batch t) rank 8 0 1)
        | none => c1)
  else s.perform m st

/-- Perform stores in order. -/
def State.performAll (s : State) (m : Mover) : List PendStore → State
  | [] => s
  | st :: rest => State.performAll (if st.done then s else s.tryStore m st) m rest

/-- What an agent has stored to its own window is visible to all others from here on, and its own view of it stays what its latencies give (R239). -/
def State.show_ (s : State) (m : Mover) : State :=
  let c := s.agent m
  s.setAgent m { c with shown := max c.shown (c.now + 1) }

/-- Every store of an agent is visible to all others, in order (R111, R112, R251). -/
def State.publish (s : State) (m : Mover) : State := (s.performAll m (s.agent m).stores).show_ m

/-- Every store of an agent outside unordered pages is visible to all others, in order (R108, R249). -/
def State.publishRc (s : State) (m : Mover) : State := (s.performAll m ((s.agent m).stores.filter (fun x => !x.uo))).show_ m

/-- The strongly ordered stores of an agent up to an order number, oldest first (R242). -/
def Core.soStores (c : Core) (upTo : Nat) : List PendStore := c.stores.filter (fun x => x.so && decide (x.order ≤ upTo))

/-- The address that a physical address in a twin pair has after the pairs of the lower frames `frames` swap their backings (R253). -/
def flipAddr (ts : List Twin) (frames : List Nat) (pa : Nat) : Nat :=
  match ts.find? (fun t => t.lower ∈ frames && decide (t.lower ≤ pa) && decide (pa < t.lower + 2 * t.size)) with
  | some t => if pa < t.lower + t.size then pa + t.size else pa - t.size
  | none => pa

/-- The backings of twin pairs swap (R188, R253): loads and stores that are performed later use what is visible then. -/
def State.flip (s : State) (frames : List Nat) : State :=
  let go (c : Core) : Core := { c with
    stores := c.stores.map (fun x => if x.done then x else { x with addr := flipAddr s.twins frames x.addr })
    lates := c.lates.map (fun u => { u with pa := flipAddr s.twins frames u.pa }) }
  { s with twins := flipTwins s.twins frames, cores := s.cores.map (fun c => (c.1, go c.2)), cps := s.cps.map (fun c => (c.1, go c.2)) }

/-- The L1 with a store and the younger ones that the core sees. -/
def l1Seen (l1 : List L1Line) (st : PendStore) (l : List PendStore) : List L1Line :=
  (st :: l.filter (fun x => x.seen && decide (st.order < x.order))).foldl (fun ls x => l1Store ls x.addr x.data x.poison) l1

/-- The core's own reads see a store from here on, and its L1 line is updated (R80, R106, R232); a strongly ordered store is performed here, after the earlier ones (R242). -/
def State.seeStore (s : State) (m : Mover) (order : Nat) : State :=
  let c := s.agent m
  match c.stores.find? (fun x => x.order = order) with
  | none => s
  | some st =>
    let l1 := if st.seen then c.l1 else l1Seen c.l1 st c.stores
    let s1 := s.setAgent m { c with
      stores := if st.done && !st.seen then c.stores.filter (fun x => x.order ≠ order)
        else c.stores.map (fun x => if x.order = order then { x with seen := true } else x)
      l1 := l1 }
    if st.so then s1.performAll m (c.soStores order |>.map (fun x => if x.order = order then { x with seen := true } else x)) else s1

/-- Make one result visible on an agent (R10). -/
def State.land (s : State) (m : Mover) (w : Write) : State :=
  let c := s.agent m
  match w with
  | .scalar n v pz => s.setAgent m (c.ws n v pz)
  | .byteOf n part v old pz => s.setAgent m (c.ws n (putByte old part v) pz)
  | .predicate n v mask pz => s.setAgent m (c.wp n v mask pz)
  | .bytes a d p => s.wrB a d p
  | .words a ws => s.wrWords a ws
  | .store order => s.seeStore m order
  | .flags f => s.setAgent m { c with fpflags := c.fpflags ||| f }
  | .fpflags v => s.setAgent m { c with fpflags := v &&& 0x3F }
  | .fpctl v => s.setAgent m { c with fpctl := v &&& 0x3 }
  | .acclive j v => s.setAgent m { c with acclive := tset 0 c.acclive j v }
  | .srseed j v =>
    s.setAgent m { c with srseed := lset (lset c.srseed (2 * j) (fld v 0 32)) (2 * j + 1) (fld v 32 32) }
  | .od n v p => s.setAgent m { c with od := tset (0, false) c.od n (v, p) }
  | .cd n v p => s.setAgent m { c with cd := tset (0, false) c.cd n (v, p) }
  | .shape v p => s.setAgent m { c with shape := v, shapePz := p }
  | .clkdiv d => s.setAgent m { c with div := d }
  | .zeroTile t =>
    s.wrB (winBase (match m with | .core n => n | .cp _ => 0) + 0x800000 + 4096 * t) (List.replicate 4096 0) false
  | .seqset mp tag first count =>
    s.setAgent m ((c.setMap mp (setBits (c.map mp) first false count)).setTag mp ⟨tag, 0, first, count, true⟩)
  | .trSpos v => s.setAgent m { c with tr := tset 0 c.tr 3 (v ||| (tget 0 c.tr 3 &&& 0x80000000)) }
  | .twin frames => s.flip frames
  | .arm a => s.setAgent m { c with arms := c.arms ++ [a] }

/-- Make a list of results visible in order. -/
def State.landAll (s : State) (m : Mover) : List Pend → State
  | [] => s
  | p :: rest => State.landAll (s.land m p.w) m rest

/-- The flags of an X instruction are ORed into %fpflags after a SYSWR that lands in the same cycle (R31). -/
def Write.isFlags : Write → Bool
  | .flags _ => true
  | _ => false

/-- Make visible every result that is due in the agent's present cycle (R10, R31, R40). -/
def State.landDue (s : State) (m : Mover) : State :=
  let c := s.agent m
  let s1 := s.setAgent m { c with
    pend := c.pend.filter (fun p => c.now < p.due)
    lates := c.lates.filter (fun u => decide (c.now < u.due)) }
  let due := c.pend.filter (fun p => p.due ≤ c.now)
  (s1.landAll m (due.filter (fun p => !p.w.isFlags))).landAll m (due.filter (fun p => p.w.isFlags))

/-! What an instruction does. -/

/-- What a step answers. -/
abbrev Result := Host.Outcome State Fault Refusal

/-- What an instruction's issue comes to: its effect, a trap, a fatal context error (R292), a condition of a blocking instruction that does not hold yet (R82), a freeze in which the instruction has not issued (R84), or a completing instruction of S that has issued and whose condition is tested again in the next cycle (R82). -/
inductive Effect where
  | done (s : State)
  | trap (t : TrapInfo)
  | fatal (cause addr : Nat)
  | block
  | wait
  | later (s : State)

/-- A precise trap of an engine with a code (R280). -/
def TrapInfo.of (code : Nat) (e : Engine) : TrapInfo :=
  ⟨code, 0, e.rank, false, 0, 0, 0⟩

/-- The poison-consumed trap with its record (R278). -/
def TrapInfo.poison (e : Engine) (r : PRec) : TrapInfo :=
  ⟨0x1E, 0, e.rank, false, r.cause.toNat, r.addr.toNat, 0⟩

/-- `R280` codes by name. -/
def illegalInstr (e : Engine) : Effect := .trap (TrapInfo.of 0x01 e)
def illegalOperand (e : Engine) : Effect := .trap (TrapInfo.of 0x02 e)
def alignFault (e : Engine) (a : Nat) : Effect := .trap { TrapInfo.of 0x06 e with addr := a }
def protFault (e : Engine) (a : Nat) : Effect := .trap { TrapInfo.of 0x07 e with addr := a }
def poisonTrap (e : Engine) (r : PRec) : Effect := .trap (TrapInfo.poison e r)

/-- Run `k` unless one of the operands is poisoned, in which case the poison-consumed trap is raised with the first record (R278). -/
def needClean (e : Engine) (rs : List (Option PRec)) (k : Effect) : Effect :=
  match firstPz rs with
  | some r => poisonTrap e r
  | none => k

/-! Traps. -/

/-- The record that an agent's iteration belongs to. -/
def State.recordOf (s : State) (c : Core) : Option RecordRun :=
  match c.run with
  | some (o, _) => s.records.find? (fun r => r.order = o)
  | none => none

/-- The handler line of the record, if it has a handler, with the last code line (R288, R307). -/
def State.handler (s : State) (c : Core) : Option (Nat × Nat) :=
  match s.recordOf c with
  | some r => if bitAt r.fields 107 then some ((fld r.fields 96 11).toNat, (fld r.fields 64 11).toNat) else none
  | none => none

/-- The blocking instructions (R82, R112, R322). -/
def blocks (i : Instr) : Bool :=
  match i with
  | .wait _ _ | .pfen _ | .pfenMark _ _ | .barw _ | .waitcChunk _ _ | .waitcPosting _ _ | .bclose _ | .semwge _ => true
  | _ => false

/-- Whether a group of the sequencer is a blocking instruction that is pending (R286): the next group is one, or it has issued its PFEN and waits for the others. -/
def Seq.blk (q : Seq) (cp : Bool) (e : Engine) (now : Nat) : Bool :=
  q.parked ||
  (decide (q.free ≤ now) &&
  match q.nextGroup with
  | none => false
  | some g => (match decodeGroup cp e q g with | .run i => blocks i | .illegal _ => false))

/-- A position register (R207, R286): a stream has ended once its last group has issued and fetch has stopped. A completing instruction whose condition does not hold stays S's next group. A position that a handler wrote stands until S has resumed from it. -/
def State.posWord (s : State) (m : Mover) (e : Engine) : W64 :=
  let c := s.agent m
  let q := c.seqOf e
  let cp := (match m with | .cp _ => true | .core _ => false)
  let (ln, la) := (if e = .s ∧ c.mode = .user then c.moved else none).getD (c.nextPos cp (s.wordsOf m) e)
  BitVec.ofNat 64
    ((if q.ended ∨ (c.fetch.stopped ∧ q.nextGroup.isNone) then 2 ^ 31 else 0)
      + (if q.blk cp e c.now || (e == .s && c.holds.any (fun h => h.kind == .retry)) then 2 ^ 30 else 0)
      + (if q.inLoop then 2 ^ 29 else 0) + 8 * (ln % 2048) + la % 8)

/-- %tr.cause (R285). -/
def causeWord (t : TrapInfo) : W64 :=
  BitVec.ofNat 64
    ((t.pcause % 16) * 2 ^ 20 + (t.sub % 16) * 2 ^ 16 + (t.eng % 8) * 2 ^ 13
      + (if t.async then 2 ^ 12 else 0) + t.code % 256)

/-- The seven trap registers written when a trap is taken (R284 to R287). -/
def State.trapRegs (s : State) (m : Mover) (t : TrapInfo) : Tab W64 :=
  tsetMany 0 [] 0
    [causeWord t, BitVec.ofNat 64 (t.addr % 2 ^ 52), t.detail,
      s.posWord m .s, s.posWord m .l, s.posWord m .x, s.posWord m .w]

/-- The snapshot of a core at its present cycle (R217). Its cycles are those of the stop. -/
def Core.snapshot (c : Core) : Snapshot :=
  { stop := c.now, pend := c.pend, seqs := [c.es, c.el, c.ex, c.ew], holds := c.holds
    mats := c.mats, fetch := c.fetch, banks := c.banks }

/-- The unanswered entries of a context's escalation ring, and the escalations that wait for a place (R354). -/
def State.ringOf (s : State) (x : Nat) : List EscEntry := s.escs.filter (fun e => e.ctx = x && e.seq ≠ 0)

/-- The next free place of a context's ring, after `k` entries (R354). -/
def State.freePlace (s : State) (x k : Nat) : Nat :=
  (((List.range 32).map (fun i => (k + i) % 32)).find? (fun p => !((s.ringOf x).any (fun e => e.place = p)))).getD 0

/-- The 128 bytes of a ring entry (R354); the order of the four things in it is the model's (assumption 16). -/
def EscEntry.entry (e : EscEntry) : List Byte :=
  ([BitVec.ofNat 64 e.seq, BitVec.ofNat 64 (e.ctx + 2 ^ 16 * e.core + 2 ^ 32 * e.cp.toNat)] ++ e.regs ++ [e.hcause, e.hpos]
    ++ List.replicate 5 0).flatMap (fun (w : W64) => natLe 8 w.toNat)

/-- Give the oldest waiting escalation of a context the next place of its ring, while one of the 32 is free, and raise the context's escalation vector (R354). An entry that waits has the number 0. -/
def State.fillRing (s : State) (x : Nat) : State :=
  match s.context x, s.escs.find? (fun e => e.ctx = x && e.seq = 0) with
  | some cx, some e =>
    if 32 ≤ (s.ringOf x).length then s
    else
      let k := cx.escCount + 1
      let m : Mover := if e.cp then .cp x else .core e.core
      let place := s.freePlace x cx.escCount
      let s1 := (s.setContext x { cx with escCount := k }).wrB (cx.save + 4096 + 128 * place) ({ e with seq := k }).entry false
      let s2 : State := { s1 with escs := (s1.escs.erase e) ++ [{ e with seq := k, place := place }] }
      (s2.setAgent m { (s2.agent m) with escSeq := some k }).interrupt cx.escVector
  | _, _ => s

/-- An escalation (R291, R354): the agent stops, and its entry goes to the ring. `hc` and `hp` are the handler's own fault, or 0. -/
def State.escalate (s : State) (m : Mover) (hc hp : W64) : State :=
  let c := s.agent m
  let x := (match m with | .core _ => c.ctx.getD 0 | .cp x => x)
  let n := (match m with | .core n => n | .cp _ => 0)
  let cp := (match m with | .core _ => false | .cp _ => true)
  let regs := (List.range 7).map (fun i => tget 0 c.tr i)
  let s1 := s.setAgent m { c with mode := .escalated, escSeq := none, turn := 0 }
  ({ s1 with escs := s1.escs ++ [⟨x, n, cp, 0, regs, hc, hp, 0⟩] } : State).fillRing x

/-- Stop an agent with its snapshot taken and its in-flight work set aside (R216, R217, R288). -/
def Core.stopped (c : Core) (tr : Tab W64) : Core :=
  { c with
    tr := tr
    snap := some c.snapshot
    pend := [], holds := [], mats := [], banks := [], lates := []
    es := Seq.reset
    el := Seq.reset
    ex := Seq.reset
    ew := Seq.reset
    turn := 0, frozen := false }

/-- The state in which an agent stops: what has reached its window is in it, and the copies that it has issued have begun (R82, R85). -/
def State.atStop (s : State) (m : Mover) : State :=
  let s1 := (match m with | .core n => s.landInbox n | .cp _ => s)
  s1.setAgent m (s1.begun m)

/-- Taking a trap (R216, R217, R282 to R291), the one shared operation. In user mode the seven trap registers and the snapshot are written; S then begins the record's handler no earlier than three cycles on, or, where the record has none and on the command processor, the trap escalates. A trap in handler mode escalates with the fault's code and position. -/
def State.takeTrap (s0 : State) (m : Mover) (t : TrapInfo) : State :=
  let s := s0.atStop m
  let c := s.agent m
  match c.mode with
  | .handler => s.escalate m (causeWord t) (s.posWord m .s)
  | _ =>
    let c1 := c.stopped (s.trapRegs m t)
    match (match m with | .core _ => s.handler c | .cp _ => none) with
    | none => (s.setAgent m c1).escalate m 0 0
    | some (hline, _) =>
      State.pass (s.setAgent m { c1 with
        mode := .handler
        now := c.now + 1
        es := { Seq.reset with free := c.now + 3, line := hline, lane := 0 }
        fetch := { FetchUnit.reset with next := hline, ready := c.now + 1 } }) m (s.cycleLen m)

/-- Shift a sequencer's times from the stop cycle to the resumption cycle (R218). -/
def Seq.shift (q : Seq) (stop u : Nat) : Seq := { q with free := u + (q.free - stop) }

/-- The operations in flight of a snapshot, moved to the resumption cycle (R165, R218). -/
def MatOp.shift (o : MatOp) (stop u : Nat) : MatOp :=
  { o with start := u + o.start - stop, cyc := u + o.cyc - stop }

/-- The results of a snapshot, each at its offset from the resumption cycle, ordered with the results in flight by their original issue position (R218). -/
def resumePend (old : List Pend) (stop u : Nat) (now : List Pend) : List Pend :=
  old.foldr (fun p acc => insertBy Pend.before { p with due := u + (p.due - stop), cyc := p.cyc } acc) now

/-- Give S the position that the handler wrote (R286): S goes on from it as a plain stream, what it was waiting to complete is discarded, and the other sequencers take groups from where fetch had come. -/
def Core.moveS (c : Core) (l a u : Nat) : Core :=
  let f := c.fetch.next
  let keep (q : Seq) : Seq := { q with fromLine := max q.fromLine f, fromLane := if q.fromLine ≤ f then 0 else q.fromLane }
  { c with
    es := { Seq.reset with free := u, line := l, lane := a, fromLine := l, fromLane := a }
    el := keep c.el
    ex := keep c.ex
    ew := keep c.ew
    fetch := { FetchUnit.reset with next := min l f, ready := u }
    holds := c.holds.filter (fun h => h.kind == .data) }

/-- The return from a trap, the one shared operation: the core resumes in cycle `u` from its snapshot (R218, R290). A completing instruction that was pending is tested from `u` on (R283). A position that the handler wrote into %tr.spos replaces S's. N goes on after a fault of its own (R272). -/
def Core.resume (c : Core) (u : Nat) : Core :=
  match c.snap with
  | none => { c with mode := .user, back := u }
  | some sn =>
    let q (i : Nat) : Seq := (sn.seqs.getD i Seq.reset).shift sn.stop u
    let r : Core := { c with
      mode := .user
      es := q 0
      el := q 1
      ex := q 2
      ew := q 3
      pend := resumePend sn.pend sn.stop u c.pend
      holds := c.holds ++ sn.holds.map (fun h => { h with due := if h.kind = .retry then u else u + (h.due - sn.stop) })
      mats := sn.mats.map (fun o => o.shift sn.stop u)
      banks := c.banks ++ sn.banks.map (fun b => (u + (b.1 - sn.stop), b.2))
      q := c.q.map (fun x => (x.1, x.2.map (fun e => if sn.stop ≤ e.vis then { e with vis := u + (e.vis - sn.stop) } else e)))
      fetch := { sn.fetch with ready := u + (sn.fetch.ready - sn.stop) }
      escSeq := none
      snap := none
      nrun := if fld (tget 0 c.tr 0) 13 3 = 4 then c.nrun.map (fun r => { r with faulted := false }) else c.nrun
      back := u }
    match c.moved with
    | some (l, a) => r.moveS l a u
    | none => r

/-- What the handler of a step fault decides (R272): N's commands are discarded, or N goes on at the faulting step. By what means a handler says so the manual does not tell, so that the choice is free. -/
def State.answerStep (s : State) (m : Mover) (cause : W64) : State :=
  if fld cause 0 8 = 0x1B then
    if Config.freeVerdict s.fresh then (s.setAgent m { s.agent m with ncmds := [], nrun := none }).bump else s.bump
  else s

/-- Settle the WAITs of the engines before `e` that are still deferred in this cycle: they come before the faulting instruction (R40, R216). -/
def Core.settleWait (c : Core) (e : Engine) : Core :=
  let q := c.seqOf e
  if q.free ≤ c.now ∧ !q.parked ∧ !q.ended then
    match q.nextGroup with
    | none => c
    | some g =>
      let k := (fld g.code.word 21 5).toNat
      let n := fld g.code.word 0 16
      let t := c.tok k
      if (fld g.code.word 26 6).toNat = 0x3E ∧ n.toNat ≤ t.count.toNat then
        (c.setTok k { t with count := t.count - n }).setSeq e (q.issued c.now 1)
      else c
  else c

/-- Settle the deferred WAITs of every engine that comes before rank `r`. -/
def Core.settleBefore (c : Core) (r : Nat) : Core :=
  [Engine.s, .l, .x, .w].foldl (fun c e => if e.rank < r then c.settleWait e else c) c

/-- A synchronous trap of the agent that issues, charged to `e` (R216, R282). -/
def State.syncTrap (s : State) (e : Engine) (t : TrapInfo) : State :=
  let c := s.cur
  let c1 := if c.mode = .user ∧ c.turn ≤ 4 then c.settleBefore e.rank else c
  (s.setCur c1).takeTrap s.here t

/-- A fatal context error raised by the agent that issues (R11, R292): it stops at once, and the context ends at the next step. -/
def State.raiseFatal (s : State) (m : Mover) (cause addr : Nat) : State :=
  let c := s.agent m
  let x := (match m with | .core _ => c.ctx.getD 64 | .cp x => x)
  let n := (match m with | .core n => n | .cp _ => 0)
  let s1 := s.setAgent m { c with mode := .held, turn := 0 }
  { s1 with fatal := s1.fatal ++ [⟨x, cause, addr, n⟩] }

/-- The agent after engine `e` has issued its group with occupancy `occ`. -/
def Core.issued (c : Core) (e : Engine) (occ : Nat) : Core :=
  { c.setSeq e ((c.seqOf e).issued c.now occ) with turn := c.turn + 1 }

/-- The agent stays frozen: reference cycles pass (R84). What is pending is taken at the boundary before the cycle (R283). -/
def State.frozen (s : State) : State :=
  ((s.modCur (fun c => { c with frozen := true })).pass s.here (1 + Config.freeDelay s.fresh)).bump

/-- The end of an instruction of engine `e` with issue occupancy `occ`: its effect and the move to the next group, a trap, a fatal error, or a wait. -/
def State.issueOcc (s : State) (e : Engine) (occ : Nat) (x : Effect) : Result :=
  match x with
  | .done s' => .next (s'.modCur (fun c => c.issued e occ))
  | .trap t => .next (s.syncTrap e t)
  | .fatal k a => .next (s.raiseFatal s.here k a)
  | .block => .next (s.modCur (fun c => { c with turn := c.turn + 1 }))
  | .wait => .next s.frozen
  | .later s' => .next (s'.modCur (fun c => Core.hold { c with turn := c.turn + 1 } 1 .retry))

/-- The end of an instruction with occupancy 1 (R83). -/
def State.issue (s : State) (e : Engine) (x : Effect) : Result :=
  s.issueOcc e 1 x

end Sys2Proof.Machine
end

