-- ==== Sys2Proof/Machine/Operands.lean ====
section
/-! DEFINITION. Operand forms: scalar sources and immediates (R87), memory and local addresses (R62, R106, R166), slices (R43, R45), the third source (R125). -/

namespace Sys2Proof.Machine

/-- The sign-extended 14-bit immediate (R87). -/
def imm64 (f : SImm) : W64 := f.imm.signExtend 64

/-- Write a computed scalar result: a poisoned result has a free value (R52, R277). -/
def State.putS (s : State) (e : Engine) (lat : Nat) (sd : BitVec 6) (v : W64) (pz : Option PRec) : State :=
  match pz with
  | none => s.modCur (fun c => c.emitS e lat sd v none)
  | some r => (s.modCur (fun c => c.emitS e lat sd s.freeW (some r))).bump

/-- Write a moved scalar result: the data travels with its tag (R52). -/
def State.moveS (s : State) (e : Engine) (lat : Nat) (sd : BitVec 6) (v : Tagged 64) : State :=
  s.modCur (fun c => c.emitS e lat sd v.v v.pz)

/-- Write a computed predicate result: a poisoned result has free lanes (R52, R277). -/
def State.putP (s : State) (e : Engine) (lat n : Nat) (v m : W32) (pz : Option PRec) : State :=
  match pz with
  | none => s.modCur (fun c => c.emit e lat (.predicate n v m none))
  | some r => (s.modCur (fun c => c.emit e lat (.predicate n (fld s.freeW 0 32) m (some r)))).bump

/-- A register-register operation (R87). -/
def alu2 (s : State) (f : SReg) (lat : Nat) (op : W64 → W64 → W64) : Effect :=
  let a := s.cur.rs f.sa.toNat
  let b := s.cur.rs f.sb.toNat
  .done (s.putS .s lat f.sd (op a.v b.v) (firstPz [a.pz, b.pz]))

/-- A one-source register operation (R87). -/
def alu1 (s : State) (f : SReg) (lat : Nat) (op : W64 → W64) : Effect :=
  let a := s.cur.rs f.sa.toNat
  .done (s.putS .s lat f.sd (op a.v) a.pz)

/-- An operation on sa, sb and the old destination (R91, R92, R277). -/
def alu3 (s : State) (f : SReg) (lat : Nat) (op : W64 → W64 → W64 → W64) : Effect :=
  let a := s.cur.rs f.sa.toNat
  let b := s.cur.rs f.sb.toNat
  let d := s.cur.rs f.sd.toNat
  .done (s.putS .s lat f.sd (op a.v b.v d.v) (firstPz [a.pz, b.pz, d.pz]))

/-- A register-immediate operation (R87). -/
def aluImm (s : State) (f : SImm) (op : W64 → W64 → W64) : Effect :=
  let a := s.cur.rs f.sa.toNat
  .done (s.putS .s 1 f.sd (op a.v (imm64 f)) a.pz)

/-- A compare of sa with a second value, written to predicate pd, which stands in the high four bits of the sd field (R93). -/
def cmpTo (s : State) (cc : BitVec 3) (sd sa : BitVec 6) (b : Tagged 64) : Effect :=
  let a := s.cur.rs sa.toNat
  .done (s.putP .s 1 (fld sd 2 4).toNat (condMask (condHolds cc a.v b.v)) 0xFFFFFFFF (firstPz [a.pz, b.pz]))

/-- A predicate named by the low four bits of a register field (R94). -/
def Core.predOf (c : Core) (f : BitVec 6) : Tagged 32 := c.rp (fld f 0 4).toNat

/-- Add a signed step to an address modulo 2^52 (R64). -/
def addrAdd (a : Nat) (k : Int) : Nat := (((a : Int) + k) % 2 ^ 52).toNat

/-- The address of a scalar load or store: a + imm modulo 2^52 (R106). -/
def immAddr (a : W64) (f : SImm) : Nat := (a + (imm64 f)).toNat % 2 ^ 52

/-- A scalar taken as a memory address (R166). -/
def memAddr (v : W64) : Nat := v.toNat % 2 ^ 52

/-! Slices. -/

/-- The row and column of lane `i` of a slice (R43): direction 0 h, 1 v, 2 d. -/
def sliceRC (dir : BitVec 2) (k i : Nat) : Nat × Nat :=
  match dir.toNat with
  | 0 => (k, i)
  | 1 => (i, k)
  | _ => (i, (i + k) % 32)

/-- The address of lane `i` of a slice. -/
def sliceAddr (core reg : Nat) (dir : BitVec 2) (k i : Nat) : Nat :=
  mAddr core reg (sliceRC dir k i).1 (sliceRC dir k i).2

/-- The 32 words of a slice with their poison. -/
def State.slice (s : State) (core reg : Nat) (dir : BitVec 2) (k : Nat) : List (W32 × Bool) :=
  (List.range 32).map (fun i => s.word (sliceAddr core reg dir k i))

/-- The writes of some lanes of a slice. -/
def sliceWrites (core reg : Nat) (dir : BitVec 2) (k : Nat) (lanes : List (Option (W32 × Bool))) : List Write :=
  (List.range 32).filterMap (fun i =>
    match lanes.getD i none with
    | some (w, p) => some (.bytes (sliceAddr core reg dir k i) (natLe 4 w.toNat) p)
    | none => none)

/-- The issuing sequencer's own line (R95). -/
def State.ownLine (s : State) (e : Engine) : Nat := (s.cur.seqOf e).pos.1

end Sys2Proof.Machine
end

