-- ==== Sys2Proof/Machine/Xlat.lean ====
section
/-! DEFINITION. The accesses of synchronous instructions to memory, windows and the L1 (R228, R231, R232, R242), sequence tags (R49, R185) and scratchpad banks (R151, R167). -/

namespace Sys2Proof.Machine

/-- The core whose translation cache the issuing agent uses. -/
def State.myTlb (s : State) : Option Nat :=
  match s.here with
  | .core n => some n
  | .cp _ => none

/-- Causes of the fatal context error, as the model numbers them (R292, R361, R373; assumption 9). -/
def fatalMiss : Nat := 1
def fatalEscalation : Nat := 2
def fatalTable : Nat := 3
def fatalSlot : Nat := 4
def fatalCpFetch : Nat := 5
def fatalNoImage : Nat := 6
def fatalCoreState : Nat := 7
def fatalCtxEnd : Nat := 8
def fatalGroup : Nat := 9
def fatalStep : Nat := 10
def fatalKill : Nat := 11
def fatalOffline : Nat := 12
def fatalMachine : Nat := 13

/-- Translate for the issuing agent: a miss and a poisoned entry are fatal, a permission failure a fault, a hold a freeze (R361, R364). -/
def State.xlatMine (s : State) (e : Engine) (va n : Nat) (wr : Bool) : Except Effect (State × Trans) :=
  match s.translate (s.myCtx.getD 64) s.myTlb va n wr false with
  | .ok s' t => .ok (s', t)
  | .miss => .error (.fatal fatalMiss va)
  | .prot => .error (protFault e va)
  | .bad a => .error (.fatal fatalTable a)
  | .held => .error .wait

/-! The core's own window (R227). -/

/-- Whether a physical address lies in the window of the issuing core. -/
def State.ownWin (s : State) (pa : Nat) : Bool :=
  match s.here with
  | .core n => decide (winBase n ≤ pa) && decide (pa < winBase n + 0x1000000)
  | .cp _ => false

/-- Whether it lies in the issuing core's own scratchpad. -/
def State.ownSpm (s : State) (pa : Nat) : Bool :=
  match s.here with
  | .core n => decide (winBase n ≤ pa) && decide (pa < winBase n + 0x200000)
  | .cp _ => false

/-! Sequence tags (R49, R152, R185). -/

/-- Whether a pending entry's range overlaps `n` bytes from a scratchpad offset. -/
def TagEntry.covers (t : TagEntry) (off n : Nat) : Bool :=
  t.pending && decide (t.first * 512 < off + n) && decide (off < (t.first + t.count) * 512)

/-- The detail word of a schedule fault (R287). -/
def tagDetail (m : Nat) (t : TagEntry) : W64 :=
  BitVec.ofNat 64 (t.expected.toNat * 2 ^ 48 + t.arrived.toNat * 2 ^ 32 + m)

/-- Compare the tags of a read of the core's own scratchpad; the keys of the pending entries are given. -/
def Core.tagScan (c : Core) (e : Engine) (off n : Nat) : List Nat → Except Effect Core
  | [] => .ok c
  | m :: rest =>
    let t := c.tag m
    if t.covers off n then
      if t.arrived = t.expected then Core.tagScan (c.setTag m { t with pending := false }) e off n rest
      else .error (.trap { TrapInfo.of 0x13 e with detail := tagDetail m t })
    else Core.tagScan c e off n rest

/-- The tag comparison of a scratchpad read of the issuing core (R185). -/
def State.tagCheck (s : State) (e : Engine) (off n : Nat) : Except Effect State :=
  match s.cur.tagScan e off n (s.cur.tg.map (·.1)) with
  | .ok c => .ok (s.setCur c)
  | .error x => .error x

/-! Banks (R150, R151, R167). -/

/-- The bank and the block of a scratchpad offset (R150). -/
def bankOf (off : Nat) : Nat := off / 0x100000 % 2 * 16 + off / 128 % 16
def blockOf (off : Nat) : Nat := off / 128

/-- Whether two bank accesses, each a cycle, a bank and a block, conflict (R151); bank 32 stands for every bank of group A and 33 for every bank of group B. -/
def bankClash (a b : Nat × Nat × Nat) : Bool :=
  a.1 == b.1 &&
    ((a.2.1 == b.2.1 && decide (a.2.1 < 32) && a.2.2 != b.2.2)
      || (a.2.1 == 32 && decide (b.2.1 < 16)) || (b.2.1 == 32 && decide (a.2.1 < 16))
      || (a.2.1 == 33 && decide (16 ≤ b.2.1) && decide (b.2.1 < 32))
      || (b.2.1 == 33 && decide (16 ≤ a.2.1) && decide (a.2.1 < 32))
      || (decide (32 ≤ a.2.1) && a.2.1 == b.2.1))

/-- Record bank accesses, or find a conflict with those of issued instructions or among themselves (R151). -/
def State.useBanks (s : State) (e : Engine) : List (Nat × Nat × Nat) → Except Effect State
  | [] => .ok s
  | u :: rest =>
    if s.cur.banks.any (bankClash u) then .error (.trap (TrapInfo.of 0x11 e))
    else State.useBanks (s.modCur (fun c => { c with banks := u :: c.banks })) e rest

/-- The bank access of one unit, `at_` cycles from now. -/
def State.useBank (s : State) (e : Engine) (at_ off : Nat) : Except Effect State :=
  s.useBanks e [(s.cur.now + at_, bankOf off, blockOf off)]

/-! Reads. -/

/-- What a read obtains: the state after it, the bytes with their poison, whether the data may be late (R84), and for each unit the bytes that memory may still be read for: the physical address, the length, 0 for a unit that is bound, and whether the page is unordered. -/
structure Got where
  s : State
  data : List (Byte × Bool)
  late : Bool
  units : List (Nat × Nat × Bool)

/-- A byte in a line of the L1. -/
def l1Byte (l : List L1Line) (pa : Nat) : Option (Byte × Bool) :=
  match l.find? (fun ln => decide (ln.base ≤ pa) && decide (pa < ln.base + 128)) with
  | some ln => some (ln.data.getD (pa - ln.base) 0, ln.pz.getD (pa - ln.base) false)
  | none => none

/-- A byte as the issuing agent sees it (R10, R106, R232); a line of the L1 has taken the stores that the core sees. -/
def State.coreByte (s : State) (cache : Bool) (pa : Nat) : Byte × Bool :=
  let c := s.cur
  match (if cache then l1Byte c.l1 pa else none) with
  | some b => b
  | none => ownView c.stores pa (if isHbm pa || isHost pa then s.byteC pa else if s.ownWin pa then (s.mem.rd pa, poisonedAt s.pz pa) else s.outByte pa)

/-- Allocate the line of an address in the L1 after a miss (R232); a line of the free choice is replaced, and at most 1,024 lines are held (R3). -/
def State.allocLine (s : State) (pa : Nat) : State :=
  let base := pa - pa % 128
  let bs := (List.range 128).map (fun i => s.coreByte false (base + i))
  let c := s.cur
  (s.setCur { c with l1 := (⟨base, bs.map (·.1), bs.map (·.2)⟩ :: c.l1.eraseIdx (Config.freeVictim s.fresh)).take 1024 }).bump

/-- Strongly ordered stores of the agent are visible before its next strongly ordered access (R242); where the hardware freezes for that, the model performs them. -/
def State.soFirst (s : State) (t : Trans) : State := if t.so then (s.performAll s.here (s.cur.stores.filter (fun x => x.so))).show_ s.here else s

/-- Loads whose data is late and that touch one of `n` bytes have their values from here on (R236). -/
def Core.settleLates (c : Core) (pa n : Nat) : Core :=
  { c with lates := c.lates.filter (fun u => !(decide (u.pa < pa + n) && decide (pa < u.pa + u.n))) }

/-- Every earlier load has its value bound (R111), or every one outside unordered pages (R108, R249). -/
def State.bindLoads (s : State) : State := s.modCur (fun c => { c with lates := [] })
def State.bindRc (s : State) : State := s.modCur (fun c => { c with lates := c.lates.filter (fun u => u.uo) })

/-- The units of a load that are still open: memory may be read for them until the result is due; those of an LDA, with its scope `acq`, only for a release that does not synchronise with it (R247). -/
def Core.addLates (c : Core) (lat : Nat) (us : List (Nat × Nat × Bool)) (dst : Nat → LateTo) (acq : Option Nat := none) : Core :=
  { c with lates := c.lates ++ ((us.zipIdx.filter (fun u => decide (0 < u.1.2.1))).map (fun u => ⟨u.1.1, u.1.2.1, c.now, c.now + lat, u.1.2.2, dst u.2, acq⟩)) }

/-- Read one unit at a translated address outside the core's own scratchpad. Memory may still be read for it until its data is due, unless its page orders it or it hits the L1 (R241, R243). -/
def State.readAt (s : State) (t : Trans) (n : Nat) : Got :=
  let s0 := (s.soFirst t).modCur (fun c => c.settleLates t.pa n)
  let open_ := if t.so then (0, 0, false) else (t.pa, n, t.uo)
  let get (s : State) (cache : Bool) : List (Byte × Bool) := (List.range n).map (fun i => s.coreByte cache (t.pa + i))
  if (isHbm t.pa || isHost t.pa) && t.cache && !t.so && !t.twin && !s.isCp then
    if (l1Byte s0.cur.l1 t.pa).isSome then ⟨s0, get s0 true, false, [(0, 0, false)]⟩
    else
      let s1 := s0.allocLine t.pa
      ⟨s1, get s1 true, true, [open_]⟩
  else ⟨s0, get s0 false, true, [open_]⟩

/-- Whether the issuing core's translation cache holds a page. -/
def State.tlbHit (s : State) (va : Nat) : Bool := !s.isCp && s.cur.tlb.any (fun t => decide (t.va ≤ va) && decide (va < t.va + t.size))

/-- Read one naturally aligned unit of `n` bytes at a virtual address (R166, R228, R235, R361); a scratchpad read uses its bank `at_` cycles from now. A read whose translation the core does not hold is late (R84, R361). -/
def State.readUnit (s : State) (e : Engine) (va n at_ : Nat) : Except Effect Got :=
  match s.xlatMine e (va % 2 ^ 52) n false with
  | .error x => .error x
  | .ok (s1, t) =>
    if isWin t.pa then
      if s1.ownSpm t.pa then
        let off := t.pa % 0x1000000
        match s1.tagCheck e off n with
        | .error x => .error x
        | .ok s2 =>
          match (s2.soFirst t).useBank e at_ off with
          | .error x => .error x
          | .ok s3 =>
            .ok ⟨s3, (List.range n).map (fun i => if t.so then s3.outByte (t.pa + i) else (s3.mem.rd (t.pa + i), poisonedAt s3.pz (t.pa + i))), !s.tlbHit (va % 2 ^ 52), [(0, 0, false)]⟩
      else
        match s1.winTest (s1.myCtx.getD 64) t.pa n false with
        | .ok => .ok (s1.readAt t n)
        | .wait => .error .wait
        | _ => .error (protFault e va)
    else
      let g := s1.readAt t n
      .ok { g with late := g.late || !s.tlbHit (va % 2 ^ 52) }

/-- Read units one after another. -/
def State.readUnits (s : State) (e : Engine) (n : Nat) : List (Nat × Nat) → Except Effect Got
  | [] => .ok ⟨s, [], false, []⟩
  | (va, at_) :: rest =>
    match s.readUnit e va n at_ with
    | .error x => .error x
    | .ok g =>
      match State.readUnits g.s e n rest with
      | .error x => .error x
      | .ok h => .ok ⟨h.s, g.data ++ h.data, g.late || h.late, g.units ++ h.units⟩

/-- The value and the poison of a unit that was read. -/
def Got.value (g : Got) : Nat := leNat (g.data.map (·.1))
def Got.poisoned (g : Got) : Bool := g.data.any (·.2)

/-- Late data holds the core before the cycle in which it is due (R84). -/
def holdLate (c : Core) (lat : Nat) (late : Bool) : Core := if late then c.hold lat .data else c

/-! Writes. -/

/-- The next order number of a store. -/
def Core.nextOrder (c : Core) : Nat := (c.stores.map (·.order + 1)).foldl max 0

/-- Whether a store is a release beyond scope .core: `rel` is the scope of an STL (R108). -/
def wideRel (rel : Option Nat) : Bool := rel.any (· ≠ 0)

/-- Put a store into the store buffer; the core's own reads see it `lat` cycles on (R80, R237). An earlier load of its bytes has its value (R246). -/
def State.pushStore (s : State) (e : Engine) (lat : Nat) (t : Trans) (d : List Byte) (poison : Bool) (rel : Option Nat)
    (batch : Option (Nat × BitVec 16)) : State :=
  s.modCur (fun c =>
    let k := c.nextOrder
    let st : PendStore := ⟨k, false, t.pa, d, poison, t.so, t.uo, wideRel rel, c.now, e.rank, c.fences, false, [], batch, rel⟩
    Core.emit { c.settleLates t.pa d.length with stores := c.stores ++ [st] } e lat (.store k))

/-- Perform the youngest store of the issuing agent. -/
def State.performLast (s : State) : State :=
  match s.cur.stores.getLast? with
  | some st => s.perform s.here st
  | none => s

/-- The stores that a fence of S in this cycle waits for are visible to all before a later store of the cycle is (R111). -/
def State.fencedFirst (s : State) : State :=
  if s.cur.holds.any (fun h => h.kind = .retry) then
    s.performAll s.here (s.cur.openStores.filter (fun x => decide (x.cyc < s.cur.now)))
  else s

/-- A store of one unit at a translated address. The core's own window takes it when it becomes visible to the core, and earlier loads of its bytes have their values (R246); memory takes it through the store buffer; another core's window, a semaphore and a code table take it at once (R228), the core's own reads at its latency. -/
def State.writeAt (s : State) (e : Engine) (lat : Nat) (t : Trans) (d : List Byte) (poison : Bool) (rel : Option Nat) : State :=
  if s.ownWin t.pa then (s.soFirst t).modCur (fun c => (c.settleLates t.pa d.length).emit e lat (.bytes t.pa d poison))
  else if isHbm t.pa || isHost t.pa then s.pushStore e lat t d poison rel none
  else ((s.fencedFirst.soFirst t).pushStore e lat t d poison rel none).performLast

/-- The tests that a write meets after its translation: a unit that refuses writes (R403), the window's test (R228), and the bank of the core's own scratchpad. -/
def State.writeTests (s : State) (e : Engine) (va : Nat) (t : Trans) (n at_ : Nat) : Except Effect State :=
  if s.sealedAt t.pa then .error (.trap { TrapInfo.of 0x20 .s with sub := 4, addr := va })
  else if isWin t.pa then
    if s.ownSpm t.pa then s.useBank e at_ (t.pa % 0x1000000)
    else
      match s.winTest (s.myCtx.getD 64) t.pa n true with
      | .ok => .ok s
      | .wait => .error .wait
      | _ => .error (protFault e va)
  else .ok s

/-- Store one naturally aligned unit at a virtual address (R106, R166, R228, R361, R403). -/
def State.writeUnit (s : State) (e : Engine) (lat va at_ : Nat) (d : List Byte) (poison : Bool) : Except Effect State :=
  match s.xlatMine e (va % 2 ^ 52) d.length true with
  | .error x => .error x
  | .ok (s1, t) =>
    match s1.writeTests e va t d.length at_ with
    | .error x => .error x
    | .ok s2 => .ok (s2.writeAt e lat t d poison none)

/-- Store units one after another: virtual address, bank cycle, bytes, poison. -/
def State.writeUnits (s : State) (e : Engine) (lat : Nat) : List (Nat × Nat × List Byte × Bool) → Except Effect State
  | [] => .ok s
  | (va, at_, d, p) :: rest =>
    match s.writeUnit e lat va at_ d p with
    | .error x => .error x
    | .ok s1 => State.writeUnits s1 e lat rest

/-- An effect that may have failed. -/
def Effect.ofExcept (x : Except Effect State) : Effect :=
  match x with
  | .ok s => .done s
  | .error e => e

end Sys2Proof.Machine
end

