-- ==== Sys2Proof/Machine/ScalarMem.lean ====
section
/-! DEFINITION. Scalar loads and stores (R106 to R108), atomics with their journal (R109, R110, R387), fences (R111) and pins (R113, R114). -/

namespace Sys2Proof.Machine

/-! Loads and stores. -/

/-- Write a loaded value: data poisoned in memory poisons the register with the load's address (R106, R276). -/
def State.loadS (s : State) (lat : Nat) (sd : BitVec 6) (a : Nat) (g : Got) : State :=
  s.modCur (fun c => holdLate
    (c.emitS .s lat sd (BitVec.ofNat 64 g.value) (if g.poisoned then some (dataPz a) else none)) lat g.late)

/-- The unit of a scalar load stays open until its data is due (R241). -/
def State.loadOpen (s : State) (lat : Nat) (sd : BitVec 6) (a : Nat) (g : Got) (acq : Option Nat := none) : State :=
  s.modCur (fun c => c.addLates lat g.units (fun _ => .scalar sd.toNat a) acq)

/-- A load of `n` bytes at a virtual address into s[sd] (R106). -/
def loadEffect (s : State) (sd : BitVec 6) (a n : Nat) : Effect :=
  if a % n ≠ 0 then alignFault .s a
  else
    match s.readUnit .s a n 0 with
    | .error x => x
    | .ok g => .done ((g.s.loadS 4 sd a g).loadOpen 4 sd a g)

/-- LD (R106). -/
def execLd (w : BitVec 2) (f : SImm) (s : State) :=
  let a := s.cur.rs f.sa.toNat
  s.issue .s (needClean .s [a.pz] (loadEffect s f.sd (immAddr a.v f) (2 ^ w.toNat)))

/-- ST (R106): the stored scalar carries its poison. -/
def execSt (w : BitVec 2) (f : SImm) (s : State) :=
  let a := s.cur.rs f.sa.toNat
  let d := s.cur.rs f.sd.toNat
  let n := 2 ^ w.toNat
  let va := immAddr a.v f
  s.issue .s (needClean .s [a.pz]
    (if va % n ≠ 0 then alignFault .s va
     else Effect.ofExcept (s.writeUnit .s 1 va 0 (natLe n d.v.toNat) d.pz.isSome)))

/-- What a speculative load writes where LD would fault (R107, R276): poison with its cause. -/
def specFail (s : State) (sd : BitVec 6) (a cause : Nat) : Effect :=
  .done (s.putS .s 4 sd 0 (some ⟨BitVec.ofNat 4 cause, BitVec.ofNat 52 a⟩))

/-- LD.spec (R107): an alignment fault, a protection fault or a miss is deferred. -/
def execLdSpec (w : BitVec 2) (f : SImm) (s : State) :=
  let a := s.cur.rs f.sa.toNat
  let n := 2 ^ w.toNat
  let va := immAddr a.v f
  s.issue .s (needClean .s [a.pz]
    (if va % n ≠ 0 then specFail s f.sd va 2
     else
      match s.translate (s.myCtx.getD 64) s.myTlb va n false false with
      | .miss => specFail s f.sd va 4
      | .prot => specFail s f.sd va 3
      | _ =>
        match loadEffect s f.sd va n with
        | .trap t => if t.code = 0x07 then specFail s f.sd va 3 else .trap t
        | x => x))

/-! Acquire and release (R108). -/

/-- The size of a word or doubleword access. -/
def wd (d : BitVec 1) : Nat := if d = 1 then 8 else 4

/-- The scope code of LDA and STL, in the high three bits of the sb field (R108). -/
def scopeOf (f : SReg) : Nat := (fld f.sb 3 3).toNat

/-- Invalidate the L1 at scope .cluster or wider (R111, R232). -/
def State.dropL1 (s : State) (scope : Nat) : State :=
  if scope = 0 then s else s.modCur (fun c => { c with l1 := [] })

/-- Make every earlier store of the issuing agent outside unordered pages visible (R108, R246, R249), or every earlier store (R251). -/
def State.drain (s : State) : State := s.publishRc s.here
def State.drainAll (s : State) : State := s.publish s.here

/-- A page of kind UO refuses acquires, releases and atomics (R243). -/
def refuseUo (e : Engine) (a : Nat) (t : Trans) (k : Effect) : Effect := if t.uo then protFault e a else k

/-- LDA (R108): an acquire load; poisoned data raises the poison-consumed trap. What it has read stands, but for a release that a scope keeps from synchronising with it (R247). -/
def execLda (d : BitVec 1) (f : SReg) (s : State) :=
  let a := s.cur.rs f.sa.toNat
  let va := memAddr a.v
  s.issue .s (needClean .s [a.pz]
    (if va % wd d ≠ 0 then alignFault .s va
     else
      match s.xlatMine .s va (wd d) false with
      | .error x => x
      | .ok (s1, t) =>
        refuseUo .s va t
          (match (s1.dropL1 (scopeOf f)).readUnit .s va (wd d) 0 with
           | .error x => x
           | .ok g => if g.poisoned then poisonTrap .s (dataPz va) else .done ((g.s.loadS 4 f.sd va g).loadOpen 4 f.sd va g (some (scopeOf f))))))

/-- STL (R108): a release store, visible in its scope only after every earlier access outside unordered pages. At scope .core every earlier store to memory is so already (R239). -/
def execStl (d : BitVec 1) (f : SReg) (s : State) :=
  let a := s.cur.rs f.sa.toNat
  let v := s.cur.rs f.sd.toNat
  let va := memAddr a.v
  s.issue .s (needClean .s [a.pz]
    (if va % wd d ≠ 0 then alignFault .s va
     else
      match s.xlatMine .s va (wd d) true with
      | .error x => x
      | .ok (s1, t) =>
        refuseUo .s va t
          (match s1.writeTests .s va t (wd d) 0 with
           | .error x => x
           | .ok s2 =>
             let wide := scopeOf f ≠ 0
             let s3 := if (isHbm t.pa || isHost t.pa) && !t.so then s2.bindRc
               else if wide then s2.bindRc.drain else s2.bindRc.show_ s2.here
             .done (s3.writeAt .s 1 t (natLe (wd d) v.v.toNat) v.pz.isSome (some (scopeOf f))))))

/-! Atomics (R109, R110). -/

/-- The operation of an AMO on `n`-bit values (R77, R109). -/
def amoOp (op : BitVec 4) (n : Nat) (old b : Nat) : Nat :=
  let x : BitVec n := BitVec.ofNat n old
  let y : BitVec n := BitVec.ofNat n b
  match op.toNat with
  | 0 => (x + y).toNat
  | 1 => (x &&& y).toNat
  | 2 => (x ||| y).toNat
  | 3 => (x ^^^ y).toNat
  | 4 => (if y.slt x then y else x).toNat
  | 5 => (if x.slt y then y else x).toNat
  | 6 => (if y.ult x then y else x).toNat
  | 7 => (if x.ult y then y else x).toNat
  | _ => y.toNat

/-- Bytes at a translated address, at the point of coherence. -/
def State.peek (s : State) (pa n : Nat) : List (Byte × Bool) :=
  if isHbm pa || isHost pa then s.rdC pa n
  else (List.range n).map (fun i => s.outByte (pa + i))

/-- The line that an atomic addresses leaves the L1 (R232). -/
def Core.dropLine (c : Core) (pa : Nat) : Core :=
  { c with l1 := c.l1.filter (fun ln => !(decide (ln.base ≤ pa) && decide (pa < ln.base + 128))) }

/-- The core's own earlier accesses to the same bytes come first, and what must come before those (R246): the stores are performed and the core sees them, and what it has stored to its own window is visible. -/
def State.drainAt (s : State) (pa n : Nat) : State :=
  let s1 := ((s.performAll s.here (neededStores pa n s.cur.openStores)).show_ s.here).modCur (fun c => c.settleLates pa n)
  (s1.cur.stores.filter (fun x => x.touches pa n)).foldl (fun s x => s.seeStore s.here x.order) s1

/-- The chill tier's part for a core (R379), and its replacement. -/
def State.chillOf (s : State) (n : Nat) : Chill := tget Chill.reset s.chill n
def State.setChill (s : State) (n : Nat) (ch : Chill) : State := { s with chill := tset Chill.reset s.chill n ch }

/-- The journal's answer to an instruction that is journalled (R387). -/
inductive Journal where
  | repeated (s : State) (v : W64) (pz : Bool)
  | perform (s : State)
  | full

/-- Take the next ordinal of the issuing core (R387). A command stream has no journal. -/
def State.ordinal (s : State) (kind addr : Nat) : Journal :=
  if s.isCp then .perform s
  else
    let ch := s.chillOf s.me
    if 4096 ≤ s.cur.ordinal then .full
    else
      let s1 := s.modCur (fun c => { c with ordinal := c.ordinal + 1 })
      match ch.replay with
      | none => .perform s1
      | some n =>
        match ch.journal[n]? with
        | some j =>
          if j.kind = kind ∧ j.addr = addr then
            .repeated (s1.setChill s.me { ch with replay := some (n + 1) }) j.value j.pz
          else .perform (s1.setChill s.me { ch with journal := ch.journal.take n, replay := none })
        | none => .perform (s1.setChill s.me { ch with journal := ch.journal.take n, replay := none })

/-- Write the journal entry of a performed instruction (R387). -/
def State.note (s : State) (kind addr : Nat) (v : W64) : State :=
  if s.isCp then s
  else
    let ch := s.chillOf s.me
    s.setChill s.me { ch with journal := ch.journal ++ [⟨false, kind, s.cur.epoch.toNat % 16, addr, v⟩] }

/-- The journal is full (R387). -/
def journalFull : Effect := .trap { TrapInfo.of 0x1A .s with sub := 2 }

/-- A read-modify-write at `n` bytes (R109): `op` gives the new value and its poison from the old one. -/
def rmw (s : State) (sd : BitVec 6) (va n : Nat) (host : Bool) (op : Nat → Nat × Bool) : Effect :=
  if va % n ≠ 0 then alignFault .s va
  else
    match s.xlatMine .s va n true with
    | .error x => x
    | .ok (s1, t) =>
      if t.uo then protFault .s va
      else if isHost t.pa && !(host && Config.rootPortAtomics) then .trap { TrapInfo.of 0x0A .s with addr := va }
      else
        match s1.ordinal 1 va with
        | .full => journalFull
        | .repeated s2 v pz =>
          .done (s2.modCur (fun c => c.emitS .s 8 sd v (if pz then some (dataPz va) else none)))
        | .perform s2 =>
          match (if s2.ownSpm t.pa then s2.tagCheck .s (t.pa % 0x1000000) n else .ok s2) with
          | .error x => x
          | .ok s3 =>
            match s3.writeTests .s va t n 0 with
            | .error x => x
            | .ok s4 =>
              let s5 := (s4.soFirst t).drainAt t.pa n
              let old := s5.peek t.pa n
              if old.any (·.2) then poisonTrap .s (dataPz va)
              else
                let o := leNat (old.map (·.1))
                let (v, pz) := op o
                let own := s5.ownWin t.pa
                let s6 := if own then (s5.trimShown t.pa n).modCur (fun c => c.emit .s 1 (.bytes t.pa (natLe n v) pz))
                  else s5.poke t.pa (natLe n v) pz
                let s7 := s6.note 1 va (BitVec.ofNat 64 o)
                .done (s7.modCur (fun c => holdLate ((c.dropLine t.pa).emitS .s 8 sd (BitVec.ofNat 64 o) none) 8 (!s6.ownSpm t.pa)))

/-- AMO (R109, R110). -/
def execAmo (d : BitVec 1) (op : BitVec 4) (f : SReg) (s : State) :=
  let a := s.cur.rs f.sa.toNat
  let b := s.cur.rs f.sb.toNat
  s.issue .s (needClean .s [a.pz]
    (rmw s f.sd (memAddr a.v) (wd d) (op = 0 || 8 ≤ op) (fun old =>
      (amoOp op (8 * wd d) old b.v.toNat, b.pz.isSome))))

/-- CAS (R109, R110): a poisoned operand makes the stored value poisoned. -/
def execCas (d : BitVec 1) (f : SReg) (s : State) :=
  let a := s.cur.rs f.sa.toNat
  let b := s.cur.rs f.sb.toNat
  let e := s.cur.rs f.sd.toNat
  let m := 2 ^ (8 * wd d)
  s.issue .s (needClean .s [a.pz]
    (rmw s f.sd (memAddr a.v) (wd d) true (fun old =>
      if e.pz.isSome then (s.freeW.toNat % m, true)
      else if old = e.v.toNat % m then (b.v.toNat % m, b.pz.isSome) else (old, false))))

/-! Fences (R111). -/

/-- Whether a store of an earlier cycle is not yet visible (R111, R239). -/
def State.fenceOpen (s : State) : Bool := s.cur.openStores.any (fun x => decide (x.cyc < s.cur.now))

/-- Read memory again for a late unit of the issuing agent (R84, R235, R241); its line of the L1, if present, arrives with it. -/
def State.rebind (s : State) (u : LateUnit) : State :=
  let ok := !isWin u.pa || s.winTest (s.myCtx.getD 64) u.pa u.n false == .ok
  if !ok then s
  else
    let d := (List.range u.n).map (fun i => s.coreByte false (u.pa + i))
    s.modCur (fun c => u.put d { c with l1 := c.l1.map (fun ln =>
      if ln.base ≤ u.pa ∧ u.pa < ln.base + 128 then
        let bs := (List.range 128).map (fun i => s.coreByte false (ln.base + i))
        { ln with data := bs.map (·.1), pz := bs.map (·.2) }
      else ln) })

/-- Read memory again for the late units of loads issued from cycle `c` on. -/
def State.rebindSince (s : State) (c : Nat) : State :=
  (s.cur.lates.filter (fun u => decide (c ≤ u.cyc) && u.acq.isNone)).foldl State.rebind s

/-- Whether two units of one load lie in the same aligned 8 bytes of a scratchpad in a window, which are read as one (R227, R235). -/
def LateUnit.pairs (u v : LateUnit) : Bool :=
  isWin u.pa && decide (u.pa % 0x1000000 < 0x200000) && u.pa / 8 == v.pa / 8 && u.cyc == v.cyc && u.due == v.due

/-- Read memory again for a free choice of the late units: loads of different locations are performed in any order (R241, R252). `last` is the unit before, and whether it was read again. -/
def State.rebindSome (s : State) (last : Option (LateUnit × Bool)) : List LateUnit → State
  | [] => s
  | u :: rest =>
    let again := (match last with
      | some (v, r) => if u.pairs v then r else Config.freeVerdict s.fresh
      | none => Config.freeVerdict s.fresh)
    State.rebindSome (if again then s.rebind u else s).bump (some (u, again)) rest

/-- FENCE (R111): kinds ll 0, ss 1, full 2, acq 3, rel 4. The accesses of the cycles before the fence's are earlier. While an earlier store is not visible the fence's condition does not hold; a load of the fence's own cycle is later, so that a full fence reads memory for it again. At scope .core the stores to memory are visible already, and the fence only orders those to one location of an unordered page (R239, R243). -/
def execFence (kind scope : BitVec 3) (_ : SReg) (s : State) :=
  let k := kind.toNat
  let drop (s : State) : State := if k = 2 ∨ k = 3 then s.dropL1 scope.toNat else s
  let stores := k = 1 ∨ k = 2 ∨ k = 4
  s.issue .s
    (if stores ∧ scope ≠ 0 ∧ s.fenceOpen then .later (drop s)
     else
      let s1 := if k = 2 then s.rebindSince s.cur.now else s
      let s2 := if stores then (s1.show_ s1.here).modCur (fun c => if scope = 0 ∧ k ≠ 4 then { c with fences := c.fences + 1 } else c) else s1
      .done (drop (if k = 1 then s2 else s2.bindLoads)))

/-! Pins (R113, R114, R363). -/

/-- The key of a page in the page-lock table: the context and the page's first byte. -/
def lockKey (x va : Nat) : Nat := x * 2 ^ 52 + va

/-- The pages that overlap a range, by the tables as they stand: each with its place, entry and size. `none` in the second place is a page that has no leaf; a poisoned entry stops the scan. -/
inductive PageAt where
  | leaf (va a : Nat) (e : W64) (size : Nat)
  | none (va : Nat)
  | bad (a : Nat)
  deriving DecidableEq, Repr

/-- One page of a context at an address. -/
def State.pageAt (s : State) (x va : Nat) : PageAt :=
  match s.context x with
  | none => .none va
  | some cx =>
    if 2 ^ 52 ≤ va then .none va
    else
      match s.walk va walkLevels 0 cx.ptbr with
      | .miss => .none va
      | .bad a => .bad a
      | .leaf a e size => .leaf (va - va % size) a e size

/-- The pages of [va, end), stopping after one that has no leaf; `n` bounds their number. -/
def State.pagesOf (s : State) (x va stop : Nat) : Nat → List PageAt
  | 0 => []
  | n + 1 =>
    if stop ≤ va then []
    else
      match s.pageAt x va with
      | .leaf v a e size => .leaf v a e size :: State.pagesOf s x (v + size) stop n
      | p => [p]

/-- The pages of a byte range. -/
def State.pagesIn (s : State) (x a n : Nat) : List PageAt := s.pagesOf x a (a + n) (n / 16384 + 2)

/-- The first address of a range on a page. -/
def firstOn (a va : Nat) : Nat := max a va

/-- What the check of a PROBE finds at its first failing page (R113). -/
def State.probeFail (s : State) (x a : Nat) (wr : Bool) : List PageAt → Option Effect
  | [] => none
  | .bad b :: _ => some (.fatal fatalTable b)
  | .none va :: _ => some (.trap { TrapInfo.of 0x08 .s with addr := firstOn a va })
  | .leaf va _ e size :: rest =>
    let p := firstOn a va
    if s.permits x e size (s.transOf e size p).pa 1 wr false then State.probeFail s x a wr rest
    else some (.trap { TrapInfo.of 0x08 .s with addr := p })

/-- Add pins to pages and set their bits (R113, R362); `none` when a count or the table would pass its limit. -/
def State.pinPages (s : State) (x : Nat) (wr : Bool) (limit : Nat) : List PageAt → Option State
  | [] => some s
  | .leaf va a e _ :: rest =>
    let k := lockKey x va
    let n := tget 0 s.locks k
    if 65535 ≤ n ∨ (n = 0 ∧ limit ≤ s.locks.length) then none
    else
      let (s1, _) := s.markLeaf a e wr
      State.pinPages { s1 with locks := tset 0 s1.locks k (n + 1) } x wr limit rest
  | _ :: rest => State.pinPages s x wr limit rest

/-- Remove pins (R114); `none` when a count is 0. -/
def State.unpinPages (s : State) (x : Nat) : List PageAt → Option State
  | [] => some s
  | .leaf va _ _ _ :: rest =>
    let k := lockKey x va
    let n := tget 0 s.locks k
    if n = 0 then none else State.unpinPages { s with locks := tset 0 s.locks k (n - 1) } x rest
  | _ :: _ => none

/-- The pin-count fault (R113, R114). -/
def pinFault (a : Nat) : Effect := .trap { TrapInfo.of 0x09 .s with addr := a }

/-- A PROBE or an UNPIN (R387): with a kept entry of its kind and address it is not performed; else it takes an ordinal and an entry only if it succeeds, which `k` says. -/
def State.journalled (s : State) (kind va : Nat) (k : Except Effect State) : Effect :=
  match s.ordinal kind va with
  | .repeated s1 _ _ => .done s1
  | _ =>
    match k with
    | .error x => x
    | .ok s1 =>
      match s1.ordinal kind va with
      | .perform s2 => .done (s2.note kind va 0)
      | _ => journalFull

/-- PROBE (R113): the kind stands in the low two bits of the sd field. It is completing: while a page of the range is held (R364) its condition does not hold. -/
def execProbe (f : SReg) (s : State) :=
  let a := s.cur.rs f.sa.toNat
  let b := s.cur.rs f.sb.toNat
  let x := s.myCtx.getD 64
  let va := a.v.toNat
  let wr := fld f.sd 0 2 ≠ 0
  s.issue .s (needClean .s [a.pz, b.pz]
    (if b.v = 0 then .done s
     else if 2 ^ 52 < va + b.v.toNat then illegalOperand .s
     else if s.heldRange x va b.v.toNat then .later s
     else
      s.journalled 3 va
        (let pages := s.pagesIn x va b.v.toNat
         match s.probeFail x va wr pages with
         | some e => .error e
         | none =>
           match s.pinPages x wr 786432 pages with
           | none => .error (pinFault va)
           | some s1 => .ok s1)))

/-- UNPIN (R114). -/
def execUnpin (f : SReg) (s : State) :=
  let a := s.cur.rs f.sa.toNat
  let b := s.cur.rs f.sb.toNat
  let x := s.myCtx.getD 64
  let va := a.v.toNat
  s.issue .s (needClean .s [a.pz, b.pz]
    (s.journalled 4 va
      (match s.unpinPages x (s.pagesIn x va b.v.toNat) with
       | none => .error (pinFault va)
       | some s1 => .ok s1)))

end Sys2Proof.Machine
end

