-- ==== Sys2Proof/Machine/Barrier.lean ====
section
/-! DEFINITION. Barriers (R104, R105, R222 to R225): the group's state, arrivals and waits. -/

namespace Sys2Proof.Machine

/-- The membership slot of a group (R221). -/
def Core.member (c : Core) (g : BitVec 8) : Option Member := c.slots.find? (fun m => m.group = g)

/-- Replace the phase counter of a group (R104). -/
def Core.setPh (c : Core) (g : BitVec 8) (ph : W64) : Core :=
  { c with slots := c.slots.map (fun m => if m.group = g then { m with ph := ph } else m) }

def BarPhase.empty : BarPhase := ⟨[], none, false, 0, false⟩

/-- The combination of two values under a BARRED op (R105). -/
def barOp (op : BitVec 3) (a b : W64) : W64 :=
  match op.toNat with
  | 0 => a ||| b
  | 1 => a &&& b
  | 2 => if b.slt a then b else a
  | 3 => if a.slt b then b else a
  | _ => a + b

/-- Take an arrival into an open phase (R105, R223): an arrival of a member that is recorded already is ignored. -/
def BarPhase.record (p : BarPhase) (a : Arrival) : BarPhase :=
  if a.grank ∈ p.members then p
  else
    let p1 := { p with members := p.members ++ [a.grank] }
    match a.op with
    | none => p1
    | some op =>
      let p2 := { p1 with poison := p1.poison || a.poison }
      match p.op with
      | none => { p2 with op := some op, value := a.value }
      | some o => if o = op then { p2 with value := barOp op p.value a.value } else { p2 with mixed := true }

/-- Move phases that are complete into the history (R224). -/
def BarGroup.advance (b : BarGroup) : Nat → BarGroup
  | 0 => b
  | n + 1 =>
    match b.phases with
    | p :: rest =>
      if p.members.length = b.expect then
        BarGroup.advance { b with
          phases := rest ++ [BarPhase.empty], cph := b.cph + 1
          history := (b.history ++ [p]).drop (b.history.length + 1 - 16) } n
      else b
    | [] => b

/-- An arrival meets the group (R223), apart from the arrivals held in slots. -/
def BarGroup.meet (b : BarGroup) (a : Arrival) : BarGroup :=
  if a.phase < b.cph then b
  else
    let k := (a.phase - b.cph).toNat
    if k ≤ 3 then BarGroup.advance { b with phases := lmod b.phases k (fun p => p.record a) } 4
    else { b with held := b.held ++ [a] }

/-- Take held arrivals that have come within reach, oldest first, until none is (R223). -/
def BarGroup.settle (b : BarGroup) : Nat → BarGroup
  | 0 => b
  | n + 1 =>
    match b.held.find? (fun a => decide ((a.phase - b.cph).toNat ≤ 3) || decide (a.phase < b.cph)) with
    | some a => BarGroup.settle ({ b with held := b.held.erase a }.meet a) n
    | none => b

/-- An arrival at the group, with what it releases. -/
def BarGroup.arrive (b : BarGroup) (a : Arrival) : BarGroup :=
  let b1 := b.meet a
  b1.settle (b1.held.length + 1)

/-- Fresh state of a group (R222). -/
def BarGroup.fresh (ctx : Nat) (g : BitVec 8) (gen size : Nat) (far : Bool) : BarGroup :=
  { ctx := ctx, group := g, gen := gen, expect := size, far := far, cph := 0
    phases := List.replicate 4 BarPhase.empty, history := [], held := [], early := [], closing := false }

/-- Whether an entry is that of a group and generation of a context. -/
def BarGroup.is (b : BarGroup) (x : Nat) (g : BitVec 8) (gen : Nat) : Bool := b.ctx = x && b.group = g && b.gen = gen

/-- The state of a context's group in one generation. -/
def State.bar (s : State) (x : Nat) (g : BitVec 8) (gen : Nat) : Option BarGroup := s.barriers.find? (fun b => b.is x g gen)

/-- Replace the state of a group. -/
def State.setBar (s : State) (b : BarGroup) : State :=
  if s.barriers.any (fun x => x.is b.ctx b.group b.gen) then
    { s with barriers := s.barriers.map (fun x => if x.is b.ctx b.group b.gen then b else x) }
  else { s with barriers := s.barriers ++ [b] }

/-- Whether arrivals of a group wait for the release of an older generation (R222); groups within the module never do. -/
def State.barWaits (s : State) (b : BarGroup) : Bool :=
  b.far && s.barriers.any (fun o => o.ctx = b.ctx && o.group = b.group && o.far && decide (o.gen < b.gen))

/-- An arrival at a group that has started: taken, or kept for the release of the older generation. -/
def State.barTake (s : State) (b : BarGroup) (a : Arrival) : State :=
  s.setBar (if s.barWaits b then { b with early := b.early ++ [a] } else b.arrive a)

/-- Take the early arrivals of a group that has started and waits for no older generation. -/
def State.barOpen (s : State) (b : BarGroup) : State :=
  if b.expect = 0 ∨ s.barWaits b then s else s.setBar (b.early.foldl BarGroup.arrive { b with early := [] })

/-- Release the state of a generation (R222): arrivals of a later one that waited for it are taken. -/
def State.barRelease (s : State) (x : Nat) (g : BitVec 8) (gen : Nat) : State :=
  let s1 : State := { s with barriers := s.barriers.filter (fun b => !b.is x g gen) }
  (s1.barriers.filter (fun b => b.ctx = x && b.group = g)).foldl State.barOpen s1

/-- The generations of a group that this device has completed and the other devices have too: that a device has, the module learns from no message that the manual gives, so that the instant is free, and is looked for at every arrival and at every BARW that waits (R222). -/
def State.barClose (s : State) (x : Nat) (g : BitVec 8) : State :=
  match s.barriers.find? (fun b => b.ctx = x && b.group = g && b.closing) with
  | some b => if Config.freeVerdict s.fresh then (s.barRelease x g b.gen).bump else s.bump
  | none => s

/-- Complete a record's generation of a group here (R222): within the module its state is released at once. -/
def State.barDone (s : State) (x : Nat) (g : BitVec 8) (gen : Nat) : State :=
  match s.bar x g gen with
  | some b => if b.far then s.setBar { b with closing := true } else s.barRelease x g gen
  | none => s

/-- The arrivals of a core's members that the group holds in their slots (R223, R226). -/
def State.heldOf (s : State) (c : Core) : List Arrival :=
  s.barriers.flatMap (fun b => (b.held ++ b.early).filter (fun a =>
    c.ctx = some a.ctx && c.slots.any (fun m => m.group = a.group && m.gen = a.gen && m.grank = a.grank)))

/-- The slots of a core are lost with it, and the arrivals held in them (R226). -/
def State.dropHeld (s : State) (c : Core) : State :=
  let l := s.heldOf c
  let keep (a : Arrival) : Bool := !l.any (· = a)
  { s with barriers := s.barriers.map (fun b => { b with held := b.held.filter keep, early := b.early.filter keep }) }

/-- The modules, other than this one, of the devices that the other members of a group run on (R219, R222). -/
def State.peersOf (s : State) (c : Core) (g : BitVec 8) : List Nat :=
  match s.recordOf c, c.ctx.bind s.context with
  | some r, some cx =>
    ((tget [] r.groups g.toNat).filterMap (fun m =>
      if m.drank = cx.ownRank then none else (cx.ranks.getD m.drank none))).dedup
  | _, _ => []

/-- An arrival of the issuing core for its present phase (R104): the phase number becomes the result and the counter rises; `none` when the slot of the member is full (R223). -/
def barArrive (s : State) (f : SImm) (op : Option (BitVec 3)) (v : W64) (pz : Bool) : Effect :=
  let g : BitVec 8 := fld f.imm 0 8
  let x := s.myCtx.getD 64
  let s := s.barClose x g
  match s.cur.member g with
  | none => illegalOperand .s
  | some m =>
    let b := (s.bar x g m.gen).getD (BarGroup.fresh x g m.gen m.size false)
    let a : Arrival := ⟨x, g, m.gen, m.grank, m.ph, op, v, pz⟩
    if 4 ≤ ((b.held ++ b.early).filter (fun h => h.grank = m.grank)).length ∧ (b.cph + 3 < m.ph ∨ s.barWaits b) then .wait
    else
      let s1 := (s.bindRc.drain).barTake b a
      let s2 := { s1 with outbox := s1.outbox ++ (s1.peersOf s1.cur g).map (fun p => Message.arrival p a s1.me) }
      .done (s2.modCur (fun c => (c.setPh g (m.ph + 1)).emitS .s 1 f.sd m.ph none))

/-- BARV (R104). -/
def execBarv (f : SImm) (s : State) := s.issue .s (barArrive s f none 0 false)

/-- BARRED (R104, R105): the op stands in imm14[13:11]; a poisoned source poisons the phase. -/
def execBarred (f : SImm) (s : State) :=
  let a := s.cur.rs f.sa.toNat
  s.issue .s (barArrive s f (some (fld f.imm 11 3)) a.v a.pz.isSome)

/-- A barrier fault with its group and phase (R287). -/
def barFault (code sub : Nat) (g : BitVec 8) (phase : W64) : Effect :=
  .trap { TrapInfo.of code .s with sub := sub, detail := BitVec.ofNat 64 (g.toNat + 256 * phase.toNat) }

/-- The result of a BARW of a phase that is complete (R105, R225); a poisoned one is a free value (assumption 2). -/
def barResult (s : State) (f : SImm) (m : Member) (p : BarPhase) (phase : W64) : Effect :=
  if p.mixed then barFault 0x0F 0 m.group phase
  else
    let s1 := if m.size ≤ 1 then s else s.modCur (fun c => { c with l1 := [] })
    if p.poison then .done (s1.bump.putS .s 1 f.sd s1.freeW (some (dataPz 0)))
    else .done (s1.putS .s 1 f.sd p.value none)

/-- BARW (R104, R105, R225). A poisoned phase operand raises the poison-consumed trap (assumption 10). -/
def execBarw (f : SImm) (s : State) :=
  let g : BitVec 8 := fld f.imm 0 8
  let s := s.barClose (s.myCtx.getD 64) g
  let a := s.cur.rs f.sa.toNat
  s.issue .s
    (match s.cur.member g with
     | none => illegalOperand .s
     | some m => needClean .s [a.pz]
        (if m.ph ≤ a.v ∨ a.v.toNat + 2 < m.ph.toNat then barFault 0x10 0 g a.v
         else
          let b := (s.bar (s.myCtx.getD 64) g m.gen).getD (BarGroup.fresh (s.myCtx.getD 64) g m.gen m.size false)
          if b.cph ≤ a.v then .block
          else
            let k := (b.cph - a.v).toNat
            if b.history.length < k then barFault 0x10 1 g a.v
            else barResult s f m (b.history.getD (b.history.length - k) BarPhase.empty) a.v))

/-- BARRIER_ARRIVAL (R222, R223): an arrival that reaches the group's home, from a core or from another device. One of a generation whose record has not started here waits for it; one of a generation that is released is ignored. -/
def execBarrierArrival (a : Arrival) (s : State) : Result :=
  let s := s.barClose a.ctx a.group
  let started := (match s.context a.ctx with | some cx => tget 0 cx.gens a.group.toNat | none => 0)
  match s.bar a.ctx a.group a.gen with
  | none => .next (if a.gen < started then s else s.setBar { BarGroup.fresh a.ctx a.group a.gen 0 true with early := [a] })
  | some b => .next (if b.expect = 0 then s.setBar { b with early := b.early ++ [a] } else s.barTake b a)

end Sys2Proof.Machine
end

