-- ==== Sys2Proof/Machine/Far.lean ====
section
/-! DEFINITION. Far accesses of asynchronous engines: physical accesses with the window tests (R228, R234), other devices (R181, R258), and accesses under a context's translation at the gateway (R361, R403). -/

namespace Sys2Proof.Machine

/-- The result of a far access: what was done or read, a status of R181, an access that must wait (R385), or a page-table entry that cannot be read, which ends the context (R373). -/
inductive Far (α : Type) where
  | ok (v : α)
  | fail (status : BitVec 8)
  | wait
  | dead (entry : Nat)
  deriving DecidableEq, Repr

/-- A fatal context error that no core's instruction raises; `n` is the core that its report names (R292, R373). -/
def State.ctxFatal (s : State) (x cause a n : Nat) : State := { s with fatal := s.fatal ++ [⟨x, cause, a, n⟩] }

/-- The status of a refused window access (R228). -/
def WinTest.status (w : WinTest) : BitVec 8 :=
  match w with
  | .foreign => 5
  | _ => 4

/-- Bytes as an engine sees them: a core's own engines see the stores that it issued in earlier cycles (R238, R239). -/
def State.peekFor (s : State) (c : Option Nat) (pa n : Nat) : List (Byte × Bool) :=
  match c with
  | none => s.peek pa n
  | some k =>
    let r := s.core k
    let own := r.stores.filter (fun x => decide (x.cyc < r.now) && (!x.done || x.seen))
    (s.peek pa n).zipIdx.map (fun q => own.foldl (fun b x => overByte x.addr x.data x.poison (pa + q.2) b) q.1)

/-! Paths (R418). -/

/-- The number of the UCIe link between two stacks, among 28 (R420); the pairs are numbered in lexicographic order (assumption 160). -/
def pairLink (a b : Nat) : Nat := min a b * (15 - min a b) / 2 + (max a b - min a b) - 1

/-- Whether a link carries traffic: it is up, or its traffic waits for a retrain (R417). -/
def Link.carries (l : Link) : Bool := l.st == .up || l.retraining
def State.carries (s : State) (l : Nat) : Bool := (tget Link.reset s.links l).carries

/-- The lowest-numbered stack over which a two-hop path replaces the link between two stacks. -/
def State.twoHop (s : State) (a b : Nat) : Option Nat :=
  (List.range 8).find? (fun k => k ≠ a && k ≠ b && s.carries (pairLink a k) && s.carries (pairLink k b))

/-- Whether a path leads from one stack to another. -/
def State.stackPath (s : State) (a b : Nat) : Bool := a == b || s.carries (pairLink a b) || (s.twoHop a b).isSome

/-- Whether one of a stack's two Ivaraog ports carries traffic. -/
def State.ownPort (s : State) (k : Nat) : Bool := s.carries (28 + 2 * k) || s.carries (29 + 2 * k)

/-- The stack whose gateway takes traffic of stack `k` off the module: itself, or the lowest-numbered one with a port, to which a path leads. -/
def State.gateStack (s : State) (k : Nat) : Option Nat :=
  if s.ownPort k then some k else (List.range 8).find? (fun g => s.ownPort g && s.stackPath k g)

/-- Whether traffic of stack `k` can leave the module. -/
def State.portUp (s : State) (k : Nat) : Bool := (s.gateStack k).isSome

/-- The stack in which a physical address lies (R2, R357); a code table lies in every stack, and host memory in none. -/
def homeStack (pa : Nat) : Option Nat :=
  if isHbm pa then some (pa / 0x2000000000 % 8)
  else if isWin pa then some ((pa - winStart) / 0x1000000 / 512)
  else if isSem pa then some 0
  else none

/-- Whether an engine of a core reaches an address; one that is no core's is taken to. -/
def State.reaches (s : State) (c : Option Nat) (pa : Nat) : Bool :=
  match c, homeStack pa with
  | some n, some h => s.stackPath (n / 512) h
  | _, _ => true

/-- An engine of context `x` and, where it has one, of core `c` reads `n` bytes at a physical address; without a path the stack is unreachable (R418). -/
def State.farRead (s : State) (x : Nat) (c : Option Nat) (pa n : Nat) : Far (List (Byte × Bool)) :=
  if !s.reaches c pa then .fail 1
  else if isWin pa then
    match s.winTest x pa n false with
    | .ok => .ok (s.peek pa n)
    | .wait => .wait
    | w => .fail w.status
  else .ok (s.peekFor c pa n)

/-- The lines of a core's L1 that a write of its own engine touches leave it (R234). -/
def Core.dropLines (c : Core) (pa n : Nat) : Core :=
  { c with l1 := c.l1.filter (fun ln => !(decide (ln.base < pa + n) && decide (pa < ln.base + 128))) }

/-- An engine of context `x` and, where it has one, of core `c` writes bytes at a physical address. -/
def State.farWrite (s : State) (x : Nat) (c : Option Nat) (pa : Nat) (d : List Byte) (poison : Bool) : Far State :=
  let put (s : State) : State :=
    match c with
    | some n => s.modCore n (fun r => r.dropLines pa d.length)
    | none => s
  if !s.reaches c pa then .fail 1
  else if isWin pa then
    match s.winTest x pa d.length true with
    | .ok => .ok (put (s.poke pa d poison))
    | .wait => .wait
    | w => .fail w.status
  else .ok (put (s.poke pa d poison))

/-- Bytes that nothing defines, and the state with the counter advanced. -/
def State.freeBytes (s : State) (n : Nat) : List Byte := natLe n s.freeW.toNat

/-! Other devices. -/

/-- The module of a rank of a context (R258): `none` for a rank at or above RCOUNT or without a valid entry. -/
def State.rankModule (s : State) (x rank : Nat) : Option Nat :=
  match s.context x with
  | none => none
  | some cx => cx.ranks.getD rank none

/-- Whether a rank is this module's own (R258). -/
def State.rankOwn (s : State) (x rank : Nat) : Bool :=
  match s.context x with
  | none => false
  | some cx => cx.ownRank = rank && (cx.ranks.getD rank none).isSome

/-- The failure that the other side reports for a byte range to an agent of stack `k`, if any; without a path it is unreachable (R418). -/
def State.peerStatus (s : State) (k md va n : Nat) : Option (BitVec 8) :=
  if !s.portUp k then some 1 else
  (s.peerFail.find? (fun f => f.1 = md && decide (f.2.1 < va + n) && decide (va < f.2.1 + f.2.2.1))).map (fun f => f.2.2.2)

/-- A byte that another device returns: one that the state lists, or a free one. -/
def State.peerByte (s : State) (md a : Nat) : Byte × Bool :=
  ((match s.peerMem.find? (fun p => p.1 = md && p.2.1 = a) with
    | some p => p.2.2
    | none => Config.freeByte (s.fresh + a) md),
   s.peerPz.any (fun p => p.1 = md && p.2 = a))

/-! The gateway. -/

/-- Read under context `x`'s translation for an agent without a translation cache (R361); `c` names the core of an engine of its own. -/
def State.gateRead (s : State) (x : Nat) (c : Option Nat) (va n : Nat) : Far (State × List (Byte × Bool)) :=
  match s.translate x none (va % 2 ^ 52) n false false with
  | .miss => .fail 3
  | .bad a => .dead a
  | .prot => .fail 2
  | .held => .wait
  | .ok s1 t =>
    match s1.farRead x c t.pa n with
    | .ok d => .ok (s1, d)
    | .fail st => .fail st
    | .wait => .wait
    | .dead a => .dead a

/-- Translate a write of `n` bytes at the gateway under context `x` (R361, R403). `hid` says that the write goes to the hidden backing of a twin page (R253). -/
def State.gateTo (s : State) (x va n : Nat) (hid : Bool) : Far (State × Trans) :=
  match s.translate x none (va % 2 ^ 52) n true false with
  | .miss => .fail 3
  | .bad a => .dead a
  | .prot => .fail 2
  | .held => .wait
  | .ok s1 t =>
    let t1 := if hid then { t with pa := t.hid } else t
    if s1.sealedAt t1.pa then .fail 2 else .ok (s1, t1)

/-- Write under context `x`'s translation; a write of a core's own engine names the core (R234). -/
def State.gateWrite (s : State) (x : Nat) (c : Option Nat) (va : Nat) (d : List Byte) (poison hid : Bool) : Far State :=
  match s.gateTo x va d.length hid with
  | .fail st => .fail st
  | .wait => .wait
  | .dead a => .dead a
  | .ok (s1, t) => s1.farWrite x c t.pa d poison

/-- Read `n` bytes of the device of a rank (R181, R258): of another module, by a read request (R273). -/
def State.rankRead (s : State) (x : Nat) (c : Option Nat) (rank va n : Nat) : Far (State × List (Byte × Bool)) :=
  match s.rankModule x rank with
  | none => .fail 1
  | some md =>
    if s.rankOwn x rank then s.gateRead x c va n
    else
      match s.peerStatus (c.getD 0 / 512) md va n with
      | some st => .fail st
      | none => .ok (s.send (.readRequest x md va n (c.getD 0)), (List.range n).map (fun i => s.peerByte md (va + i)))

/-- The bit of a batch bitmap for a status (R187). -/
def errBit (st : BitVec 8) : BitVec 8 :=
  match st.toNat with
  | 0 => 0
  | 1 => 1
  | 2 => 2
  | 3 => 4
  | _ => 8

/-! Pinned ranges (R361 to R363). -/

/-- One page of a submission: its first byte, size and the leaf's place; the outcome of a page that cannot be used. -/
inductive Submit where
  | ok (s : State) (pins : List (Nat × Nat × Nat))
  | miss (va : Nat)
  | prot (va : Nat)
  | bad (a : Nat)
  | wait

/-- The bound physical address of a virtual one. -/
def boundAddr (pins : List (Nat × Nat × Nat)) (va : Nat) : Option Nat :=
  match pins.find? (fun p => decide (p.1 ≤ va) && decide (va < p.1 + p.2.1)) with
  | some p => some (p.2.2 + (va - p.1))
  | none => none

/-- Translate and pin the pages of a list of pieces, each an address and a length within one page, once each (R361 to R363, R403); every byte of a piece must be one that the context may reach (R357, R360). The bound backing is the hidden one for a write. -/
def State.submit (s : State) (x : Nat) (wr : Bool) : List (Nat × Nat) → List (Nat × Nat × Nat) → Submit
  | [], pins => .ok s pins
  | (va, len) :: rest, pins =>
    match boundAddr pins va with
    | some pa => if bytesAllowed x pa len then State.submit s x wr rest pins else .prot va
    | none =>
    if s.heldRange x va len then .wait
    else
      match s.pageAt x va with
      | .bad a => .bad a
      | .none _ => .miss va
      | .leaf v a e size =>
        let t := s.transOf e size va
        if !s.permits x e size t.pa len wr false then .prot va
        else
          let k := lockKey x v
          let n := tget 0 s.locks k
          if 65535 ≤ n ∨ (n = 0 ∧ 1048576 ≤ s.locks.length) then .wait
          else
            let (s1, _) := s.markLeaf a e wr
            let base := (if wr then t.hid else t.pa) - (va - v)
            State.submit { s1 with locks := tset 0 s1.locks k (n + 1) } x wr rest (pins ++ [(v, size, base)])

/-- Release the pins of a submission (R363). -/
def State.release (s : State) (x : Nat) : List (Nat × Nat × Nat) → State
  | [] => s
  | p :: rest =>
    let k := lockKey x p.1
    State.release { s with locks := tset 0 s.locks k (tget 0 s.locks k - 1) } x rest

end Sys2Proof.Machine
end

