-- ==== Sys2Proof/Machine/Cp.lean ====
section
/-! DEFINITION. The words that only the command processor has: device semaphores (R322, R325), compute queues (R323, R326) and interrupts (R324). -/

namespace Sys2Proof.Machine

/-! Interrupts. -/

/-- Whether the last boot failed: only identity registers, BOOTST and DOE are left (R429). -/
def State.bootFailed (s : State) : Bool := fld s.boot.bootst 0 8 != 0

/-- MSIX_VECTOR_UNMASK (R324): a pending vector is sent once its mask is lifted. After a failed boot the table is not there (R429). -/
def execMsixVectorUnmask (v : BitVec 11) (s : State) : Result :=
  let bit : BitVec 2048 := 1#2048 <<< v.toNat
  let s1 : State := { s with msixMask := s.msixMask &&& ~~~bit, msixPend := s.msixPend &&& ~~~bit }
  .next (if s.bootFailed then s else if bitAt s.msixPend v.toNat then s1.send (.msix v.toNat) else s1)

/-! Semaphores. -/

/-- The physical address of a semaphore (R325, R357). -/
def semAddr (n : Nat) : Nat := semBase + 8 * n

/-- The value of a semaphore and its poison. -/
def State.sem (s : State) (n : Nat) : W64 × Bool := (BitVec.ofNat 64 (s.rdNat (semAddr n) 8), s.pzB (semAddr n) 8)

/-- Write a semaphore. -/
def State.setSem (s : State) (n : Nat) (v : W64) (poison : Bool) : State := s.wrB (semAddr n) (natLe 8 v.toNat) poison

/-- An engine add to a semaphore (R325): it is made also to a poisoned word, which stays poisoned. -/
def State.addSem (s : State) (n : Nat) (k : W64) : State :=
  let (v, p) := s.sem n
  s.setSem n (v + k) p

/-- Whether a context was granted a semaphore (R322, R371). -/
def State.semGranted (s : State) (x n : Nat) : Bool :=
  match s.context x with
  | none => false
  | some cx => decide (cx.semFirst ≤ n) && decide (n < cx.semFirst + cx.semCount)

/-- The checks common to the semaphore words: a clean operand and a granted semaphore (R322). -/
def semWord (s : State) (f : SemWord) (k : W64 → Effect) : Result :=
  let a := s.cur.rs f.sa.toNat
  s.issue .s (needClean .s [a.pz]
    (if !s.semGranted (s.myCtx.getD 64) f.sem.toNat then illegalOperand .s else k a.v))

/-- SEMWGE (R322). -/
def execSemwge (f : SemWord) (s : State) :=
  semWord s f (fun a =>
    let (v, p) := s.sem f.sem.toNat
    if p then poisonTrap .s (dataPz (semAddr f.sem.toNat))
    else if v < a then .block
    else .done (s.putS .s 1 f.sd v none))

/-- SEMADD (R322): a release at .system, which follows every earlier load too (R246). -/
def execSemadd (f : SemWord) (s : State) :=
  semWord s f (fun a =>
    let (v, p) := s.sem f.sem.toNat
    if p then poisonTrap .s (dataPz (semAddr f.sem.toNat))
    else .done ((s.bindRc.drainAll.setSem f.sem.toNat (v + a) false).putS .s 1 f.sd v none))

/-- SEMSET (R322): it clears the word's poison. -/
def execSemset (f : SemWord) (s : State) :=
  semWord s f (fun a => .done (s.bindRc.drainAll.setSem f.sem.toNat a false))

/-! Queues. -/

/-- Whether a compute queue is assigned to a context (R326, R371). -/
def State.cqGranted (s : State) (x q : Nat) : Bool :=
  match s.context x with
  | none => false
  | some cx => cx.cqMask.testBit q

/-- QSUB (R323): a release at .system, then the append. -/
def execQsub (f : QueWord) (s : State) :=
  let a := s.cur.rs f.sa.toNat
  let q := tget [] s.cqs f.q.toNat
  let addr := memAddr a.v
  s.issue .s (needClean .s [a.pz]
    (if addr % 128 ≠ 0 ∨ !s.cqGranted (s.myCtx.getD 64) f.q.toNat then illegalOperand .s
     else if 64 ≤ q.length then .done (s.bindRc.drainAll.putS .s 1 f.sd 0xFFFFFFFFFFFFFFFF none)
     else
      let s1 := s.bindRc.drainAll
      let s2 : State := { s1 with cqs := tset [] s1.cqs f.q.toNat (q ++ [⟨addr, f.ser == 1⟩]) }
      .done (s2.putS .s 1 f.sd 0 none)))

/-- INTR (R324). -/
def execIntr (f : QueWord) (s : State) :=
  let a := s.cur.rs f.sa.toNat
  s.issue .s (needClean .s [a.pz]
    (if 2048 ≤ a.v.toNat then illegalOperand .s else .done (s.drainAll.interrupt a.v.toNat)))

end Sys2Proof.Machine
end

