-- ==== Sys2Proof/Machine/Melt.lean ====
section
/-! DEFINITION. Code tables and the melt stage: ingot segments decoded to elements (R191 to R204). -/

namespace Sys2Proof.Machine

/-! CRC-32C (R192). -/

/-- One bit of the reflected Castagnoli code. -/
def crcBit (c : W32) : W32 := if bitAt c 0 then (c >>> 1) ^^^ 0x82F63B78 else c >>> 1

/-- One byte of it. -/
def crcByte (c : W32) (b : Byte) : W32 :=
  (List.range 8).foldl (fun c _ => crcBit c) (c ^^^ b.zeroExtend 32)

/-- CRC-32C over bytes in ascending address. -/
def crc32c (bs : List Byte) : W32 := ~~~(bs.foldl crcByte 0xFFFFFFFF)

/-! Code tables (R196, R197). -/

/-- The length of a symbol in a table image of 256 bytes. -/
def symLen (t : List Byte) (s : Nat) : Nat := (t.getD (s / 2) 0).toNat / 16 ^ (s % 2) % 16

/-- Whether the CRC and the zero fields of a table hold, and its Kraft sum. -/
def tableSound (t : List Byte) : Bool :=
  (crc32c (t.take 192)).toNat == leNat ((t.drop 192).take 4)
    && ((t.drop 160).take 32).all (· == 0) && (t.drop 196).all (· == 0)
def kraft (t : List Byte) : Nat :=
  (List.range 256).foldl (fun a s => let l := symLen t s; if l = 0 then a else a + 2 ^ (15 - l)) 0

/-- The symbols with a code, ordered by length and then by symbol: the order of the canonical codewords. -/
def codeOrder (t : List Byte) : List (Nat × Nat) :=
  (List.range 15).flatMap (fun k => ((List.range 256).filter (fun s => symLen t s = k + 1)).map (fun s => (k + 1, s)))

/-- Canonical codewords: each is its predecessor plus one, extended to its length (R197). -/
def assignCodes : Nat → Nat → List (Nat × Nat) → List (Nat × Nat × Nat)
  | _, _, [] => []
  | code, len, (l, s) :: rest =>
    let c := code * 2 ^ (l - len)
    (l, c, s) :: assignCodes (c + 1) l rest

/-- The codewords of a table as length, value and symbol. -/
def codewords (t : List Byte) : List (Nat × Nat × Nat) := assignCodes 0 0 (codeOrder t)

/-! Lanes (R194, R199). -/

/-- The bits of bytes, each read from its most significant bit down. -/
def bitsOf (bs : List Byte) : List Bool := bs.flatMap (fun b => (List.range 8).map (fun i => bitAt b (7 - i)))

/-- The value of a bit string, most significant bit first. -/
def bitsVal (l : List Bool) : Nat := l.foldl (fun a b => 2 * a + (if b then 1 else 0)) 0

/-- A decoding fault of a lane: its subcode and bit position. -/
abbrev LaneFault := Nat × Nat

/-- Read one codeword from its first bit on (R199): the symbol, the position after it and the bits that remain. -/
def nextSym (codes : List (Nat × Nat × Nat)) (start : Nat) : List Bool → Nat → Nat → Except LaneFault (Nat × Nat × List Bool)
  | [], len, _ => .error (2, start + len)
  | b :: rest, len, v =>
    let l := len + 1
    let w := 2 * v + (if b then 1 else 0)
    match codes.find? (fun c => c.1 = l ∧ c.2.1 = w) with
    | some c => .ok (c.2.2, start + l, rest)
    | none =>
      if codes.any (fun c => decide (l < c.1) && decide (c.2.1 / 2 ^ (c.1 - l) = w)) then nextSym codes start rest l w
      else .error (1, start)

/-- Read `n` codewords, then check the padding. -/
def symbols (codes : List (Nat × Nat × Nat)) : Nat → Nat → List Bool → Except LaneFault (List Nat)
  | 0, q, bits => if 8 ≤ bits.length ∨ bits.any id then .error (4, q) else .ok []
  | n + 1, q, bits =>
    match nextSym codes q bits 0 0 with
    | .error e => .error e
    | .ok (s, q', rest) =>
      match symbols codes n q' rest with
      | .error e => .error e
      | .ok l => .ok (s :: l)

/-- Decode one substream (R199). -/
def meltLane (codes : List (Nat × Nat × Nat)) (bs : List Byte) (nsym : Nat) : Except LaneFault (List Nat) :=
  let bits := bitsOf bs
  if bits.length < 16 then .error (2, bits.length)
  else if bitsVal (bits.take 16) ≠ 0xA7C5 then .error (3, 0)
  else symbols codes nsym 16 (bits.drop 16)

/-! Segments (R192, R193, R195, R201, R202). -/

/-- Whether an EFMT packs two elements in a symbol (R195). -/
def efmtHalf (e : Nat) : Bool := e == 5 || e == 6

/-- The size of the scale block (R193). -/
def scaleBytes (e : Nat) : Nat := if e = 6 then 512 else if e = 3 ∨ e = 4 ∨ e = 5 then 256 else 0

/-- The elements of a column from its symbols (R195). -/
def symElems (e : Nat) (syms : List Nat) : List W32 :=
  syms.flatMap (fun s => if efmtHalf e then [BitVec.ofNat 32 (s % 16), BitVec.ofNat 32 (s / 16)] else [BitVec.ofNat 32 s])

/-- What decoding a segment gives: elements, poison and scale bytes by column, the codebook, and the fault with its code, subcode and detail word. -/
structure Melt where
  cols : List (List W32)
  pz : List Bool
  scales : List (List Byte)
  codebook : List W16
  fault : Option (Nat × Nat × W64)

/-- A segment whose columns are all poisoned (R155, R201). -/
def Melt.poisoned (k : Nat) : Melt :=
  ⟨List.replicate 32 (List.replicate k 0), List.replicate 32 true, List.replicate 32 [], [], none⟩

def Melt.failed (code sub : Nat) (d : W64) : Melt := ⟨[], [], [], [], some (code, sub, d)⟩

/-- The detail word of an ingot fault (R203). -/
def ingotDetail (tile seg : Nat) (segl : Bool) (lane ctab sub detail bitpos : Nat) : W64 :=
  BitVec.ofNat 64 (tile * 2 ^ 54 + seg * 2 ^ 49 + (if segl then 2 ^ 48 else 0) + lane * 2 ^ 43 + ctab * 2 ^ 39
    + sub * 2 ^ 36 + detail * 2 ^ 12 + bitpos)

/-- The bytes of a lane's substream: its start and length. -/
def laneSpan (header : List Byte) (start j : Nat) : Nat × Nat :=
  let len (i : Nat) := leNat ((header.drop (2 * i)).take 2)
  (start + ((List.range j).map len).sum, len j)

/-- The lanes of a segment, from `j` on, collected until the first fault. -/
def meltLanes (read : Nat → Nat → List Byte) (pz : Nat → Nat → Bool) (codes : List (Nat × Nat × Nat)) (header : List Byte)
    (start nsym e : Nat) : List Nat → Except (Nat × LaneFault) (List (List W32 × Bool))
  | [] => .ok []
  | j :: rest =>
    let (a, n) := laneSpan header start j
    let here : Except (Nat × LaneFault) (List W32 × Bool) :=
      if pz a n then .ok (symElems e (List.replicate nsym 0), true)
      else
        match meltLane codes (read a n) nsym with
        | .ok l => .ok (symElems e l, false)
        | .error f => .error (j, f)
    match here with
    | .error f => .error f
    | .ok x =>
      match meltLanes read pz codes header start nsym e rest with
      | .error f => .error f
      | .ok l => .ok (x :: l)

/-- Whether an error has poisoned a block of a code table in the table store of a stack (R198). -/
def State.tableBad (s : State) (stack ta : Nat) : Bool :=
  s.tablePz.any (fun t => t.1 = stack && decide (ta ≤ t.2) && decide (t.2 < ta + 256))

/-- The bytes of the segment that an index entry names, as offset and length, so far as its header tells (R193); none where the header lies outside group B. -/
def State.segmentSpan (s : State) (core itab seg : Nat) : List (Nat × Nat) :=
  let base := winBase core
  let w := leNat (s.rdB (base + itab + 16 * seg) 16)
  let hdr := itab + w % 2 ^ 32
  if hdr < 0x100000 ∨ 0x200000 < hdr + 64 then []
  else
    let (last, n) := laneSpan (s.rdB (base + hdr) 64) (hdr + 64 + scaleBytes (w / 2 ^ 84 % 16)) 31
    [(hdr, min (last + n) 0x200000 - hdr)]

/-- Decode segment `seg` of the ingot at scratchpad offset `itab` of a core of context `x` for an MMAC of K rows on a tile (R199 to R202). `want` is the EFMT that the format needs. -/
def State.melt (s : State) (core x itab seg tile k want : Nat) : Melt :=
  let base := winBase core
  let rd (a n : Nat) := s.rdB (base + a) n
  let pzr (a n : Nat) := s.pzB (base + a) n
  let ea := itab + 16 * seg
  let w := leNat (rd ea 16)
  let efmt := w / 2 ^ 84 % 16
  let ctab := w / 2 ^ 80 % 16
  let hdr := itab + w % 2 ^ 32
  let inB (a n : Nat) : Bool := decide (0x100000 ≤ a) && decide (a + n ≤ 0x200000)
  let ta := tableBase + 4096 * x + 256 * ctab
  let table := s.rdB ta 256
  let tpz := s.pzB ta 256 || s.tableBad (core / 512) ta
  let bad (sub detail : Nat) : Melt := .failed 0x18 sub (ingotDetail tile seg true 0 ctab sub detail 0)
  if pzr ea 16 ∨ (inB hdr 64 ∧ pzr hdr 64) then .poisoned k
  else if efmt ≠ want then bad 6 0
  else if !tpz ∧ !tableSound table then bad 5 0
  else if !tpz ∧ 2 ^ 15 < kraft table then bad 5 1
  else if w / 2 ^ 88 % 256 ≠ 0 ∨ w / 2 ^ 32 % 2 ^ 48 ≠ 0 ∨ w % 64 ≠ 0 then bad 7 0
  else if !inB hdr 64 then .failed 0x12 0 0
  else
    let header := rd hdr 64
    if (crc32c header).toNat ≠ w / 2 ^ 96 % 2 ^ 32 then bad 7 0
    else
      let start := hdr + 64 + scaleBytes efmt
      let (last, n) := laneSpan header start 31
      if !inB hdr (last + n - hdr) then .failed 0x12 0 0
      else
        let nsym := if efmtHalf efmt then k / 2 else k
        let sz := if efmt = 6 then 2 else 1
        let scale (j : Nat) : List Byte :=
          if scaleBytes efmt = 0 then [] else (List.range 8).flatMap (fun b => rd (hdr + 64 + sz * (32 * b + j)) sz)
        let spz := scaleBytes efmt ≠ 0 ∧ pzr (hdr + 64) (scaleBytes efmt)
        let scales := (List.range 32).map scale
        let cb := (chunksOf 2 16 ((table.drop 128).take 32)).map (fun p => BitVec.ofNat 16 (leNat p))
        if tpz then { Melt.poisoned k with scales := scales }
        else
          match meltLanes rd pzr (codewords table) header start nsym efmt (List.range 32) with
          | .error (j, sub, q) => .failed 0x18 sub (ingotDetail tile seg false j ctab sub 0 q)
          | .ok l => ⟨l.map (·.1), l.map (fun x => x.2 || decide spz), scales, cb, none⟩

end Sys2Proof.Machine
end

