-- ==== Sys2Proof/Machine/Pour.lean ====
section
/-! DEFINITION. The stripe parity engine: the coding group's registers and enable check (R393, R394), its code (R395), stripes and units (R396 to R398), the pour instructions (R399 to R405), the close (R406 to R410) and the rebuild (R411). -/

namespace Sys2Proof.Machine

/-! GF(2⁸) with polynomial 0x11D (R395). -/

/-- Multiplication by 2. -/
def gfDouble (a : Byte) : Byte := if bitAt a 7 then (a <<< 1) ^^^ 0x1D else a <<< 1

/-- `a` times 2^k. -/
def gfPow2 (a : Byte) : Nat → Byte
  | 0 => a
  | k + 1 => gfDouble (gfPow2 a k)

/-- The product. -/
def gfMul (a b : Byte) : Byte :=
  (List.range 8).foldl (fun r k => if bitAt b k then r ^^^ gfPow2 a k else r) 0

/-- The inverse of a nonzero element. -/
def gfInv (a : Byte) : Byte :=
  match (List.range 256).find? (fun b => gfMul a (BitVec.ofNat 8 b) = 1) with
  | some b => BitVec.ofNat 8 b
  | none => 0

/-- The sum of products of two lists. -/
def gfDot (a b : List Byte) : Byte := (List.zipWith gfMul a b).foldl (· ^^^ ·) 0

/-- The determinant of a square matrix of `n` rows, by its first row. -/
def gfDet : Nat → List (List Byte) → Byte
  | 0, _ => 1
  | _, [] => 1
  | n + 1, r :: rest =>
    ((List.range r.length).map (fun c => gfMul (r.getD c 0) (gfDet n (rest.map (fun x => x.eraseIdx c))))).foldl (· ^^^ ·) 0

/-- Clear column `c` of the other rows with a pivot row. -/
def gfClear (c : Nat) (pivot row : List Byte) : List Byte :=
  List.zipWith (fun x p => x ^^^ gfMul (row.getD c 0) p) row pivot

/-- One column of Gauss and Jordan's elimination; rows above `c` hold their pivots. -/
def gfColumn (m : List (List Byte)) (c : Nat) : List (List Byte) :=
  match (m.drop c).findIdx? (fun r => r.getD c 0 != 0) with
  | none => m
  | some i =>
    let p := (m.getD (c + i) [])
    let p1 := p.map (gfMul (gfInv (p.getD c 0)))
    let rest := (m.eraseIdx (c + i)).map (gfClear c p1)
    rest.take c ++ [p1] ++ rest.drop c

/-- The inverse of a square matrix of full rank. -/
def gfInverse (m : List (List Byte)) : List (List Byte) :=
  let n := m.length
  let wide := (List.range n).map (fun i => m.getD i [] ++ (List.range n).map (fun j => if i = j then (1 : Byte) else 0))
  ((List.range n).foldl gfColumn wide).map (fun r => r.drop n)

/-! Configuration (R393). -/

/-- The fields of GCFG. -/
def gcfgK (v : W64) : Nat := (fld v 37 5).toNat
def gcfgM (v : W64) : Nat := (fld v 42 3).toNat
def gcfgN (v : W64) : Nat := gcfgK v + gcfgM v
def gcfgMe (v : W64) : Nat := (fld v 48 5).toNat
def gcfgU (v : W64) : Nat := (fld v 0 24).toNat
def gcfgJoin (v : W64) : Bool := bitAt v 62
def gcfgGload (v : W64) : Bool := bitAt v 61

/-- The bits of GCFG that hold a value. -/
def gcfgMask : W64 := 0xE01F1FE000FFFFFF

/-- GCFG without ME and JOIN (R394, code 0x05). -/
def gcfgShared (v : W64) : W64 := v &&& ~~~(0x401F000000000000 : W64)

def Spe.enabled (p : Spe) : Bool := bitAt p.gcfg 63
def Spe.me (p : Spe) : Nat := gcfgMe p.gcfg

/-- A member table entry: MODULE, PDOM and CDOM, without LIVE. -/
def Spe.member (p : Spe) (i : Nat) : W64 := tget 0 p.memb i
def Spe.moduleOf (p : Spe) (i : Nat) : Nat := (fld (p.member i) 16 9).toNat

/-- A coefficient of the generator (R395). -/
def Spe.coef (p : Spe) (v : W64) (j i : Nat) : Byte :=
  if gcfgGload v then tget 0 p.gmat (16 * j + i)
  else if gcfgM v = 1 then 1
  else gfInv (BitVec.ofNat 8 (j ^^^ (gcfgM v + i)))

/-- The units of the pour area (R398): data slots first, then two slots for each parity unit. -/
def areaUnits (v : W64) : Nat := gcfgU v + 2 * (gcfgU v * gcfgM v / gcfgK v)

/-- The size of the pour area (R398). -/
def areaBytes (v : W64) : Nat :=
  let map := 16 * (gcfgU v + gcfgU v * gcfgM v / gcfgK v)
  65536 * areaUnits v + (map + 65535) / 65536 * 65536

/-- Whether more than `m` of the members share a domain. -/
def sharedDomain (p : Spe) (v : W64) (lo : Nat) : Bool :=
  let ds := (List.range (gcfgN v)).map (fun i => fld (p.member i) lo 8)
  ds.any (fun d => decide (gcfgM v < ds.count d))

/-- Whether some square submatrix of the generator is singular (R394, code 0x03). -/
def notMds (p : Spe) (v : W64) : Bool :=
  (List.range (min (gcfgK v) (gcfgM v))).any (fun s =>
    ((List.range (gcfgM v)).sublistsLen (s + 1)).any (fun rs =>
      ((List.range (gcfgK v)).sublistsLen (s + 1)).any (fun cs =>
        gfDet (s + 1) (rs.map (fun j => cs.map (fun i => p.coef v j i))) == 0)))

/-- The local checks of R394, in the order of the table: the first failing CODE, or 0. -/
def Spe.check (p : Spe) (v : W64) : Nat :=
  if !(decide (2 ≤ gcfgK v) && decide (gcfgK v ≤ 16) && decide (1 ≤ gcfgM v) && decide (gcfgM v ≤ 4)
      && decide (gcfgN v ≤ 20) && decide (gcfgMe v < gcfgN v)) then 1
  else if sharedDomain p v 8 || sharedDomain p v 0 then 2
  else if gcfgGload v && notMds p v then 3
  else if gcfgU v % gcfgK v ≠ 0 ∨ 2 ^ 40 < p.pmbase.toNat + areaBytes v then 4
  else if p.st = .lost then 6
  else 0

/-- The CRC-32C that a member sends at enable (R394, code 0x05), without the entry of a position being rebuilt. Its layout is the model's: GCFG, GMAT in index order, the member table. -/
def Spe.configCrc (p : Spe) (v : W64) (without : Option Nat) : W32 :=
  crc32c (natLe 8 (gcfgShared v).toNat
    ++ (List.range 64).map (fun i => tget 0 p.gmat i)
    ++ (List.range 20).flatMap (fun i => natLe 8 (if without = some i then 0 else (p.member i).toNat)))

/-! Stripes and units (R396). -/

/-- The role of member `me` in stripe `t`: data position, or parity row. -/
def roleOf (k n me t : Nat) : Nat ⊕ Nat :=
  let x := (me + n * k - t % n * k) % n
  if x < k then .inl x else .inr (x - k)

/-- The stripes of one round in which a member holds data, each with its position, and those in which it holds parity. -/
def dataOf (k n me : Nat) : List (Nat × Nat) :=
  (List.range n).filterMap (fun t => match roleOf k n me t with | .inl i => some (t, i) | .inr _ => none)
def parityOf (k n me : Nat) : List (Nat × Nat) :=
  (List.range n).filterMap (fun t => match roleOf k n me t with | .inl _ => none | .inr j => some (t, j))

/-- The stripe and data position of a member's data unit. -/
def stripeOfData (k n me u : Nat) : Nat × Nat :=
  let x := (dataOf k n me).getD (u % k) (0, 0)
  (u / k * n + x.1, x.2)

/-- The number of the data unit and of the parity unit that a member holds in stripe `t`. -/
def dataIndex (k n me t : Nat) : Nat := t / n * k + (dataOf k n me).findIdx (fun x => x.1 = t % n)
def parityIndex (k n me t : Nat) : Nat := t / n * (n - k) + (parityOf k n me).findIdx (fun x => x.1 = t % n)

/-- The holder of data position `i` and of parity row `j` of a stripe. -/
def dataHolder (k n t i : Nat) : Nat := (t * k + i) % n
def parityHolder (k n t j : Nat) : Nat := (t * k + k + j) % n

/-! Slots (R397). -/

/-- The base of a parity unit's slot (assumption 8). -/
def Spe.paritySlot (p : Spe) (y slot : Nat) : Nat := p.pmbase.toNat + 65536 * (gcfgU p.gcfg + 2 * y + slot)

def Spe.parityUnit (p : Spe) (y : Nat) : UnitMap := tget UnitMap.reset p.parity y

/-- A byte string XORed into memory; a word that is poisoned stays so (R52). -/
def State.xorInto (s : State) (a : Nat) (d : List Byte) : State :=
  (s.wrB a (List.zipWith (· ^^^ ·) (s.rdB a d.length) d) false).keepPz s.pz a d.length

/-- The protected units: number, and base of slot 0, region by region. -/
def Spe.units (p : Spe) : List UnitAt :=
  p.regions.flatMap (fun r =>
    match r.2 with
    | none => []
    | some g => (List.range g.frames.length).map (fun x => ⟨g.fu + x, 0, g.frames.getD x 0⟩))

/-- Set the seal of every protected unit (R402, R406, R411). -/
def Spe.sealAll (p : Spe) (on : Bool) : Spe :=
  { p with data := p.units.foldl (fun d u =>
      tset UnitMap.reset d u.unit { tget UnitMap.reset d u.unit with sealed := on }) p.data }

/-! The instructions (R399). -/

/-- An EC fault with its cause (R399). -/
def ecFault (sub : Nat) : Effect := .trap { TrapInfo.of 0x20 .s with sub := sub }

/-- Whether the context of the issuing core may issue the group's instructions (R393, R399). -/
def State.ecAllowed (s : State) : Bool :=
  match s.myCtx with
  | none => false
  | some x => bitAt s.spe.ctxen x

/-- Note that a core of the context has issued a pour instruction (R409). -/
def State.usedPour (s : State) : State :=
  match s.myCtx with
  | none => s
  | some x =>
    match s.context x with
    | none => s
    | some cx => s.setContext x { cx with usedPour := true }

/-- SUB 0x1 for ECPROT, ECUNPROT, ECSEAL and ECCLOSE (R399). -/
def Spe.shut (p : Spe) : Bool := !p.enabled || p.st == .rebuilding || p.st == .lost || p.st == .notEnabled

/-- A close is running (R404, R408). -/
def Spe.closing (p : Spe) : Bool := p.st == .sealing || p.st == .sweeping || p.st == .prepared || p.st == .querying

/-- The common checks of an instruction of the group, then its own effect. -/
def ecIssue (s : State) (poison : List (Option PRec)) (k : Effect) : Result :=
  s.issue .s (needClean .s poison (if s.spe.shut || !s.ecAllowed then ecFault 1 else k))

/-- The frame that backs 64 KiB at a virtual address: contiguous, aligned HBM under leaves with PROT and W (R399, R400). -/
def State.unitFrame (s : State) (x va : Nat) : Option Nat :=
  let pa (j : Nat) : Option Nat :=
    match s.pageAt x (va + 16384 * j) with
    | .leaf v _ e size =>
      if leafProt e && leafW e && leafU e then some ((s.transOf e size (va + 16384 * j)).pa) else (let _ := v; none)
    | _ => none
  match pa 0 with
  | none => none
  | some p =>
    if p % 65536 = 0 && isHbm p && (List.range 4).all (fun j => pa j = some (p + 16384 * j)) then some p else none

/-- The frames of a region, or none when a unit is not backed as R399 asks. -/
def State.unitFrames (s : State) (x va : Nat) : Nat → Option (List Nat)
  | 0 => some []
  | n + 1 =>
    match s.unitFrame x va with
    | none => none
    | some p => (State.unitFrames s x (va + 65536) n).map (fun l => p :: l)

/-- Set A in the leaves of a region's pages (R362, R400). -/
def State.markPages (s : State) (x va : Nat) : Nat → State
  | 0 => s
  | n + 1 =>
    match s.pageAt x va with
    | .leaf _ a e _ => State.markPages (s.markLeaf a e false).1 x (va + 16384) n
    | _ => State.markPages s x (va + 16384) n

/-- The region numbers that are free. -/
def Spe.freeRegions (p : Spe) : List Nat := (List.range 64).filter (fun r => (tget none p.regions r).isNone)

/-- The region that is protected with the same base, first unit and count (R400). -/
def Spe.sameRegion (p : Spe) (va fu nu : Nat) : Option Nat :=
  (p.regions.find? (fun r => match r.2 with | some g => g.va = va && g.fu = fu && g.nu = nu | none => false)).map (·.1)

/-- Whether units or frames overlap a region (R399). -/
def Spe.overlaps (p : Spe) (fu nu : Nat) (frames : List Nat) : Bool :=
  p.units.any (fun u => (decide (fu ≤ u.unit) && decide (u.unit < fu + nu)) || frames.any (· = u.base))

/-- Enter a region (R400): its units are touched with their present contents, but for those of which a rebuild has written a committed view. -/
def Spe.enterRegion (p : Spe) (r ctx va fu : Nat) (frames : List Nat) : Spe :=
  { p with
    regions := tset none p.regions r (some ⟨ctx, va, frames, fu, frames.length, false, true⟩)
    data := (List.range frames.length).foldl (fun d x =>
      let m := tget UnitMap.reset d (fu + x)
      if m.stamp1 ≤ p.pour then tset UnitMap.reset d (fu + x) { m with stamp0 := stampAbsent }
      else tset UnitMap.reset d (fu + x) ⟨p.pour + 1, stampAbsent, false⟩) p.data }

/-- ECPROT (R400). The number is free among the free ones. It is completing: while a page of the range is held (R364) its condition does not hold. -/
def execEcprot (f : SReg) (s : State) :=
  let a := s.cur.rs f.sa.toNat
  let b := s.cur.rs f.sb.toNat
  let va := memAddr a.v
  let nu := (fld b.v 0 32).toNat
  let fu := (fld b.v 32 32).toNat
  let x := s.myCtx.getD 64
  let fr := s.spe.freeRegions
  ecIssue s [a.pz, b.pz]
    (if s.spe.closing then ecFault 6
     else
      match s.spe.sameRegion va fu nu with
      | some r => .done (s.usedPour.putS .s 1 f.sd (BitVec.ofNat 64 r) none)
      | none =>
        if nu = 0 ∨ gcfgU s.spe.gcfg < fu + nu ∨ s.spe.overlaps fu nu [] then ecFault 2
        else if va % 65536 ≠ 0 then ecFault 3
        else if s.heldRange x va (65536 * nu) then .later s
        else
          match s.unitFrames x va nu with
          | none => ecFault 3
          | some frames =>
            if s.spe.overlaps fu nu frames ∨ fr.isEmpty then ecFault 2
            else
              let r := fr.getD (s.freeW.toNat % fr.length) 0
              let s1 := (s.bump.markPages x va (4 * nu)).usedPour
              .done ({ s1 with spe := s1.spe.enterRegion r x va fu frames }.putS .s 1 f.sd (BitVec.ofNat 64 r) none))

/-- ECUNPROT (R401). -/
def execEcunprot (f : SReg) (s : State) :=
  let a := s.cur.rs f.sa.toNat
  let r := a.v.toNat
  ecIssue s [a.pz]
    (if 63 < r then ecFault 5
     else if s.spe.closing then ecFault 6
     else
      match tget none s.spe.regions r with
      | none => .done (s.usedPour.putS .s 1 f.sd 1 none)
      | some g =>
        if g.leaving then .done (s.usedPour.putS .s 1 f.sd 1 none)
        else
          let s1 := s.usedPour
          let p := { s1.spe with regions := tset none s1.spe.regions r (some { g with leaving := true }) }
          .done ({ s1 with spe := p }.putS .s 1 f.sd 0 none))

/-- The units that a virtual range overlaps, or none when a byte of it lies in no protected region (R402). -/
def State.sealUnits (s : State) (x va stop : Nat) : Nat → Option (List Nat)
  | 0 => some []
  | n + 1 =>
    if stop ≤ va then some []
    else
      match s.pageAt x va with
      | .leaf _ _ e size =>
        match s.unitAt (s.transOf e size va).pa with
        | none => none
        | some u => (State.sealUnits s x (va - va % 16384 + 16384) stop n).map (fun l => sadd u.unit l)
      | _ => none

/-- Seal units, counting those that were not sealed (R402). -/
def Spe.sealUnits (p : Spe) (us : List Nat) : Spe × Nat :=
  let new := us.filter (fun u => !(p.unit u).sealed)
  ({ p with data := new.foldl (fun d u => tset UnitMap.reset d u { tget UnitMap.reset d u with sealed := true }) p.data },
   new.length)

/-- ECSEAL (R402). -/
def execEcseal (f : SReg) (s : State) :=
  let a := s.cur.rs f.sa.toNat
  let b := s.cur.rs f.sb.toNat
  let x := s.myCtx.getD 64
  let va := memAddr a.v
  ecIssue s [a.pz, b.pz]
    (if b.v = 0 then .done (s.usedPour.putS .s 1 f.sd 0 none)
     else if s.heldRange x va b.v.toNat then .later s
     else
      match s.sealUnits x va (va + b.v.toNat) (b.v.toNat / 16384 + 2) with
      | none => ecFault 5
      | some us =>
        let s1 := s.usedPour
        let (p, n) := s1.spe.sealUnits us
        .done ({ s1 with spe := p }.putS .s 1 f.sd (BitVec.ofNat 64 n) none))

/-! Messages (R407). -/

/-- Send a group message: kind, receiving position, pour, stripe, row, data. Kinds: 0 CLOSE, 1 DELTA, 2 ACK, 3 PREPARED, 4 REFUSE, 5 COMMIT, 6 ABORT, 7 DEAD (its position as the stripe), 8 QUERY, 9 ANSWER (1 for yes as the stripe). -/
def State.pourSend (s : State) (kind dst q t j : Nat) (data : List Byte) : State :=
  s.send (.pour kind (s.spe.moduleOf dst) q t j data)

/-- Send to every live member but this one. -/
def State.pourCast (s : State) (kind q t : Nat) : State :=
  (s.spe.live.filter (· ≠ s.spe.me)).foldl (fun s i => s.pourSend kind i q t 0 []) s

/-- The coordinator: the live member with the lowest position (R406). -/
def Spe.coordinator (p : Spe) : Nat := p.live.foldl min p.me

/-- The open pour (R397). -/
def Spe.openPour (p : Spe) : W64 := p.pour + 1

/-! Decisions (R408). -/

/-- The contexts that a settled death ends (R409). -/
def State.endPourContexts (s : State) : State :=
  if s.spe.owed then
    let xs := s.contexts.filterMap (fun c => match c.2 with | some cx => (if cx.usedPour then some c.1 else none) | none => none)
    { s with
      spe := { s.spe with owed := false }
      fatal := s.fatal ++ xs.map (fun x => ⟨x, fatalGroup, 0, 0⟩) }
  else s

/-- A unit becomes plain memory: what its slot `slot` holds goes to slot 0. -/
def State.plainUnit (s : State) (u : UnitAt) (slot : Option Nat) : State :=
  match slot with
  | some 0 => s
  | some x => s.copyBytes (s.spe.slotBase u x) u.base 65536
  | none => s.zeroBytes u.base 65536

/-- The units of a region. -/
def Region.units (g : Region) : List UnitAt :=
  (List.range g.frames.length).map (fun x => ⟨g.fu + x, 0, g.frames.getD x 0⟩)

/-- A region leaves protection, with the contents that an access reached (R400, R401). At an abort a committed view in slot 1 stays in the pour area. -/
def State.dropRegion (s : State) (r : Nat) (g : Region) (commit : Bool) : State :=
  let s1 := g.units.foldl (fun s u =>
    let m := s.spe.unit u.unit
    let s2 := s.plainUnit u (liveSlot m s.spe.pour)
    s2.setUnit u.unit (if !commit && decide (m.stamp1 ≤ s.spe.pour) then ⟨stampAbsent, m.stamp1, false⟩ else UnitMap.reset)) s
  { s1 with spe := { s1.spe with regions := tset none s1.spe.regions r none } }

/-- The regions that a decision takes out of protection. -/
def Spe.leavers (p : Spe) (commit : Bool) : List (Nat × Region) :=
  p.regions.filterMap (fun r =>
    match r.2 with
    | some g => if (if commit then g.leaving else g.fresh) then some (r.1, g) else none
    | none => none)

/-- A unit's stamps after an abort of `q` (R408). -/
def UnitMap.abort (m : UnitMap) (q : W64) : UnitMap :=
  { m with
    stamp0 := if m.stamp0 = q then stampAbsent else m.stamp0
    stamp1 := if m.stamp1 = q then stampAbsent else m.stamp1 }

/-- Decide the open pour (R400, R401, R408): "Commit q" or "Abort q", the seals lifted, the next pour open. -/
def State.settlePour (s : State) (commit : Bool) : State :=
  let q := s.spe.openPour
  let s1 := (s.spe.leavers commit).foldl (fun s x => s.dropRegion x.1 x.2 commit) s
  let p := s1.spe
  let stamp (t : Tab UnitMap) : Tab UnitMap :=
    if commit then t else t.foldl (fun d e => tset UnitMap.reset d e.1 (e.2.abort q)) []
  let p1 : Spe := { p with
    pour := if commit then q else p.pour
    data := stamp p.data
    parity := stamp p.parity
    regions := p.regions.map (fun r => (r.1, r.2.map (fun g => { g with leaving := false, fresh := false })))
    st := .open_
    ab := !commit
    dpour := fld q 0 32
    acksDue := [], held := false, votes := [], refused := false, coordNo := false, answers := [] }
  { s1 with spe := p1.sealAll false }.endPourContexts

/-! The close (R406). -/

/-- The coordinator's commit: PREPARED from every live member, and no ANSWER no given (R408). -/
def State.tally (s : State) : State :=
  let p := s.spe
  if p.st = .prepared ∧ p.coordinator = p.me ∧ !p.coordNo ∧ p.live.all (fun i => smem i p.votes) then
    (s.pourCast 5 p.openPour.toNat 0).settlePour true
  else s

/-- Vote PREPARED (R406). -/
def State.prepare (s : State) : State :=
  let p := s.spe
  let s1 : State := { s with spe := { p with st := .prepared } }
  if p.coordinator = p.me then { s1 with spe := { s1.spe with votes := sadd p.me s1.spe.votes } }.tally
  else s1.pourSend 3 p.coordinator p.openPour.toNat 0 0 []

/-- A REFUSE of this member or another: the coordinator broadcasts ABORT (R408). -/
def State.refuseAll (s : State) : State := (s.pourCast 6 s.spe.openPour.toNat 0).settlePour false

/-- Start the close of the open pour (R406); a REFUSE that the coordinator holds already aborts it. -/
def State.startClose (s : State) (cast : Bool) : State :=
  let s1 : State := { s with spe := { s.spe.sealAll true with st := .sealing, acksDue := [], held := false } }
  let s2 := if cast then s1.pourCast 0 s.spe.openPour.toNat 0 else s1
  if s.spe.refused ∧ s.spe.coordinator = s.spe.me then s2.refuseAll else s2

/-- ECCLOSE (R404). -/
def execEcclose (f : SReg) (s : State) :=
  let a := s.cur.rs f.sa.toNat
  ecIssue s [a.pz]
    (if s.spe.openPour < a.v then ecFault 7
     else if a.v ≤ s.spe.pour ∧ a.v ≠ 0 then .done (s.usedPour.putS .s 1 f.sd 2 none)
     else if s.spe.closing then .done (s.usedPour.putS .s 1 f.sd 1 none)
     else .done ((s.usedPour.startClose true).putS .s 1 f.sd 0 none))

/-- The code of a state in ECSTAT (R405). -/
def PourState.code : PourState → Nat
  | .open_ => 0
  | .sealing => 1
  | .sweeping => 2
  | .prepared => 3
  | .querying => 4
  | .rebuilding => 5
  | .lost => 6
  | .notEnabled => 7

/-- The word that ECSTAT returns (R405). -/
def Spe.stat (p : Spe) : W64 :=
  BitVec.ofNat 64
    ((p.live.map (fun i => 2 ^ (44 + i))).sum
      + 2 ^ 36 * (p.regions.filter (fun r => r.2.isSome)).length
      + 2 ^ 33 * p.st.code + (if p.ab then 2 ^ 32 else 0) + p.dpour.toNat)

/-- ECSTAT (R405): it raises the EC fault only for a CTXEN bit of 0. -/
def execEcstat (f : SReg) (s : State) :=
  s.issue .s
    (if !s.ecAllowed then ecFault 1
     else .done (s.usedPour.putS .s 1 f.sd s.spe.stat none))

/-! The sweep. -/

/-- Whether a write that was translated before the seal is still to be performed: a store in a store buffer, or a store copy into a protected unit, one that a save slot holds among them (R402, R403). -/
def State.writesPending (s : State) : Bool :=
  let us := s.spe.units
  let near (a n : Nat) : Bool := us.any (fun u => decide (u.base < a + n) && decide (a < u.base + 65536))
  let writes (c : Core) : Bool :=
    c.stores.any (fun st => near st.addr st.data.length)
      || c.copies.any (fun k => k.form == .xst && k.pins.any (fun p => near p.2.2 p.2.1))
  (s.cores ++ s.cps).any (fun c => writes c.2)
    || s.contexts.any (fun c => c.2.any (fun cx => cx.slots.any (fun x => x.2.any (fun v => writes v.core))))

/-- Whether a unit's 64 KiB at an address hold a poisoned granule. -/
def State.unitPoisoned (s : State) (a : Nat) : Bool := s.pz.any (fun x => decide (a ≤ x) && decide (x < a + 65536))

/-- The bytes of a slot, or zeros for the all-zero view. -/
def State.slotBytes (s : State) (u : UnitAt) (slot : Option Nat) : List Byte :=
  match slot with
  | some x => s.rdB (s.spe.slotBase u x) 65536
  | none => List.replicate 65536 0

/-- What one unit adds to the sweep: nothing, or the difference of its new and committed views (R401, R406). -/
def State.unitDelta (s : State) (u : UnitAt) (leaving : Bool) : Option (List Byte) :=
  let m := s.spe.unit u.unit
  let old := s.slotBytes u (committedSlot m s.spe.pour)
  if leaving then some old
  else
    match touchedSlot m s.spe.pour with
    | none => none
    | some x => some (List.zipWith (· ^^^ ·) (s.slotBytes u (some x)) old)

/-- Sweep the units in order: send their DELTAs, or a REFUSE at the first that holds a poisoned granule (R406). -/
def State.sweep (s : State) : List (UnitAt × Bool) → State
  | [] => s
  | (u, leaving) :: rest =>
    match s.unitDelta u leaving with
    | none => State.sweep s rest
    | some d =>
      let p := s.spe
      let live := liveSlot (p.unit u.unit) p.pour
      if (match live with | some x => s.unitPoisoned (p.slotBase u x) | none => false) then
        if p.coordinator = p.me then s.refuseAll
        else ({ s with spe := { p with held := true } }).pourSend 4 p.coordinator p.openPour.toNat 0 0 []
      else
        let k := gcfgK p.gcfg
        let n := gcfgN p.gcfg
        let (t, i) := stripeOfData k n p.me u.unit
        let s1 := (List.range (gcfgM p.gcfg)).foldl (fun s j =>
          ({ s with spe := { s.spe with acksDue := s.spe.acksDue ++ [(t, j)] } }).pourSend 1 (parityHolder k n t j)
            p.openPour.toNat t j (d.map (gfMul (p.coef p.gcfg j i)))) s
        State.sweep s1 rest

/-- The units of the regions, with whether each leaves. -/
def Spe.sweepList (p : Spe) : List (UnitAt × Bool) :=
  p.regions.flatMap (fun r => match r.2 with | some g => g.units.map (fun u => (u, g.leaving)) | none => [])

/-- SWEEP_COMPLETE (R406, R408): once every write translated before the seal has been performed, the touched units are swept. With nothing to send, the member is prepared. -/
def execSweepComplete (s : State) : Result :=
  if s.spe.st = .sealing ∧ !s.writesPending then
    let s1 := ({ s with spe := { s.spe with st := .sweeping } } : State).sweep s.spe.sweepList
    .next (if s1.spe.st = .sweeping ∧ s1.spe.acksDue.isEmpty ∧ !s1.spe.held then s1.prepare else s1)
  else .next s

/-! Receiving (R406 to R408). -/

/-- A group message takes effect when the group is enabled and its sender is live (R407). -/
def fromLive (s : State) (src : Nat) (k : State) : Result :=
  .next (if s.spe.enabled && smem src s.spe.live && src != s.spe.me then k else s)

/-- CLOSE (R406, R408): the member starts this same close, its broadcast included. -/
def execClose (src q : Nat) (s : State) : Result :=
  fromLive s src (if s.spe.st = .open_ ∧ q = s.spe.openPour.toNat then s.startClose true else s)

/-- The first delta of a pour copies the committed parity into the other slot and stamps it (R406). -/
def State.touchParity (s : State) (y : Nat) : State :=
  let p := s.spe
  let m := p.parityUnit y
  let q := p.openPour
  let put (s : State) (m : UnitMap) : State := { s with spe := { s.spe with parity := tset UnitMap.reset s.spe.parity y m } }
  match touchedSlot m p.pour with
  | some _ => s
  | none =>
    match committedSlot m p.pour with
    | some 0 => put (s.copyBytes (p.paritySlot y 0) (p.paritySlot y 1) 65536) { m with stamp1 := q }
    | some _ => put (s.copyBytes (p.paritySlot y 1) (p.paritySlot y 0) 65536) { m with stamp0 := q }
    | none => put (s.zeroBytes (p.paritySlot y 0) 65536) { m with stamp0 := q }

/-- DELTA (R406). -/
def execDelta (src q t j : Nat) (data : List Byte) (s : State) : Result :=
  let p := s.spe
  let k := gcfgK p.gcfg
  let n := gcfgN p.gcfg
  fromLive s src
    (if q = p.openPour.toNat ∧ p.st ≠ .lost ∧ p.st ≠ .notEnabled ∧ parityHolder k n t j = p.me ∧ j < gcfgM p.gcfg then
      let y := parityIndex k n p.me t
      let s1 := s.touchParity y
      let slot := (touchedSlot (s1.spe.parityUnit y) p.pour).getD 0
      (s1.xorInto (p.paritySlot y slot) (data.take 65536)).pourSend 2 src q t j []
     else s)

/-- ACK (R406): when every DELTA has its ACK the member is prepared. -/
def execAck (src q t j : Nat) (s : State) : Result :=
  let p := s.spe
  fromLive s src
    (if q = p.openPour.toNat ∧ p.st = .sweeping
        ∧ src = parityHolder (gcfgK p.gcfg) (gcfgN p.gcfg) t j then
      let s1 : State := { s with spe := { p with acksDue := p.acksDue.erase (t, j) } }
      if s1.spe.acksDue.isEmpty ∧ !p.held then s1.prepare else s1
     else s)

/-- PREPARED at the coordinator (R408). -/
def execPrepared (src q : Nat) (s : State) : Result :=
  let p := s.spe
  fromLive s src
    (if p.coordinator = p.me ∧ q = p.openPour.toNat then ({ s with spe := { p with votes := sadd src p.votes } } : State).tally
     else s)

/-- REFUSE at the coordinator (R408): one that comes before this member has begun the close is kept. -/
def execRefuse (src q : Nat) (s : State) : Result :=
  let p := s.spe
  fromLive s src
    (if p.coordinator = p.me ∧ q = p.openPour.toNat then
      match p.st with
      | .open_ => { s with spe := { p with refused := true } }
      | .sealing => s.refuseAll
      | .sweeping => s.refuseAll
      | .prepared => s.refuseAll
      | .querying => s.refuseAll
      | _ => s
     else s)

/-- Whether the open pour is undecided here (R408). -/
def Spe.undecided (p : Spe) : Bool := p.st == .open_ || p.closing

/-- COMMIT (R408). -/
def execCommit (src q : Nat) (s : State) : Result :=
  fromLive s src (if q = s.spe.openPour.toNat ∧ s.spe.undecided then s.settlePour true else s)

/-- ABORT (R408). -/
def execAbort (src q : Nat) (s : State) : Result :=
  fromLive s src (if q = s.spe.openPour.toNat ∧ s.spe.undecided then s.settlePour false else s)

/-- QUERY (R408): yes for a pour that is committed here; a coordinator that answers no to the open pour never commits it afterwards. -/
def execQuery (src q : Nat) (s : State) : Result :=
  let p := s.spe
  fromLive s src
    (if q ≤ p.pour.toNat then s.pourSend 9 src q 1 0 []
     else
      let no := p.coordNo || (p.coordinator == p.me && q == p.openPour.toNat)
      ({ s with spe := { p with coordNo := no } } : State).pourSend 9 src q 0 0 [])

/-- A querier without an ANSWER outstanding aborts (R408). -/
def State.queried (s : State) : State :=
  if s.spe.st = .querying ∧ s.spe.answers.isEmpty then s.settlePour false else s

/-- ANSWER (R408). -/
def execAnswer (src q : Nat) (yes : Bool) (s : State) : Result :=
  let p := s.spe
  fromLive s src
    (if p.st = .querying ∧ q = p.openPour.toNat then
      (if yes then s.settlePour true else ({ s with spe := { p with answers := sdel src p.answers } } : State).queried)
     else s)

/-! Deaths (R407 to R409, R411). -/

/-- The positions of the group that are dead. -/
def Spe.dead (p : Spe) : List Nat := (List.range (gcfgN p.gcfg)).filter (fun i => !smem i p.live && i != p.me)

/-- The group is lost (R411): the open pour is aborted and every protected unit is sealed. -/
def State.loseGroup (s : State) : State :=
  let s1 := s.settlePour false
  { s1 with spe := { s1.spe.sealAll true with st := .lost, eccst := 6, rebuilding := none } }

/-- Record a death (R407, R408). With more than m positions dead the group is lost (R411); on a spare, which knows the survivors that it has heard, with fewer than k of them. -/
def State.recordDeath (s : State) (pos : Nat) : State :=
  let p := s.spe
  if !p.enabled || !smem pos p.live || pos == p.me then s
  else
    let s1 : State := { s with spe := { p with live := sdel pos p.live, votes := sdel pos p.votes, answers := sdel pos p.answers, owed := true } }
    if p.st = .lost then s1.endPourContexts
    else if p.st = .rebuilding ∧ p.rebuilding = some p.me then
      if s1.spe.live.length < gcfgK p.gcfg then s1.loseGroup else s1.endPourContexts
    else if gcfgM p.gcfg < s1.spe.dead.length then s1.loseGroup
    else
      match p.st with
      | .querying => s1.queried
      | .open_ => s1.settlePour false
      | .rebuilding =>
        let s2 := s1.settlePour false
        { s2 with spe := { s2.spe.sealAll true with st := .rebuilding, ecseals := [] } }
      | .notEnabled => s1
      | _ =>
        let others := s1.spe.live.filter (· ≠ p.me)
        let s2 := ({ s1 with spe := { s1.spe with st := .querying, answers := others } } : State).pourCast 8 p.openPour.toNat 0
        s2.queried

/-- DEAD (R407). -/
def execDead (src pos : Nat) (s : State) : Result := fromLive s src (s.recordDeath pos)

/-- Declare a member dead (R407): DEAD goes to every other live member, and the death is recorded. -/
def State.declareDead (s : State) (pos : Nat) : State :=
  if s.spe.enabled && smem pos s.spe.live && pos != s.spe.me then
    ((s.spe.live.filter (fun i => i ≠ s.spe.me ∧ i ≠ pos)).foldl (fun s i => s.pourSend 7 i 0 pos 0 []) s).recordDeath pos
  else s

/-- MEMBER_UNREACHABLE_TIMEOUT (R407): a member's links have reported another unreachable for 100 ms. -/
def execMemberUnreachableTimeout (pos : Nat) (s : State) : Result := .next (s.declareDead pos)

/-- MEMBER_DECLARED_DEAD (R407): system software declares it. -/
def execMemberDeclaredDead (pos : Nat) (s : State) : Result := .next (s.declareDead pos)

/-! Enable (R394). -/

/-- A configuration check fails: EN stays 0, CODE is written and the fault is reported. -/
def State.ecConfigFault (s : State) (v : W64) (code : Nat) : State :=
  ({ s with spe := { s.spe with gcfg := v &&& ~~~(1#64 <<< 63), eccst := BitVec.ofNat 64 code, want := none, crcs := [] } } : State).send
    (.errorReport code)

/-- Every member has passed: the parity slots are zeroed, %pour is 0 and every member is LIVE. -/
def State.enableGroup (s : State) (v : W64) : State :=
  let p := s.spe
  let p1 : Spe := { p with
    gcfg := v, eccst := 0, want := none, crcs := [], pour := 0, parity := [], data := [], regions := []
    st := .open_, ab := false, dpour := 0, live := List.range (gcfgN v) }
  ({ s with spe := p1 } : State).zeroBytes (p1.paritySlot 0 0) (65536 * (areaUnits v - gcfgU v))

/-- A spare joins (R394, R411): it is enabled with zeroed parity slots and %pour 0, the survivors that have passed are LIVE, and it rebuilds. -/
def State.joinGroup (s : State) (v : W64) : State :=
  let p1 : Spe := { s.spe with
    gcfg := v, eccst := 0, want := none, live := (s.spe.crcs.map (·.1)).foldl (fun l i => sadd i l) []
    crcs := [], pour := 0, parity := [], data := [], regions := [], st := .rebuilding, rebuilding := some (gcfgMe v) }
  ({ s with spe := p1 } : State).zeroBytes (p1.paritySlot 0 0) (65536 * (areaUnits v - gcfgU v))

/-- Whether the CRCs at hand complete the check: all other members', or for a spare those of `k` survivors. -/
def Spe.allChecked (p : Spe) (v : W64) : Bool :=
  let heard (i : Nat) : Bool := p.crcs.any (fun c => c.1 = i)
  if gcfgJoin v then decide (gcfgK v ≤ ((List.range (gcfgN v)).filter (fun i => i ≠ gcfgMe v ∧ heard i)).length)
  else (List.range (gcfgN v)).all (fun i => i = gcfgMe v || heard i)

/-- The position whose entry the comparison leaves out. -/
def joinPos (v : W64) : Option Nat := if gcfgJoin v then some (gcfgMe v) else none

/-- Compare the CRCs that have come (R394, code 0x05). -/
def State.compareCrcs (s : State) : State :=
  match s.spe.want with
  | none => s
  | some v =>
    let mine := s.spe.configCrc v (joinPos v)
    if s.spe.crcs.any (fun c => c.2 ≠ mine) then s.ecConfigFault v 5
    else if s.spe.allChecked v then (if gcfgJoin v then s.joinGroup v else s.enableGroup v)
    else s

/-- A write of GCFG that sets EN. While EN is 1 it is ignored (R393). -/
def State.gcfgEnable (s : State) (value : W64) : State :=
  let v := (value &&& gcfgMask) ||| (1#64 <<< 63)
  if s.spe.enabled then s
  else
    let code := s.spe.check v
    if code ≠ 0 then s.ecConfigFault v code
    else
      let crc := s.spe.configCrc v (joinPos v)
      let s1 : State := { s with spe := { s.spe with gcfg := v &&& ~~~(1#64 <<< 63), want := some v } }
      let s2 := ((List.range (gcfgN v)).filter (· ≠ gcfgMe v)).foldl (fun s _ => s.send (.enableCrc crc)) s1
      s2.compareCrcs

/-- GCFG_ENABLE (R394). -/
def execGcfgEnable (value : W64) (s : State) : Result := .next (s.gcfgEnable value)

/-- Whether this member is a spare that rebuilds itself (R411). -/
def Spe.isSpare (p : Spe) : Bool := p.st == .rebuilding && p.rebuilding == some p.me

/-- ENABLE_CHECK_CRC (R394): another member's CRC arrives. A member of an enabled group answers a joining spare with its own; a survivor that a spare hears later passes its check there and is LIVE. -/
def execEnableCheckCrc (src : Nat) (crc : W32) (s : State) : Result :=
  if s.spe.enabled && s.spe.isSpare then
    .next (if src != s.spe.me && decide (src < gcfgN s.spe.gcfg) && crc == s.spe.configCrc s.spe.gcfg (some s.spe.me) then
      { s with spe := { s.spe with live := sadd src s.spe.live } } else s)
  else if s.spe.enabled then
    .next (if !smem src s.spe.live && src != s.spe.me then s.send (.enableCrc (s.spe.configCrc s.spe.gcfg (some src))) else s)
  else
    .next ({ s with spe := { s.spe with crcs := s.spe.crcs.filter (fun c => c.1 ≠ src) ++ [(src, crc)] } } : State).compareCrcs

/-! Rebuild (R411). -/

/-- Write a member table entry (R393): MODULE, PDOM and CDOM. -/
def Spe.writeMember (p : Spe) (pos : Nat) (value : W64) : Spe :=
  if (p.enabled && smem pos p.live) || decide (20 ≤ pos) then p else { p with memb := tset 0 p.memb pos (value &&& 0x1FFFFFF) }

/-- A survivor's entry is written with REB = 1; every protected unit is sealed, and which of them an ECSEAL had sealed is kept. -/
def State.rebuildStart (s : State) (pos : Nat) (value : W64) : State :=
  let p := s.spe.writeMember pos value
  { s with spe :=
    if p.enabled && !smem pos p.live && pos != p.me && decide (pos < gcfgN p.gcfg) && p.st == .open_
    then { p.sealAll true with st := .rebuilding, rebuilding := some pos, ecseals := (p.units.map (·.unit)).filter (fun u => (p.unit u).sealed) }
    else p }

/-- REBUILD_START (R393, R411). -/
def execRebuildStart (pos : Nat) (value : W64) (s : State) : Result := .next (s.rebuildStart pos value)

/-- Where the model reads another member's committed views: pseudo-addresses above the address space, data units, then parity units, then %pour. -/
def viewData (u b : Nat) : Nat := 2 ^ 60 + 65536 * u + b
def viewParity (y b : Nat) : Nat := 2 ^ 61 + 65536 * y + b
def viewPour : Nat := 2 ^ 62

/-- The rows from which a stripe is solved: the k lowest surviving positions, data before parity, each with its module, its place and its row of [I; G]. -/
def Spe.solveRows (p : Spe) (t : Nat) : List (Nat × (Nat → Nat) × List Byte) :=
  let k := gcfgK p.gcfg
  let n := gcfgN p.gcfg
  let up (x : Nat) : Bool := smem x p.live && x != p.me
  let d := (List.range k).filterMap (fun i =>
    let x := dataHolder k n t i
    if up x then some (p.moduleOf x, viewData (dataIndex k n x t), (List.range k).map (fun c => if c = i then (1 : Byte) else 0))
    else none)
  let y := (List.range (gcfgM p.gcfg)).filterMap (fun j =>
    let x := parityHolder k n t j
    if up x then some (p.moduleOf x, viewParity (parityIndex k n x t), (List.range k).map (fun c => p.coef p.gcfg j c))
    else none)
  (d ++ y).take k

/-- The combination of the rows that gives this member's unit of a stripe. -/
def Spe.solveCoefs (p : Spe) (t : Nat) (rows : List (List Byte)) : List Byte :=
  let k := gcfgK p.gcfg
  let inv := gfInverse rows
  match roleOf k (gcfgN p.gcfg) p.me t with
  | .inl i => inv.getD i []
  | .inr j => (List.range k).map (fun c => gfDot ((List.range k).map (fun i => p.coef p.gcfg j i)) (inv.map (fun r => r.getD c 0)))

/-- Solve a stripe and write this member's unit, stamped with `q` (R411). A granule with a poisoned source is written poisoned. -/
def State.rebuildStripe (s : State) (q : W64) (t : Nat) : State :=
  let p := s.spe
  let k := gcfgK p.gcfg
  let n := gcfgN p.gcfg
  let rows := p.solveRows t
  let co := p.solveCoefs t (rows.map (fun r => r.2.2))
  let byte (b : Nat) : Byte × Bool :=
    let src := rows.map (fun r => s.peerByte r.1 (r.2.1 b))
    (gfDot co (src.map (·.1)), src.any (·.2))
  let put (a : Nat) (s : State) : State :=
    (List.range 8192).foldl (fun s g =>
      let bs := (List.range 8).map (fun i => byte (8 * g + i))
      s.wrB (a + 8 * g) (bs.map (·.1)) (bs.any (·.2))) s
  match roleOf k n p.me t with
  | .inl _ =>
    let u := dataIndex k n p.me t
    (put (p.slotBase ⟨u, 0, 0⟩ 1) s).setUnit u ⟨stampAbsent, q, false⟩
  | .inr _ =>
    let y := parityIndex k n p.me t
    let s1 := put (p.paritySlot y 0) s
    { s1 with spe := { s1.spe with parity := tset UnitMap.reset s1.spe.parity y ⟨q, stampAbsent, false⟩ } }

/-- The survivors' decided pour, as the lowest of them reports it. -/
def State.survivorPour (s : State) : W64 :=
  let md := s.spe.moduleOf ((s.spe.live.filter (· ≠ s.spe.me)).headD 0)
  BitVec.ofNat 64 (leNat ((List.range 8).map (fun i => (s.peerByte md (viewPour + i)).1)))

/-- The spare solves every stripe in ascending order (R411). -/
def State.rebuildAll (s : State) : State :=
  let p := s.spe
  let q := s.survivorPour
  let s1 := (List.range (gcfgU p.gcfg * gcfgN p.gcfg / gcfgK p.gcfg)).foldl (fun s t => s.rebuildStripe q t) s
  { s1 with spe := { s1.spe with pour := q, dpour := fld q 0 32 } }

/-- REBUILD_COMPLETE (R411): the position becomes LIVE and the member leaves state 5; units that an ECSEAL had sealed for the open pour stay sealed until it is decided (R403). On the spare the stripes have been solved. -/
def execRebuildComplete (s : State) : Result :=
  match s.spe.st, s.spe.rebuilding with
  | .rebuilding, some pos =>
    let s1 := if pos = s.spe.me then s.rebuildAll.bump else s
    .next { s1 with spe := { ((s1.spe.sealAll false).sealUnits s1.spe.ecseals).1 with
      st := .open_, rebuilding := none, ecseals := [], live := sadd pos s1.spe.live } }
  | _, _ => .next s

/-! Register accesses of the supervisor (R393). -/

/-- The value of a register of the group. -/
def Spe.readReg (p : Spe) (off : Nat) : W64 :=
  if off = 0 then p.gcfg
  else if off = 8 then p.eccst
  else if off = 0x10 then p.pmbase
  else if off = 0x18 then p.ctxen
  else if 0x40 ≤ off ∧ off < 0xE0 ∧ off % 8 = 0 then
    let i := (off - 0x40) / 8
    p.member i ||| (if smem i p.live then 1#64 <<< 63 else 0)
  else if 0x100 ≤ off ∧ off < 0x140 then (tget 0 p.gmat (off - 0x100)).zeroExtend 64
  else 0

/-- A write of a register of the group that starts nothing: GCFG with EN = 0, PMBASE, CTXEN, an entry with REB = 0, GMAT. -/
def Spe.writeReg (p : Spe) (off : Nat) (v : W64) : Spe :=
  if off = 0 then (if p.enabled then p else { p with gcfg := v &&& gcfgMask &&& ~~~(1#64 <<< 63), want := none })
  else if off = 0x10 then { p with pmbase := v &&& ~~~0xFFFF }
  else if off = 0x18 then { p with ctxen := v }
  else if 0x40 ≤ off ∧ off < 0xE0 ∧ off % 8 = 0 then p.writeMember ((off - 0x40) / 8) v
  else if 0x100 ≤ off ∧ off < 0x140 ∧ !p.enabled then { p with gmat := tset 0 p.gmat (off - 0x100) (fld v 0 8) }
  else p

end Sys2Proof.Machine
end

