-- ==== Sys2Proof/Machine/System.lean ====
section
/-! DEFINITION. Special registers (R50, R116, R284), CLKDIV (R117), CHK (R118, R279), the queue of N (R120) and ladle posts (R121, R330). -/

namespace Sys2Proof.Machine

/-! Special registers. -/

/-- Nanoseconds of a time in units of 1/336 ns (R50). -/
def timeOf (u : Nat) : Nat := u / 336

/-- The value of a special register (R50, R284); `none` for a number that is not in the table. -/
def sysValue (s : State) (n : Nat) : Option W64 :=
  let c := s.cur
  if n = 0x000 then some (BitVec.ofNat 64 c.tref)
  else if n = 0x001 then some (BitVec.ofNat 64 (timeOf c.tun))
  else if n = 0x002 then some (if s.isCp then s.freeW else BitVec.ofNat 64 s.me)
  else if n = 0x003 then some c.iter
  else if n = 0x004 then some s.spe.pour
  else if n = 0x008 then some (c.fpflags.zeroExtend 64)
  else if n = 0x009 then some (c.fpctl.zeroExtend 64)
  else if 0x00A ≤ n ∧ n ≤ 0x019 then some (tget 0 c.acclive (n - 0x00A))
  else if 0x020 ≤ n ∧ n ≤ 0x02F then
    some (c.srseed.getD (2 * (n - 0x020) + 1) 0 ++ c.srseed.getD (2 * (n - 0x020)) 0)
  else if n = 0x030 then some (c.spmap.zeroExtend 64)
  else if 0x040 ≤ n ∧ n ≤ 0x046 ∧ c.mode = .handler then some (tget 0 c.tr (n - 0x040))
  else none

/-- SYSRD (R116). -/
def execSysrd (f : SImm) (s : State) :=
  s.issue .s
    (match sysValue s f.imm.toNat with
     | some v => .done (s.putS .s 2 f.sd v none).bump
     | none => illegalOperand .s)

/-- What a SYSWR writes (R50, R116): `none` for a register that is read-only or does not exist. -/
def sysWrite (n : Nat) (v : W64) : Option Write :=
  if n = 0x008 then some (.fpflags (fld v 0 32))
  else if n = 0x009 then some (.fpctl (fld v 0 32))
  else if 0x00A ≤ n ∧ n ≤ 0x019 then some (.acclive (n - 0x00A) v)
  else if 0x020 ≤ n ∧ n ≤ 0x02F then some (.srseed (n - 0x020) v)
  else none

/-- A write of %tr.spos (R286): only LINE and LANE, with LANE not 0; S moves to the position at the resumption. -/
def writeSpos (s : State) (v : W64) : Effect :=
  if fld v 14 50 ≠ 0 ∨ fld v 0 3 = 0 then illegalOperand .s
  else .done (s.modCur (fun c =>
    Core.emit { c with moved := some ((fld v 3 11).toNat, (fld v 0 3).toNat) } .s 2 (.trSpos v)))

/-- SYSWR (R116). -/
def execSyswr (f : SImm) (s : State) :=
  let a := s.cur.rs f.sa.toNat
  s.issue .s (needClean .s [a.pz]
    (if f.imm = 0x043 ∧ s.cur.mode = .handler then writeSpos s a.v
     else
      match sysWrite f.imm.toNat a.v with
      | some w => .done (s.modCur (fun c => c.emit .s 2 w))
      | none => illegalOperand .s))

/-- CLKDIV (R117): engine cycles from c + 2 on last d reference cycles. -/
def execClkdiv (f : SReg) (s : State) :=
  let a := s.cur.rs f.sa.toNat
  s.issue .s (needClean .s [a.pz]
    (if a.v.toNat < 2 ∨ 16 < a.v.toNat then illegalOperand .s
     else .done (s.modCur (fun c => c.emit .s 2 (.clkdiv a.v.toNat)))))

/-! CHK. -/

/-- The deferred fault of a record (R279). -/
def deferredTrap (r : PRec) : Effect :=
  .trap { TrapInfo.of 0x1D .s with pcause := r.cause.toNat, addr := r.addr.toNat }

/-- The lowest poisoned word of a matrix register, row-major, among `n` words from word `k` on (R279). -/
def firstPoisonedWord (pz : List Nat) (base k : Nat) : Nat → Option Nat
  | 0 => none
  | n + 1 => if poisonedAt pz (base + 4 * k) then some k else firstPoisonedWord pz base (k + 1) n

/-- CHK (R118, R279): the class stands in [25:24], the number in [23:14]. -/
def execChk (f : SReg) (s : State) :=
  let cls := (fld f.sd 4 2).toNat
  let n := (fld f.sd 0 4 ++ f.sa).toNat
  s.issue .s
    (if cls = 0 then
      (if 63 < n then illegalOperand .s
       else match (s.cur.rs n).pz with
        | some r => deferredTrap r
        | none => .done s)
     else if cls = 1 then
      (if 15 < n then illegalOperand .s
       else match (s.cur.rp n).pz with
        | some r => deferredTrap r
        | none => .done s)
     else if 191 < n ∨ s.isCp then illegalOperand .s
     else match firstPoisonedWord s.pz (mAddr s.me n 0 0) 0 1024 with
      | some k => .trap { TrapInfo.of 0x1D .s with pcause := 1, detail := BitVec.ofNat 64 k }
      | none => .done s)

/-! The queue of N. -/

/-- NPOST (R120): N sees the command two cycles on (R77), and with it every earlier store of the core (R251). It is completing: while the queue of eight commands is full its condition does not hold. -/
def execNpost (f : SReg) (s : State) :=
  let a := s.cur.rs f.sa.toNat
  let b := s.cur.rs f.sb.toNat
  s.issue .s (needClean .s [a.pz, b.pz]
    (if a.v.toNat % 8 ≠ 0 then alignFault .s a.v.toNat
     else if 8 ≤ s.cur.ncmds.length then .later s
     else .done (s.drainAll.modCur (fun c => { c with ncmds := c.ncmds ++ [⟨a.v.toNat, b.v, false, c.now + 2⟩] }))))

/-! Ladle posts (R121, R330). -/

/-- The fields of a queue header (R327) from its first 32 bytes: WIDX, RIDX, BASE, LSZ. -/
structure Header where
  widx : Nat
  ridx : Nat
  base : Nat
  lsz : Nat
  deriving DecidableEq, Repr

def headerOf (bs : List Byte) : Header :=
  let w := leNat bs
  ⟨w % 2 ^ 64, w / 2 ^ 64 % 2 ^ 64, w / 2 ^ 128 % 2 ^ 52, w / 2 ^ 188 % 16⟩

/-- Whether a header has room for a claim (R330). -/
def Header.room (h : Header) : Bool := decide (h.widx < h.ridx + 2 ^ (h.lsz + 4))

/-- The address of slot i (R327). -/
def Header.slot (h : Header) (i : Nat) : Nat := (h.base + 64 * (i % 2 ^ (h.lsz + 4))) % 2 ^ 52

/-- The result of an LPOST: the claimed index, or all ones for a full queue. The line of the header leaves the L1 (R232); `late` says that a memory other than the core's own scratchpad answers (R84). -/
def lpostDone (s : State) (f : SReg) (a hpa : Nat) (late : Bool) (v : W64) : Effect :=
  .done ((s.note 2 a v).modCur (fun c => holdLate ((c.dropLine hpa).emitS .s 8 f.sd v none) 8 late))

/-- A write of S at the point of coherence; the core's own reads see one to its own window from the next cycle on. -/
def State.pokeNext (s : State) (pa : Nat) (d : List Byte) (poison : Bool) : State :=
  if s.ownWin pa then (s.trimShown pa d.length).modCur (fun c => (c.settleLates pa d.length).emit .s 1 (.bytes pa d poison))
  else (s.modCur (fun c => c.settleLates pa d.length)).poke pa d poison

/-- The packet as it is written: doubleword 0 takes the slot index modulo 2^16 in its low bits (R121). -/
def withSeq (d : List Byte) (i : Nat) : List Byte := natLe 2 i ++ d.drop 2

/-- Write a packet into its slot, doubleword 0 last, and claim it (R121). -/
def State.postPacket (s : State) (hpa spa i : Nat) (pkt : List (Byte × Bool)) : State :=
  let d := pkt.map (·.1)
  let words := [1, 2, 3, 4, 5, 6, 7, 0]
  let s1 := words.foldl (fun s k =>
    s.pokeNext (spa + 8 * k) ((withSeq d i).drop (8 * k) |>.take 8) (((pkt.drop (8 * k)).take 8).any (·.2))) s
  (s1.pokeNext hpa (natLe 8 (i + 1)) false).modCur (fun c => c.dropLine spa)

/-- LPOST (R121): one conditional claim, then the packet. -/
def execLpost (f : SReg) (s : State) :=
  let a := s.cur.rs f.sa.toNat
  let b := s.cur.rs f.sb.toNat
  let ha := memAddr a.v
  let pa := memAddr b.v
  s.issue .s (needClean .s [a.pz, b.pz]
    (if ha % 64 ≠ 0 then alignFault .s ha
     else if pa % 64 ≠ 0 then alignFault .s pa
     else
      match s.xlatMine .s ha 64 true with
      | .error x => x
      | .ok (s1, t) =>
        if t.uo then protFault .s ha
        else
          match s1.writeTests .s ha t 64 0 with
          | .error x => x
          | .ok s2 =>
            match s2.ordinal 2 ha with
            | .full => journalFull
            | .repeated s3 v pz =>
              .done (s3.modCur (fun c => c.emitS .s 8 f.sd v (if pz then some (dataPz ha) else none)))
            | .perform s3 =>
              match (if s3.ownSpm t.pa then s3.tagCheck .s (t.pa % 0x1000000) 32 else .ok s3) with
              | .error x => x
              | .ok sh =>
              let s4 := sh.drainAll
              let hb := s4.peek t.pa 32
              if (hb.take 16).any (·.2) then poisonTrap .s (dataPz ha)
              else
                let h := headerOf (hb.map (·.1))
                if !h.room then lpostDone s4 f ha t.pa (!s4.ownSpm t.pa) 0xFFFFFFFFFFFFFFFF
                else
                  match s4.readUnits .s 8 ((List.range 8).map (fun k => (pa + 8 * k, 0))) with
                  | .error x => x
                  | .ok g =>
                    match g.s.xlatMine .s (h.slot h.widx) 64 true with
                    | .error x => x
                    | .ok (s5, u) =>
                      if u.uo then protFault .s (h.slot h.widx)
                      else
                        match s5.writeTests .s (h.slot h.widx) u 64 0 with
                        | .error x => x
                        | .ok s6 =>
                          lpostDone (s6.postPacket t.pa u.pa h.widx g.data) f ha t.pa (!s6.ownSpm t.pa || !s6.ownSpm u.pa) (BitVec.ofNat 64 h.widx)))

end Sys2Proof.Machine
end

