-- ==== Sys2Proof/Machine/Elog.lean ====
section
/-! DEFINITION. The error log (R414, R415) and the snapshot trigger with its latched registers (R419, R420). -/

namespace Sys2Proof.Machine

/-! The snapshot registers (R420). -/

/-- The doublewords of a core. -/
def State.coreLatch (s : State) (n : Nat) : List W64 :=
  let c := s.core n
  let pos (e : Engine) : W64 := (fld (s.posWord (.core n) e) 0 32).zeroExtend 64
  let frozen := c.frozen || decide (c.turn = 0) && c.holds.any (fun h => decide (h.due ≤ c.now))
  let bit (b : Bool) (k : Nat) : W64 := if b then 1#64 <<< k else 0
  [pos .s ||| (pos .l <<< 32), pos .x ||| (pos .w <<< 32),
    bit frozen 0 ||| bit (c.mode == .handler) 1 ||| bit (c.mode == .escalated || c.mode == .held) 2 ||| bit c.run.isNone 3,
    c.iter,
    BitVec.ofNat 64 (match c.nrun with | some r => r.addr | none => 0),
    BitVec.ofNat 64 (match s.recordOf c with | some r => r.addr | none => 0),
    BitVec.ofNat 64 ((c.tok 0).count.toNat + 2 ^ 16 * (c.tok 1).count.toNat + 2 ^ 32 * (c.tok 2).count.toNat + 2 ^ 48 * (c.tok 3).count.toNat),
    0]

/-- RIDX of the queue that a ladle performs; 0 for a ladle that performs none. -/
def State.ladleRidx (s : State) (l : Nat) : W64 :=
  match (tget Ladle.reset s.ladles l).busy with
  | none => 0
  | some (x, q) =>
    match (s.context x).bind (fun cx => tget none cx.lqs q) with
    | some b => BitVec.ofNat 64 (s.rdNatC (b.hdr + 8) 8)
    | none => 0

/-- The pins in use on frames of a stack (R363, R420); the pages of host memory count for stack 0. -/
def State.stackPins (s : State) (k : Nat) : Nat :=
  (s.locks.map (fun l =>
    match s.pageAt (l.1 / 2 ^ 52) (l.1 % 2 ^ 52) with
    | .leaf _ _ e _ => if (homeStack (leafFrame e)).getD 0 = k then l.2 else 0
    | _ => if k = 0 then l.2 else 0)).sum

/-- The doublewords of a stack, by offset. The model answers a translation miss at once, so that the number outstanding is a free value. -/
def State.stackLatch (s : State) (k : Nat) : List (Nat × W64) :=
  (List.range 4).map (fun l => (8 * l, s.ladleRidx (4 * k + l)))
    ++ [(0x20, BitVec.ofNat 64 s.spe.st.code), (0x28, Config.freeMisses s.ref k), (0x30, BitVec.ofNat 64 (s.stackPins k))]

/-- The word of a link: replays, and its state as 0 up, 1 retraining, 2 down. -/
def linkWord (l : Link) : W64 :=
  l.replays.zeroExtend 64 <<< 32 ||| (if l.st = .up then 0 else if l.retraining then 1 else 2)

/-- Keep what is not zero. -/
def keepNonzero (l : List (Nat × W64)) : Tab W64 := l.filter (fun x => x.2 != 0)

/-- All registers of a latch, by BAR0 offset. -/
def State.latchRegs (s : State) : Tab W64 :=
  keepNonzero ((List.range 4096).flatMap (fun n => (List.range 8).map (fun i => (0x341000 + 64 * n + 8 * i, (s.coreLatch n).getD i 0))))
    ++ keepNonzero ((List.range 8).flatMap (fun k => (s.stackLatch k).map (fun x => (0x381000 + 4096 * k + x.1, x.2))))
    ++ keepNonzero ((List.range 44).map (fun n => (0x390000 + 8 * n, linkWord (tget Link.reset s.links n))))

/-- The trigger fires (R419): armed, it latches once and disarms; disarmed, it is counted. -/
def State.fireTrigger (s : State) : State :=
  let t := s.trig
  if bitAt t.ctl 0 then
    { s with trig := { t with ctl := t.ctl &&& ~~~1, cyc := BitVec.ofNat 64 (s.ref / 105), widx := s.elog.widx, regs := s.latchRegs } }
  else { s with trig := { t with miss := if t.miss = 0xFFFF then t.miss else t.miss + 1 } }

/-- Fire for a condition of the control register (R419): 8 ONUC, 9 ONFAT, 10 ONMC. -/
def State.fireOn (s : State) (bit : Nat) : State := if bitAt s.trig.ctl bit then s.fireTrigger else s

/-- SNAPSHOT_FIRE (R419): system software writes FIRE; after a failed boot the register is not there (R429). -/
def execSnapshotFire (s : State) : Result := .next (if s.bootFailed then s else s.fireTrigger)

/-! The log. -/

/-- What a record says (R415). -/
structure ErrRec where
  addr : Nat
  syn : BitVec 16
  unit : Nat
  core : Nat
  stack : Nat
  lane : Option (BitVec 5)
  ctx : Nat
  sev : Nat
  deriving DecidableEq, Repr

/-- The 256 bits of a record (R415). -/
def ErrRec.bits (r : ErrRec) (time : Nat) : BitVec 256 :=
  BitVec.ofNat 256
    (time % 2 ^ 64 * 2 ^ 192 + r.addr % 2 ^ 52 * 2 ^ 140 + r.syn.toNat * 2 ^ 120 + r.unit % 256 * 2 ^ 112
      + r.core % 4096 * 2 ^ 100 + r.stack % 8 * 2 ^ 96
      + (match r.lane with | some l => l.toNat * 2 ^ 91 + 2 ^ 90 | none => 0)
      + r.ctx % 64 * 2 ^ 64 + r.sev % 4)

/-- Whether the ring has no place for a record (R414). -/
def ErrorLog.full (e : ErrorLog) : Bool := decide (4096 ≤ (e.widx - e.ridx).toNat)

/-- The trigger of an error (R419): a fatal context error or a module machine check, whether its record finds a place or not. -/
def State.fireSev (s : State) (sev : Nat) : State := if sev = 2 then s.fireOn 9 else if sev = 3 then s.fireOn 10 else s

/-- Write a record (R414): a full ring drops it; a record that is not corrected, and every CETHR-th corrected one, sends the vector. The trigger of the error latches with the record (R419). -/
def State.logError (s : State) (r : ErrRec) : State :=
  let e := s.elog
  if e.full then ({ s with elog := { e with drop := e.drop + 1 } } : State).fireSev r.sev
  else
    let k := if r.sev = 0 then e.corrected + 1 else e.corrected
    let thr := (fld e.ctl 0 16).toNat
    let s1 : State := { s with elog := { e with
      ring := tset 0 e.ring (e.widx.toNat % 4096) (r.bits (timeOf s.ref)), widx := e.widx + 1, corrected := k } }
    let s2 := if r.sev ≠ 0 ∨ (thr ≠ 0 ∧ k % thr = 0) then s1.interrupt (fld e.ctl 16 11).toNat else s1
    if r.sev = 1 then s2.fireOn 8 else s2.fireSev r.sev

/-- A record of the runner (R315, R415). -/
def runnerRec (addr ctx : Nat) : ErrRec := ⟨addr, 0, 0x10, 0, 0, none, ctx, 0⟩

end Sys2Proof.Machine
end

