-- ==== Sys2Proof/Machine/Loads.lean ====
section
/-! DEFINITION. Synchronous loads of L (R166 to R173), the synchronous stores of W (R172, R174), and the operand descriptor (R175). -/

namespace Sys2Proof.Machine

/-- The address of an L or W memory word: base, an addend, and the address step inside a loop body, modulo 2^52 (R62, R166, R169). -/
def State.lwAddr (s : State) (e : Engine) (st : StepWord) (base : W64) (add : Int) : Nat :=
  addrAdd (memAddr base) (add + s.cur.addrStep e st)

/-! Operand queues (R42). -/

/-- Push entries that become visible `lat` cycles on; a ninth place raises queue-overflow and nothing is pushed. -/
def pushEntries (s : State) (q lat : Nat) (es : List (List (W32 × Bool))) : Effect :=
  if 8 < (s.cur.queue q).length + es.length then .trap (TrapInfo.of 0x0C .l)
  else .done (s.modCur (fun c => c.setQueue q
    (c.queue q ++ es.map (fun l => ⟨l.map (·.1), l.map (·.2), c.now + lat, c.now⟩))))

/-- Whether a queue lacks room for `n` more entries. -/
def State.noRoom (s : State) (q n : Nat) : Bool := decide (8 < (s.cur.queue q).length + n)

/-- The words of bytes that were read, each poisoned when a byte of it is. -/
def wordsGot (bs : List (Byte × Bool)) : List (W32 × Bool) :=
  (chunksOf 4 bs.length bs).map (fun p => (BitVec.ofNat 32 (leNat (p.map (·.1))), p.any (·.2)))

/-! Register to queue (R170). -/

/-- VRD (R170). -/
def execVrd (f : SliceQ) (s : State) :=
  s.issue .l
    (if 191 < f.reg.toNat then illegalOperand .l
     else pushEntries s f.q.toNat 6 [s.slice s.me f.reg.toNat f.dir f.slice.toNat])

/-- SPRD (R170): the horizontal pair, the even slice first. -/
def execSprd (f : SliceQ) (s : State) :=
  s.issue .l
    (if 191 < f.reg.toNat ∨ f.dir ≠ 0 ∨ f.slice.toNat % 2 = 1 then illegalOperand .l
     else pushEntries s f.q.toNat 6
      [s.slice s.me f.reg.toNat 0 f.slice.toNat, s.slice s.me f.reg.toNat 0 (f.slice.toNat + 1)])

/-! Memory to queue (R171, R172). -/

/-- The queue of VLD and GATH stands in [13:11] (R168). -/
def lwQueue (f : LWord) : Nat := (fld f.off 11 3).toNat

/-- Push what was read, and hold the core if it may be late (R84). -/
def pushGot (q lat : Nat) (g : Got) : Effect :=
  match pushEntries g.s q lat [wordsGot g.data] with
  | .done s => .done (s.modCur (fun c => (holdLate c lat g.late).addLates lat g.units (fun i => .lane q i)))
  | x => x

/-- VLD (R171): 128 bytes, lane by lane. -/
def execVld (f : LWord) (s : State) :=
  let b := s.cur.rs f.base.toNat
  let x := s.cur.rs f.idx.toNat
  let a := s.lwAddr .l f.st b.v (x.v.toNat + 4 * (fld f.off 0 11).toInt)
  s.issue .l (needClean .l [b.pz, x.pz]
    (if a % 4 ≠ 0 then alignFault .l a
     else if s.noRoom (lwQueue f) 1 then .trap (TrapInfo.of 0x0C .l)
     else
      match s.readUnits .l 4 ((List.range 32).map (fun i => ((a + 4 * i) % 2 ^ 52, 0))) with
      | .error e => e
      | .ok g => pushGot (lwQueue f) 8 g))

/-- A selector scalar (R172). -/
structure Selector where
  ireg : Nat
  idir : BitVec 2
  isl : Nat
  shift : Nat
  sgn : Bool
  dreg : Nat
  ddir : BitVec 2
  dsl : Nat

def selectorOf (v : W64) : Selector :=
  ⟨(fld v 0 8).toNat, fld v 8 2, (fld v 10 5).toNat, (fld v 15 2).toNat, bitAt v 17,
    (fld v 18 8).toNat, fld v 26 2, (fld v 28 5).toNat⟩

/-- The lane addresses of GATH and SCAT (R172). -/
def Selector.addrs (sel : Selector) (base : Nat) (lanes : List (W32 × Bool)) : List Nat :=
  lanes.map (fun l => addrAdd base ((if sel.sgn then l.1.toInt else l.1.toNat) * 2 ^ sel.shift))

/-- The first address that is not a multiple of 4. -/
def misaligned4 (l : List Nat) : Option Nat := l.find? (fun a => a % 4 ≠ 0)

/-- GATH (R167, R172). -/
def execGath (f : LWord) (s : State) :=
  let b := s.cur.rs f.base.toNat
  let x := s.cur.rs f.idx.toNat
  let sel := selectorOf x.v
  s.issue .l (needClean .l [b.pz, x.pz]
    (if 191 < sel.ireg ∨ sel.idir = 3 then illegalOperand .l
     else
      let lanes := s.slice s.me sel.ireg sel.idir sel.isl
      let addrs := sel.addrs (s.lwAddr .l f.st b.v 0) lanes
      if lanes.any (·.2) then poisonTrap .l (dataPz 0)
      else
        match misaligned4 addrs with
        | some a => alignFault .l a
        | none =>
          if s.noRoom (lwQueue f) 1 then .trap (TrapInfo.of 0x0C .l)
          else
            match s.readUnits .l 4 ((List.range 32).map (fun i => (addrs.getD i 0, 1 + i / 8))) with
            | .error e => e
            | .ok g => pushGot (lwQueue f) 12 g))

/-! Memory to register (R173). -/

/-- The element width code of MLD in [5:4], and its register in [13:6]. -/
def mldEw (f : LWord) : Nat := (fld f.off 4 2).toNat
def mldReg (f : LWord) : Nat := (fld f.off 6 8).toNat

/-- A loaded element widened to a word (R173). -/
def mldWiden (ew : Nat) (bs : List (Byte × Bool)) : W32 × Bool :=
  let v := leNat (bs.map (·.1))
  (if ew = 2 then (BitVec.ofNat 16 v).signExtend 32 else BitVec.ofNat 32 v, bs.any (·.2))

/-- MLD (R173): the rows are read in eight bank cycles, and every word of the register lands at latency 10. -/
def mld (s : State) (f : LWord) (tr : Bool) : Effect :=
  let b := s.cur.rs f.base.toNat
  let p := s.cur.rs f.idx.toNat
  let n := if mldEw f = 0 then 4 else 2
  let row (r : Nat) : Nat := s.lwAddr .l f.st b.v (r * p.v.toNat)
  needClean .l [b.pz, p.pz]
    (if 191 < mldReg f then illegalOperand .l
     else
      match (List.range 32).find? (fun r => row r % n ≠ 0) with
      | some r => alignFault .l (row r)
      | none =>
        match s.readUnits .l n ((List.range 1024).map (fun k => ((row (k / 32) + n * (k % 32)) % 2 ^ 52, k / 128))) with
        | .error e => e
        | .ok g =>
          let ws := (chunksOf n 1024 g.data).map (mldWiden (mldEw f))
          let out := (List.range 1024).map (fun k => ws.getD (if tr then k % 32 * 32 + k / 32 else k) (0, false))
          let a := mAddr g.s.me (mldReg f) 0 0
          .done (g.s.modCur (fun c => (holdLate (c.emit .l 10 (.words a out)) 10 g.late).addLates 10 g.units
            (fun k => .word (a + 4 * (if tr then k % 32 * 32 + k / 32 else k)) (mldEw f = 2)))))

/-- MLD.h and MLD.v (R173). -/
def execMldH (f : LWord) (s : State) := s.issue .l (mld s f false)
def execMldV (f : LWord) (s : State) := s.issue .l (mld s f true)

/-! Register to memory (R172, R174). -/

/-- The address of MST and SPWR (R174). -/
def mstAddr (s : State) (f : MstWord) (b : W64) : Nat := s.lwAddr .w f.st b (128 * f.off.toInt)

/-- MST (R174). -/
def execMst (f : MstWord) (s : State) :=
  let b := s.cur.rs f.base.toNat
  let a := mstAddr s f b.v
  s.issue .w (needClean .w [b.pz]
    (if 191 < f.reg.toNat then illegalOperand .w
     else if a % 4 ≠ 0 then alignFault .w a
     else
      let ws := s.slice s.me f.reg.toNat f.dir f.slice.toNat
      Effect.ofExcept (s.writeUnits .w 4
        ((List.range 32).map (fun i =>
          let w := ws.getD i (0, false)
          ((a + 4 * i) % 2 ^ 52, 0, natLe 4 w.1.toNat, w.2))))))

/-- SPWR (R174): 32 elements of 64 bits of a horizontal pair. -/
def execSpwr (f : MstWord) (s : State) :=
  let b := s.cur.rs f.base.toNat
  let a := mstAddr s f b.v
  s.issue .w (needClean .w [b.pz]
    (if 191 < f.reg.toNat ∨ f.dir ≠ 0 ∨ f.slice.toNat % 2 = 1 then illegalOperand .w
     else if a % 8 ≠ 0 then alignFault .w a
     else
      let lo := s.slice s.me f.reg.toNat 0 f.slice.toNat
      let hi := s.slice s.me f.reg.toNat 0 (f.slice.toNat + 1)
      Effect.ofExcept (s.writeUnits .w 4
        ((List.range 32).map (fun i =>
          let l := lo.getD i (0, false)
          let h := hi.getD i (0, false)
          ((a + 8 * i) % 2 ^ 52, 0, natLe 4 l.1.toNat ++ natLe 4 h.1.toNat, l.2 || h.2))))))

/-- Store the lanes of a SCAT one by one (R172, R228): lanes that another core's window refuses are left out and marked, and those that it accepts are performed there at once. -/
def scatLanes (s : State) (mask : Nat) : List (Nat × Nat × W32 × Bool) → Except Effect (State × Nat)
  | [] => .ok (s, mask)
  | (i, a, w, p) :: rest =>
    match s.xlatMine .w a 4 true with
    | .error x => .error x
    | .ok (s1, t) =>
      let foreign := isWin t.pa && !s1.ownSpm t.pa
      match s1.writeTests .w a t 4 (1 + i / 8) with
      | .error .wait => .error .wait
      | .error x => if foreign then scatLanes s1 (mask + 2 ^ i) rest else .error x
      | .ok s2 =>
        scatLanes (s2.writeAt .w 6 t (natLe 4 w.toNat) p none) mask rest

/-- SCAT (R167, R172, R228). -/
def execScat (f : LWord) (s : State) : Result :=
  let b := s.cur.rs f.base.toNat
  let x := s.cur.rs f.idx.toNat
  let sel := selectorOf x.v
  match firstPz [b.pz, x.pz] with
  | some r => s.issue .w (poisonTrap .w r)
  | none =>
    if 191 < sel.ireg ∨ sel.idir = 3 ∨ 191 < sel.dreg ∨ sel.ddir = 3 then s.issue .w (illegalOperand .w)
    else
      let lanes := s.slice s.me sel.ireg sel.idir sel.isl
      let data := s.slice s.me sel.dreg sel.ddir sel.dsl
      let addrs := sel.addrs (s.lwAddr .w f.st b.v 0) lanes
      if lanes.any (·.2) then s.issue .w (poisonTrap .w (dataPz 0))
      else
        match misaligned4 addrs with
        | some a => s.issue .w (alignFault .w a)
        | none =>
          match scatLanes s 0 ((List.range 32).map (fun i => (i, addrs.getD i 0, data.getD i (0, false)))) with
          | .error e => s.issue .w e
          | .ok (s1, 0) => s.issue .w (.done s1)
          | .ok (s1, m) =>
            let i := (List.range 32).find? (fun i => m.testBit i)
            .next (s1.syncTrap .w { TrapInfo.of 0x07 .w with addr := addrs.getD (i.getD 0) 0, detail := BitVec.ofNat 64 m })

/-! Descriptors. -/

/-- ODSET (R175): a poisoned source poisons the descriptor. -/
def execOdset (f : LWord) (s : State) :=
  let lo := s.cur.rs f.base.toNat
  let hi := s.cur.rs f.idx.toNat
  s.issue .l (.done (s.modCur (fun c =>
    c.emit .l 1 (.od (fld f.off 0 4).toNat (hi.v ++ lo.v) (lo.pz.isSome || hi.pz.isSome)))))

/-- A local address: a scratchpad byte address, or an illegal operand above its range (R166). -/
def localAddr (e : Engine) (v : W64) (limit : Nat) (k : Nat → Effect) : Effect :=
  if limit ≤ v.toNat then illegalOperand e else k v.toNat

/-- Bytes of the core's own scratchpad with their poison. -/
def State.spm (s : State) (off n : Nat) : List (Byte × Bool) :=
  (List.range n).map (fun i => (s.mem.rd (winBase s.me + off + i), poisonedAt s.pz (winBase s.me + off + i)))

/-- CDSET (R176). -/
def execCdset (f : LWord) (s : State) :=
  let b := s.cur.rs f.base.toNat
  let x := s.cur.rs f.idx.toNat
  s.issue .l (needClean .l [b.pz, x.pz]
    (localAddr .l (b.v + x.v) 0x200000 (fun a =>
      if a % 64 ≠ 0 then illegalOperand .l
      else
        match s.tagCheck .l a 64 with
        | .error e => e
        | .ok s1 =>
          match s1.useBank .l 0 a with
          | .error e => e
          | .ok s2 =>
            let bs := s2.spm a 64
            .done (s2.modCur (fun c =>
              c.emit .l 4 (.cd (fld f.off 0 4).toNat (BitVec.ofNat 512 (leNat (bs.map (·.1)))) (bs.any (·.2))))))))

end Sys2Proof.Machine
end

