-- ==== Sys2Proof/Machine/Copies.lean ====
section
/-! DEFINITION. Tile copies (R177 to R183), posting records and WAITC (R184), sequence tags (R185), remote stores and batches (R186, R187), and PUB (R188). -/

namespace Sys2Proof.Machine

/-! The checks of a copy at its issue (R177). -/

/-- Whether the zero fields of a descriptor are zero for a form (R176, R177). -/
def cdZeros (f : CopyForm) (d : BitVec 512) : Bool :=
  !bitAt d 57
    && (match f with
        | .xldf | .xstf => true
        | .xldn | .xstn => fld d 66 6 == 0 && !bitAt d 79 && fld d 21 31 == 0
        | _ => cdPeer d == 0)
    && (f == .xstf || fld d 52 2 == 0)

/-- The last local byte plus one, from the local address. -/
def cdEnd (d : BitVec 512) (tr : Bool) (loc : Nat) : Nat := loc + cdLocal d tr (cdCount d - 1) + cdEsz d

/-- The local range (R166, R182). -/
def localLimit (d : BitVec 512) : Nat := if cdAsrc d then 0x400000 else 0x200000

/-- The checks of R177 on a copy. -/
def cdChecks (f : CopyForm) (d : BitVec 512) (loc : Nat) : Bool :=
  let m (v : Nat) : Bool := v % cdEsz d == 0
  cdZeros f d
    && m (cdAddr d) && m (cdTs d 1) && m (cdTs d 2) && m (cdTs d 3) && m loc
    && m (cdLp d 1) && m (cdLp d 2) && m (cdLp d 3)
    && (cdCount d == 0 || decide (cdEnd d (f == .xldT) loc ≤ localLimit d))
    && !(cdTgen d && (f == .xst || f == .xstf))
    && !(f == .xstn && cdTgen d && !bitAt d 78)
    && !(cdAsrc d && f.loads)

/-- Note the chunk of each element, with the last element that touches it. -/
def noteChunk (l : List (Nat × Nat)) (b k : Nat) : List (Nat × Nat) := tput l b k

/-- The chunks that a copy writes or reads (R183). -/
def chunksOf' (f : CopyForm) (d : BitVec 512) (loc : Nat) (o0 o1 : Int) : List (Nat × Nat) :=
  if cdAsrc d then []
  else (List.range (cdCount d)).foldl (fun l k =>
    if f.loads || cdIn d o0 o1 k then noteChunk l ((loc + cdLocal d (f == .xldT) k) / 512) k else l) []

/-- The chunk range of a copy: first and count. -/
def chunkRange (l : List (Nat × Nat)) : Nat × Nat :=
  match l with
  | [] => (0, 0)
  | (a, _) :: rest => (a, ((a, 0) :: rest).foldl (fun m x => max m x.1) a + 1 - a)

/-- The tiles that a copy from the accumulator window touches (R182). -/
def tilesOf (d : BitVec 512) (loc : Nat) : List Nat :=
  if cdAsrc d then ((List.range (cdCount d)).map (fun k => (loc + cdLocal d false k) / 4096)).dedup else []

/-- Whether any of the chunks is held on the map by a copy in flight (R183). -/
def Core.chunkHeld (c : Core) (m : Nat) (chunks : List Nat) : Bool :=
  c.copies.any (fun k => cdCm k.cd = m && k.chunks.any (fun x => chunks.any (· = x.1)))
    || (match c.nrun with
        | some r =>
          match r.step with
          | some st => st.holds.any (fun h => h.1 = m && chunks.any (· = h.2))
          | none => false
        | none => false)

/-- The detail word of the accumulator-busy trap (R287): tile, cause and the owner. -/
def busyDetail (tile cause line lane low : Nat) : W64 :=
  BitVec.ofNat 64 (tile * 2 ^ 54 + cause * 2 ^ 52 + (8 * (line % 2048) + lane) * 2 ^ 38 + low % 2 ^ 38)

/-- The accumulator-busy trap of a tile that a multiply owns, one that a trap has set aside among them (R159, R287). -/
def Core.ownedTile (c : Core) (e : Engine) (t : Nat) : Option Effect :=
  (c.allMats.find? (fun o => o.tile = t)).map (fun o =>
    .trap { TrapInfo.of 0x17 e with detail := busyDetail t 0 o.line o.lane (o.start + o.groups + 6) })

/-- The trap of a tile that a copy from the accumulator window owns (R182), or a step of N that sends from it (R267). -/
def Core.copiedTile (c : Core) (e : Engine) (t : Nat) : Option Effect :=
  match c.copies.find? (fun k => k.tiles.any (· = t)) with
  | some k => some (.trap { TrapInfo.of 0x17 e with detail := busyDetail t 0 k.line k.lane 0 })
  | none => if c.stepTiles.any (· = t) then some (.trap { TrapInfo.of 0x17 e with detail := busyDetail t 0 0 0 0 }) else none

/-- The trap of an armed tile (R159, R162). -/
def Core.armedTile (c : Core) (e : Engine) (t : Nat) : Option Effect :=
  (c.arms.find? (fun a => decide ((t + 1024 - a.tile) % 1024 < a.nt))).map (fun a =>
    .trap { TrapInfo.of 0x17 e with
      detail := busyDetail t 1 a.line a.lane (a.group.toNat * 2 ^ 30 + a.seq.toNat % 2 ^ 30) })

/-- The accumulator-busy trap for a tile that is owned or armed (R159, R182). -/
def Core.busyTile (c : Core) (e : Engine) (t : Nat) : Option Effect :=
  (c.ownedTile e t).or ((c.copiedTile e t).or (c.armedTile e t))

/-- The first busy tile of a list. -/
def Core.busyTiles (c : Core) (e : Engine) : List Nat → Option Effect
  | [] => none
  | t :: rest =>
    match c.busyTile e t with
    | some x => some x
    | none => Core.busyTiles c e rest

/-! Issue of a copy. -/

/-- The far elements that a form translates and pins at its issue, with their size: every element of the box (R178, R361, R362). -/
def farAddrs (f : CopyForm) (d : BitVec 512) (o0 o1 : Int) : List (Nat × Nat) :=
  match f with
  | .xld | .xldT | .xst => (List.range (cdCount d)).map (fun k => (cdFar d o0 o1 k, cdEsz d))
  | _ => []

/-- Whether the far elements of a store copy lie in units that refuse writes (R403). -/
def State.farSealed (s : State) (f : CopyForm) (d : BitVec 512) (o0 o1 : Int) (pins : List (Nat × Nat × Nat)) : Bool :=
  f == .xst && (List.range (cdCount d)).any (fun k =>
    cdIn d o0 o1 k && (match boundAddr pins (cdFar d o0 o1 k) with
      | some pa => s.sealedAt pa
      | none => false))

/-- Compare tags for the chunks that a store copy reads (R185). -/
def tagChunks (s : State) (e : Engine) : List (Nat × Nat) → Except Effect State
  | [] => .ok s
  | (b, _) :: rest =>
    match s.tagCheck e (512 * b) 512 with
    | .error x => .error x
    | .ok s1 => tagChunks s1 e rest

/-- Enter a copy whose checks have passed: its place is reserved, its chunks and tiles are held (R182 to R184). -/
def State.enterCopy (s : State) (e : Engine) (f : CopyForm) (n : Nat) (d : BitVec 512) (loc : Nat) (o0 o1 : Int)
    (chunks : List (Nat × Nat)) (pins : List (Nat × Nat × Nat)) (tiles : List Nat) (byStep : Bool) : State :=
  s.modCur (fun c =>
    let (ln, la) := (c.seqOf e).pos
    let k : CopyOp :=
      { id := c.copySeq, form := f, cd := d, loc := loc, o0 := o0, o1 := o1, next := 0, status := 0
        begun := false, landed := false, posted := false, cyc := c.now, line := ln, lane := la, byStep := byStep
        chunks := chunks, range := chunkRange chunks, pins := pins, tiles := tiles, ahead := [], cdn := n }
    let c1 := c.setPosts (cdCm d) (c.posts (cdCm d) ++ [.reserved c.copySeq])
    { c1 with copies := c1.copies ++ [k], copySeq := c.copySeq + 1 })

/-- The bytes of a box that lie inside the tensor. -/
def inBytes (d : BitVec 512) (o0 o1 : Int) : Nat := ((List.range (cdCount d)).filter (fun k => cdIn d o0 o1 k)).length * cdEsz d

/-- A copy's issue once its operands are known to be clean (R177 to R184, R187). -/
def copyStart (s : State) (e : Engine) (f : CopyForm) (n : Nat) (d : BitVec 512) (loc : Nat) (o0 o1 : Int) : Effect :=
  if !cdChecks f d loc then illegalOperand e
  else
    let chunks := chunksOf' f d loc o0 o1
    let tiles := tilesOf d loc
    let m := cdCm d
    match s.cur.busyTiles e tiles with
    | some x => x
    | none =>
      if s.cur.chunkHeld m (chunks.map (·.1)) then .trap (TrapInfo.of 0x14 e)
      else if 64 ≤ (s.cur.posts m).length then .trap (TrapInfo.of 0x15 e)
      else
        match (if f == .xstf && inBytes d o0 o1 != 0 then addBatch (s.cur.batch (cdBtag d)) (cdPeer d) (inBytes d o0 o1)
          else some (s.cur.batch (cdBtag d))) with
        | none => .trap (TrapInfo.of 0x16 e)
        | some b =>
          match (if f.loads then Except.ok s else tagChunks s e chunks) with
          | .error x => x
          | .ok s1 =>
            match s1.submit (s1.myCtx.getD 64) (f == .xst) (farAddrs f d o0 o1) [] with
            | .miss va => .fatal fatalMiss va
            | .prot va => protFault e va
            | .bad a => .fatal fatalTable a
            | .wait => .wait
            | .ok s2 pins =>
              if s2.farSealed f d o0 o1 pins then protFault e (cdAddr d)
              else
                let s3 := s2.drainAll
                let s4 := if f == .xstf then s3.modCur (fun c => c.setBatch (cdBtag d) b) else s3
                .done (s4.enterCopy e f n d loc o0 o1 chunks pins tiles false)

/-- Apply the address step to a local address, modulo its range (R169). -/
def stepLocal (s : State) (e : Engine) (st : StepWord) (limit loc : Nat) : Nat :=
  (((loc : Int) + s.cur.addrStep e st) % limit).toNat

/-- A tile-copy word (R177): local address, origin and descriptor. -/
def copyIssue (s : State) (e : Engine) (f : CopyForm) (w : LWord) : Result :=
  let l := s.cur.rs w.base.toNat
  let o := s.cur.rs w.idx.toNat
  let n := (fld w.off 0 4).toNat
  let (d, dp) := s.cur.cdOf n
  s.issue e (needClean e [l.pz, o.pz, if dp then some (dataPz 0) else none]
    (localAddr e l.v (localLimit d) (fun a =>
      copyStart s e f n d (stepLocal s e w.st (localLimit d) a) (fld o.v 0 32).toInt (fld o.v 32 32).toInt)))

def execXld (f : LWord) (s : State) := copyIssue s .l .xld f
def execXldT (f : LWord) (s : State) := copyIssue s .l .xldT f
def execXldn (f : LWord) (s : State) := copyIssue s .l .xldn f
def execXldf (f : LWord) (s : State) := copyIssue s .l .xldf f
def execXst (f : LWord) (s : State) := copyIssue s .w .xst f
def execXstn (f : LWord) (s : State) := copyIssue s .w .xstn f
def execXstf (f : LWord) (s : State) := copyIssue s .w .xstf f

/-! The copy engine. -/

/-- The status of a far element of a neighbour copy (R180, R228; beyond the scratchpad assumption 138). A neighbour that writes an image or has no power is waited for (R385; assumption 97). -/
def State.nbTest (s : State) (n nb off len : Nat) : Far Unit :=
  if (s.core nb).ctx ≠ (s.core n).ctx ∨ (s.core n).ctx = none then .fail 5
  else if 0x200000 < off + len then .fail 4
  else if !(s.core nb).powered || (s.core nb).holds.any (fun h => h.kind = .persist) then .wait
  else .ok ()

/-- The far bytes of an element of a load copy; the boundary of a cluster reads as outside the tensor (R180). -/
def CopyOp.fetch (k : CopyOp) (s : State) (n i : Nat) : Far (State × List (Byte × Bool)) :=
  let x := (s.core n).ctx.getD 64
  let e := cdEsz k.cd
  let va := cdFar k.cd k.o0 k.o1 i
  let fill := (natLe e (cdFill k.cd)).map (fun b => (b, false))
  if !cdIn k.cd k.o0 k.o1 i then .ok (s, fill)
  else
    match k.form with
    | .xldn =>
      match k.neighbour n with
      | none => .ok (s, fill)
      | some nb =>
        match s.nbTest n nb va e with
        | .ok () => .ok (s, s.peek (winBase nb + va) e)
        | .fail st => .fail st
        | .wait => .wait
        | .dead a => .dead a
    | .xldf => s.rankRead x (some n) (cdPeer k.cd).toNat va e
    | _ =>
      match boundAddr k.pins va with
      | none => .fail 3
      | some pa =>
        match s.farRead x (some n) pa e with
        | .ok d => .ok (s, d)
        | .fail st => .fail st
        | .wait => .wait
        | .dead a => .dead a

/-- An element of an XSTF (R181, R187): performed here when the rank is the module's own, with the core's lines of the L1 (R234), and sent out otherwise; the second component says that it has left. The copy writes the hidden backing (R253). -/
def State.rankStore (s : State) (n x : Nat) (t : Nat) (rank : BitVec 16) (va : Nat) (d : List Byte) (poison : Bool) : Far (State × Bool) :=
  let reply (s : State) (err : BitVec 8) (k : Nat) : State × Bool :=
    (s.modCore n (fun c => c.setBatch t (replyBatch (c.batch t) rank err k 0)), false)
  match s.rankModule x rank.toNat with
  | none => .ok (reply s 1 0)
  | some md =>
    if s.rankOwn x rank.toNat then
      match s.gateWrite x (some n) va d poison true with
      | .ok s1 => .ok (reply s1 (if poison then 16 else 0) d.length)
      | .fail st => .ok (reply s (errBit st) 0)
      | .wait => .wait
      | .dead a => .dead a
    else if !s.portUp (n / 512) then .ok (reply s 1 0)
    else .ok (s.send (.store x md va d poison n t true), true)

/-- Write an element of a store copy. -/
def CopyOp.put (k : CopyOp) (s : State) (n i : Nat) (d : List Byte) (poison : Bool) : Far (State × Bool) :=
  let plain (x : Far State) : Far (State × Bool) := match x with
    | .ok s1 => .ok (s1, false)
    | .fail st => .fail st
    | .wait => .wait
    | .dead a => .dead a
  let x := (s.core n).ctx.getD 64
  let va := cdFar k.cd k.o0 k.o1 i
  if !cdIn k.cd k.o0 k.o1 i then .ok (s, false)
  else
    match k.form with
    | .xstn =>
      match k.neighbour n with
      | none => .ok (s, false)
      | some nb =>
        match s.nbTest n nb va d.length with
        | .ok () => .ok (s.poke (winBase nb + va) d poison, false)
        | .fail st => .fail st
        | .wait => .wait
        | .dead a => .dead a
    | .xstf => s.rankStore n x (cdBtag k.cd) (cdPeer k.cd) va d poison
    | _ =>
      match boundAddr k.pins va with
      | none => .fail 3
      | some pa => plain (s.farWrite x (some n) pa d poison)

/-- The first nonzero status (R181). -/
def firstStatus (a b : BitVec 8) : BitVec 8 := if a = 0 then b else a

/-- The local physical address of an element. -/
def CopyOp.localPa (k : CopyOp) (n i : Nat) : Nat :=
  winBase n + (if cdAsrc k.cd then 0x800000 else 0) + k.loc + cdLocal k.cd (k.form == .xldT) i

/-- The 64-byte block of a code table that a store copy's elements from the next one on fill, if they do and all of them lie among the next `room`: it is written at once (R198). -/
def CopyOp.tableRun (k : CopyOp) (room : Nat) : Option Nat :=
  let e := cdEsz k.cd
  let far (j : Nat) : Nat := cdFar k.cd k.o0 k.o1 (k.next + j)
  if k.form == .xst && decide (64 / e ≤ room) && (List.range (64 / e)).all (fun j => cdIn k.cd k.o0 k.o1 (k.next + j) && far j == far 0 + e * j) then
    match boundAddr k.pins (far 0) with
    | some pa => if isTable pa && pa % 64 == 0 then some pa else none
    | none => none
  else none

/-- Write that block. -/
def CopyOp.moveBlock (k : CopyOp) (s : State) (n pa : Nat) : Option (State × CopyOp) :=
  let m := 64 / cdEsz k.cd
  let d := (List.range m).flatMap (fun j => s.peek (k.localPa n (k.next + j)) (cdEsz k.cd))
  let go (st : BitVec 8) : CopyOp := { k with next := k.next + m, status := firstStatus k.status st }
  match s.farWrite ((s.core n).ctx.getD 64) (some n) pa (d.map (·.1)) (d.any (·.2)) with
  | .ok s1 => some (s1, go 0)
  | .fail st => some (s, go st)
  | .wait => none
  | .dead a => some (s.ctxFatal ((s.core n).ctx.getD 64) fatalTable a n, k)

/-- Move the element in which the copy stands (R178, R181): `none` when it must wait. A load element that fails is written poisoned; a page-table entry that cannot be read ends the context (R373). -/
def CopyOp.moveOne (k : CopyOp) (s : State) (n : Nat) : Option (State × CopyOp) :=
  let pa := k.localPa n k.next
  let e := cdEsz k.cd
  let go (k : CopyOp) (st : BitVec 8) : CopyOp := { k with next := k.next + 1, status := firstStatus k.status st }
  if k.form.loads then
    match k.fetch s n k.next with
    | .ok (s1, d) => some (s1.poke pa (d.map (·.1)) (d.any (·.2)), go k 0)
    | .fail st => some ((s.poke pa (s.freeBytes e) true).bump, go k st)
    | .wait => none
    | .dead a => some (s.ctxFatal ((s.core n).ctx.getD 64) fatalTable a n, k)
  else
    let d := s.peek pa e
    match k.put s n k.next (d.map (·.1)) (d.any (·.2)) with
    | .ok (s1, out) => some (s1, go { k with landed := k.landed || out } 0)
    | .fail st => some (s, go k (if k.form = .xstf then 0 else st))
    | .wait => none
    | .dead a => some (s.ctxFatal ((s.core n).ctx.getD 64) fatalTable a n, k)

/-- Whether a copy may come to rest before an element: no naturally aligned 8 bytes of a run of elements (64 in a code table, R198), and none of the scratchpad that a load copy writes, then lie on both sides (R183, R235). -/
def CopyOp.cut (k : CopyOp) (i : Nat) : Bool :=
  let at_ (j : Nat) : Nat := k.loc + cdLocal k.cd (k.form == .xldT) j
  let row := i % cdExt k.cd 0 == 0
  let unit := match boundAddr k.pins (cdFar k.cd k.o0 k.o1 i) with | some pa => (if isTable pa then 64 else 8) | none => 8
  let far := row || cdFar k.cd k.o0 k.o1 i % unit == 0
  let local_ :=
    if k.form == .xldT then i % (cdExt k.cd 0 * cdExt k.cd 1) == 0 || (row && at_ i % 8 == 0)
    else if k.form.loads then (at_ (i - 1) + cdEsz k.cd - 1) / 8 != at_ i / 8
    else row || at_ i % 8 == 0
  i == 0 || decide (cdCount k.cd ≤ i) || (far && local_)

/-- Move elements until the number `stop`; when one must wait, the copy stands at the last place where it may rest, which `rest` gives. -/
def CopyOp.moveTo (k : CopyOp) (s : State) (n stop : Nat) (rest : State × CopyOp) : Nat → State × CopyOp
  | 0 => if stop ≤ k.next then (s, k) else rest
  | f + 1 =>
    if stop ≤ k.next then (s, k)
    else if k.ahead.any (· = k.next) then
      let k1 := { k with next := k.next + 1, ahead := k.ahead.filter (· ≠ k.next) }
      CopyOp.moveTo k1 s n stop (if k1.cut k1.next then (s, k1) else rest) f
    else
      match (match k.tableRun (stop - k.next) with | some pa => k.moveBlock s n pa | none => k.moveOne s n) with
      | some (s1, k1) =>
        if k1.next = k.next then (s1, k1)
        else CopyOp.moveTo k1 s1 n stop (if k1.cut k1.next then (s1, k1) else rest) f
      | none => rest

/-- Where a copy comes to rest next, a free choice: at least one element on, and at the end of the box at the latest. -/
def CopyOp.pause (k : CopyOp) (i : Nat) : Nat → Nat
  | 0 => cdCount k.cd
  | n + 1 => if cdCount k.cd ≤ i then cdCount k.cd else if k.cut i then i else CopyOp.pause k (i + 1) n

/-- The end of the 512-byte sector of box order up to which the copy has moved elements (R190, R346). -/
def CopyOp.sectorEnd (k : CopyOp) : Nat :=
  let per := 512 / cdEsz k.cd
  min (cdCount k.cd) ((k.ahead.foldl (fun m i => max m (i + 1)) k.next + per - 1) / per * per)

/-- The chunks of a neighbour's scratchpad that an XSTN writes, each with the last element that lands in it, and the first element that lands (R180). -/
def CopyOp.nbChunks (k : CopyOp) : List (Nat × Nat) :=
  ((List.range (cdCount k.cd)).filter (fun i => cdIn k.cd k.o0 k.o1 i && decide (cdFar k.cd k.o0 k.o1 i < 0x200000))).foldl
    (fun l i => noteChunk l (cdFar k.cd k.o0 k.o1 i / 512) i) []
def CopyOp.nbFirst (k : CopyOp) : Option Nat :=
  (List.range (cdCount k.cd)).find? (fun i => cdIn k.cd k.o0 k.o1 i && decide (cdFar k.cd k.o0 k.o1 i < 0x200000))

/-! Elements that move ahead of the box order. -/

/-- Whether the far page of an element orders a copy's accesses (R235, R242); the blocks of a code table are written in order. -/
def State.farOrdered (s : State) (n : Nat) (k : CopyOp) (i : Nat) : Bool :=
  let x := (s.core n).ctx.getD 64
  let va := cdFar k.cd k.o0 k.o1 i % 2 ^ 52
  let here : Bool := match s.pageAt x va with
    | .leaf _ _ e size => (s.transOf e size va).so
    | _ => true
  match k.form with
  | .xldn | .xstn => false
  | .xst => here || (match boundAddr k.pins (cdFar k.cd k.o0 k.o1 i) with | some pa => isTable pa | none => false)
  | .xldf | .xstf => s.rankOwn x (cdPeer k.cd).toNat && here
  | _ => here

/-- Whether two elements of a copy land on a common byte. -/
def CopyOp.collides (k : CopyOp) (i j : Nat) : Bool :=
  let at_ (i : Nat) : Nat := if k.form.loads then k.loc + cdLocal k.cd (k.form == .xldT) i else cdFar k.cd k.o0 k.o1 i
  decide (at_ i < at_ j + cdEsz k.cd) && decide (at_ j < at_ i + cdEsz k.cd)

/-- The elements from one place where the copy may rest to the next, around an element. -/
def CopyOp.unitOf (k : CopyOp) (i : Nat) : List Nat :=
  let lo := ((List.range (i + 1)).filter (fun j => k.cut j)).getLast?.getD 0
  (List.range (k.pause (i + 1) (cdCount k.cd) - lo)).map (· + lo)

/-- Whether an element may move before the earlier ones that have not moved: no page orders them, none of them lands on a byte of it, and the neighbour has the copy's tag (R178, R180, R235). -/
def State.mayLead (s : State) (n : Nat) (k : CopyOp) (i : Nat) : Bool :=
  !s.farOrdered n k i && decide (k.next < i) && decide (i < cdCount k.cd) && !k.ahead.any (· = i)
    && (List.range i).all (fun j => decide (j < k.next) || k.ahead.any (· = j) || (!k.collides j i && (!s.farOrdered n k j)))
    && (!(k.form == .xstn && cdTgen k.cd) || (match k.nbFirst with | some f => decide (f < k.next) | none => true))

/-- Move the elements of a unit ahead of the box order; `none` where one waits or fails, for a failure counts in box order (R181). -/
def CopyOp.lead (k : CopyOp) (s : State) (n : Nat) : List Nat → Option (State × CopyOp)
  | [] => some (s, k)
  | i :: rest =>
    if !s.mayLead n k i then none
    else
      match ({ k with next := i } : CopyOp).moveOne s n with
      | some (s1, k1) =>
        if k1.next = i + 1 ∧ k1.status = k.status then CopyOp.lead { k1 with next := k.next, ahead := sadd i k.ahead } s1 n rest else none
      | none => none

/-- The bits of the chunks whose last element a copy reaches between two places. -/
def doneBits (l : List (Nat × Nat)) (from_ to_ : Nat) : BitVec 4096 :=
  (l.filter (fun x => decide (from_ ≤ x.2) && decide (x.2 < to_))).foldl (fun v x => v ||| ((1#4096) <<< x.1)) 0

/-- Set the bits of the chunks that a move to `k1` has finished (R49, R85, R183). -/
def State.finishChunks (s : State) (n : Nat) (k k1 : CopyOp) : State :=
  s.bring n (.chunks (cdCm k.cd) (doneBits k.chunks k.next k1.next))

/-- Whether a copy moves now: its issue has taken effect, what comes before it in its core has landed (R251), and the core writes no image. -/
def Core.copyReady (c : Core) (k : CopyOp) : Bool :=
  k.begun && !k.posted && c.allPend.all (fun p =>
    !(decide (p.cyc < k.cyc)) || (match p.w with | .words .. | .zeroTile _ => false | .bytes .. => c.shows p | _ => true))
    && !c.holds.any (fun h => h.kind = .persist)

/-- Replace a copy of a core. -/
def Core.putCopy (c : Core) (k : CopyOp) : Core :=
  { c with copies := c.copies.map (fun x => if x.id = k.id then k else x) }

/-- What the elements `k.next` to `k1.next - 1` of an XSTN do at the neighbour under RMEN (R180): the tag with the first byte that lands, and the bits of the chunks that have landed. -/
def State.markNeighbour (s : State) (n : Nat) (k k1 : CopyOp) : State :=
  if k.form = .xstn ∧ bitAt k.cd 78 then
    match k.neighbour n with
    | none => s
    | some nb =>
      if (s.core nb).ctx ≠ (s.core n).ctx then s
      else
        let m := (fld k.cd 72 6).toNat
        let l := k.nbChunks
        let first := match k.nbFirst with | some i => decide (k.next ≤ i) && decide (i < k1.next) | none => false
        let s1 := if cdTgen k.cd && first then s.bring nb (.tag m (cdTag k.cd) (chunkRange l).1 (chunkRange l).2) else s
        s1.bring nb (.chunks m (doneBits l k.next k1.next))
  else s

/-- Move a copy to an element, with the bits and the tag that go with it. -/
def State.moveCopy (s : State) (n : Nat) (k : CopyOp) (stop : Nat) : State × CopyOp :=
  let (s1, k1) := k.moveTo s n stop (s, k) (cdCount k.cd)
  (((s1.markNeighbour n k k1).modCore n (fun c => c.putCopy k1)).finishChunks n k k1, k1)

/-- COPY_CHUNK_COMPLETE (R178, R183): the copy moves on by a free number of elements, and the bits of the chunks that it has finished are set. Units of it that no page orders may move before the earlier ones, a free choice (R235). -/
def execCopyChunkComplete (core copy : Nat) (s : State) : Result :=
  let c := s.core core
  match c.copies.find? (fun k => k.id = copy) with
  | none => .next s
  | some k =>
    if !c.copyReady k then .next s
    else
      let i := k.next + 1 + Config.freeDelay s.fresh
      match (if Config.freeVerdict s.fresh then k.lead s core (k.unitOf i) else none) with
      | some (s1, k1) => .next (s1.modCore core (fun c => c.putCopy k1)).bump
      | none => .next (s.moveCopy core k (k.pause i (cdCount k.cd))).1.bump

/-- Whether an XSTN acts on the posting record of a neighbour (R180), and which. -/
def State.nbPosts (s : State) (n : Nat) (k : CopyOp) : Option Nat :=
  if k.form = .xstn ∧ bitAt k.cd 78 then
    match k.neighbour n with
    | some nb => if (s.core nb).ctx = (s.core n).ctx then some nb else none
    | none => none
  else none

/-- An arrival from a neighbour takes the next free place of a posting record; with none free it waits (R184). -/
def Core.takeArrival (c : Core) (m bytes : Nat) : Core :=
  if 64 ≤ (c.posts m).length then { c with nbWaits := c.nbWaits ++ [(m, bytes)] }
  else c.setPosts m (c.posts m ++ [.posted (BitVec.ofNat 40 bytes) 0])

/-- Places that have become free go to the arrivals that wait for them, in order (R184). -/
def Core.fillPosts (c : Core) (m : Nat) : Nat → Core
  | 0 => c
  | n + 1 =>
    match c.nbWaits.find? (fun x => x.1 = m) with
    | some x =>
      if 64 ≤ (c.posts m).length then c
      else Core.fillPosts { (c.setPosts m (c.posts m ++ [.posted (BitVec.ofNat 40 x.2) 0])) with nbWaits := c.nbWaits.erase x } m n
    | none => c

/-- An XSTN has landed whole: its arrival goes to the neighbour; a tagged one of no element writes its tag and an empty range there (R185). -/
def State.landNeighbour (s : State) (n : Nat) (k : CopyOp) : State :=
  let s1 := s.modCore n (fun c => c.putCopy { k with landed := true })
  let m := (fld k.cd 72 6).toNat
  match s.nbPosts n k with
  | some nb =>
    let s2 := if cdTgen k.cd && cdCount k.cd == 0 then s1.bring nb (.tag m (cdTag k.cd) 0 0) else s1
    s2.modCore nb (fun r => r.takeArrival m (cdBytes k.cd))
  | none => s1

/-- Whether the neighbour on whose posting record an XSTN acts can take its arrival: it has power and writes no image (R385). -/
def State.nbOpen (s : State) (n : Nat) (k : CopyOp) : Bool :=
  (s.nbPosts n k).all (fun nb => (s.core nb).powered && !(s.core nb).holds.any (fun h => h.kind = .persist))

/-- NEIGHBOUR_ARRIVAL (R180, R184): an XSTN whose bytes have all landed posts its arrival to the neighbour's record. One whose own arrival is posted ends. -/
def execNeighbourArrival (core copy : Nat) (s : State) : Result :=
  let c := s.core core
  match c.copies.find? (fun k => k.id = copy) with
  | none => .next s
  | some k =>
    if k.form ≠ .xstn ∨ k.next ≠ cdCount k.cd ∨ k.landed ∨ !k.begun ∨ !s.nbOpen core k then .next s
    else .next ((s.landNeighbour core k).modCore core (fun c =>
      { c with copies := c.copies.filter (fun x => !(x.id = k.id && x.posted)) }))

/-- COPY_ARRIVAL_POSTED (R178, R184): a copy that is done posts its arrival, and its pins are released. An XSTN has landed at its neighbour by then. An XSTF none of whose stores has left the module has its summary here (R187). -/
def execCopyArrivalPosted (core copy : Nat) (s : State) : Result :=
  let c := s.core core
  match c.copies.find? (fun k => k.id = copy) with
  | none => .next s
  | some k =>
    if !k.begun ∨ k.posted ∨ k.next < cdCount k.cd ∨ (!k.landed ∧ !s.nbOpen core k) then .next s
    else
      let m := cdCm k.cd
      let s1 := if k.form = .xstn ∧ !k.landed then s.landNeighbour core k else s
      .next ((s1.modCore core (fun c =>
        let c1 := c.setPosts m (postPlace (c.posts m) k.id (cdBytes k.cd) (s.copyStatus core k))
        let c2 : Core := { c1 with copies := c1.copies.filter (fun x => x.id ≠ k.id) }
        if k.form = .xstf ∧ !k.landed ∧ inBytes k.cd k.o0 k.o1 ≠ 0 then
          c2.setBatch (cdBtag k.cd) (replyBatch (c2.batch (cdBtag k.cd)) (cdPeer k.cd) 0 0 1)
        else c2)).release (c.ctx.getD 64) k.pins)

/-- A stop of the core's copies for a checkpoint or a fence (R190, R346): each one in the middle of a 512-byte sector of its box order moves on to its end. `none` when one must wait. -/
def State.stopCopies (s : State) (n : Nat) : List CopyOp → Option State
  | [] => some s
  | k :: rest =>
    if !k.begun || k.next == k.sectorEnd then State.stopCopies s n rest
    else
      let (s1, k1) := s.moveCopy n k k.sectorEnd
      if k1.next = k.sectorEnd then State.stopCopies s1 n rest else none

/-! Waits on maps (R184). -/

/-- The map of WAITC and SEQSET in [13:8]. -/
def mapField (f : LWord) : Nat := (fld f.off 8 6).toNat

/-- WAITC, chunk form (R184). -/
def execWaitcChunk (e : Engine) (f : LWord) (s : State) :=
  let a := s.cur.rs f.base.toNat
  let m := s.cur.rs f.idx.toNat
  let v := s.cur.map (mapField f)
  s.issue e (needClean e [a.pz, m.pz]
    (if (List.range 64).all (fun i => !bitAt m.v i || v.getLsbD (((fld a.v 0 12).toNat + i) % 4096)) then .done s
     else .block))

/-- The arrivals among the oldest places, or none when one of them is not posted. -/
def oldestPosted : Nat → List Place → Option (List (BitVec 40 × BitVec 8))
  | 0, _ => some []
  | _ + 1, [] => none
  | n + 1, .posted b st :: rest => (oldestPosted n rest).map (fun l => (b, st) :: l)
  | _ + 1, .reserved _ :: _ => none

/-- The result of WAITC.p (R184): the byte sum and the first nonzero status. -/
def postSum (l : List (BitVec 40 × BitVec 8)) : W64 :=
  let bytes := l.foldl (fun a x => a + x.1.toNat) 0
  let st := l.foldl (fun a x => firstStatus a x.2) (0 : BitVec 8)
  BitVec.ofNat 64 (st.toNat * 2 ^ 40 + bytes % 2 ^ 40)

/-- WAITC, posting form (R184). -/
def execWaitcPosting (e : Engine) (f : LWord) (s : State) :=
  let n := (fld f.off 0 7).toNat
  let m := mapField f
  s.issue e
    (if 64 < n then illegalOperand e
     else
      match oldestPosted n (s.cur.posts m) with
      | some l => .done ((s.modCur (fun c => (c.setPosts m ((c.posts m).drop n)).fillPosts m n)).putS e 1 f.base (postSum l) none)
      | none => .block)

/-- SEQSET (R185). -/
def execSeqset (f : LWord) (s : State) :=
  let a := s.cur.rs f.base.toNat
  let m := mapField f
  let first := (fld a.v 16 12).toNat
  let n := (fld a.v 28 13).toNat
  s.issue .l (needClean .l [a.pz]
    (if 4096 < first + n ∨ 4096 < n then illegalOperand .l
     else if s.cur.chunkHeld m ((List.range n).map (· + first)) then .trap (TrapInfo.of 0x14 .l)
     else .done (s.modCur (fun c => c.emit .l 1 (.seqset m (fld a.v 0 16) first n)))))

/-! Remote stores (R186, R187). -/

/-- STB to the module itself: a store that the gateway takes at once, and that the core's own reads see from the next cycle on (R186, R234). One to a window whose core writes an image is taken after that (R385). -/
def State.ownStb (s : State) (t : Nat) (rank : BitVec 16) (va : Nat) (d : List Byte) (poison : Bool) : Effect :=
  let reply (s : State) (err : BitVec 8) : Effect :=
    .done (s.modCur (fun c => c.setBatch t (replyBatch (c.batch t) rank err 0 1)))
  match s.gateTo (s.myCtx.getD 64) va d.length false with
  | .fail st => reply s (errBit st)
  | .wait => .wait
  | .dead a => .fatal fatalTable a
  | .ok (s1, tr) =>
    let push := s1.pushStore .w 1 tr d poison none (some (t, rank))
    if isWin tr.pa then
      match s1.winTest (s1.myCtx.getD 64) tr.pa d.length true with
      | .ok => .done push.performLast
      | .wait => .done push
      | w => reply s1 (errBit w.status)
    else .done push.performLast

/-- STB (R186): the peer scalar stands in [13:8], the batch tag in [7:6], the width in [5:4]. -/
def execStb (f : LWord) (s : State) :=
  let a := s.cur.rs f.base.toNat
  let v := s.cur.rs f.idx.toNat
  let p := s.cur.rs (fld f.off 8 6).toNat
  let t := (fld f.off 6 2).toNat
  let n := 2 ^ (fld f.off 4 2).toNat
  let va := s.lwAddr .w f.st a.v 0
  let x := s.myCtx.getD 64
  let rank : BitVec 16 := fld p.v 0 16
  s.issue .w (needClean .w [a.pz, p.pz]
    (if va % n ≠ 0 then alignFault .w va
     else
      match addBatch (s.cur.batch t) rank n with
      | none => .trap (TrapInfo.of 0x16 .w)
      | some b =>
        let s1 := s.drainAll.modCur (fun c => c.setBatch t b)
        let lost : Effect := .done (s1.modCur (fun c => c.setBatch t (replyBatch (c.batch t) rank 1 0 1)))
        match s.rankModule x rank.toNat with
        | none => lost
        | some md =>
          if s.rankOwn x rank.toNat then s1.ownStb t rank va (natLe n v.v.toNat) v.pz.isSome
          else if !s.portUp (s.me / 512) then lost
          else .done (s1.send (.store x md va (natLe n v.v.toNat) v.pz.isSome s.me t false))))

/-- STB_SUMMARY_REPLY (R187): a peer's summary for one STB or XSTF of a batch. -/
def execStbSummaryReply (core : Nat) (tag : BitVec 2) (rank : BitVec 16) (err : BitVec 8) (deliv : Nat) (s : State) : Result :=
  .next (s.modCore core (fun c => c.setBatch tag.toNat (replyBatch (c.batch tag.toNat) rank (err &&& 0x1F) deliv 1)))

/-- A summary record (R187). -/
def BatchPeer.record (p : BatchPeer) : List Byte :=
  natLe 2 p.rank.toNat ++ [p.err, 0] ++ natLe 4 p.count.toNat ++ natLe 8 p.deliv.toNat

/-- Whether copies of the batch are still moving elements: an XSTF's stores are issued before its BCLOSE (R187). -/
def Core.batchMoving (c : Core) (t : Nat) : Bool :=
  c.copies.any (fun k => k.form == .xstf && cdBtag k.cd == t)

/-- BCLOSE (R187). -/
def execBclose (f : LWord) (s : State) :=
  let a := s.cur.rs f.idx.toNat
  let t := (fld f.off 0 2).toNat
  let l := s.cur.batch t
  let r : W64 := BitVec.ofNat 64 (l.length + 65536 * (l.foldl (fun x p => x ||| p.err) (0 : BitVec 8)).toNat)
  s.issue .w (needClean .w [a.pz]
    (if f.idx ≠ 0 ∧ 0x200000 < a.v.toNat + 1024 then illegalOperand .w
     else if f.idx ≠ 0 ∧ a.v.toNat % 16 ≠ 0 then alignFault .w a.v.toNat
     else if l.any (fun p => p.left != 0) || s.cur.batchMoving t then .block
     else
      match (if f.idx = 0 then Except.ok s
        else s.useBanks .w (((List.range 8).filter (fun i => decide (128 * i < 16 * l.length))).map (fun i =>
          (s.cur.now, bankOf (a.v.toNat + 128 * i), blockOf (a.v.toNat + 128 * i))))) with
      | .error x => x
      | .ok s1 =>
        let s2 := if f.idx = 0 then s1
          else s1.modCur (fun c => c.emit .w 1 (.bytes (winBase s.me + a.v.toNat) (l.flatMap BatchPeer.record) false))
        .done ((s2.modCur (fun c => c.setBatch t [])).putS .w 1 f.base r none)))

/-! PUB (R188). -/

/-- The lower frames of the twin pages of a range, or the fate of the first page that is not one. -/
def pubFrames (s : State) (x a : Nat) : List PageAt → Except Effect (List Nat)
  | [] => .ok []
  | .bad b :: _ => .error (.fatal fatalTable b)
  | .none va :: _ => .error (.fatal fatalMiss (firstOn a va))
  | .leaf va _ e size :: rest =>
    let p := firstOn a va
    if !s.permits x e size (s.transOf e size p).pa 1 false false || !leafTwin e then .error (protFault .w p)
    else
      match pubFrames s x a rest with
      | .error z => .error z
      | .ok l => .ok (leafFrame e :: l)

/-- PUB (R188): a release that swaps the backings of every twin page of the range at one instant, two cycles on. -/
def execPub (f : LWord) (s : State) :=
  let a := s.cur.rs f.base.toNat
  let n := s.cur.rs f.idx.toNat
  let x := s.myCtx.getD 64
  let va := memAddr a.v
  s.issue .w (needClean .w [a.pz, n.pz]
    (if n.v = 0 then .done s
     else if s.heldRange x va n.v.toNat then .wait
     else
      match pubFrames s x va (s.pagesIn x va n.v.toNat) with
      | .error z => z
      | .ok l => .done (s.bindLoads.drainAll.modCur (fun c => c.emit .w 2 (.twin l)))))

end Sys2Proof.Machine
end

