-- ==== Sys2Proof/Machine/Images.lean ====
section
/-! DEFINITION. Core images: PFEN and the persist marks (R112), the persist window (R382, R383), the fence and its seals (R380, R381, R384, R385). -/

namespace Sys2Proof.Machine

/-! What an image holds. -/

/-- The tiles that %acclive marks (R50, R382). -/
def Core.liveTiles (c : Core) : List Nat :=
  c.acclive.flatMap (fun w => ((List.range 64).filter (fun i => bitAt w.2 i)).map (fun i => 64 * w.1 + i))

/-- The frames in use: live tiles by number, riser blocks from 1024 on (R382). -/
def Core.frames (c : Core) : List Nat := c.liveTiles ++ (List.range c.riser.length).map (· + 1024)

/-- The copies and step parts that need a progress record (R352, R383). -/
def Core.progressParts (c : Core) : Nat :=
  c.copies.length
    + (match c.nrun with
       | some r =>
         match r.step with
         | some st => (if st.sendTo.isSome then 1 else 0) + (if st.recvFrom.isSome then 1 else 0)
         | none => 0
       | none => 0)

/-- The parts of the state region: offset, size, and whether an item of it is not at its reset value (R380). The identity stands in the first; the sequencer positions of a core that has issued a PFEN are never at their reset values. -/
def Core.stateParts (c : Core) : List (Nat × Nat × Bool) :=
  [(0, 0x800, true),
   (0x800, 0x800, !c.s.isEmpty || !c.p.isEmpty || !c.k.isEmpty),
   (0x1000, 0x2000, true),
   (0x3000, 0x4000, !c.allPend.isEmpty || !c.allMats.isEmpty || c.mprog.isSome),
   (0x7000, 0x2800, !c.q.isEmpty),
   (0x9800, 0x800, !c.od.isEmpty || !c.cd.isEmpty || !c.tg.isEmpty),
   (0xA000, 0x8000, !c.cm.isEmpty),
   (0x12000, 0x6000, !c.post.isEmpty),
   (0x18000, 0x4000, !c.ncmds.isEmpty || c.nrun.isSome || c.nrec.isSome || !c.batches.isEmpty || !c.copies.isEmpty)]

/-- STLEN (R380): the end of the last part that holds a nonzero byte. -/
def Core.stateLen (c : Core) : Nat := c.stateParts.foldl (fun n p => if p.2.2 then p.1 + p.2.1 else n) 0

/-- The image of a core's own state from its next cycle on (R112, R217): what is in flight stands in the snapshot. -/
def Core.image (c : Core) : Core :=
  let c1 := { c with now := c.now + 1, turn := 0, holds := c.holds.filter (fun h => h.kind != HoldKind.persist) }
  c1.stopped c1.tr

/-- The cells of a core's window relative to it: registers, scratchpad and the tiles that `keep` selects. -/
def State.windowCells (s : State) (n : Nat) (keep : Nat → Bool) : Memory :=
  (s.mem.cut (winBase n) 0x1000000).filter (fun x => decide (x.1 < 0x800000) || keep ((x.1 - 0x800000) / 4096))
def State.windowPz (s : State) (n : Nat) (keep : Nat → Bool) : List Nat :=
  (pzCut s.pz (winBase n) 0x1000000).filter (fun x => decide (x < 0x800000) || keep ((x - 0x800000) / 4096))

/-- Replace what a core's window holds. -/
def State.pasteWindow (s : State) (n : Nat) (cells : Memory) (pz : List Nat) : State :=
  { s with mem := s.mem.paste (winBase n) 0x1000000 cells, pz := pzPaste s.pz (winBase n) 0x1000000 pz }

/-! Dirty bits (R384). -/

/-- Keys that lie in a core's window. -/
def inCore (n k : Nat) : Bool := decide (winBase n ≤ k) && decide (k < winBase n + 0x1000000)

/-- The dirty keys of a slot, and clearing those of a core. -/
def State.dirtyOf (s : State) (b : Bool) : List Nat := if b then s.dirtyB else s.dirtyA
def State.clearDirty (s : State) (n : Nat) (b : Bool) : State :=
  if b then { s with dirtyB := s.dirtyB.filter (fun k => !inCore n k) }
  else { s with dirtyA := s.dirtyA.filter (fun k => !inCore n k) }

/-- Set every dirty bit of a slot (R386), or note that they are listed from here on. -/
def Chill.setClean (ch : Chill) (b on : Bool) : Chill := if b then { ch with cleanB := on } else { ch with cleanA := on }
def Chill.clean (ch : Chill) (b : Bool) : Bool := if b then ch.cleanB else ch.cleanA
def Chill.slot (ch : Chill) (b : Bool) : Slot := if b then ch.b else ch.a
def Chill.setSlot (ch : Chill) (b : Bool) (x : Slot) : Chill := if b then { ch with b := x } else { ch with a := x }

/-- A riser block's contents without its poison: an error that poisons a block writes nothing to it. -/
def plainBlock (b : Block) : Block := { b with poison := [] }

/-- The riser blocks that a slot holds. -/
def Slot.blocks (x : Slot) : List Block := match x.core with | some k => k.riser | none => []

/-- Whether the frame at a place of the directory is written at a fence (R382): its tile or block changed, or its directory entry did. -/
def State.frameDirty (s : State) (n : Nat) (c : Core) (ch : Chill) (b : Bool) (i f : Nat) : Bool :=
  !ch.clean b || (ch.slot b).frames[i]? != some f
    || (if f < 1024 then smem (winBase n + 0x800000 + 4096 * f) (s.dirtyOf b)
        else ((ch.slot b).blocks[f - 1024]?).map plainBlock != (c.riser[f - 1024]?).map plainBlock)

/-- The frames that a fence writes. -/
def State.dirtyFrames (s : State) (n : Nat) (c : Core) (ch : Chill) (b : Bool) : List Nat :=
  (c.frames.zipIdx.filter (fun f => s.frameDirty n c ch b f.2 f.1)).map (·.1)

/-- Whether a place of a core's window outside the tiles lies in a granule that a fence writes (R384). -/
def State.granuleDirty (s : State) (n : Nat) (ch : Chill) (b : Bool) (off : Nat) : Bool :=
  !ch.clean b || smem (winBase n + (off - off % 512)) (s.dirtyOf b)

/-- The bytes that a fence writes (R384): dirty granules and frames, the state region and two seals. -/
def State.fenceBytes (s : State) (n : Nat) (c : Core) (ch : Chill) (b : Bool) : Nat :=
  let granules := if ch.clean b then ((s.dirtyOf b).filter (fun k => inCore n k && decide (k % 0x1000000 < 0x800000))).length else 1536 + 4096
  512 * granules + 4096 * (s.dirtyFrames n c ch b).length + c.image.stateLen + 128

/-! Seals (R381). -/

/-- Bytes 0 to 59 of a seal. -/
def Seal.bytes (x : Seal) : List Byte :=
  natLe 60 (x.scrc.toNat * 2 ^ 448 + x.stlen % 2 ^ 32 * 2 ^ 416 + x.mrlen % 2 ^ 32 * 2 ^ 384 + x.splen % 2 ^ 32 * 2 ^ 352
    + x.nfrm % 256 * 2 ^ 344 + x.pour.toNat * 2 ^ 256 + x.record % 2 ^ 52 * 2 ^ 204 + x.l % 2 ^ 48 * 2 ^ 156 + x.ctx % 64 * 2 ^ 150
    + x.core % 4096 * 2 ^ 138 + x.fmt % 16 * 2 ^ 128 + (if x.valid then 2 ^ 64 else 0) + x.seq.toNat)

/-- Whether a seal passes its CRC check; a seal as it is written in whole, and one whose write power has torn. -/
def Seal.crcOk (x : Seal) : Bool := x.crc == crc32c x.bytes
def Seal.sealed (x : Seal) : Seal := { x with crc := crc32c x.bytes }
def Seal.torn (x : Seal) : Seal := { x with crc := ~~~(crc32c x.bytes) }

/-- A seal counts as valid when VALID = 1 and its CRC passes (R384). -/
def Seal.ok (x : Seal) : Bool := x.valid && x.crcOk

/-- The slot that a fence writes (R384): true for B. -/
def Chill.target (ch : Chill) : Bool :=
  match ch.a.sl.ok, ch.b.sl.ok with
  | true, false => true
  | false, true => false
  | true, true => decide (ch.b.sl.seq < ch.a.sl.seq)
  | false, false => false

/-- One more than the larger SEQ of the seals that pass their CRC check, or 1 (R381). -/
def Chill.nextSeq (ch : Chill) : W64 :=
  match ch.a.sl.crcOk, ch.b.sl.crcOk with
  | true, true => (if ch.a.sl.seq < ch.b.sl.seq then ch.b.sl.seq else ch.a.sl.seq) + 1
  | true, false => ch.a.sl.seq + 1
  | false, true => ch.b.sl.seq + 1
  | false, false => 1

/-- A seal written with VALID = 0: it carries the SEQ of its slot's seal if that passed its check (R381), and keeps what else stands in it. -/
def Seal.void (x : Seal) : Seal := ({ x with valid := false, seq := if x.crcOk then x.seq else 0 } : Seal).sealed

/-! The fence (R384). -/

/-- The state in which an image can be taken (R112, R190, R346): every earlier store is visible, and every copy stands at a sector boundary. `none` while one must wait. -/
def State.settled (s : State) (n : Nat) : Option State :=
  let s1 := ((s.publish (.core n)).atStop (.core n)).modCore n (fun c => { c with turn := 0 })
  (s1.stopCopies n (s1.core n).copies).map (fun s2 => s2.modCore n (fun c => { c with turn := (s.core n).turn }))

/-- What a fence leaves in a slot (R382, R384): dirty granules and frames as the core has them, the others as the slot had them, and no frame but those in use. -/
def State.slotAfter (s : State) (n : Nat) (c : Core) (ch : Chill) (b : Bool) : Memory × List Nat × List Block :=
  let old := ch.slot b
  let frames := s.dirtyFrames n c ch b
  let new (off : Nat) : Bool :=
    if off < 0x800000 then s.granuleDirty n ch b off else frames.any (· = (off - 0x800000) / 4096)
  let kept (off : Nat) : Bool := !new off && (decide (off < 0x800000) || c.liveTiles.any (· = (off - 0x800000) / 4096))
  let live (t : Nat) : Bool := c.liveTiles.any (· = t)
  (((s.windowCells n live).filter (fun x => new x.1)).foldr (fun x l => insertBy (fun a b => decide (a.1 < b.1)) x l) (old.cells.filter (fun x => kept x.1)),
   ((s.windowPz n live).filter new).foldr (fun x l => sadd x l) (old.pz.filter kept),
   c.riser.zipIdx.map (fun k => if frames.any (· = 1024 + k.2) then k.1 else old.blocks.getD k.2 k.1))

/-- The fence from cycle p on, of a core that is settled: the inactive slot's seal is voided and the image is written, with the barrier arrivals held for the core (R226); the core does not enter its next cycle before it is sealed. -/
def State.beginFence (s : State) (n : Nat) : State :=
  let c := s.core n
  let ch := s.chillOf n
  let b := ch.target
  let (cells, pz, blocks) := s.slotAfter n c ch b
  let new : Slot :=
    { sl := (ch.slot b).sl.void, core := some { c.image with heldArr := s.heldOf c, riser := blocks }, cells := cells, pz := pz
      frames := c.frames, stateCrc := fld s.freeW 0 32 }
  let ch1 := { (ch.setSlot b new).setClean b true with writing := some (b, s.fenceBytes n c ch b) }
  (((s.bump.clearDirty n b).setChill n ch1).modCore n (fun c => c.hold 1 .persist))

/-- PERSIST_IMAGE_SEALED (R384): steps 4 and 5. The fence costs its bytes at 8 bytes per reference cycle, and no engine cycle. -/
def execPersistImageSealed (core : Nat) (s : State) : Result :=
  let ch := s.chillOf core
  let c := s.core core
  match ch.writing with
  | none => .next s
  | some (b, bytes) =>
    let seq := ch.nextSeq
    let sl : Seal :=
      { seq := seq, valid := true, fmt := 1, core := core, ctx := c.ctx.getD 0
        l := (match c.run with | some (_, l) => l | none => 0)
        record := (match s.recordOf c with | some r => r.addr | none => 0)
        pour := s.spe.pour, nfrm := c.frames.length, splen := 2097152, mrlen := 786432, stlen := c.image.stateLen
        scrc := (ch.slot b).stateCrc, crc := 0 }
    let ch1 := { ch.setSlot b { ch.slot b with sl := sl.sealed } with writing := none, journal := [], replay := none }
    let s1 := (s.setChill core ch1).modCore core (fun c =>
      { c with
        holds := c.holds.filter (fun h => h.kind != HoldKind.persist)
        snap := c.snap.map (fun sn => { sn with holds := sn.holds.filter (fun h => h.kind != HoldKind.persist) })
        epoch := seq, ordinal := 0, nbNew := 0 })
    .next (s1.pass (.core core) (bytes * 105 / (8 * s.period (.core core))))

/-- The persist-capacity fault's cause at a fence (R383). -/
def Core.capacity (c : Core) : Option Nat :=
  if 64 < c.frames.length then some 0
  else if c.arms.any (fun a => !a.closed) || c.pend.any (fun p => match p.w with | .arm _ => true | _ => false) then some 1
  else if 96 < c.progressParts then some 3
  else none

/-- All four sequencers have issued their PFEN (R112). -/
def Core.allParked (c : Core) : Bool := c.es.parked && c.el.parked && c.ex.parked && c.ew.parked

/-- A sequencer moves past its PFEN (R112). -/
def Core.unpark (c : Core) (e : Engine) : Core := c.setSeq e { (c.seqOf e).issued c.now 1 with parked := false }

/-- The trap of a fence that cannot persist (R383): the four sequencers keep their PFEN as their next group, with BLK set. -/
def State.capacityFault (s : State) (sub : Nat) : State :=
  let s1 := s.takeTrap s.here { TrapInfo.of 0x1A .s with sub := sub }
  s1.modCur (fun c => { c with snap := c.snap.map (fun sn => { sn with seqs := sn.seqs.map (fun q => { q with parked := false }) }) })

/-- A PFEN word of an engine (R112): it parks its sequencer; the last of the four fences the core, once the core is settled. -/
def pfenWord (s : State) (e : Engine) : Result :=
  if s.cur.mode = .handler then s.issue e (illegalInstr e)
  else
    let s1 := s.modCur (fun c => c.setSeq e { c.seqOf e with parked := true })
    if s1.cur.allParked then
      match s1.cur.capacity with
      | some sub => .next (s1.capacityFault sub)
      | none =>
        match s1.settled s1.me with
        | none => .next s.frozen
        | some s2 =>
          let s3 := s2.modCur (fun c => [Engine.s, .l, .x, .w].foldl Core.unpark c)
          .next ((s3.beginFence s3.me).modCur (fun c => { c with turn := c.turn + 1 }))
    else .next (s1.modCur (fun c => { c with turn := c.turn + 1 }))

/-- PFEN (R112). -/
def execPfen (_ : SReg) (s : State) := pfenWord s .s

/-- PFEN_MARK (R112). -/
def execPfenMark (e : Engine) (_ : StepWord) (s : State) := pfenWord s e

end Sys2Proof.Machine
end

