-- ==== Sys2Proof/Machine/SaveSlot.lean ====
section
/-! DEFINITION. Save slots as they lie in memory (R348 to R351): the header, the granule map and the regions of the core's window. The encoding of the state block and of the poison tags is not given: their bytes are free values, and their contents are held in structured form beside them. -/

namespace Sys2Proof.Machine

/-- Where a save slot of a context lies (R348). -/
def Context.slotBase (cx : Context) (i : Nat) : Nat := cx.save + 8192 + 8388608 * i

/-- The regions of a slot that hold the core's window: offset in the window, offset in the slot, length (R227, R350). -/
def slotParts : List (Nat × Nat × Nat) :=
  [(0x400000, 0x050000, 0xC0000), (0, 0x110000, 0x200000), (0x800000, 0x310000, 0x400000)]

/-- The fields of a header that HCRC covers: bits [287:0] (R351). -/
def SavedCore.headerBytes (v : SavedCore) : List Byte :=
  natLe 36 (v.recAddr % 2 ^ 52 * 2 ^ 184 + v.l % 2 ^ 48 * 2 ^ 136 + v.from_ % 4096 * 2 ^ 124
    + (if v.yielded then 2 else 1) * 2 ^ 120 + timeOf v.spent % 2 ^ 64)

/-- A slot's header (R351), without the zero bytes that end it. -/
def SavedCore.header (v : SavedCore) : List Byte := v.headerBytes ++ natLe 4 (crc32c v.headerBytes).toNat

/-- The bytes of the riser blocks, one 4 KiB piece each (R269, R350). -/
def riserCells (l : List Block) : Memory :=
  (l.take 64).zipIdx.flatMap (fun b => (Memory.wrN [] 0 (b.1.data.take 4096)).map (fun c => (c.1 + 0x710000 + 4096 * b.2, c.2)))

/-! Progress records (R352). -/

/-- A progress record: bytes of box order done, status, posting place, map, batch tag, descriptor number, engine, kind and code; the step word, and the descriptor as the operation captured it. -/
def progressBytes (done status place map btag cd eng kind opc : Nat) (word : W64) (d : BitVec 512) : List Byte :=
  natLe 16 (done % 2 ^ 40 * 2 ^ 48 + status % 256 * 2 ^ 40 + place % 64 * 2 ^ 34 + map % 64 * 2 ^ 28 + btag % 4 * 2 ^ 26
    + cd % 16 * 2 ^ 22 + eng % 4 * 2 ^ 20 + kind % 16 * 2 ^ 16 + opc % 2 ^ 16)
  ++ natLe 8 word.toNat ++ List.replicate 40 0 ++ natLe 64 d.toNat

/-- The major code of a copy's form (R178). -/
def CopyForm.code (f : CopyForm) : Nat :=
  match f with
  | .xld | .xst => 8
  | .xldT | .xstn => 9
  | .xldn | .xstf => 10
  | .xldf => 11

/-- The number of a reserved posting place (R184). -/
def placeOf (l : List Place) (id : Nat) : Nat := (l.findIdx? (fun p => p = .reserved id)).getD 0

/-- The word of the step that N runs. -/
def Core.stepWord (c : Core) : W64 := match c.nrun.bind (fun r => r.step) with | some st => st.word | none => 0

/-- The progress record of a copy; one of a COPY step is N's. -/
def Core.copyRecord (c : Core) (k : CopyOp) : List Byte :=
  progressBytes (k.next * cdEsz k.cd) k.status.toNat (placeOf (c.posts (cdCm k.cd)) k.id) (cdCm k.cd)
    (if k.form = .xstf then cdBtag k.cd else 0) k.cdn (if k.byStep then 0 else if k.form.loads then 1 else 3) 1
    (if k.byStep then (fld c.stepWord 60 4).toNat else k.form.code) (if k.byStep then c.stepWord else 0) k.cd

/-- The progress records of the parts of the step that N runs; HALO receives by the descriptor after that of its word (R264). -/
def Core.stepRecords (c : Core) : List (List Byte) :=
  match c.nrun.bind (fun r => r.step) with
  | none => []
  | some st =>
    let op := (fld st.word 60 4).toNat
    let n := (fld st.word 31 4).toNat
    let m := match st.place with | some (m, _) => m | none => 0
    let at_ := match st.place with | some (m, id) => placeOf (c.posts m) id | none => 0
    (if st.sendTo.isSome then [progressBytes st.sent st.sendStatus.toNat at_ m 0 n 0 2 op st.word st.sendCd] else [])
      ++ (if st.recvFrom.isSome then [progressBytes st.recvd st.recvStatus.toNat at_ m 0 (if op = 6 then n + 1 else n) 0 3 op st.word st.recvCd] else [])

/-- The progress records of a core, 128 bytes each (R352). -/
def Core.progress (c : Core) : List Byte := c.copies.flatMap c.copyRecord ++ c.stepRecords.flatten

/-- The state block by offset in it (R350, R380): a part whose items all have their reset values is zero, and the arrangement within a part is open, but for the progress records, to which the model gives the end of theirs. -/
def Core.stateCells (c : Core) (free : Nat) : Memory :=
  c.stateParts.flatMap (fun p =>
    if !p.2.2 then []
    else if p.1 = 0x18000 then Memory.putCells [] 0x18000 0x1000 (Config.freeCells (free + p.1)) ++ Memory.wrN [] 0x19000 (c.progress.take 0x3000)
    else Memory.putCells [] p.1 p.2.1 (Config.freeCells (free + p.1)))

/-- What a slot holds, but for its granule map, by offset (R350); the cells list no zero byte. -/
def SavedCore.slotCells (v : SavedCore) (cells : Memory) (free : Nat) : Memory :=
  Memory.wrN [] 0 v.header ++ (v.core.stateCells free).map (fun c => (c.1 + 0x10000, c.2))
    ++ (if v.pz.isEmpty then [] else Memory.putCells [] 0x30000 0x20000 (Config.freeCells free))
    ++ slotParts.flatMap (fun p => (cells.cut p.1 p.2.2).map (fun c => (c.1 + p.2.1, c.2)))
    ++ riserCells v.core.riser

/-- The 512-byte granules that hold a cell. -/
def granulesOf (m : Memory) : List Nat := m.foldl (fun l c => sadd (c.1 / 512) l) []

/-- The granules of a slot that are written (R350): those that are not all zero, among them those of the map, granules 2 to 5, that mark one. -/
def slotMarks (m : Memory) : List Nat :=
  let l := granulesOf m
  l.foldl (fun k g => sadd (2 + g / 4096) k) (sadd 2 l)

/-- Write a slot's marked granules (R350). -/
def State.writeSlot (s : State) (base : Nat) (m : Memory) : State :=
  let marks := slotMarks m
  let map := Memory.wrN [] 0x400 (natLe 2048 (marks.foldl (fun a g => a + 2 ^ g) 0))
  marks.foldl (fun s g =>
    { s with
      mem := s.mem.paste (base + 512 * g) 512 ((m ++ map).cut (512 * g) 512)
      pz := pzPaste s.pz (base + 512 * g) 512 [] }) s

/-- Whether the granule map of a slot marks a granule: a granule of the map that is not marked is zero. -/
def State.slotMarked (s : State) (base g : Nat) : Bool :=
  let bit (g : Nat) : Bool := (s.mem.rd (base + 0x400 + g / 8)).toNat.testBit (g % 8)
  bit (2 + g / 4096) && bit g

/-- What a restore reads of a slot's header (R351): `none` where HCRC fails, or an error spoils it. -/
def State.readHeader (s : State) (base : Nat) (v : SavedCore) : Option SavedCore :=
  let h := s.mem.rdN base 36
  let w := leNat h
  if poisonedIn s.pz base 40 ∨ leNat (s.mem.rdN (base + 36) 4) ≠ (crc32c h).toNat then none
  else some { v with recAddr := w / 2 ^ 184 % 2 ^ 52, l := w / 2 ^ 136 % 2 ^ 48, from_ := w / 2 ^ 124 % 4096 }

/-- The window that a slot holds: an unmarked granule is zero (R350). -/
def State.readSlot (s : State) (base : Nat) : Memory :=
  slotParts.flatMap (fun p =>
    (s.mem.cut (base + p.2.1) p.2.2).filterMap (fun c =>
      if s.slotMarked base ((c.1 + p.2.1) / 512) then some (c.1 + p.1, c.2) else none))

/-- The riser blocks that a slot holds: their data and its poison come from its memory (R350), the rest from the state block. -/
def State.readRiser (s : State) (base : Nat) (l : List Block) : List Block :=
  l.zipIdx.map (fun b =>
    let at_ (i : Nat) : Nat := 0x710000 + 4096 * b.2 + i
    let marked (i : Nat) : Bool := s.slotMarked base (at_ i / 512)
    if 64 ≤ b.2 then b.1
    else { b.1 with
      data := (List.range b.1.data.length).map (fun i => if marked i then s.mem.rd (base + at_ i) else 0)
      poison := (List.range b.1.poison.length).map (fun i => b.1.poison.getD i false || (marked i && poisonedAt s.pz (base + at_ i))) })

/-- The words that an error of the memory poisons as a slot is read (R52). -/
def State.slotErrors (s : State) (base : Nat) : List Nat :=
  slotParts.flatMap (fun p =>
    (pzCut s.pz (base + p.2.1) p.2.2).flatMap (fun k =>
      if !s.slotMarked base ((k + p.2.1) / 512) then []
      else if p.1 = 0 then [k] else [k + p.1, k + p.1 + 4]))

end Sys2Proof.Machine
end

