-- ==== Sys2Proof/Machine/Runner.lean ====
section
/-! DEFINITION. The runner: nest records and their checks (R307 to R310, R219 to R221, R274), acceptance and hand-out (R311, R312, R338 to R342), retirement and completion (R313 to R316), planes (R317, R318), pre-emption, checkpoints and kills (R343 to R352), restores (R355), context switches (R353), and the end of a context by the fatal context error (R292, R315). -/

namespace Sys2Proof.Machine

/-! Reads of the runner and the loader. -/

/-- The result of a read: bytes, a failure (miss, permission, uncorrected error), a hold that delays it (R361, R364), or a page-table entry that cannot be read, which ends the context (R373). -/
inductive RunRead where
  | ok (s : State) (bs : List Byte)
  | fail
  | wait
  | dead (entry : Nat)

/-- The pieces of a range that lie in one 16 KiB page each. -/
def pagePieces (va n : Nat) : List (Nat × Nat) :=
  ((List.range (n / 16384 + 2)).map (fun i =>
    let lo := max va ((va / 16384 + i) * 16384)
    let hi := min (va + n) ((va / 16384 + i + 1) * 16384)
    (lo, hi - lo))).filter (fun p => decide (0 < p.2))

/-- Pin the page of an address (R363): `none` while the page-lock table has no place for it. -/
def State.pinPage (s : State) (x va : Nat) : Option State :=
  match s.pageAt x va with
  | .leaf v _ _ _ =>
    let k := lockKey x v
    let n := tget 0 s.locks k
    if 65535 ≤ n ∨ (n = 0 ∧ 1048576 ≤ s.locks.length) then none else some { s with locks := tset 0 s.locks k (n + 1) }
  | _ => some s

/-- Release it. -/
def State.unpinPage (s : State) (x va : Nat) : State :=
  match s.pageAt x va with
  | .leaf v _ _ size => s.release x [(v, size, 0)]
  | _ => s

/-- Read pieces under a context's translation, each page pinned until the read is done (R363); `fetch` asks for X (R360). -/
def State.runPieces (s : State) (x : Nat) (fetch : Bool) : List (Nat × Nat) → RunRead
  | [] => .ok s []
  | (va, n) :: rest =>
    match s.translate x none va n false fetch with
    | .held => .wait
    | .bad a => .dead a
    | .ok s1 t =>
      let d := s1.peek t.pa n
      if d.any (·.2) then .fail
      else
        match s1.pinPage x va with
        | none => .wait
        | some s2 =>
          match State.runPieces s2 x fetch rest with
          | .ok s3 bs => .ok (s3.unpinPage x va) (d.map (·.1) ++ bs)
          | r => r
    | _ => .fail

/-- Read `n` bytes at a virtual address. -/
def State.runRead (s : State) (x va n : Nat) (fetch : Bool) : RunRead :=
  if 2 ^ 52 < va + n then .fail else s.runPieces x fetch (pagePieces va n)

/-! Fields of a record (R307). -/

def nrec (r : BitVec 1024) (lo len : Nat) : Nat := (fld r lo len).toNat
def recExt (r : BitVec 1024) (d : Nat) : Nat := nrec r (128 + 32 * d) 32
def recOrd (r : BitVec 1024) (k : Nat) : Nat := nrec r (256 + 2 * k) 2
def recNdim (r : BitVec 1024) : Nat := nrec r 264 3
def recPre (r : BitVec 1024) (d : Nat) : BitVec 8 := fld r (272 + 8 * d) 8

/-- The product of the extents of the record's dimensions (R309). -/
def recN (r : BitVec 1024) : Nat := ((List.range (min 4 (recNdim r))).map (recExt r)).foldl (· * ·) 1

/-- The index vector of L (R309). -/
def recIndex (r : BitVec 1024) : List Nat → Nat → List (Nat × Nat)
  | [], _ => []
  | k :: rest, rem => (recOrd r k, rem % recExt r (recOrd r k)) :: recIndex r rest (rem / recExt r (recOrd r k))

/-- The zero fields of a record (R307). -/
def recZeros (r : BitVec 1024) : Bool :=
  [(832, 192), (779, 21), (756, 12), (628, 12), (564, 12), (464, 48), (353, 31), (323, 5), (304, 16), (267, 5), (108, 20), (75, 21), (52, 12)].all
    (fun z => nrec r z.1 z.2 == 0)
    && (List.range 4).all (fun d => !bitAt (recPre r d) 6)
    && (bitAt r 778 || nrec r 768 10 == 0)
    && (nrec r 640 52 != 0 || nrec r 692 12 == 0)
    && (bitAt r 107 || nrec r 96 11 == 0)

/-- The alignment of a record's addresses. -/
def recAligned (r : BitVec 1024) : Bool :=
  nrec r 704 52 % 8 == 0 && nrec r 640 52 % 16 == 0 && nrec r 576 52 % 16 == 0 && nrec r 512 52 % 64 == 0 && nrec r 0 52 % 32 == 0

/-- The order codes are a permutation, the higher ones zero (R308, 0x03). -/
def recOrdOk (r : BitVec 1024) : Bool :=
  let n := recNdim r
  (List.range n).all (fun d => (List.range n).any (fun k => recOrd r k = d))
    && (List.range 4).all (fun k => decide (k < n) || recOrd r k == 0)

/-- The preload map (R308, 0x05). -/
def recPreOk (r : BitVec 1024) : Bool :=
  (List.range 4).all (fun d => !bitAt (recPre r d) 7
    || (fld (recPre r d) 0 6 != 0 && decide (d < recNdim r)
        && (List.range d).all (fun e => !bitAt (recPre r e) 7 || fld (recPre r e) 0 6 != fld (recPre r d) 0 6)))

/-- The checks of a record's own fields, the lowest-numbered reason first; 0 when none applies (R308). -/
def State.recCheck (s : State) (x : Nat) (r : BitVec 1024) : Nat :=
  let n := recNdim r
  if !recZeros r || !recAligned r then 1
  else if n = 0 ∨ 4 < n ∨ (List.range 4).any (fun d => decide (n ≤ d) && recExt r d != 0) then 2
  else if !recOrdOk r then 3
  else if 2 ^ 48 < recN r then 4
  else if !recPreOk r then 5
  else if nrec r 64 11 < nrec r 96 11 then 6
  else if nrec r 344 8 = 0 ∨ 3200 < nrec r 448 16 then 10
  else if bitAt r 778 && !s.semGranted x (nrec r 768 10) then 12
  else 0

/-! Groups (R219, R220). -/

/-- A group table entry. -/
structure GroupEntry where
  g : Nat
  list : Nat
  count : Nat
  zeros : Bool
  deriving DecidableEq, Repr

/-- The entries with V = 1 of a table of 4,096 bytes. -/
def groupEntries (bs : List Byte) : List GroupEntry :=
  (List.range 256).filterMap (fun g =>
    let e : BitVec 128 := BitVec.ofNat 128 (leNat ((bs.drop (16 * g)).take 16))
    if bitAt e 0 then
      some ⟨g, (fld e 64 52).toNat, (fld e 32 16).toNat + 1, fld e 116 12 == 0 && fld e 48 16 == 0 && fld e 1 31 == 0⟩
    else none)

/-- Member words. -/
def memberWords (bs : List Byte) : List W32 := wordsOf bs
def memberOf (w : W32) : GroupMember := ⟨(fld w 16 16).toNat, (fld w 0 12).toNat⟩

/-- What reading the member lists of the entries comes to. -/
inductive Members where
  | ok (s : State) (gs : List (GroupEntry × List W32))
  | fail
  | wait
  | dead (entry : Nat)

/-- Read the member lists of the entries. -/
def State.readMembers (s : State) (x : Nat) : List GroupEntry → List (GroupEntry × List W32) → Members
  | [], acc => .ok s acc
  | e :: rest, acc =>
    match s.runRead x e.list (4 * e.count) false with
    | .ok s1 bs => State.readMembers s1 x rest (acc ++ [(e, memberWords bs)])
    | .fail => .fail
    | .wait => .wait
    | .dead a => .dead a

/-- The rules of R220 on the groups of a record with core set `cores`. -/
def groupTableOk (cx : Context) (cores : List Nat) (gs : List (GroupEntry × List W32)) : Bool :=
  let mine (ws : List W32) : List Nat := ws.filterMap (fun w => if (memberOf w).drank = cx.ownRank then some (memberOf w).core else none)
  gs.all (fun g =>
    g.1.zeros && g.1.list % 4 == 0 && g.2.all (fun w => fld w 12 4 == 0)
      && decide (g.2.map memberOf).Nodup && (mine g.2).all (fun c => cores.any (· = c)))
    && cores.all (fun c => decide ((gs.filter (fun g => (mine g.2).any (· = c))).length ≤ 4))

/-! The rasterisation table and the hand-out order (R274, R310). -/

/-- A row: rank, first, last, and whether its zero field is zero. -/
def rasterRows (bs : List Byte) : List (Nat × Nat × Nat × Bool) :=
  (chunksOf 16 4096 bs).map (fun b =>
    let e : BitVec 128 := BitVec.ofNat 128 (leNat b)
    ((fld e 112 16).toNat, (fld e 0 48).toNat, (fld e 48 48).toNat, fld e 96 16 == 0))

/-- The rows' rules. -/
def rasterOk (cx : Context) (n : Nat) (rows : List (Nat × Nat × Nat × Bool)) : Bool :=
  rows.all (fun r => decide (r.2.1 ≤ r.2.2.1) && decide (r.2.2.1 < n) && r.2.2.2 && (cx.ranks.getD r.1 none).isSome)
    && decide (rows.Pairwise (fun a b => a.2.2.1 < b.2.1 ∨ b.2.2.1 < a.2.1))

/-- The ranges of 0 to n - 1 that sorted rows leave uncovered. -/
def gapsOf (n : Nat) : Nat → List (Nat × Nat) → List (Nat × Nat)
  | a, [] => if a < n then [(a, n - 1)] else []
  | a, (lo, hi) :: rest => (if a < lo then [(a, lo - 1)] else []) ++ gapsOf n (hi + 1) rest

/-- The hand-out order as ranges. -/
def handoutOf (n : Nat) (rows : List (Nat × Nat)) : List (Nat × Nat) :=
  rows ++ gapsOf n 0 (rows.foldr (fun r l => insertBy (fun a b => decide (a.1 < b.1)) r l) [])

/-- The iterations that a list of ranges holds. -/
def waiting (l : List (Nat × Nat)) : Nat := (l.map (fun r => r.2 + 1 - r.1)).sum

/-- Take the next iteration. -/
def nextL : List (Nat × Nat) → Option (Nat × List (Nat × Nat))
  | [] => none
  | (a, b) :: rest => if a < b then some (a, (a + 1, b) :: rest) else some (a, rest)

/-! Completion (R315, R316). -/

/-- Write a record's status word; a failure is reported and changes nothing else. -/
def State.writeStatus (s : State) (x addr stat code reason iters : Nat) : State :=
  if stat = 0 ∨ stat % 8 ≠ 0 then s
  else
    match s.gateWrite x none stat (natLe 8 (iters * 65536 + reason * 256 + code)) false false with
    | .ok s1 => s1
    | .dead a => (s.logError (runnerRec addr x)).ctxFatal x fatalTable a 0
    | _ => s.logError (runnerRec addr x)

/-- The semaphore add of a record. -/
def State.recordAdd (s : State) (x : Nat) (r : BitVec 1024) : State :=
  if bitAt r 778 && s.semGranted x (nrec r 768 10) then s.addSem (nrec r 768 10) (BitVec.ofNat 64 (nrec r 800 32)) else s

/-- Steps 2 and 3 of R315 for a record with its fields. -/
def State.finishRecord (s : State) (x addr : Nat) (r : BitVec 1024) (code reason iters : Nat) : State :=
  (s.writeStatus x addr (nrec r 704 52) code reason iters).recordAdd x r

/-- Whether a membership slot is one that a record has filled. -/
def RecordRun.filled (r : RecordRun) (m : Member) : Bool := r.gens.any (fun g => BitVec.ofNat 8 g.1 = m.group && g.2 = m.gen)

/-- The record's membership slots are emptied, and the barrier state of its groups is done here (R222, R315). -/
def State.releaseGroups (s : State) (r : RecordRun) : State :=
  let s1 := r.cores.foldl (fun s n => s.modCore n (fun c =>
    if c.ctx = some r.ctx then { c with slots := c.slots.filter (fun m => !r.filled m) } else c)) s
  r.gens.foldl (fun s g => s.barDone r.ctx (BitVec.ofNat 8 g.1) g.2) s1

/-- The images of a record that is no more leave their save slots. -/
def State.dropImages (s : State) (r : RecordRun) : State :=
  match s.context r.ctx with
  | some cx => if cx.slots.any (fun x => x.2.any (fun v => v.recAddr = r.addr)) then
      s.setContext r.ctx { cx with slots := cx.slots.filter (fun x => !x.2.any (fun v => v.recAddr = r.addr)) } else s
  | none => s

/-- Complete an accepted record (R315). -/
def State.completeRecord (s0 : State) (r : RecordRun) (code : Nat) : State :=
  let s := s0.dropImages r
  let s1 := (r.cores.foldl (fun s n => s.publish (.core n)) s).release r.ctx r.pins
  let s2 := (s1.finishRecord r.ctx r.addr r.fields code 0 r.retired).releaseGroups r
  { s2 with
    records := s2.records.filter (fun q => q.order ≠ r.order)
    reserving := if s2.reserving = some r.order then none else s2.reserving }

/-- RECORD_COMPLETE (R315): the record whose last iteration has retired. -/
def execRecordComplete (rec : Nat) (s : State) : Result :=
  match s.records.find? (fun r => r.order = rec) with
  | some r => .next (if r.retired = r.n then s.completeRecord r 1 else s)
  | none => .next s

/-! Acceptance (R308, R339). -/

/-- What acceptance comes to: an accepted record, a refusal with its reason (and the fields, when they could be read), a wait, or a page-table entry that cannot be read (R373). -/
inductive Accept where
  | take (s : State) (r : RecordRun)
  | refuse (s : State) (fields : Option (BitVec 1024)) (reason : Nat)
  | wait
  | dead (entry : Nat)

/-- The level of a queue of a context (R326, R371). -/
def Context.level (cx : Context) (q : Nat) : Nat := cx.cqLevels / 8 ^ q % 8

/-- Pin the pages of a range that the runner has translated (R363); `none` while the page-lock table has no place. -/
def State.pinRange (s : State) (x : Nat) : List Nat → List (Nat × Nat × Nat) → Option (State × List (Nat × Nat × Nat))
  | [], pins => some (s, pins)
  | va :: rest, pins =>
    if (boundAddr pins va).isSome then State.pinRange s x rest pins
    else
      match s.pageAt x va with
      | .leaf v _ e size =>
        let k := lockKey x v
        let n := tget 0 s.locks k
        if 65535 ≤ n ∨ (n = 0 ∧ 1048576 ≤ s.locks.length) then none
        else State.pinRange { s with locks := tset 0 s.locks k (n + 1) } x rest (pins ++ [(v, size, (s.transOf e size va).pa - (va - v))])
      | _ => none

/-- The accepted record, once its kernel image has been found readable (R361). The image's pages are pinned for the loader. -/
def State.acceptImage (s : State) (cx : Context) (x q addr : Nat) (r : BitVec 1024) (cores : List Nat)
    (gs : List (GroupEntry × List W32)) (rows : List (Nat × Nat)) : Accept :=
  let image := pagePieces (nrec r 0 52) (32 * (nrec r 64 11 + 1))
  match s.runRead x (nrec r 0 52) (32 * (nrec r 64 11 + 1)) true with
  | .wait => .wait
  | .dead a => .dead a
  | .fail => .refuse s (some r) 11
  | .ok s0 _ =>
    match s0.pinRange x (image.map (·.1)) [] with
    | none => .wait
    | some (s1, pins) =>
    .take s1
      { ctx := x, addr := addr, fields := r, level := min (nrec r 320 3) (cx.level q), cores := cores
        groups := gs.foldl (fun t g => tset [] t g.1.g (g.2.map memberOf)) []
        gens := []
        handout := handoutOf (recN r) rows, n := recN r, retired := 0, cr := 0
        gang := !gs.isEmpty, admitted := false, started := [], going := false, saving := false, kept := [], origins := [], pins := pins
        order := s.accepted, queue := q }

/-- Read and check the rasterisation table (step 5 of R308). -/
def State.acceptRaster (s : State) (cx : Context) (x q addr : Nat) (r : BitVec 1024) (cores : List Nat) (gs : List (GroupEntry × List W32)) : Accept :=
  if nrec r 640 52 = 0 then s.acceptImage cx x q addr r cores gs []
  else
    match s.runRead x (nrec r 640 52) (16 * (nrec r 692 12 + 1)) false with
    | .wait => .wait
    | .dead a => .dead a
    | .fail => .refuse s (some r) 11
    | .ok s1 bs =>
      let rows := rasterRows bs
      if !rasterOk cx (recN r) rows then .refuse s1 (some r) 9
      else s1.acceptImage cx x q addr r cores gs (rows.map (fun z => (z.2.1, z.2.2.1)))

/-- Read and check the core set and the groups (steps 3 and 4 of R308). -/
def State.acceptSets (s : State) (cx : Context) (x q addr : Nat) (r : BitVec 1024) : Accept :=
  match s.runRead x (nrec r 512 52) 512 false with
  | .wait => .wait
  | .dead a => .dead a
  | .fail => .refuse s (some r) 11
  | .ok s1 bits =>
    let v := leNat bits
    let cores := (List.range 4096).filter (fun c => v.testBit c)
    if cores.isEmpty || cores.any (fun c => !smem c cx.cores) then .refuse s1 (some r) 7
    else if nrec r 576 52 = 0 then s1.acceptRaster cx x q addr r cores []
    else
      match s1.runRead x (nrec r 576 52) 4096 false with
      | .wait => .wait
      | .dead a => .dead a
      | .fail => .refuse s1 (some r) 11
      | .ok s2 bs =>
        match s2.readMembers x (groupEntries bs) [] with
        | .wait => .wait
        | .dead a => .dead a
        | .fail => .refuse s2 (some r) 11
        | .ok s3 gs =>
          if !groupTableOk cx cores gs then .refuse s3 (some r) 8 else s3.acceptRaster cx x q addr r cores gs

/-- Read and check a record (R308). -/
def State.acceptRead (s : State) (cx : Context) (x q addr : Nat) : Accept :=
  match s.runRead x addr 128 false with
  | .wait => .wait
  | .dead a => .dead a
  | .fail => .refuse s none 11
  | .ok s1 bs =>
    let r : BitVec 1024 := BitVec.ofNat 1024 (leNat bs)
    match s1.recCheck x r with
    | 0 => s1.acceptSets cx x q addr r
    | k => .refuse s1 (some r) k

/-- The context that a compute queue is assigned to. -/
def State.cqContext (s : State) (q : Nat) : Option (Nat × Context) :=
  s.contexts.findSome? (fun c => match c.2 with | some cx => (if cx.cqMask.testBit q then some (c.1, cx) else none) | none => none)

/-- Whether the previous record of a queue has not completed (R323). -/
def State.cqRunning (s : State) (q : Nat) : Bool :=
  match tget none s.cqLast q with
  | some o => s.records.any (fun r => r.order = o)
  | none => false

/-- The eligible heads: queue, level, context and entry (R339). -/
def State.eligible (s : State) : List (Nat × Nat × Nat × Context × CqEntry) :=
  (List.range 16).filterMap (fun q =>
    match tget [] s.cqs q, s.cqContext q with
    | e :: _, some (x, cx) =>
      if (e.ser && s.cqRunning q) || cx.dead || !cx.onModule then none else some (q, cx.level q, x, cx, e)
    | _, _ => none)

/-- The head that the runner takes: the highest level, then the lowest queue number (R339). -/
def bestHead (l : List (Nat × Nat × Nat × Context × CqEntry)) : Option (Nat × Nat × Nat × Context × CqEntry) :=
  l.foldl (fun b e => match b with | none => some e | some y => if y.2.1 < e.2.1 then some e else some y) none

/-- Complete the records that wait in a context's compute queues, each read as at acceptance (R315); one whose read a hold delays stays, with those after it. -/
def State.flushQueue (s : State) (x : Nat) : List CqEntry → State × List CqEntry
  | [] => (s, [])
  | e :: rest =>
    match s.runRead x e.addr 128 false with
    | .ok t bs => State.flushQueue (t.finishRecord x e.addr (BitVec.ofNat 1024 (leNat bs)) 3 0 0) x rest
    | .fail => State.flushQueue (s.logError (runnerRec e.addr x)) x rest
    | .dead _ => State.flushQueue (s.logError (runnerRec e.addr x)) x rest
    | .wait => (s, e :: rest)

/-- The compute queues of a context that has ended are flushed (R292, R315). -/
def State.flushQueues (s : State) (x mask : Nat) : State :=
  ((List.range 16).filter (fun q => mask.testBit q)).foldl (fun s q =>
    let r := s.flushQueue x (tget [] s.cqs q)
    { r.1 with cqs := tset [] r.1.cqs q r.2 }) s

/-- What a hold has kept in the queues of contexts that have ended is completed (R315). -/
def State.flushDead (s : State) : State :=
  s.contexts.foldl (fun s c => match c.2 with
    | some cx => if cx.dead && (List.range 16).any (fun q => cx.cqMask.testBit q && !(tget [] s.cqs q).isEmpty) then s.flushQueues c.1 cx.cqMask else s
    | none => s) s

/-- RECORD_ACCEPT (R339): while 64 accepted records have not completed, nothing is accepted. A refused record, and one with N = 0, complete at once (R309, R315). -/
def execRecordAccept (s0 : State) : Result :=
  let s := s0.flushDead
  if 64 ≤ s.records.length ∨ s.checked then .next s
  else
    match bestHead s.eligible with
    | none => .next s
    | some (q, _, x, cx, e) =>
      let pop (s : State) (last : Option Nat) : State :=
        { s with
          cqs := tset [] s.cqs q (tget [] s.cqs q).tail
          cqLast := tset none s.cqLast q last }
      match s.acceptRead cx x q e.addr with
      | .wait => .next s
      | .dead a => .next (s.ctxFatal x fatalTable a 0)
      | .refuse s1 none _ => .next ((pop s1 none).logError (runnerRec e.addr x))
      | .refuse s1 (some r) k => .next ((pop s1 none).finishRecord x e.addr r 2 k 0)
      | .take s1 r =>
        if r.n = 0 then .next (((pop s1 none).release x r.pins).finishRecord x e.addr r.fields 1 0 0)
        else
          let s2 := pop s1 (some r.order)
          .next { s2 with records := s2.records ++ [r], accepted := s2.accepted + 1 }

/-! Hand-out (R311, R312, R340, R341). -/

/-- A core that runs no iteration and can take one. -/
def Core.vacant (c : Core) : Bool := c.run.isNone && c.mode == .idle && c.powered && !c.offline

/-- The record that holds a core as an admitted gang (R312). -/
def State.holder (s : State) (n : Nat) : Option RecordRun :=
  s.records.find? (fun r => r.gang && r.admitted && r.cores.any (· = n))

/-- The saved images of a record (R350). -/
def State.savedOf (s : State) (r : RecordRun) : Nat :=
  match s.context r.ctx with
  | some cx => (cx.slots.filter (fun x => x.2.any (fun v => v.recAddr = r.addr))).length
  | none => 0

/-- Whether a saved image of the record waits in a save slot (R355). -/
def State.hasSaved (s : State) (r : RecordRun) : Bool := decide (0 < s.savedOf r)

/-- The free cores, but for `n`, that a record has been chosen for and that have not taken their iteration yet. -/
def State.pledged (s : State) (n : Nat) (r : RecordRun) : Nat :=
  (r.cores.filter (fun k => k ≠ n && (s.core k).vacant && (s.core k).goes == some r.order)).length

/-- Whether a record could take a core, reservations apart: it has an iteration to hand out, or one to restore, beside those that are promised to other cores. A gang that leaves its set could not. -/
def State.open_ (s : State) (n : Nat) (r : RecordRun) : Bool :=
  decide (s.pledged n r < waiting r.handout + s.savedOf r) && r.cores.any (· = n) && !r.going
    && (match s.context r.ctx with | some cx => cx.onModule && !cx.dead | none => false)
    && (match s.holder n with | some h => h.order = r.order | none => true)

/-- Whether a record reserves a core (R341). -/
def State.reserves (s : State) (n : Nat) (r : RecordRun) : Bool := s.reserving = some r.order && r.cores.any (· = n)

/-- Whether a record may be chosen for a core (R340, R341): while a gang reserves, no other gang may that has not been admitted, and on a core of its set only it and the gang that holds the core. -/
def State.candidate (s : State) (n : Nat) (r : RecordRun) : Bool :=
  s.open_ n r
    && (match s.reserving with
        | some o => o = r.order || (r.gang && r.admitted) || (!r.gang && !(s.records.any (fun w => w.order = o && w.cores.any (· = n))))
        | none => true)

/-- The record that a pre-emption or an earlier decision has given a core to, while it can take it (R340, R343). -/
def State.given (s : State) (n : Nat) : Option RecordRun :=
  (s.core n).goes.bind (fun o => s.records.find? (fun r => r.order = o && s.open_ n r && (!r.gang || s.candidate n r || !(s.records.any (s.reserves n)))))

/-- The candidates at the highest effective level among them. -/
def topLevel (l : List RecordRun) : List RecordRun :=
  let m := l.foldl (fun a r => max a r.level) 0
  l.filter (fun r => r.level = m)

/-- One decision of smooth weighted round robin (R340): the chosen record, and the counters after it. A core that a pre-emption has freed goes to the newcomer, and one that is reserved to the reserving gang, without a decision (R341, R343). -/
def State.decideRecord (s : State) (n : Nat) : Option RecordRun × List RecordRun :=
  match (s.given n).or (s.records.find? (fun r => s.reserves n r && s.candidate n r)) with
  | some w => (if s.candidate n w || !w.gang then some w else none, s.records)
  | none =>
    let part := topLevel (s.records.filter (s.candidate n))
    let inPart (r : RecordRun) : Bool := part.any (fun p => p.order = r.order)
    let weight (r : RecordRun) : Int := nrec r.fields 344 8
    let rs := s.records.map (fun r => if inPart r then { r with cr := r.cr + weight r } else r)
    let w := (rs.filter inPart).foldl (fun b r => match b with | none => some r | some y => if y.cr < r.cr then some r else some y) none
    match w with
    | none => (none, s.records)
    | some w =>
      let total := (part.map weight).sum
      (some w, rs.map (fun r => if r.order = w.order then { r with cr := r.cr - total } else r))

/-- Replace an accepted record. -/
def State.setRecord (s : State) (r : RecordRun) : State :=
  { s with records := s.records.map (fun q => if q.order = r.order then r else q) }

/-- The membership slots of a core at record start, in ascending group number (R221). -/
def slotsFor (cx : Context) (r : RecordRun) (n : Nat) : List Member :=
  r.groups.filterMap (fun g =>
    match g.2.findIdx? (fun m => m.drank = cx.ownRank && m.core = n) with
    | some i => some ⟨BitVec.ofNat 8 g.1, tget 0 r.gens g.1, i, g.2.length, 0, 0⟩
    | none => none)

/-- Give a core to a context: when it passes to a different one, every store of R38, the scratchpad, the L1 and the riser take their reset values (R39), once what it has stored is visible (R314). -/
def State.giveCore (s : State) (n x : Nat) : State :=
  let c := s.core n
  if c.ctx = some x then s
  else
    ((s.publish (.core n)).pasteWindow n [] []).setChill n ((((s.chillOf n).setClean false false)).setClean true false)
    |>.setCore n { Core.reset with
        ctx := some x, now := c.now, tref := c.tref, tun := c.tun, spmap := c.spmap, plane0 := c.plane0, plane1 := c.plane1
        active := c.active, plane := c.plane, shadow := c.shadow, goes := c.goes, epoch := c.epoch }

/-- The state of R39 at the start of a record on a core, with its membership slots: the posting records reset with their maps (R184), the exception counters as %fpflags does (R163). Arrivals that waited for a place take one. -/
def Core.startRecord (c : Core) (slots : List Member) : Core :=
  (List.range 64).foldl (fun c m => c.fillPosts m 64)
    { c with
      s := [], p := [], q := [], k := [], k0 := [], cm := [], post := [], tg := [], fpflags := 0, iter := 0, div := 2, slots := slots
      exc := [], mprog := none, chilled := false, voided := [] }

/-- Iteration cycle 0 (R205, R311): the preloaded registers, %iter, and every sequencer at line 0, lane 1. -/
def Core.startIteration (c : Core) (r : RecordRun) (l ref : Nat) : Core :=
  let idx := recIndex r.fields (List.range (recNdim r.fields)) l
  let c1 := idx.foldl (fun c i =>
    let e := recPre r.fields i.1
    if bitAt e 7 then c.ws (fld e 0 6).toNat (BitVec.ofNat 64 i.2) none else c) c
  let q : Seq := { Seq.reset with free := c.now }
  { c1 with
    es := q, el := q, ex := q, ew := q, fetch := { FetchUnit.reset with ready := c.now }
    mode := .user, turn := 0, iter := BitVec.ofNat 64 l, run := some (r.order, l), began := ref, spent := 0
    ordinal := 0, pre := 0, goes := none, snap := none, asyncs := [], moved := none, back := c.now }

/-- Clear VALID in both seals and empty the journal before an iteration's cycle 0 (R381). -/
def Chill.newIteration (ch : Chill) : Chill :=
  { ch with a := { ch.a with sl := ch.a.sl.void }, b := { ch.b with sl := ch.b.sl.void }, journal := [], replay := none, writing := none }

/-- A group's barrier state at the start of a record: fresh, with the early arrivals of its generation (R222). -/
def State.startGroup (s : State) (x own : Nat) (g : Nat × List GroupMember) (gen : Nat) : State :=
  let b8 : BitVec 8 := BitVec.ofNat 8 g.1
  let early := match s.bar x b8 gen with | some b => b.early | none => []
  let b0 := { BarGroup.fresh x b8 gen g.2.length (g.2.any (fun m => m.drank ≠ own)) with early := early }
  let s1 := (s.setBar b0).barOpen b0
  match s1.context x with
  | some cx => s1.setContext x { cx with gens := tset 0 cx.gens g.1 (gen + 1) }
  | none => s1

/-- Start the groups of a record, once (R222); the record keeps their generations. -/
def State.startGroups (s : State) (r : RecordRun) : State × RecordRun :=
  match s.context r.ctx with
  | none => (s, r)
  | some cx =>
    if !r.gens.isEmpty then (s, r)
    else
      r.groups.foldl (fun (p : State × RecordRun) g =>
        let gen := match p.1.context r.ctx with | some k => tget 0 k.gens g.1 | none => 0
        (p.1.startGroup r.ctx cx.ownRank g gen, { p.2 with gens := tput p.2.gens g.1 gen })) (s, r)

/-- Whether every core of a gang's set is free for it at once (R312): each is vacant, no pre-emption has freed it for another record (R343), and no record of a higher level is a candidate for it, or the set is reserved (R341, R342). -/
def State.gangFree (s : State) (r : RecordRun) : Bool :=
  r.cores.all (fun n => (s.core n).vacant
    && (match s.holder n with | some h => h.order = r.order | none => true)
    && (match s.given n with | some q => q.order = r.order | none => true)
    && (s.reserving = some r.order || (s.records.filter (s.candidate n)).all (fun q => decide (q.level ≤ r.level))))

/-- Whether a record is the one that is chosen for a core. -/
def State.chosen (s : State) (r : RecordRun) (n : Nat) : Bool :=
  match (s.decideRecord n).1 with
  | some w => w.order = r.order
  | none => false

/-- Whether a lower-numbered core is free for the record (R311). -/
def State.lowerReady (s : State) (r : RecordRun) (n : Nat) : Bool :=
  r.cores.any (fun k => decide (k < n) && (s.core k).vacant && s.chosen r k)

/-- Whether a core waits for a decision of R340: it is free, no choice for it stands, it is not reserved, and it has a candidate. -/
def State.undecided (s : State) (n : Nat) : Bool :=
  (s.core n).vacant && s.records.any (s.candidate n)
    && !((s.holder n).isNone && s.records.any (s.reserves n)) && (s.given n).isNone

/-- Whether a core with a lower number waits for a decision: it is served first (R340). -/
def State.lowerUndecided (s : State) (n : Nat) : Bool :=
  s.records.any (fun r => r.cores.any (fun k => decide (k < n) && s.undecided k))

/-- What a core holds before an iteration that a kill may discard (R145, R347). -/
def State.keepOrigin (s : State) (n : Nat) (r : RecordRun) (c : Core) : State :=
  let o : Origin := { core := c, cells := s.windowCells n (fun _ => true), pz := s.windowPz n (fun _ => true) }
  { s with starts := tset none s.starts n (if bitAt r.fields 352 && !r.gang then some o else none) }

/-- A core with what a core held before its iteration began (R145); its time, its spare map, its planes and the rest that is the core's own stay, among it the arrivals that wait and what the riser holds. -/
def Core.takeOrigin (c o : Core) : Core :=
  { o with
    now := c.now, turn := 0, tref := c.tref, tun := c.tun, spmap := c.spmap, l1 := [], tlb := c.tlb, stores := [], lates := [], inbox := []
    plane0 := c.plane0, plane1 := c.plane1, active := c.active, plane := c.plane, shadow := c.shadow
    powered := c.powered, offline := c.offline, goes := c.goes, epoch := c.epoch, slots := c.slots
    riser := c.riser, credits := c.credits, refusals := c.refusals, voided := c.voided, nbWaits := c.nbWaits, nbNew := c.nbNew }

/-- The core at the point from which an iteration that was killed starts again: what it held then, and its window (R145). -/
def State.takeBack (s : State) (n : Nat) (o : Origin) : State :=
  ((s.pasteWindow n o.cells o.pz).setChill n (((s.chillOf n).setClean false false).setClean true false)).modCore n (fun c => c.takeOrigin o.core)

/-- Hand the next iteration of a record to a core. A core that the record held when it left its set gets its membership slots back (R221); an iteration that was killed starts from what it started from before (R145). -/
def State.handOut (s : State) (n : Nat) (r : RecordRun) : State :=
  match nextL r.handout, s.context r.ctx with
  | some (l, rest), some cx =>
    let s1 := s.giveCore n r.ctx
    let first := !(r.started.any (· = n))
    let c := s1.core n
    let back := tget [] r.kept n
    let c1 := if first then c.startRecord (slotsFor cx r n) else if back.isEmpty then c else { c with slots := back }
    let s2 := (match tget none r.origins l with
      | some o => (s1.setCore n c1).takeBack n o
      | none => s1.setCore n c1)
    let c2 := s2.core n
    let s3 := ((s2.keepOrigin n r c2).setChill n (s2.chillOf n).newIteration).setCore n (c2.startIteration r l s2.ref)
    (s3.catchUp n).setRecord { r with
      handout := rest, started := if first then r.started ++ [n] else r.started, kept := tset [] r.kept n [], origins := tset none r.origins l none }
  | _, _ => s

/-- ITERATION_HANDOUT (R311, R340, R341): the decision for a free core. A gang record that cannot be admitted reserves, and the decision has moved the counters; a choice that cannot start yet stands: the core's active plane lacks the kernel (R318), a saved iteration comes first (R355), or a lower-numbered core does (R311). -/
def execIterationHandout (core : Nat) (s : State) : Result :=
  if !(s.core core).vacant || s.checked || s.lowerUndecided core then .next s
  else
    match s.decideRecord core with
    | (none, _) => .next s
    | (some w, rs) =>
      let s1 : State := { s with records := rs }
      let r := rs.find? (fun r => r.order = w.order)
      if w.gang && !w.admitted then
        if s.gangFree w then
          match r with
          | some r =>
            let (s2, r2) := s1.startGroups r
            let s3 := r.cores.foldl (fun s n => s.giveCore n r.ctx) s2
            .next { s3.setRecord { r2 with admitted := true } with
              reserving := if s3.reserving = some w.order then none else s3.reserving }
          | none => .next s
        else .next { s1 with reserving := s.reserving.or (some w.order) }
      else if (s.core core).plane ≠ some w.order ∨ s.hasSaved w ∨ s.lowerReady w core then
        .next (s1.modCore core (fun c => { c with goes := some w.order }))
      else
        match r with
        | some r => .next (s1.handOut core r)
        | none => .next s

/-! What a core that is stopped leaves (R346, R349, R350). -/

/-- The core after its iteration: nothing in flight, no iteration. -/
def Core.released (c : Core) : Core :=
  { c with
    stores := c.stores.filter (fun x => !x.done || x.seen), lates := []
    pend := [], holds := [], mats := [], banks := [], copies := [], ncmds := [], nrun := none, arms := [], batches := []
    es := Seq.reset, el := Seq.reset, ex := Seq.reset, ew := Seq.reset, fetch := FetchUnit.reset
    mode := .idle, turn := 0, frozen := false, run := none, pre := 0, asyncs := [], snap := none, escSeq := none, moved := none, mprog := none }

/-- The image that a stop writes to a save slot (R350, R351): the core's state with its snapshot, and the poison of its window. A core in handler mode and one that has escalated keep the snapshot of their trap (R293, R416). The riser blocks, credits and held barrier arrivals of its groups go with it (R226, R269), and so do the arrivals that wait for its posting records (R184). -/
def State.saveCore (s : State) (n : Nat) (c : Core) (addr l : Nat) (yielded : Bool) : SavedCore :=
  let mine (g : BitVec 8) : Bool := (c.member g).isSome
  let c1 := { c with
    riser := c.riser.filter (fun b => mine b.group), credits := c.credits.filter (fun k => mine k.group), heldArr := s.heldOf c }
  { core := if c.mode == .user then c1.stopped c.tr else c1, pz := s.windowPz n (fun _ => true)
    recAddr := addr, l := l, from_ := n, yielded := yielded, spent := c.spent + (if c.run.isSome then s.ref - c.began else 0) }

/-- Write a core's image to a slot in memory. -/
def State.putImage (s : State) (n : Nat) (v : SavedCore) (base : Nat) : State :=
  (s.writeSlot base (v.slotCells (s.windowCells n (fun _ => true)) s.fresh)).bump

/-- Put what a core holds into save slot `i` and release it (R345, R346, R349): what is in flight is settled, the image goes to the slot, and the riser blocks and credits of other groups stay. `none` while a copy stands in the middle of a sector. -/
def State.putAway (s : State) (n : Nat) (r : RecordRun) (l i : Nat) (yielded : Bool) : Option State :=
  (s.settled n).map (fun s1 =>
    let c := s1.core n
    let v := s1.saveCore n c r.addr l yielded
    let rest : Core := { c.released with
      slots := [], nbWaits := [], nbNew := 0
      riser := c.riser.filter (fun b => (c.member b.group).isNone), credits := c.credits.filter (fun k => (c.member k.group).isNone) }
    match s1.context r.ctx with
    | some cx => (((s1.dropHeld c).setContext r.ctx { cx with slots := tset none cx.slots i (some v) }).putImage n v (cx.slotBase i)).setCore n rest
    | none => s1)

/-- The save slots of a context that are free, lowest first (R349). -/
def Context.freeSlots (cx : Context) : List Nat := (List.range cx.nslot).filter (fun i => (tget none cx.slots i).isNone)

/-- Whether a slot holds the image of a core of a record. -/
def State.imageIn (s : State) (r : RecordRun) (n : Nat) : Bool :=
  match s.context r.ctx with
  | some cx => cx.slots.any (fun x => x.2.any (fun v => v.recAddr = r.addr && v.from_ = n))
  | none => false

/-- A held core of a gang that runs no iteration when the gang is saved goes to a slot too (R349). -/
def State.saveIdle (s : State) (r : RecordRun) (n : Nat) : State :=
  if s.imageIn r n || (s.core n).ctx ≠ some r.ctx then s
  else
    match (s.context r.ctx).bind (fun cx => cx.freeSlots.head?) with
    | some i => (s.putAway n r 0 i false).getD s
    | none => s

/-- The cores that run an iteration of a record. -/
def State.running (s : State) (r : RecordRun) : List Nat :=
  r.cores.filter (fun n => match (s.core n).run with | some (o, _) => o = r.order | none => false)

/-- A gang that has been pre-empted leaves its set once none of its cores runs an iteration (R312), and must be admitted again. Where it is saved, its other cores go to save slots as well (R349); else what they hold in their membership slots is kept for its return (R221). -/
def State.gangLeave (s0 : State) (o : Nat) : State :=
  match s0.records.find? (fun r => r.order = o && r.going) with
  | none => s0
  | some r =>
    if !(s0.running r).isEmpty then s0
    else
      let s := if r.saving then r.cores.foldl (fun s n => s.saveIdle r n) s0 else s0
      let mine (n : Nat) : List Member := if (s.core n).ctx = some r.ctx then (s.core n).slots.filter r.filled else []
      let kept := r.cores.foldl (fun t n => if (mine n).isEmpty then t else tset [] t n (mine n)) r.kept
      let s1 := r.cores.foldl (fun s n => s.modCore n (fun c =>
        if c.ctx = some r.ctx then { c with slots := c.slots.filter (fun m => !r.filled m) } else c)) s
      s1.setRecord { r with admitted := false, going := false, saving := false, kept := kept }

/-! Retirement (R313). -/

/-- Whether an iteration meets every condition of R313. -/
def Core.retires (c : Core) : Bool :=
  c.run.isSome && c.mode == .user
    && c.es.ended && c.el.ended && c.ex.ended && c.ew.ended
    && c.pend.all (fun p => decide (p.due ≤ c.now)) && c.q.all (fun x => x.2.all (fun e => decide (e.vis ≤ c.now)))
    && c.mats.isEmpty && c.holds.isEmpty && c.copies.isEmpty
    && c.ncmds.isEmpty && c.nrun.isNone && c.arms.all (fun a => a.closed && a.nt == 0)
    && c.batches.all (fun b => b.2.all (fun p => p.left == 0))

/-- ITERATION_RETIRE (R313). Open batches are emptied; the other state passes to the next iteration, among it the signal of a complete arming whose token has no room. -/
def execIterationRetire (core : Nat) (s : State) : Result :=
  let c := s.core core
  if !c.retires then .next s
  else
    let s0 := (s.landInbox core).landDue (.core core)
    let s1 := s0.modCore core (fun c => { c.released with arms := c.arms })
    match s.recordOf c with
    | some r => .next ((s1.setRecord { r with retired := r.retired + 1 }).gangLeave r.order)
    | none => .next s1

/-! Planes (R317, R318). -/

/-- The words of a plane filled with a kernel image. -/
def planeOf (bs : List Byte) : Tab W32 := tsetMany 0 [] 0 (wordsOf bs)

/-- Fill a core's shadow plane. -/
def Core.fillShadow (c : Core) (rec : Nat) (w : Tab W32) : Core :=
  if c.active then { c with plane0 := w, shadow := some rec } else { c with plane1 := w, shadow := some rec }

/-- Whether the loader may fill a core's shadow plane with a record's kernel: neither plane holds it. -/
def Core.lacks (c : Core) (rec : Nat) : Bool := c.plane != some rec && c.shadow != some rec

/-- The kernel image of a record, through the pages that its acceptance pinned (R317, R361, R363). -/
def State.imageOf (s : State) (r : RecordRun) : List (Byte × Bool) :=
  (pagePieces (nrec r.fields 0 52) (32 * (nrec r.fields 64 11 + 1))).flatMap (fun p =>
    match boundAddr r.pins p.1 with
    | some pa => s.peek pa p.2
    | none => [])

/-- LOADER_FILL (R317): the shadow plane takes lines 0 to NLM1 of the record's kernel, and zeros after them. The lines go to every core of the cluster for which the record is chosen and whose planes lack it. -/
def execLoaderFill (core rec : Nat) (s : State) : Result :=
  match s.records.find? (fun r => r.order = rec) with
  | none => .next s
  | some r =>
    if !(r.cores.any (· = core)) || !(s.core core).lacks rec then .next s
    else
      let bs := s.imageOf r
      if bs.any (·.2) then .next { s with fatal := s.fatal ++ [⟨r.ctx, fatalMiss, nrec r.fields 0 52, core⟩] }
      else
        let w := planeOf (bs.map (·.1))
        let dest := r.cores.filter (fun n => n = core || (decide (n / 32 = core / 32) && (s.core n).lacks rec && s.chosen r n))
        .next (dest.foldl (fun t n => t.modCore n (fun c => c.fillShadow rec w)) s)

/-- PLANE_FLIP (R318): at a drain point, the core without an iteration, once the shadow plane holds the kernel of the record that comes next. -/
def execPlaneFlip (core : Nat) (s : State) : Result :=
  let c := s.core core
  if c.vacant && (match s.records.find? (fun r => c.shadow = some r.order) with | some r => s.chosen r core | none => false) then
    .next (s.setCore core { c with active := !c.active, plane := c.shadow, shadow := c.plane })
  else .next s

/-! Pre-emption (R343 to R347). -/

def recPtok (r : RecordRun) : Nat := nrec r.fields 328 16

/-- The time that an iteration has run, in ns (R344). -/
def State.runNs (s : State) (c : Core) : Nat := timeOf (c.spent + (s.ref - c.began))

/-- Whether a core's stop will take a save slot: a checkpoint or a YIELD stop is pending. -/
def Core.stopping (c : Core) : Bool := c.run.isSome && (c.pre == 2 || c.pre == 4)

/-- The save slots of a context that are promised: to pending stops, and to the held cores of a gang that is saved (R349). -/
def State.promised (s : State) (x : Nat) : Nat :=
  (s.cores.filter (fun c => c.2.ctx = some x && c.2.stopping && !((s.recordOf c.2).any (fun r => r.gang)))).length
    + ((s.records.filter (fun r => r.ctx = x && r.saving)).map (fun r => r.cores.length - s.savedOf r)).sum

/-- Whether a context has `k` more save slots to promise. -/
def State.slotsFree (s : State) (x k : Nat) : Bool :=
  match s.context x with
  | some cx => decide (s.promised x + k ≤ cx.freeSlots.length)
  | none => false

/-- The slots that a gang takes beside those promised to it: one for each core that it holds, or none (R349). -/
def State.gangNeed (s : State) (r : RecordRun) : Nat := if r.saving then 0 else r.cores.length - s.savedOf r

/-- The policy for a victim record `v` with its victim cores (R344): 1 drain, 2 checkpoint, 3 kill. -/
def State.policyOf (s : State) (newcomer v : RecordRun) (cores : List Nat) : Nat :=
  let own := if v.gang then s.running v else cores
  let rem := own.foldl (fun a k => max a (nrec v.fields 384 32 - s.runNs (s.core k))) 0
  let savek := nrec v.fields 448 16
  let need := if v.gang then s.gangNeed v else (cores.filter (fun k => !(s.core k).stopping)).length
  if rem < nrec newcomer.fields 416 32 then 1
  else if 0 < savek ∧ savek * 40 < rem ∧ s.slotsFree v.ctx need then 2
  else if bitAt v.fields 352 && !v.gang then 3
  else 1

/-- The stronger of a pending and a new policy: kill, then checkpoint or a YIELD stop, then drain (R344). -/
def strength (p : Nat) : Nat := if p = 3 then 3 else if p = 2 ∨ p = 4 then 2 else p
def stronger (a b : Nat) : Nat := if strength a < strength b then b else a

/-- The victims of a newcomer: the record and core of each (R343), as many as it has iterations for which no core is free or has been given to it. A gang's core is a victim with every core that the gang holds. -/
def State.victims (s : State) (w : RecordRun) : List (RecordRun × Nat) :=
  let all := w.cores.filterMap (fun n =>
    match (s.recordOf (s.core n)).or (s.holder n) with
    | some v => if v.order ≠ w.order ∧ recPtok v < recPtok w then some (v, n) else none
    | none => none)
  let given (n : Nat) : Bool := (s.core n).run.isSome && (s.core n).goes == some w.order
  let fresh := (all.filter (fun x => !given x.2)).foldr (fun x l => insertBy (fun a b =>
    decide (recPtok a.1 < recPtok b.1) || (recPtok a.1 == recPtok b.1 && decide (a.2 < b.2))) x l) []
  let served := (w.cores.filter (fun n => given n || ((s.core n).vacant && s.chosen w n))).length
  let chosen := if w.gang then fresh else fresh.take (waiting w.handout + s.savedOf w - served)
  chosen.flatMap (fun x => if x.1.gang then x.1.cores.map (fun n => (x.1, n)) else [x])

/-- Pre-empt the victim cores of one record: one policy applies to all of them, and each goes to the newcomer (R343, R344). -/
def State.preempt (s : State) (w v : RecordRun) (cores : List Nat) : State :=
  let p := s.policyOf w v cores
  let s1 := cores.foldl (fun s n => s.modCore n (fun c => { c with
    pre := if c.run.isSome then stronger c.pre p else c.pre
    goes := if w.cores.any (· = n) then some w.order else c.goes })) s
  if v.gang then
    { s1 with records := s1.records.map (fun r => if r.order = v.order then { r with going := true, saving := r.saving || p == 2 } else r) }
  else s1

/-- PREEMPTION (R343, R344): the policy of every victim record; a freed core goes to the newcomer. A gang record that is pre-empted leaves its set once its cores have stopped. -/
def execPreemption (rec : Nat) (s : State) : Result :=
  match s.records.find? (fun r => r.order = rec) with
  | none => .next s
  | some w =>
    if (w.handout.isEmpty && !s.hasSaved w) || (w.gang && w.admitted) then .next s
    else
      let vs := s.victims w
      let hit := s.records.filter (fun r => vs.any (fun v => v.1.order = r.order))
      let s1 := hit.foldl (fun s v => s.preempt w v ((vs.filter (fun x => x.1.order = v.order)).map (·.2)).dedup) s
      .next (hit.foldl (fun s v => s.gangLeave v.order) s1)

/-- CHECKPOINT_STOP (R345, R346, R349): the core stops before its next cycle, takes the lowest free slot and is released. With no free slot the stop becomes a drain. A core in handler mode waits until it returns or has escalated (R293); a freeze does not delay the stop, a copy in the middle of a sector does (R346). -/
def execCheckpointStop (core : Nat) (s : State) : Result :=
  let c := s.core core
  if (c.pre ≠ 2 ∧ c.pre ≠ 4) ∨ !(c.mode == .user || (c.mode == .escalated && c.escSeq.isSome)) ∨ (c.turn ≠ 0 ∧ !c.frozen) ∨ !c.powered then .next s
  else
    match s.recordOf c, c.run, c.ctx.bind s.context with
    | some r, some (_, l), some cx =>
      match cx.freeSlots with
      | [] => .next (s.setCore core { c with pre := 1 })
      | i :: _ =>
        .next (((s.putAway core r l i (c.pre = 4)).map (fun s1 => s1.gangLeave r.order)).getD s)
    | _, _, _ => .next s

/-- Release the pins of a core's copies (R363, R388). -/
def State.releaseCopies (s : State) (c : Core) : State :=
  c.copies.foldl (fun s k => s.release (c.ctx.getD 64) k.pins) s

/-- A killed core is what it was before its iteration began (R145, R347); one without power holds nothing, and the iteration takes it back where it starts again. -/
def State.restoreOrigin (s : State) (n : Nat) : State :=
  match tget none s.starts n with
  | none => s
  | some o =>
    if !(s.core n).powered then s else s.takeBack n o

/-- The escalation of an iteration that is no more leaves the ring (R354). -/
def State.dropEsc (s : State) (n : Nat) (c : Core) : State :=
  match c.ctx with
  | some x =>
    if c.mode = .escalated then
      ({ s with escs := s.escs.filter (fun e => !(e.ctx = x && !e.cp && e.core = n && (c.escSeq = some e.seq || (c.escSeq.isNone && e.seq = 0)))) } : State).fillRing x
    else s
  | none => s

/-- Discard a core's iteration and put it back at the head of the hand-out order (R347); the record keeps what it began with (R145). -/
def State.killCore (s : State) (n : Nat) : State :=
  let c := s.core n
  let s1 := ((s.publish (.core n)).landInbox n).releaseCopies c
  let s2 := ((s1.setCore n { (s1.core n).released with riser := [], credits := [] }).restoreOrigin n).dropEsc n c
  match s.recordOf c, c.run with
  | some r, some (_, l) => s2.setRecord { r with handout := (l, l) :: r.handout, origins := tset none r.origins l (tget none s.starts n) }
  | _, _ => s2

/-- KILL (R347): in handler mode too (R293). -/
def execKill (core : Nat) (s : State) : Result :=
  let c := s.core core
  if c.pre = 3 ∧ c.run.isSome ∧ (c.turn = 0 ∨ c.frozen) ∧ c.powered then .next (s.killCore core) else .next s

/-- Whether a plane swap is pending for a core (R119, R318): its record has no iteration left to hand out, and the shadow plane holds the kernel of the record that is chosen next. -/
def State.swapPending (s : State) (n : Nat) : Bool :=
  match s.recordOf (s.core n), s.records.find? (fun r => (s.core n).shadow = some r.order) with
  | some v, some r => v.handout.isEmpty && !v.gang && v.order != r.order && s.chosen r n
  | _, _ => false

/-- The state in which a YIELD of a core stops it, if it has a slot (R119, R345, R349): a gang must have one for each core that it holds. -/
def State.yieldStop (s : State) (n : Nat) : Option State :=
  let c := s.core n
  let stop : State := s.modCore n (fun c => { c with pre := 4, goes := if c.pre = 1 then c.goes else c.shadow })
  if c.pre = 1 || s.swapPending n then
    match s.recordOf c with
    | some r =>
      if r.gang then
        (if s.slotsFree r.ctx (s.gangNeed r) then
          some (stop.setRecord { r with saving := true })
         else none)
      else if s.slotsFree r.ctx 1 then some stop else none
    | none => none
  else none

/-- YIELD (R119, R345): with a drain or a plane swap pending and a free save slot the core stops after this cycle; otherwise it has no effect. -/
def execYield (_ : SReg) (s : State) :=
  s.issue .s
    (if s.cur.mode = .handler then illegalInstr .s
     else .done ((s.yieldStop s.me).getD s))

/-! Restore (R355, R356). -/

/-- Credits of a core and of a saved iteration that returns to it (R269, R275). -/
def mergeCredit (k : Credit) (l : List Credit) : List Credit :=
  if l.any (fun x => x.group = k.group && x.dst = k.dst) then
    l.map (fun x => if x.group = k.group && x.dst = k.dst then { x with used := x.used + k.used, refused := x.refused ++ k.refused } else x)
  else l ++ [k]

/-- A result in flight that writes the core's own window writes the window of the core on which it lands (R227, R356). -/
def Write.moveWin (a b : Nat) (w : Write) : Write :=
  let go (x : Nat) : Nat := if inCore a x then x - winBase a + winBase b else x
  match w with
  | .bytes x d p => .bytes (go x) d p
  | .words x ws => .words (go x) ws
  | w => w

/-- What is in flight on core `a`, for core `b`. -/
def Core.moveWin (c : Core) (a b : Nat) : Core :=
  let go (l : List Pend) : List Pend := l.map (fun p => { p with w := p.w.moveWin a b })
  { c with pend := go c.pend, snap := c.snap.map (fun sn => { sn with pend := go sn.pend }) }

/-- Core `n` takes a saved iteration, which goes on in its own engine cycles: what it was, but for the counters, the L1, the planes and the rest that belongs to the core itself. Arrivals that wait take the places that are free (R184); the journal's ordinals go on where its entries end (R387). -/
def Core.takeSaved (c : Core) (n : Nat) (v : SavedCore) (order ref ordinal : Nat) : Core :=
  let v0 := v.core.moveWin v.from_ n
  (List.range 64).foldl (fun c m => c.fillPosts m 64)
  { (if v0.mode == .user then v0.resume v0.now else v0) with
    turn := 0, tref := c.tref, tun := c.tun, spmap := c.spmap, l1 := [], tlb := c.tlb, shown := 0, heldArr := [], inbox := []
    nbWaits := v0.nbWaits ++ c.nbWaits, nbNew := v0.nbNew + c.nbWaits.length, refusals := v0.refusals ++ c.refusals
    riser := v0.riser ++ c.riser, credits := c.credits.foldl (fun l k => mergeCredit k l) v0.credits
    plane0 := c.plane0, plane1 := c.plane1, active := c.active, plane := c.plane, shadow := c.shadow
    powered := true, offline := false, chilled := c.chilled, pre := 0, goes := none
    run := v0.run.map (fun _ => (order, v.l)), began := ref, spent := v.spent, epoch := c.epoch, ordinal := ordinal }

/-- The core that a saved image returns to, where it ran an iteration once its plane holds the kernel (R355): its own for a gang record that has been admitted again, else the lowest-numbered core that is free for the record, once every lower core has its decision (R340). -/
def State.restoreCore (s : State) (r : RecordRun) (v : SavedCore) : Option Nat :=
  let loaded (n : Nat) : Option Nat := if v.core.run.isNone || ((s.core n).plane = some r.order && (r.gang || !s.lowerUndecided n)) then some n else none
  if r.gang then (if r.admitted && !r.going && (s.core v.from_).vacant then loaded v.from_ else none)
  else (r.cores.find? (fun n => (s.core n).vacant && s.chosen r n)).bind loaded

/-- The barrier arrivals that an image holds come back to their groups (R226). -/
def State.returnHeld (s : State) : List Arrival → State
  | [] => s
  | a :: rest =>
    match s.barriers.find? (fun b => b.is a.ctx a.group a.gen) with
    | some b => State.returnHeld (s.barTake b a) rest
    | none => State.returnHeld s rest

/-- The escalation of an iteration goes with it to another core (R354). -/
def State.moveEsc (s : State) (x from_ to_ : Nat) (c : Core) : State :=
  if c.mode = .escalated then
    { s with escs := s.escs.map (fun e => if e.ctx = x && !e.cp && e.core = from_ && c.escSeq = some e.seq then { e with core := to_ } else e) }
  else s

/-- ITERATION_RESTORE (R355, R351): a slot whose header fails its check, or whose record is not an accepted record of the context, is a fatal context error. -/
def execIterationRestore (ctx slot : Nat) (s : State) : Result :=
  match s.context ctx with
  | none => .next s
  | some cx =>
    match tget none cx.slots slot with
    | none => .next s
    | some v0 =>
      let base := cx.slotBase slot
      let bad : State := { s with fatal := s.fatal ++ [⟨ctx, fatalSlot, base, v0.from_⟩] }
      match s.readHeader base v0 with
      | none => .next bad
      | some h =>
      let v : SavedCore := { h with core := { h.core with riser := s.readRiser base h.core.riser } }
      match s.records.find? (fun r => r.ctx = ctx && r.addr = v.recAddr) with
      | none => .next bad
      | some r =>
        match s.restoreCore r v with
        | none => .next s
        | some n =>
          let s0 : State := if r.gang then s else { s with records := (s.decideRecord n).2 }
          let s1 := ((s0.publish (.core n)).giveCore n ctx).pasteWindow n (s.readSlot base) (v.pz ++ s.slotErrors base)
          let ch := if n = v.from_ then s1.chillOf n else (s1.chillOf n).newIteration
          let s2 := s1.setChill n ((ch.setClean false false).setClean true false)
          let s3 := s2.setCore n ((s2.core n).takeSaved n v r.order s2.ref (ch.replay.getD ch.journal.length))
          let s4 := if r.started.any (· = n) then s3 else s3.setRecord { (s3.records.find? (fun q => q.order = r.order)).getD r with started := r.started ++ [n] }
          .next ((((s4.catchUp n).returnHeld v.core.heldArr).moveEsc ctx v.from_ n v.core).setContext ctx { cx with slots := tset none cx.slots slot none })

/-! Context switch (R353). -/

/-- No block of a context's code tables is poisoned in the store of one stack alone any more. -/
def State.dropTablePz (s : State) (ctx : Nat) : State :=
  { s with tablePz := s.tablePz.filter (fun t => (t.2 - tableBase) / 4096 ≠ ctx) }

/-- The code tables of a context go to its context region with their poison, one that a stack has alone among it (R52, R198, R353), and come back. A poisoned word of the region poisons the 64-byte block of the table that it lies in (R198). -/
def State.saveTables (s : State) (ctx save : Nat) : State :=
  (List.range 512).foldl (fun t i =>
    t.wrC (save + 8 * i) (s.rdB (tableBase + 4096 * ctx + 8 * i) 8)
      (s.pzB (tableBase + 4096 * ctx + 8 * i) 8 || s.tableLost (tableBase + 4096 * ctx + 8 * i))) s
def State.loadTables (s : State) (ctx save : Nat) : State :=
  (List.range 64).foldl (fun t i =>
    let bs := s.rdC (save + 64 * i) 64
    t.wrB (tableBase + 4096 * ctx + 64 * i) (bs.map (·.1)) (bs.any (·.2))) (s.dropTablePz ctx)

/-- CONTEXT_SWITCH (R353): once no core runs an iteration of the context, its code tables go to the context region; they come back before it runs again. A core stays the context's until it passes to another (R39). -/
def execContextSwitch (ctx : Nat) (off : Bool) (s : State) : Result :=
  match s.context ctx with
  | none => .next s
  | some cx =>
    if off then
      if !cx.onModule || s.cores.any (fun c => c.2.ctx = some ctx && c.2.run.isSome) then .next s
      else
        .next ((s.saveTables ctx cx.save).setContext ctx { cx with onModule := false })
    else if cx.onModule then .next s
    else
      .next ((s.loadTables ctx cx.save).setContext ctx { cx with onModule := true })

/-! The end of a context (R292, R315). -/

/-- Carry out the fatal context error (R292): every core, N sequencer, copy and ladle packet of the context stops, with nothing kept; its records end with code 0x03 (R315); the error is reported. -/
def State.endContext (s : State) (f : FatalErr) : State :=
  match s.context f.ctx with
  | none => s.send (.fatalReport f.ctx f.cause f.addr f.core)
  | some cx =>
    if cx.dead then s
    else
      let s0 := if f.cause = fatalCoreState then s else s.fireOn 9
      let s1 := s0.cores.foldl (fun s c =>
        if c.2.ctx = some f.ctx then
          let t := (s.publish (.core c.1)).releaseCopies c.2
          t.setCore c.1 { (t.core c.1).released with riser := [], credits := [], slots := [], ctx := none }
        else s) s
      let s2 := s1.setAgent (.cp f.ctx) { (s1.agent (.cp f.ctx)).released with escSeq := none }
      let s3 : State := { s2 with ladles := s2.ladles.map (fun l => match l.2.busy with | some (x, _) => (if x = f.ctx then (l.1, { l.2 with busy := none, packet := [], owed := false }) else l) | none => l) }
      let s4 := (s3.records.filter (fun r => r.ctx = f.ctx)).foldl (fun s r => s.completeRecord r 3) s3
      let s5 := s4.flushQueues f.ctx cx.cqMask
      let cx1 := match s5.context f.ctx with | some c => c | none => cx
      let s6 := s5.setContext f.ctx { cx1 with dead := true, lqs := [], slots := [] }
      ({ s6 with barriers := s6.barriers.filter (fun b => b.ctx ≠ f.ctx), escs := s6.escs.filter (fun e => e.ctx ≠ f.ctx) } : State).send
        (.fatalReport f.ctx f.cause f.addr f.core)

/-- Carry out the errors that have been raised, oldest first. -/
def State.endAll (s : State) : State :=
  s.fatal.foldl (fun t f => t.endContext f) { s with fatal := [] }

end Sys2Proof.Machine
end

