-- ==== Sys2Proof/Machine/Chill.lean ====
section
/-! DEFINITION. Loss of power and resume: CORE_POWER_LOSS (R5, R388), CHILL_RESUME (R386 to R389), MODULE_POWER_LOSS and BASE_TIER_LOSS (R390), CHILL_SCRUB (R391). -/

namespace Sys2Proof.Machine

/-! Core power loss. -/

/-- Of the stores that are not yet visible when power goes, a free choice has left the core; none of them overtakes a store that it must follow (R239, R242, R246). `kept` holds the stores that the loss takes. -/
def State.loseStores (s : State) (n : Nat) (kept : List PendStore) : List PendStore → State
  | [] => s
  | st :: rest =>
    let may := !(kept.any (fun k => k.holdsBack st))
    if may && Config.freeVerdict s.fresh then State.loseStores (s.bump.perform (.core n) st) n kept rest
    else State.loseStores s.bump n (kept ++ [st]) rest

/-- The cores of a cluster (R2). -/
def clusterCores (k : Nat) : List Nat := (List.range 32).map (· + 32 * k)

/-- A core loses power (R5, R388): what it holds is lost, its membership slots with the arrivals held in them among it (R226), the pins of its copies are released, and the runner holds it for its iteration (R386). Its spare map, its planes, what the runner knows of it and the arrivals of neighbours that wait for it (R184) stay. A seal that it was writing may be torn (R381). -/
def State.coreLoss (s : State) (n : Nat) : State :=
  let c := s.core n
  if !c.powered then s
  else
    let s1 := ((s.loseStores n [] c.openStores).releaseCopies c).dropHeld c
    let ch := s1.chillOf n
    let torn := ch.writing.isSome && Config.freeVerdict s1.fresh
    let ch1 := match ch.writing with
      | some (b, _) => if torn then ch.setSlot b { ch.slot b with sl := (ch.slot b).sl.torn } else ch
      | none => ch
    let s2 := (s1.bump.pasteWindow n [] []).setChill n { ch1 with writing := none }
    s2.setCore n { Core.reset with
      nbWaits := c.nbWaits, nbNew := c.nbNew
      ctx := c.ctx, run := c.run, began := c.began, spent := c.spent, pre := c.pre, goes := c.goes
      spmap := c.spmap, plane0 := c.plane0, plane1 := c.plane1, active := c.active, plane := c.plane, shadow := c.shadow
      now := c.now, tref := c.tref, tun := c.tun, epoch := c.epoch, offline := c.offline
      mode := if c.run.isSome then .held else .idle
      powered := false }

/-- CORE_POWER_LOSS (R5): of a core or of a cluster. -/
def execCorePowerLoss (cluster : Bool) (n : Nat) (s : State) : Result :=
  .next (if cluster then (clusterCores n).foldl State.coreLoss s else s.coreLoss n)

/-! Resume (R386). -/

/-- Whether a slot is ok for the iteration held for a core (R386). -/
def State.slotOk (s : State) (n : Nat) (x : Slot) : Bool :=
  let c := s.core n
  x.sl.ok && x.sl.fmt == 1 && x.core.isSome && x.sl.mrlen == 786432 && x.sl.splen == 2097152 && decide (x.sl.nfrm ≤ 64)
    && decide (512 ≤ x.sl.stlen) && decide (x.sl.stlen ≤ 131072) && x.sl.stlen % 512 == 0
    && x.stateCrc == x.sl.scrc
    && (match s.recordOf c, c.run with
        | some r, some (_, l) => x.sl.ctx == r.ctx && x.sl.record == r.addr && x.sl.l == l && x.sl.core == n
        | _, _ => false)

/-- The ok slot with the larger SEQ; true is B. -/
def State.resumeSlot (s : State) (n : Nat) : Option Bool :=
  let ch := s.chillOf n
  match s.slotOk n ch.a, s.slotOk n ch.b with
  | true, true => some (decide (ch.a.sl.seq < ch.b.sl.seq))
  | true, false => some false
  | false, true => some true
  | false, false => none

/-- The words of the tiles that have no frame: zero and poisoned (R386). -/
def poisonFrames (frames : List Nat) : List Nat :=
  (List.range 1024).flatMap (fun t =>
    if frames.any (· = t) then []
    else (List.range 1024).map (fun i => 0x800000 + 4096 * t + 4 * i))

/-- A batch of an image: the stores that the resumed run still has under way are those of its copies (R388). -/
def Core.openBatches (v : Core) : Tab (List BatchPeer) :=
  v.batches.map (fun b => (b.1, b.2.map (fun p => { p with
    left := (v.copies.filter (fun k => k.form == .xstf && cdBtag k.cd == b.1 && cdPeer k.cd == p.rank && inBytes k.cd k.o0 k.o1 != 0)).length })))

/-- A core with what an image holds; it goes on in the image's engine cycles. The counters of time, the spare map, the planes, the epoch (R387) and what the runner holds stay the core's own; the arrivals that waited at the fence, and those that have come since, wait for the posting records (R184). -/
def Core.takeImage (c v : Core) : Core :=
  (List.range 64).foldl (fun c m => c.fillPosts m 64)
  { v.resume v.now with
    batches := v.openBatches, inbox := [], refusals := v.refusals ++ c.refusals
    nbWaits := v.nbWaits ++ c.nbWaits.drop (c.nbWaits.length - c.nbNew), nbNew := c.nbNew
    turn := 0, tref := c.tref, tun := c.tun, spmap := c.spmap, l1 := [], tlb := [], shown := 0, heldArr := []
    plane0 := c.plane0, plane1 := c.plane1, active := c.active, plane := c.plane, shadow := c.shadow
    powered := true, offline := c.offline, chilled := true, pre := c.pre, goes := c.goes
    run := c.run, ctx := c.ctx, began := c.began, spent := c.spent, epoch := c.epoch, ordinal := 0 }

/-- The pins of an image's copies are taken again (R363, R388): `none` while a page is held or the page-lock table is full; a page that has gone is a fatal context error (R178). -/
def State.repin (s : State) (n x : Nat) : List CopyOp → Option (State × List CopyOp)
  | [] => some (s, [])
  | k :: rest =>
    match s.submit x (k.form == .xst) (farAddrs k.form k.cd k.o0 k.o1) [] with
    | .wait => none
    | .ok s1 pins => (State.repin s1 n x rest).map (fun r => (r.1, { k with pins := pins } :: r.2))
    | .bad a => (State.repin (s.ctxFatal x fatalTable a n) n x rest).map (fun r => (r.1, { k with pins := [] } :: r.2))
    | _ => (State.repin (s.ctxFatal x fatalMiss (cdAddr k.cd) n) n x rest).map (fun r => (r.1, { k with pins := [] } :: r.2))

/-- Resume from a slot (R386, R387): what is restored, the dirty bits, and the journal in replay with the entries of the image's epoch. -/
def State.resumeFrom (s : State) (n : Nat) (b : Bool) (v : Core) : State :=
  let ch := s.chillOf n
  let x := ch.slot b
  let tiles := (List.range 1024).filter (fun t => !(x.frames.any (· = t)))
  let pz := (x.pz.filter (fun p => decide (p < 0x800000)))
    ++ (x.pz.filter (fun p => decide (0x800000 ≤ p) && !(tiles.any (· = (p - 0x800000) / 4096)))
        ++ poisonFrames x.frames)
  let s1 := (s.pasteWindow n x.cells pz).clearDirty n b
  let j := ch.journal.filter (fun e => e.epoch == x.sl.seq.toNat % 16)
  let ch1 := { (ch.setClean b true).setClean (!b) false with journal := j, replay := some 0, writing := none }
  (((s1.setChill n ch1).modCore n (fun c => c.takeImage v)).catchUp n).returnHeld v.heldArr

/-- A core that has no ok slot loses its iteration (R389). -/
def State.noImage (s : State) (n : Nat) : State :=
  let c := s.core n
  match s.recordOf c with
  | none => s.modCore n (fun c => { c.released with powered := true })
  | some r =>
    if bitAt r.fields 352 && !r.gang then (s.killCore n).modCore n (fun c => { c with powered := true })
    else
      let s1 := s.modCore n (fun c => { c with powered := true })
      { s1 with fatal := s1.fatal ++ [⟨r.ctx, fatalNoImage, r.addr, n⟩] }

/-- Power returns to a core of a cluster that has power (R386, R389); a core that ran no iteration stays without one. -/
def State.chillResume (s : State) (n : Nat) : State :=
  let c := s.core n
  if c.powered || !(s.cluster (n / 32)).powered then s
  else if c.run.isNone then s.setCore n { c with powered := true }
  else
    match s.resumeSlot n with
    | none => s.noImage n
    | some b =>
      match ((s.chillOf n).slot b).core with
      | none => s.noImage n
      | some v =>
        match s.repin n (c.ctx.getD 64) v.copies with
        | none => s
        | some (s1, copies) => s1.resumeFrom n b { v with copies := copies }

/-- CHILL_RESUME (R386). -/
def execChillResume (core : Nat) (s : State) : Result := .next (s.chillResume core)

/-! Loss of a stack's base tier or of the module (R390). -/

/-- Clear a seal's VALID at power-up (R390); what else stands in it stays, POUR among it. -/
def Slot.discard (x : Slot) : Slot := { x with sl := x.sl.void }

/-- Every image of the module is discarded; the journals are emptied. -/
def discardImages (t : Tab Chill) : Tab Chill :=
  t.map (fun c => (c.1, { c.2 with
    a := c.2.a.discard, b := c.2.b.discard, cleanA := false, cleanB := false, writing := none, journal := [], replay := none }))

/-- BASE_TIER_LOSS (R390): what the stack's HBM held is lost, and every image of the module is discarded. -/
def execBaseTierLoss (stack : Nat) (s : State) : Result :=
  let lo := 0x2000000000 * stack
  .next { s with
    mem := s.mem.paste lo 0x2000000000 []
    pz := pzPaste s.pz lo 0x2000000000 []
    chill := discardImages s.chill }

/-- The copies of the configuration region outlast a loss of power, but for the newer one's seal where it is being written (R381, R392). -/
def Boot.lost (b : Boot) (k : Nat) : Boot :=
  let torn := b.writing && Config.freeVerdict k
  let newer : Bool := match b.copyA, b.copyB with
    | some x, some y => decide (x.1.seq < y.1.seq)
    | none, _ => true
    | _, none => false
  let tear (p : Seal × ConfigImage) : Seal × ConfigImage := (p.1.torn, p.2)
  { Boot.reset with
    copyA := if torn && !newer then b.copyA.map tear else b.copyA
    copyB := if torn && newer then b.copyB.map tear else b.copyB }

/-- MODULE_POWER_LOSS (R5, R390): everything takes its reset value but the sealed configuration region and the seals, whose VALID is cleared; what has left the module, and the other modules, stand as they are. -/
def execModulePowerLoss (s : State) : Result :=
  .next { State.reset with
    chill := discardImages s.chill
    boot := (s.boot.lost s.fresh)
    outbox := s.outbox, fresh := s.fresh + 1, agenda := s.agenda, here := s.here
    peerMem := s.peerMem, peerPz := s.peerPz, peerFail := s.peerFail }

/-! Scrubbing (R391). -/

/-- The poison granules of a 512-byte granule of the image: 64 of 8 bytes in scratchpad, 128 of 4 bytes in registers and frames. -/
def slotGranule (off : Nat) : List Nat :=
  if off < 0x20000 then []
  else if off < 0xE0000 then (List.range 128).map (fun i => 0x400000 + (off - 0x20000) + 4 * i)
  else if off < 0x2E0000 then (List.range 64).map (fun i => (off - 0xE0000) + 8 * i)
  else []

/-- The poison granules of a granule in a frame of the image that holds a tile (R382). -/
def frameGranule (frames : List Nat) (off : Nat) : List Nat :=
  if off < 0x2E0000 then []
  else
    match frames[(off - 0x2E0000) / 4096]? with
    | some f => if f < 1024 then (List.range 128).map (fun i => 0x800000 + 4096 * f + (off - 0x2E0000) % 4096 + 4 * i) else []
    | none => []

/-- 512 bytes of a riser block poisoned. -/
def spoilBlock (b : Block) (at_ : Nat) : Block :=
  { b with poison := b.poison.zipIdx.map (fun p => p.1 || (decide (at_ ≤ p.2) && decide (p.2 < at_ + 512))) }

/-- The riser block whose frame holds a granule of the image, if any (R382). -/
def blockFrame (frames : List Nat) (off : Nat) : Option Nat :=
  if off < 0x2E0000 then none
  else (frames[(off - 0x2E0000) / 4096]?).bind (fun f => if f < 1024 then none else some (f - 1024))

/-- An uncorrected error in a granule of an image (R386): in the state region it fails SCRC, elsewhere it poisons the words restored from it, those of a riser block too. -/
def Slot.spoil (x : Slot) (off : Nat) : Slot :=
  if off < 0x20000 then (if off < x.sl.stlen then { x with stateCrc := ~~~x.stateCrc } else x)
  else
    { x with
      pz := (slotGranule off ++ frameGranule x.frames off).foldl (fun l k => sadd k l) x.pz
      core := match blockFrame x.frames off with
        | some i => x.core.map (fun c => { c with riser := lmod c.riser i (fun b => spoilBlock b ((off - 0x2E0000) % 4096 / 512 * 512)) })
        | none => x.core }

end Sys2Proof.Machine
end

