-- ==== Sys2Proof/Machine/Vector.lean ====
section
/-! DEFINITION. The vector half of X (R124 to R145): element types, queue sources, the third source, the modifier word, and every X vector instruction. -/

namespace Sys2Proof.Machine

/-! Element types and lanes (R44, R60). -/

/-- An element type: a floating-point format, or an integer of a width and a signedness. -/
inductive Ety where
  | fp (f : Fmt)
  | int (w : Nat) (sg : Bool)
  deriving DecidableEq, Repr

def Ety.width : Ety → Nat
  | .fp f => f.width
  | .int w _ => w

/-- An integer of width `w` read from its code (R15). -/
def intVal (w : Nat) (sg : Bool) (code : Nat) : Int :=
  let c := code % 2 ^ w
  if sg && decide (2 ^ (w - 1) ≤ c) then (c : Int) - 2 ^ w else c

/-- The exact value of a code (R12, R15). -/
def Ety.value (t : Ety) (code : Nat) : Fv :=
  match t with
  | .fp f => f.decode code
  | .int w sg => Fv.ofInt (intVal w sg code)

/-- The value as an instruction reads it under FZI (R26). -/
def Ety.read (t : Ety) (fzi : Bool) (code : Nat) : Fv :=
  match t with
  | .fp f => if fzi then f.flushIn (f.decode code) else f.decode code
  | .int w sg => Fv.ofInt (intVal w sg code)

/-- The floating-point type and round code of `tr` (R60). -/
def fpType (tr : BitVec 5) : Fmt := match (fld tr 3 2).toNat with
  | 0 => .f32
  | 1 => .bf16
  | _ => .f16
def rmOf (c : Nat) : Rm := match c with
  | 0 => .rne
  | 1 => .rtz
  | 2 => .rdn
  | 3 => .rup
  | _ => .sr
def fpMode (tr : BitVec 5) : Rm := rmOf (fld tr 0 3).toNat

/-- The integer type and round code of `tr` (R60). -/
def intType (tr : BitVec 5) : Nat × Bool := match (fld tr 2 3).toNat with
  | 0 => (32, true)
  | 1 => (32, false)
  | 2 => (16, true)
  | 3 => (16, false)
  | 4 => (8, true)
  | 5 => (8, false)
  | 6 => (64, true)
  | _ => (64, false)
def intMode (tr : BitVec 5) : Rm := rmOf (fld tr 0 2).toNat

/-- Elements per vector, elements per lane word, and the lane of an element (R44, R136). -/
def perVec (w : Nat) : Nat := if w = 64 then 32 else 1024 / w
def perLane (w : Nat) : Nat := if w = 64 then 1 else 32 / w
def laneOf (w j : Nat) : Nat := j / perLane w

/-- A vector operand: the low words and, for a 64-bit type, the high words of its lanes, with their poison (R124). -/
structure Vin where
  lo : List W32
  hi : List W32
  pz : List Bool

/-- Element `j` of width `w`, and the poison of its word. -/
def Vin.elem (v : Vin) (w j : Nat) : Nat :=
  if w = 64 then (v.hi.getD j 0).toNat * 2 ^ 32 + (v.lo.getD j 0).toNat
  else (v.lo.getD (j / (32 / w)) 0).toNat / 2 ^ (j % (32 / w) * w) % 2 ^ w
def Vin.poison (v : Vin) (w j : Nat) : Bool := v.pz.getD (laneOf w j) false

/-! Queue sources (R42, R124). -/

/-- Take `n` entries off a queue; none when fewer than `n` are visible. -/
def Core.takeQ (c : Core) (q n : Nat) : Option (Vin × Core) :=
  let l := c.queue q
  let es := l.take n
  if es.length = n ∧ es.all (fun e => decide (e.vis ≤ c.now)) then
    let a := es.getD 0 ⟨[], [], 0, 0⟩
    let b := es.getD 1 ⟨[], [], 0, 0⟩
    some (⟨a.lanes, b.lanes, if n = 2 then List.zipWith (· || ·) a.pz b.pz else a.pz⟩, c.setQueue q (l.drop n))
  else none

/-- The queue-underflow fault (R42). -/
def underflow : Effect := .trap (TrapInfo.of 0x0B .x)

/-- Pop the source qa, then go on. -/
def pop1 (s : State) (qa : BitVec 3) (n : Nat) (k : State → Vin → Effect) : Effect :=
  match s.cur.takeQ qa.toNat n with
  | none => underflow
  | some (a, c) => k (s.setCur c) a

/-- Pop the sources qa and qb; a queue named twice is popped once (R42). -/
def pop2 (s : State) (qa qb : BitVec 3) (n : Nat) (k : State → Vin → Vin → Effect) : Effect :=
  match s.cur.takeQ qa.toNat n with
  | none => underflow
  | some (a, c) =>
    if qa = qb then k (s.setCur c) a a
    else
      match c.takeQ qb.toNat n with
      | none => underflow
      | some (b, c2) => k (s.setCur c2) a b

/-! Destinations, guards, the third source. -/

/-- Whether a destination slice is an illegal operand (R45, R60). -/
def destBad (f : XVec) (w : Nat) : Bool :=
  decide (191 < f.dreg.toNat) || (w == 64 && (f.dir != 0 || bitAt f.slice 0))

/-- The active lanes, or the poisoned guard (R65, R126). -/
def guardOf (c : Core) (md : ModWord) : Except PRec W32 :=
  match md with
  | none => .ok 0xFFFFFFFF
  | some m =>
    if bitAt m 28 then
      let p := c.rp (fld m 24 4).toNat
      match p.pz with
      | some r => .error r
      | none => .ok (if bitAt m 29 then ~~~p.v else p.v)
    else .ok 0xFFFFFFFF

/-- Check the destination and the guard of a vector instruction, then run it on its active lanes. -/
def vecStart (s : State) (f : XVec) (w : Nat) (k : W32 → Effect) : Effect :=
  if destBad f w then illegalOperand .x
  else
    match guardOf s.cur f.md with
    | .error r => poisonTrap .x r
    | .ok act => k act

/-- The third source (R125): its code and its poison. -/
def thirdOf (c : Core) (ext : BitVec 32) (w : Nat) (sg : Bool) : Nat × Option PRec :=
  if 0x7FFFFFC0 ≤ ext.toNat ∧ ext.toNat ≤ 0x7FFFFFFF then
    let r := c.rs (ext.toNat - 0x7FFFFFC0)
    (r.v.toNat % 2 ^ w, r.pz)
  else if w = 64 then ((if sg then ext.signExtend 64 else ext.zeroExtend 64).toNat, none)
  else (ext.toNat % 2 ^ w, none)

/-! The modifier word (R28, R29). -/

structure Modif where
  scale : Int
  ab : Bool
  ng : Bool
  sat : Nat
  lo : Fv
  hi : Fv
  pz : Bool

def Modif.none : Modif := ⟨0, false, false, 0, .nan false, .nan false, false⟩

/-- The modifier of an instruction, with the clamp bounds read as values of the destination type (R29). -/
def modifOf (c : Core) (md : ModWord) (t : Ety) : Modif :=
  match md with
  | .none => Modif.none
  | some m =>
    let a := c.rs (fld m 12 6).toNat
    let b := c.rs (fld m 18 6).toNat
    let cl := fld m 10 2 == 2
    ⟨(fld m 0 8).toInt, bitAt m 8, bitAt m 9, (fld m 10 2).toNat, t.value (a.v.toNat % 2 ^ t.width),
      t.value (b.v.toNat % 2 ^ t.width), cl && (a.pz.isSome || b.pz.isSome)⟩

/-- min(max(v, lo), hi), with a NaN bound leaving its side open, and hi where lo > hi (R29). -/
def clampV (v lo hi : Fv) : Fv :=
  if ltV hi lo then hi
  else
    let v1 := if ltV v lo then lo else v
    if ltV hi v1 then hi else v1

/-- The value after scaling, absolute value and negation (R28). -/
def Modif.apply (m : Modif) (v : Fv) : Fv :=
  let a := v.scale m.scale
  let b := if m.ab then a.abs else a
  if m.ng then b.neg else b

/-- The modified value rounded to a floating-point format (R28, R29, R137). Saturation is that of the rounding, whose flags it leaves as R21's table gives them (assumption 43). -/
def finishFp (f : Fmt) (mode : Rm) (st : W32) (m : Modif) (fzo ne : Bool) (v : Fv) : Nat × FpFlags :=
  let r :=
    if v.isNan then f.round mode st false false false v
    else
      let a := m.apply v
      let b :=
        if m.sat = 2 then clampV a m.lo m.hi else a
      f.round mode st (m.sat == 1) fzo (ne && a == b) b
  (r.code, r.fl)

/-- The range of an integer type (R15). -/
def intLo (w : Nat) (sg : Bool) : Int := if sg then -(2 ^ (w - 1)) else 0
def intHi (w : Nat) (sg : Bool) : Int := if sg then 2 ^ (w - 1) - 1 else 2 ^ w - 1

/-- The modified value rounded to an integer type (R15, R27 to R29, R134): a conversion from floating point limits and reports, integer arithmetic wraps and sets no flag. -/
def finishInt (w : Nat) (sg fromFp : Bool) (mode : Rm) (m : Modif) (v : Fv) : Nat × FpFlags :=
  let iv : FpFlags := { FpFlags.none with iv := true }
  let code (k : Int) : Nat := (k % 2 ^ w).toNat
  if v.isNan then (0, iv)
  else
    let a := m.apply v
    let b :=
      if m.sat = 2 then clampV a m.lo m.hi
      else if m.sat = 1 then clampV a (Fv.ofInt (intLo w sg)) (Fv.ofInt (intHi w sg))
      else a
    match b with
    | .nan _ => (0, iv)
    | .inf n => (code (if n then intLo w sg else intHi w sg), iv)
    | .num n k e =>
      let (x, ch) := roundIntV mode 0 n k e
      if !fromFp then (code x, FpFlags.none)
      else if x < intLo w sg then (code (intLo w sg), iv)
      else if intHi w sg < x then (code (intHi w sg), iv)
      else (code x, { FpFlags.none with ix := ch })

/-! The common effect (R126). -/

/-- A result element before it is modified and rounded: its exact value, whether that differs from what the operation defines, the flags of the operation, and its poison. -/
structure Elt where
  v : Fv
  ne : Bool
  fl : FpFlags
  pz : Bool

/-- How elements are rounded. -/
structure Rnd where
  ty : Ety
  mode : Rm
  m : Modif
  fzo : Bool
  fromFp : Bool

/-- A rounded element with its place. -/
structure Out where
  j : Nat
  code : Nat
  fl : FpFlags
  pz : Bool

/-- Round one element with a draw. -/
def Rnd.one (r : Rnd) (st : W32) (x : Elt) : Nat × FpFlags :=
  match r.ty with
  | .fp f => finishFp f r.mode st r.m r.fzo x.ne x.v
  | .int w sg => finishInt w sg r.fromFp r.mode r.m x.v

/-- Round the elements of active lanes in ascending order; in SR each one steps its lane's generator (R23, R126, R128). -/
def roundAll (r : Rnd) (act : W32) : List W32 → List (Nat × Elt) → List W32 × List Out
  | sr, [] => (sr, [])
  | sr, (j, x) :: rest =>
    let l := laneOf r.ty.width j
    if !bitAt act l then roundAll r act sr rest
    else
      let st := srNext (sr.getD l 0)
      let sr1 := if r.mode = .sr then lset sr l st else sr
      let (code, fl) := r.one st x
      let out := roundAll r act sr1 rest
      (out.1, ⟨j, code, fl.or x.fl, x.pz || r.m.pz⟩ :: out.2)

/-- The lane words that elements of width `w` make: low and high word and poison of every lane that has an element. A poisoned element's code is free, and it poisons its lane (R52, R126). -/
def packLane (s : State) (w i : Nat) (outs : List Out) : Option (W32 × W32 × Bool) :=
  match outs.filter (fun o => laneOf w o.j = i) with
  | [] => none
  | l =>
    let free := (Config.freeWord (s.fresh + i)).toNat
    let v := l.foldl (fun a o =>
      let sh := if w = 64 then 0 else o.j % (32 / w) * w
      a + (if o.pz then free / 2 ^ sh % 2 ^ w else o.code) * 2 ^ sh) 0
    some (BitVec.ofNat 32 v, BitVec.ofNat 32 (v / 2 ^ 32), l.any (·.pz))

/-- The writes of a destination slice, or slice pair for a 64-bit type (R45, R124). -/
def destWrites (s : State) (f : XVec) (w : Nat) (lanes : List (Option (W32 × W32 × Bool))) : List Write :=
  let lo := lanes.map (fun l => l.map (fun x => (x.1, x.2.2)))
  let hi := lanes.map (fun l => l.map (fun x => (x.2.1, x.2.2)))
  sliceWrites s.me f.dreg.toNat f.dir f.slice.toNat lo
    ++ (if w = 64 then sliceWrites s.me f.dreg.toNat f.dir (f.slice.toNat + 1) hi else [])

/-- The flags of the elements that are not poisoned (R126). -/
def flagsOf (outs : List Out) : FpFlags :=
  outs.foldl (fun a o => if o.pz then a else a.or o.fl) FpFlags.none

/-- Write rounded elements and their flags at latency `lat`. -/
def writeOuts (s : State) (f : XVec) (w lat : Nat) (outs : List Out) : State :=
  let lanes := (List.range 32).map (fun i => packLane s w i outs)
  let fl := (flagsOf outs).word
  let ws := destWrites s f w lanes ++ (if fl = 0 then [] else [.flags fl])
  { s.modCur (fun c => c.emits .x lat ws) with fresh := s.fresh + 32 }

/-- Modify, round and write elements (R126). -/
def vecFinish (s : State) (f : XVec) (r : Rnd) (lat : Nat) (act : W32) (xs : List (Nat × Elt)) : Effect :=
  let (sr, outs) := roundAll r act s.cur.srseed xs
  .done (writeOuts (s.modCur (fun c => { c with srseed := sr })) f r.ty.width lat outs)

/-- The flush controls as an instruction reads them (R26). -/
def Core.fzi (c : Core) : Bool := bitAt c.fpctl 0
def Core.fzo (c : Core) : Bool := bitAt c.fpctl 1

/-- The rounding of a destination type under the instruction's modifier. -/
def rndOf (s : State) (f : XVec) (t : Ety) (mode : Rm) (fromFp : Bool) : Rnd :=
  ⟨t, mode, modifOf s.cur f.md t, s.cur.fzo, fromFp⟩

/-- The element that a function value makes. -/
def FnVal.elt (x : FnVal) (pz : Bool) : Elt :=
  ⟨x.v, x.ne, { FpFlags.none with iv := x.iv, dz := x.dz }, pz⟩
def FnVal.ofEv (x : Ev) : FnVal := ⟨x.1, false, x.2, false⟩

/-! Floating-point arithmetic (R129 to R131). -/

/-- A floating-point instruction of one source. -/
def vecF1 (s : State) (f : XVec) (lat : Nat) (op : Fmt → Fv → FnVal) : Effect :=
  let ft := fpType f.tr
  let t := Ety.fp ft
  let w := t.width
  vecStart s f w (fun act => pop1 s f.qa 1 (fun s a =>
    vecFinish s f (rndOf s f t (fpMode f.tr) true) lat act
      ((List.range (perVec w)).map (fun j => (j, (op ft (t.read s.cur.fzi (a.elem w j))).elt (a.poison w j))))))

/-- A floating-point instruction of two sources. -/
def vecF2 (s : State) (f : XVec) (lat : Nat) (op : Rm → Fv → Fv → Ev) : Effect :=
  let t := Ety.fp (fpType f.tr)
  let w := t.width
  let m := fpMode f.tr
  vecStart s f w (fun act => pop2 s f.qa f.qb 1 (fun s a b =>
    let rd (v : Vin) (j : Nat) := t.read s.cur.fzi (v.elem w j)
    vecFinish s f (rndOf s f t m true) lat act
      ((List.range (perVec w)).map (fun j =>
        (j, (FnVal.ofEv (op m (rd a j) (rd b j))).elt (a.poison w j || b.poison w j))))))

/-- A fused multiply-add (R129). -/
def vecFma (s : State) (f : XVec) (ext : BitVec 32) (np nb : Bool) : Effect :=
  let t := Ety.fp (fpType f.tr)
  let w := t.width
  let m := fpMode f.tr
  let x := thirdOf s.cur ext w false
  vecStart s f w (fun act => pop2 s f.qa f.qb 1 (fun s a b =>
    let rd (v : Vin) (j : Nat) := t.read s.cur.fzi (v.elem w j)
    let tv := t.read s.cur.fzi x.1
    vecFinish s f (rndOf s f t m true) 4 act
      ((List.range (perVec w)).map (fun j =>
        (j, (FnVal.ofEv (fmaV (m = .rdn) np nb (rd a j) tv (rd b j))).elt
          (a.poison w j || b.poison w j || x.2.isSome))))))

def execVadd (f : XVec) (s : State) := s.issue .x (vecF2 s f 4 (fun m a b => addV (m = .rdn) a b))
def execVsub (f : XVec) (s : State) := s.issue .x (vecF2 s f 4 (fun m a b => addV (m = .rdn) a b.neg))
def execVmul (f : XVec) (s : State) := s.issue .x (vecF2 s f 4 (fun _ a b => mulV a b))
def execVfma (f : XVec) (ext : BitVec 32) (s : State) := s.issue .x (vecFma s f ext false false)
def execVfms (f : XVec) (ext : BitVec 32) (s : State) := s.issue .x (vecFma s f ext false true)
def execVfnma (f : XVec) (ext : BitVec 32) (s : State) := s.issue .x (vecFma s f ext true false)
def execVmin (f : XVec) (s : State) := s.issue .x (vecF2 s f 2 (fun _ a b => minmaxV false a b))
def execVmax (f : XVec) (s : State) := s.issue .x (vecF2 s f 2 (fun _ a b => minmaxV true a b))
def execVminnum (f : XVec) (s : State) := s.issue .x (vecF2 s f 2 (fun _ a b => minmaxNumV false a b))
def execVmaxnum (f : XVec) (s : State) := s.issue .x (vecF2 s f 2 (fun _ a b => minmaxNumV true a b))
def execVrcp (f : XVec) (s : State) := s.issue .x (vecF1 s f 8 rcpV)
def execVrsq (f : XVec) (s : State) := s.issue .x (vecF1 s f 8 rsqV)
def execVsqrt (f : XVec) (s : State) := s.issue .x (vecF1 s f 12 (fun _ v => sqrtFn v))
def execVexp2 (f : XVec) (s : State) := s.issue .x (vecF1 s f 8 exp2V)
def execVlog2 (f : XVec) (s : State) := s.issue .x (vecF1 s f 8 log2V)

/-! Compares and classes (R132, R133). -/

/-- A floating-point condition on two values (R132). -/
def fpCond (cc : Nat) (a b : Fv) : Bool :=
  let un := a.isNan || b.isNan
  match cc with
  | 0 => !un && !ltV a b && !ltV b a
  | 1 => un || ltV a b || ltV b a
  | 2 => ltV a b
  | 3 => !un && !ltV a b
  | 4 => ltV b a
  | 5 => !un && !ltV b a
  | 6 => un
  | _ => !un

/-- The bit masks of lanes for which a function holds. -/
def laneMask (p : Nat → Bool) : W32 :=
  BitVec.ofNat 32 ((List.range 32).foldl (fun a i => if p i then a + 2 ^ i else a) 0)

/-- VCMP (R132). -/
def vcmp (s : State) (f : XVec) : Effect :=
  let isInt := bitAt f.slice 4
  let t : Ety := if isInt then .int (intType f.tr).1 (intType f.tr).2 else .fp (fpType f.tr)
  let w := t.width
  let n := perLane w
  match guardOf s.cur f.md with
  | .error r => poisonTrap .x r
  | .ok act => pop2 s f.qa f.qb (if w = 64 then 2 else 1) (fun s a b =>
      let rd (v : Vin) (j : Nat) := t.read s.cur.fzi (v.elem w j)
      let els (i : Nat) := (List.range n).map (fun k => i * n + k)
      let bits := laneMask (fun i => (els i).all (fun j => fpCond (fld f.slice 0 4).toNat (rd a j) (rd b j)))
      let pz := laneMask (fun i => bitAt act i && (a.pz.getD i false || b.pz.getD i false))
      let iv := (List.range 32).any (fun i => bitAt act i && !bitAt pz i && (els i).any (fun j => (rd a j).isSig || (rd b j).isSig))
      let v := (bits &&& ~~~pz) ||| (fld s.freeW 0 32 &&& pz)
      let s1 := s.bump.modCur (fun c => c.emit .x 2
        (.predicate (fld f.dreg 0 4).toNat v act (if pz = 0 then none else some (dataPz 0))))
      .done (if iv then s1.modCur (fun c => c.emit .x 2 (.flags 1)) else s1))

def execVcmp (f : XVec) (s : State) := s.issue .x (vcmp s f)

/-- The class of a code (R133). -/
def classBit (f : Fmt) (code : Nat) : Nat :=
  match f.decode code with
  | .nan sg => if sg then 0 else 1
  | .inf n => if n then 2 else 9
  | .num n m _ =>
    if m = 0 then (if n then 5 else 6)
    else if m < 2 ^ f.mb then (if n then 4 else 7)
    else (if n then 3 else 8)

/-- VCLASS (R133). -/
def execVclass (f : XVec) (s : State) :=
  let ft := fpType f.tr
  let w := ft.width
  s.issue .x (vecStart s f w (fun act => pop1 s f.qa 1 (fun s a =>
    .done (writeOuts s f w 2 (((List.range (perVec w)).filter (fun j => bitAt act (laneOf w j))).map (fun j =>
      ⟨j, 2 ^ classBit ft (a.elem w j), FpFlags.none, a.poison w j⟩))))))

/-! Integer and bitwise arithmetic (R134, R135). -/

/-- Entries per source of a type of width `w` (R124). -/
def entries (w : Nat) : Nat := if w = 64 then 2 else 1

/-- An integer instruction on sources of width `w` into results of type `(wd, sg)`. -/
def vecI (s : State) (f : XVec) (w wd : Nat) (sg : Bool) (lat : Nat) (two : Bool) (t : Int × Option PRec)
    (op : Int → Int → Int → Int) : Effect :=
  let go (s : State) (a b : Vin) (act : W32) : Effect :=
    vecFinish s f (rndOf s f (.int wd sg) (intMode f.tr) false) lat act
      ((List.range (perVec w)).map (fun j =>
        (j, ⟨Fv.ofInt (op (intVal w sg (a.elem w j)) (intVal w sg (b.elem w j)) t.1), false, FpFlags.none,
          a.poison w j || b.poison w j || t.2.isSome⟩)))
  vecStart s f wd (fun act =>
    if two then pop2 s f.qa f.qb (entries w) (fun s a b => go s a b act)
    else pop1 s f.qa (entries w) (fun s a => go s a a act))

/-- An integer instruction of two sources of one type. -/
def vecI2 (s : State) (f : XVec) (lat : Nat) (op : Nat → Bool → Int → Int → Int) : Effect :=
  let (w, sg) := intType f.tr
  vecI s f w w sg lat true (0, none) (fun a b _ => op w sg a b)

/-- An integer instruction of one source. -/
def vecI1 (s : State) (f : XVec) (op : Nat → Int → Int) : Effect :=
  let (w, sg) := intType f.tr
  vecI s f w w sg 2 false (0, none) (fun a _ _ => op w a)

/-- The third source as an integer. -/
def intThird (s : State) (ext : BitVec 32) (w : Nat) (sg : Bool) : Int × Option PRec :=
  let x := thirdOf s.cur ext w sg
  (intVal w sg x.1, x.2)

/-- The w-bit pattern of a value. -/
def pat (w : Nat) (a : Int) : Nat := (a % 2 ^ w).toNat

/-- A bitwise operation on patterns, read as a value of the type (R134). -/
def bitOp (g : Nat → Nat → Nat) (w : Nat) (sg : Bool) (a b : Int) : Int := intVal w sg (g (pat w a) (pat w b))

/-- The number of 1 bits, and of leading zero bits, of a w-bit pattern. -/
def popNat (n : Nat) : Nat → Nat
  | 0 => 0
  | k + 1 => (if n / 2 ^ k % 2 = 1 then 1 else 0) + popNat n k
def clzNat (w n : Nat) : Nat := if n = 0 then w else w - 1 - n.log2

def execViadd (f : XVec) (s : State) := s.issue .x (vecI2 s f 2 (fun _ _ a b => a + b))
def execVisub (f : XVec) (s : State) := s.issue .x (vecI2 s f 2 (fun _ _ a b => a - b))
def execVimul (f : XVec) (s : State) := s.issue .x (vecI2 s f 4 (fun _ _ a b => a * b))
def execVimulh (f : XVec) (s : State) := s.issue .x (vecI2 s f 4 (fun w _ a b => a * b / 2 ^ w))
def execVimad (f : XVec) (ext : BitVec 32) (s : State) :=
  let (w, sg) := intType f.tr
  s.issue .x (vecI s f w w sg 4 true (intThird s ext w sg) (fun a b t => a * t + b))
def execViaddw (f : XVec) (s : State) :=
  s.issue .x (vecI s f 32 64 (intType f.tr).2 4 true (0, none) (fun a b _ => a + b))
def execVimadw (f : XVec) (ext : BitVec 32) (s : State) :=
  let sg := (intType f.tr).2
  s.issue .x (vecI s f 32 64 sg 4 true (intThird s ext 32 sg) (fun a b t => a * t + b))
def execVand (f : XVec) (s : State) := s.issue .x (vecI2 s f 2 (bitOp (· &&& ·)))
def execVor (f : XVec) (s : State) := s.issue .x (vecI2 s f 2 (bitOp (· ||| ·)))
def execVxor (f : XVec) (s : State) := s.issue .x (vecI2 s f 2 (bitOp (· ^^^ ·)))
def execVshl (f : XVec) (s : State) := s.issue .x (vecI2 s f 2 (fun w _ a b => a * 2 ^ (pat w b % w)))
def execVshr (f : XVec) (s : State) :=
  s.issue .x (vecI2 s f 2 (fun w sg a b => intVal w sg (pat w a / 2 ^ (pat w b % w))))
def execVsra (f : XVec) (s : State) := s.issue .x (vecI2 s f 2 (fun w _ a b => a / 2 ^ (pat w b % w)))
def execVimin (f : XVec) (s : State) := s.issue .x (vecI2 s f 2 (fun _ _ a b => min a b))
def execVimax (f : XVec) (s : State) := s.issue .x (vecI2 s f 2 (fun _ _ a b => max a b))
def execVclz (f : XVec) (s : State) := s.issue .x (vecI1 s f (fun w a => (clzNat w (pat w a) : Int)))
def execVpopc (f : XVec) (s : State) := s.issue .x (vecI1 s f (fun w a => (popNat (pat w a) w : Int)))

/-! Conversions (R136, R137). -/

/-- The type codes of VCVT (R136). -/
def cvtType (c : Nat) : Ety := match c with
  | 0 => .fp .f32
  | 1 => .fp .bf16
  | 2 => .fp .f16
  | 3 => .fp .e4m3
  | 4 => .fp .e5m2
  | 5 => .fp .e2m1
  | 6 => .int 8 true
  | 7 => .int 8 false
  | 8 => .int 16 true
  | 9 => .int 16 false
  | 10 => .int 32 true
  | 11 => .int 32 false
  | 12 => .int 64 true
  | _ => .int 64 false

def Ety.isFp : Ety → Bool
  | .fp _ => true
  | .int _ _ => false

/-- VCVT (R136, R137): `n` elements from source element `s0` to destination element `d0`. -/
def vcvt (s : State) (f : XVec) (ext : BitVec 32) : Effect :=
  let td := cvtType (fld ext 12 4).toNat
  let ts := cvtType (fld ext 8 4).toNat
  let part := (fld ext 4 3).toNat
  let es := perVec ts.width
  let ed := perVec td.width
  let n := min es ed
  let pmax := max es ed / n - 1
  let s0 := if es ≤ ed then 0 else part * ed
  let d0 := if es ≤ ed then part * es else 0
  if pmax < part then illegalOperand .x
  else vecStart s f td.width (fun act => pop1 s f.qa (entries ts.width) (fun s a =>
    vecFinish s f (rndOf s f td (fpMode f.tr) ts.isFp) 3 act
      ((List.range n).map (fun j =>
        let v := ts.read s.cur.fzi (a.elem ts.width (s0 + j))
        (d0 + j, ⟨v, false, { FpFlags.none with iv := v.isSig }, a.poison ts.width (s0 + j)⟩)))))

def execVcvt (f : XVec) (ext : BitVec 32) (s : State) := s.issue .x (vcvt s f ext)

/-! MX blocks (R138, R139). -/

/-- The last PART of an element format. -/
def mxPartMax (e : Fmt) : Nat := if e = .e2m1 then 7 else 3

/-- Step the generators of the lanes of some elements in order, with the draw of each. -/
def drawAll (lane : Nat → Nat) : List W32 → List Nat → List W32 × List W32
  | sr, [] => (sr, [])
  | sr, i :: rest =>
    let st := srNext (sr.getD (lane i) 0)
    let out := drawAll lane (lset sr (lane i) st) rest
    (out.1, st :: out.2)

/-- VQMX (R138). -/
def vqmx (s : State) (f : XVec) (ext : BitVec 32) : Effect :=
  let elem := mxElem (fld ext 16 2).toNat
  let part := (fld ext 0 3).toNat
  let ss := (fld ext 8 6).toNat
  let w := elem.width
  let mode := fpMode f.tr
  if mxPartMax elem < part then illegalOperand .x
  else vecStart s f w (fun _ => pop1 s f.qa 1 (fun s a =>
    let at_ (i : Nat) := 32 * part + i
    let (sr, st) := drawAll (fun i => laneOf w (at_ i)) s.cur.srseed (List.range 32)
    let (scale, codes, fl) := mxQuantise ((List.range 32).map (fun i => Fmt.f32.decode (a.elem 32 i))) elem (bitAt ext 18) mode st
    let pz := a.pz.any id
    let old := s.cur.rs ss
    let byte : Byte := if pz then fld (Config.freeWord (s.fresh + 32)) 0 8 else BitVec.ofNat 8 scale
    let outs := (List.range 32).map (fun i => (⟨at_ i, codes.getD i 0, if i = 0 then fl else FpFlags.none, pz⟩ : Out))
    let s1 := if mode = .sr then s.modCur (fun c => { c with srseed := sr }) else s
    let s2 := (writeOuts s1 f w 6 outs).modCur (fun c => c.emit .x 6
      (.byteOf ss part byte old.v (if pz then some (dataPz 0) else old.pz)))
    .done s2.bump))

def execVqmx (f : XVec) (ext : BitVec 32) (s : State) := s.issue .x (vqmx s f ext)

/-- VDQMX (R139). -/
def vdqmx (s : State) (f : XVec) (ext : BitVec 32) : Effect :=
  let elem := mxElem (fld ext 16 2).toNat
  let part := (fld ext 0 3).toNat
  let sc := s.cur.rs (fld ext 8 6).toNat
  let w := elem.width
  let scale := sc.v.toNat / 2 ^ (8 * part) % 256
  if mxPartMax elem < part then illegalOperand .x
  else vecStart s f 32 (fun act => pop1 s f.qa 1 (fun s a =>
    vecFinish s f ⟨.fp .f32, fpMode f.tr, Modif.none, false, true⟩ 4 act
      ((List.range 32).map (fun i =>
        let v := mxEv scale (elem.decode (a.elem w (32 * part + i)))
        (i, ⟨v.1, false, { FpFlags.none with iv := v.2 },
          a.poison w (32 * part + i) || sc.pz.isSome⟩)))))

def execVdqmx (f : XVec) (ext : BitVec 32) (s : State) := s.issue .x (vdqmx s f ext)

/-! Scans and reductions (R140, R141). -/

/-- The running state of a scan: accumulated value, the flags of its last combining step and of all of them, poison, generators. -/
structure Scan where
  acc : Option Fv
  fl : FpFlags
  pz : Bool
  sr : List W32

/-- Combine the accumulator with an element; `w` is the width that integer sums wrap at (R140). The accumulator is no written element, so its rounding sets no NF (R30). -/
def combine (op : Nat) (t : Ety) (wrapW : Nat) (mode : Rm) (st : W32) (acc x : Fv) : Fv × FpFlags :=
  match t, op with
  | .fp f, 0 =>
    let y := addV (mode = .rdn) acc x
    let r := f.round mode st false false false y.1
    (f.decode r.code, { r.fl.or { FpFlags.none with iv := y.2 } with nf := false })
  | .fp _, k =>
    let y := minmaxV (k = 1) acc x
    (y.1, { FpFlags.none with iv := y.2 })
  | .int _ sg, 0 =>
    match (addV false acc x).1 with
    | .num n m e => (Fv.ofInt (intVal wrapW sg (pat wrapW (scaled n m e 0))), FpFlags.none)
    | v => (v, FpFlags.none)
  | .int _ _, k => (if k = 1 then maxZ acc x else minZ acc x, FpFlags.none)

/-- One element of a scan: the result element and the state after it. The combining rounding in SR takes a draw of the element's lane. -/
def Scan.step (c : Scan) (op : Nat) (t : Ety) (wrapW : Nat) (mode : Rm) (l : Nat) (x : Fv) (pz : Bool) : Scan :=
  match c.acc with
  | none => { c with acc := some x, fl := { FpFlags.none with iv := x.isSig }, pz := c.pz || pz }
  | some a =>
    let draws := mode = .sr ∧ t.isFp ∧ op = 0
    let st := srNext (c.sr.getD l 0)
    let (v, fl) := combine op t wrapW mode st a x
    { acc := some v, fl := fl, pz := c.pz || pz, sr := if draws then lset c.sr l st else c.sr }

/-- The scan over the active elements, each result rounded and written to its own lane (R140). -/
def scanGo (r : Rnd) (act : W32) (op : Nat) (t : Ety) (a : Vin) (fzi : Bool) : Scan → List Nat → Scan × List Out
  | c, [] => (c, [])
  | c, j :: rest =>
    let l := laneOf t.width j
    if !bitAt act l then scanGo r act op t a fzi c rest
    else
      let c1 := c.step op t r.ty.width r.mode l (t.read fzi (a.elem t.width j)) (a.poison t.width j)
      let (sr, outs) := roundAll r act c1.sr [(j, ⟨c1.acc.getD (.nan false), false, c1.fl, c1.pz⟩)]
      let out := scanGo r act op t a fzi { c1 with sr := sr } rest
      (out.1, outs ++ out.2)

/-- The final value of a scan, with the flags of every combining step (R141). -/
def redGo (act : W32) (op : Nat) (t : Ety) (mode : Rm) (a : Vin) (fzi : Bool) : Scan → FpFlags → List Nat → Scan × FpFlags
  | c, fl, [] => (c, fl)
  | c, fl, j :: rest =>
    let l := laneOf t.width j
    if !bitAt act l then redGo act op t mode a fzi c fl rest
    else
      let c1 := c.step op t t.width mode l (t.read fzi (a.elem t.width j)) (a.poison t.width j)
      redGo act op t mode a fzi c1 (if c1.pz then fl else fl.or c1.fl) rest

/-- The element type and mode that VSCAN and VRED read from qb and tr (R81, R140). -/
def scanType (f : XVec) : Ety × Rm :=
  if bitAt f.qb 2 then (.fp (fpType f.tr), fpMode f.tr) else (.int (intType f.tr).1 (intType f.tr).2, intMode f.tr)

/-- VSCAN into results of type `td` (R140). -/
def vscan (s : State) (f : XVec) (t td : Ety) (mode : Rm) (lat : Nat) : Effect :=
  let w := t.width
  vecStart s f td.width (fun act => pop1 s f.qa (entries w) (fun s a =>
    let (c, outs) := scanGo (rndOf s f td mode t.isFp) act (fld f.qb 0 2).toNat t a s.cur.fzi
      ⟨none, FpFlags.none, false, s.cur.srseed⟩ (List.range (perVec w))
    .done (writeOuts (s.modCur (fun x => { x with srseed := c.sr })) f td.width lat outs)))

def execVscan (f : XVec) (s : State) :=
  let (t, mode) := scanType f
  s.issue .x (vscan s f t t mode 6)
def execVscanWide (f : XVec) (s : State) :=
  let sg := (intType f.tr).2
  s.issue .x (vscan s f (.int 32 sg) (.int 64 sg) (intMode f.tr) 8)

/-- VRED (R141). -/
def vred (s : State) (f : XVec) : Effect :=
  let (t, mode) := scanType f
  let w := t.width
  vecStart s f w (fun act => pop1 s f.qa (entries w) (fun s a =>
    let (c, fl) := redGo act (fld f.qb 0 2).toNat t mode a s.cur.fzi
      ⟨none, FpFlags.none, false, s.cur.srseed⟩ FpFlags.none (List.range (perVec w))
    match c.acc with
    | none => .done s
    | some v =>
      vecFinish (s.modCur (fun x => { x with srseed := c.sr })) f (rndOf s f t mode t.isFp) 6 act
        ((List.range (perVec w)).map (fun j => (j, ⟨v, false, fl, c.pz⟩)))))

def execVred (f : XVec) (s : State) := s.issue .x (vred s f)

/-! Moves (R127, R142, R143). -/

/-- Write whole lanes of a move: the data travels with its tag, and a lane whose choice is poisoned is free (R52, R142). -/
def moveLanes (s : State) (f : XVec) (lat : Nat) (lanes : List (W32 × Bool × Bool)) : Effect :=
  let l := (List.range 32).map (fun i =>
    let x := lanes.getD i (0, false, false)
    some (if x.2.2 then (fld (Config.freeWord (s.fresh + i)) 0 32, true) else (x.1, x.2.1)))
  .done { s.modCur (fun c => c.emits .x lat (sliceWrites s.me f.dreg.toNat f.dir f.slice.toNat l)) with fresh := s.fresh + 32 }

/-- A lane of a source with its poison. -/
def Vin.lane (v : Vin) (i : Nat) : W32 × Bool := (v.lo.getD i 0, v.pz.getD i false)

/-- VPERM (R142). -/
def execVperm (f : XVec) (s : State) :=
  s.issue .x (vecStart s f 32 (fun _ => pop2 s f.qa f.qb 1 (fun s a b =>
    moveLanes s f 3 ((List.range 32).map (fun i =>
      let x := b.lane i
      if x.2 then (0, true, true)
      else if bitAt x.1 7 then (0, false, false)
      else
        let y := a.lane (fld x.1 0 5).toNat
        (y.1, y.2, false))))))

/-- VROT (R142). -/
def execVrot (f : XVec) (ext : BitVec 32) (s : State) :=
  let t := thirdOf s.cur ext 32 false
  s.issue .x (vecStart s f 32 (fun _ => pop1 s f.qa 1 (fun s a =>
    moveLanes s f 2 ((List.range 32).map (fun i =>
      let y := a.lane ((i + t.1) % 32)
      (y.1, y.2 || t.2.isSome, t.2.isSome))))))

/-- Every element made from a function of its number, as whole lanes. -/
def fillOuts (w : Nat) (pz : Bool) (g : Nat → Nat) : List Out :=
  (List.range (perVec w)).map (fun j => ⟨j, g j, FpFlags.none, pz⟩)

/-- VBCAST (R142). -/
def execVbcast (f : XVec) (ext : BitVec 32) (s : State) :=
  let (w, sg) := intType f.tr
  let t := thirdOf s.cur ext w sg
  let ws (l : List Write) : Effect := .done (s.modCur (fun c => c.emits .x 2 l))
  s.issue .x (vecStart s f w (fun _ =>
    match t.2 with
    | none => .done (writeOuts s f w 2 (fillOuts w false (fun _ => t.1)))
    | some _ =>
      let v := (List.range (perLane w)).foldl (fun a k => a + t.1 * 2 ^ (k * w)) 0
      ws (destWrites s f w ((List.range 32).map (fun _ => some (BitVec.ofNat 32 v, BitVec.ofNat 32 (v / 2 ^ 32), true))))))

/-- VSEL (R142). -/
def execVsel (f : XVec) (ext : BitVec 32) (s : State) :=
  let p := s.cur.rp (fld ext 0 4).toNat
  let v := if bitAt ext 4 then ~~~p.v else p.v
  s.issue .x (vecStart s f 32 (fun _ => pop2 s f.qa f.qb 1 (fun s a b =>
    moveLanes s f 2 ((List.range 32).map (fun i =>
      let y := if bitAt v i then a.lane i else b.lane i
      (y.1, y.2 || p.pz.isSome, p.pz.isSome))))))

/-- VMOV (R142). -/
def execVmov (f : XVec) (s : State) :=
  s.issue .x (vecStart s f 32 (fun _ => pop1 s f.qa 1 (fun s a =>
    moveLanes s f 1 ((List.range 32).map (fun i => ((a.lane i).1, (a.lane i).2, false))))))

/-- VLANE (R142). -/
def execVlane (f : XVec) (s : State) :=
  let (w, _) := intType f.tr
  s.issue .x (vecStart s f w (fun _ => .done (writeOuts s f w 2 (fillOuts w false (fun j => j % 2 ^ w)))))

/-- VEXT (R143): a move, so that the element goes with its tag (R127). -/
def execVext (f : XVec) (ext : BitVec 32) (s : State) :=
  let (w, sg) := intType f.tr
  let idx := (fld ext 0 8).toNat
  s.issue .x
    (if perVec w ≤ idx then illegalOperand .x
     else pop1 s f.qa (entries w) (fun s a =>
      .done (s.modCur (fun c => c.emitS .x 3 (fld f.dreg 0 6) (BitVec.ofInt 64 (intVal w sg (a.elem w idx)))
        (if a.poison w idx then some (dataPz 0) else none)))))

/-- VINS (R143). -/
def execVins (f : XVec) (ext : BitVec 32) (s : State) :=
  let (w, _) := intType f.tr
  let idx := (fld ext 0 8).toNat
  let x := s.cur.rs (fld ext 8 6).toNat
  let i := laneOf w idx
  let put (k : Nat) (v : W32) (p : Bool) : Write :=
    .bytes (sliceAddr s.me f.dreg.toNat f.dir k i) (natLe 4 v.toNat) p
  s.issue .x (vecStart s f w (fun _ =>
    if perVec w ≤ idx then illegalOperand .x
    else if w = 64 then
      .done (s.modCur (fun c => c.emits .x 2
        [put f.slice.toNat (fld x.v 0 32) x.pz.isSome, put (f.slice.toNat + 1) (fld x.v 32 32) x.pz.isSome]))
    else
      let old := s.word (sliceAddr s.me f.dreg.toNat f.dir f.slice.toNat i)
      let sh := idx % (32 / w) * w
      let keep := old.1.toNat - old.1.toNat / 2 ^ sh % 2 ^ w * 2 ^ sh
      let v := BitVec.ofNat 32 (keep + x.v.toNat % 2 ^ w * 2 ^ sh)
      .done (s.modCur (fun c => c.emit .x 2
        (put f.slice.toNat v (x.pz.isSome || (decide (w < 32) && old.2)))))))

end Sys2Proof.Machine
end

