-- ==== Sys2Proof/Machine/Ladle.lean ====
section
/-! DEFINITION. Ladles: bound queues and their slots (R327 to R331), packets (R332 to R334), their operations (R335) and failures (R336). -/

namespace Sys2Proof.Machine

/-! Fields of a packet (R332, R334). -/

/-- Doubleword k of a packet. -/
def pdw (p : List Byte) (k : Nat) : Nat := leNat ((p.drop (8 * k)).take 8)
def pOp (p : List Byte) : Nat := pdw p 0 / 2 ^ 16 % 256
def pWen (p : List Byte) : Bool := (pdw p 0).testBit 24
def pSen (p : List Byte) : Bool := (pdw p 0).testBit 25
def pWsem (p : List Byte) : Nat := pdw p 0 / 2 ^ 26 % 1024
def pSsem (p : List Byte) : Nat := pdw p 0 / 2 ^ 36 % 1024
def pSinc (p : List Byte) : Nat := pdw p 2 % 2 ^ 32
def pP2 (p : List Byte) : Nat := pdw p 2 / 2 ^ 32

/-- An address doubleword that is a multiple of `m`. -/
def pAddrOk (p : List Byte) (k m : Nat) : Bool := decide (pdw p k < 2 ^ 52) && pdw p k % m == 0

/-- Whether a packet's fields are right (R334; ESTAT 0x04). -/
def packetOk (p : List Byte) : Bool :=
  let zero (k : Nat) : Bool := pdw p k == 0
  decide (pdw p 0 < 2 ^ 46) &&
  match pOp p with
  | 0 => pP2 p == 0 && zero 3 && zero 4 && zero 5 && zero 6 && zero 7
  | 1 => pP2 p / 2 ^ 16 % 2 ^ 15 == 0 && pAddrOk p 3 1 && pAddrOk p 4 1 && decide (pdw p 5 < 2 ^ 40) && zero 6 && zero 7
  | 2 => pP2 p == 0 && pAddrOk p 3 8 && decide (pdw p 4 < 2 ^ 40) && pdw p 4 % 8 == 0 && zero 6 && zero 7
  | 3 => pP2 p == 0 && pAddrOk p 3 4 && pAddrOk p 4 1 && pAddrOk p 5 1 && decide (pdw p 6 < 2 ^ 38)
      && pdw p 6 / 2 ^ 32 % 4 != 3 && decide (pdw p 6 / 2 ^ 35 ≤ 4) && decide (pdw p 7 < 2 ^ 32)
  | 4 => pP2 p == 0 && pAddrOk p 3 4 && pAddrOk p 4 1 && pAddrOk p 5 2 && decide (pdw p 6 < 2 ^ 36) && zero 7
  | 5 => decide (pP2 p < 64) && pAddrOk p 3 1 && pAddrOk p 4 64 && pAddrOk p 5 1 && decide (pdw p 6 < 2 ^ 21)
      && pdw p 6 / 2 ^ 9 % 16 == 0 && decide (pdw p 6 / 2 ^ 17 ≤ 6)
      && decide (pdw p 6 % 512 + 1 ≤ (if efmtHalf (pdw p 6 / 2 ^ 17) then 128 else 256)) && pAddrOk p 7 16
  | 6 => decide (pP2 p ≤ 1) && pAddrOk p 3 1 && pAddrOk p 4 64 && decide (pdw p 5 < 2 ^ 40) && zero 6 && zero 7
  | _ => false

/-- PEN and PEER of a COPY. -/
def pPen (p : List Byte) : Bool := (pP2 p).testBit 31
def pPeer (p : List Byte) : Nat := pP2 p % 2 ^ 16

/-- COPY source and destination overlap (ESTAT 0x05). -/
def State.copyOverlap (s : State) (x : Nat) (p : List Byte) : Bool :=
  pOp p == 1 && (!pPen p || s.rankOwn x (pPeer p)) && pdw p 5 != 0
    && decide (pdw p 3 < pdw p 4 + pdw p 5) && decide (pdw p 4 < pdw p 3 + pdw p 5)

/-! Queues (R327, R328). -/

/-- The binding of a context's queue. -/
def State.lq (s : State) (x q : Nat) : Option LadleBind := (s.context x).bind (fun cx => tget none cx.lqs q)
def State.setLq (s : State) (x q : Nat) (b : LadleBind) : State :=
  match s.context x with
  | some cx => s.setContext x { cx with lqs := tset none cx.lqs q (some b) }
  | none => s

def State.ladle (s : State) (l : Nat) : Ladle := tget Ladle.reset s.ladles l
def State.setLadle (s : State) (l : Nat) (v : Ladle) : State := { s with ladles := tset Ladle.reset s.ladles l v }

/-- The queues bound to a ladle, in ascending number, from the one whose turn is next (R328); those of a context that has been switched off the module too, for its bindings stay in place (R353). -/
def State.turnOrder (s : State) (l : Nat) : List (Nat × Nat × LadleBind) :=
  let all := s.contexts.flatMap (fun c =>
    match c.2 with
    | some cx =>
      if cx.dead then []
      else cx.lqs.filterMap (fun e => match e.2 with | some b => (if b.ladle = l then some (c.1, e.1, b) else none) | none => none)
    | none => [])
  let t := (s.ladle l).turn
  all.filter (fun e => decide (t ≤ 256 * e.1 + e.2.1)) ++ all.filter (fun e => decide (256 * e.1 + e.2.1 < t))

/-- RIDX of a queue. -/
def State.ridx (s : State) (b : LadleBind) : Nat := s.rdNatC (b.hdr + 8) 8

/-- The virtual address of the head slot (R327). -/
def State.slotVa (s : State) (b : LadleBind) : Nat := (b.base + 64 * (s.ridx b % 2 ^ (b.lsz + 4))) % 2 ^ 52

/-- What the head of a queue gives: nothing to take, a failure, a poisoned page-table entry, or a packet. -/
inductive Head where
  | none
  | fail (estat : Nat)
  | fatal (a : Nat)
  | packet (s : State) (p : List Byte)

/-- Look at the head slot of a queue (R328, R331, R336). A queue whose header is poisoned is passed over. -/
def State.headOf (s : State) (x : Nat) (b : LadleBind) : Head :=
  if s.pzC b.hdr 64 || decide (128 ≤ s.rdNatC (b.hdr + 31) 1) || decide (s.rdNatC b.hdr 8 ≤ s.ridx b) then .none
  else
    match b.held with
    | some p => .packet s p
    | none =>
      match s.translate x Option.none (s.slotVa b) 64 false false with
      | .miss => .fail 1
      | .prot => .fail 2
      | .bad a => .fatal a
      | .held => .none
      | .ok s1 t =>
        let d := s1.peek t.pa 64
        if d.any (·.2) then .fail 3
        else
          let p := d.map (·.1)
          if pdw p 0 % 65536 = s.ridx b % 65536 then .packet s1 p else .none

/-- A packet fails (R336): ESTAT, EIDX and HALT are written, and the failure is reported. -/
def State.failPacket (s : State) (x q estat : Nat) : State :=
  match s.lq x q with
  | none => s
  | some b =>
    let s1 := s.poke (b.hdr + 24) (natLe 6 (s.ridx b) ++ [BitVec.ofNat 8 estat, 0x80]) false
    (s1.setLq x q { b with held := none }).send (.errorReport (0x100 + estat))

/-- The ladle performs nothing, and the next queue has the turn. -/
def State.ladleDone (s : State) (l x q : Nat) : State := s.setLadle l ⟨none, [], 256 * x + q + 1, false⟩

/-- Take the first queue of a list whose head can start (R328, R333). -/
def State.takeSlot (s : State) (l : Nat) : List (Nat × Nat × LadleBind) → State
  | [] => s
  | (x, q, b) :: rest =>
    match s.headOf x b with
    | .none => State.takeSlot s l rest
    | .fail e => (s.failPacket x q e).ladleDone l x q
    | .fatal a => { s with fatal := s.fatal ++ [⟨x, fatalTable, a, 0⟩] }
    | .packet s1 p =>
      if !packetOk p then (s1.failPacket x q 4).ladleDone l x q
      else if s1.copyOverlap x p then (s1.failPacket x q 5).ladleDone l x q
      else
        let (v, pz) := s1.sem (pWsem p)
        if pWen p && pz then (s1.failPacket x q 3).ladleDone l x q
        else if pWen p && decide (v.toNat < pdw p 1) then State.takeSlot (s1.setLq x q { b with held := some p }) l rest
        else (s1.setLq x q { b with held := none }).setLadle l ⟨some (x, q), p, 256 * x + q + 1, false⟩

/-- A ladle that performs nothing takes a packet (R328, R331, R333). -/
def State.look (s : State) (l : Nat) : State :=
  if (s.ladle l).busy.isSome || s.checked then s else s.takeSlot l (s.turnOrder l)

/-- LADLE_SLOT_TAKE (R331). -/
def execLadleSlotTake (ladle : Nat) (s : State) : Result := .next (s.look ladle)

/-- LADLE_WAKE (R328): a write to a watched line wakes the ladle of the queue, which looks at its queues again. -/
def execLadleWake (ctx q : Nat) (s : State) : Result :=
  match s.lq ctx q with
  | some b => .next (s.look b.ladle)
  | none => .next s

/-! Operations. -/

/-- What an operation comes to. -/
inductive LadleOut where
  | done (s : State)
  | fail (s : State) (estat : Nat)
  | fatal (a : Nat)
  | wait

/-- The end of a packet, its writes being visible: the semaphore is added to, and RIDX rises (R250, R333). -/
def State.ladleEnd (s : State) (l x q : Nat) (p : List Byte) : State :=
  let s1 := if pSen p then s.addSem (pSsem p) (BitVec.ofNat 64 (pSinc p)) else s
  match s1.lq x q with
  | none => s1.ladleDone l x q
  | some b => (s1.poke (b.hdr + 8) (natLe 8 (s1.ridx b + 1)) false).ladleDone l x q

/-- Whether a packet writes on another module. -/
def State.packetFar (s : State) (x : Nat) (p : List Byte) : Bool := pOp p == 1 && pPen p && !s.rankOwn x (pPeer p) && pdw p 5 != 0

/-- A packet that a ladle performs (R333). One that writes on another module ends when its writes are visible there, at an instant that no message of the manual tells (R250). -/
def ladleOp (l op : Nat) (k : State → Nat → List Byte → LadleOut) (s : State) : Result :=
  let ld := s.ladle l
  match ld.busy with
  | none => .next s
  | some (x, q) =>
    if pOp ld.packet ≠ op then .next s
    else if ld.owed then .next (if Config.freeVerdict s.fresh then s.bump.ladleEnd l x q ld.packet else s.bump)
    else
      match k s x ld.packet with
      | .wait => .next s
      | .fatal a => .next { s with fatal := s.fatal ++ [⟨x, fatalTable, a, 0⟩] }
      | .fail s1 e => .next ((s1.failPacket x q e).ladleDone l x q)
      | .done s1 =>
        .next (if s.packetFar x ld.packet then s1.setLadle l { s1.ladle l with owed := true } else s1.ladleEnd l x q ld.packet)

/-- One address on each 4 KiB of a range, and the pieces of the range that begin there. -/
def rangePages (va n : Nat) : List Nat :=
  if n = 0 then [] else va :: ((List.range (n / 4096 + 1)).map (fun i => (va / 4096 + i + 1) * 4096)).filter (fun a => decide (a < va + n))

def rangeParts (va n : Nat) : List (Nat × Nat) := (rangePages va n).map (fun a => (a, min ((a / 4096 + 1) * 4096) (va + n) - a))

abbrev Pins := List (Nat × Nat × Nat)

/-- Translate and pin the ranges of a packet in order, each an address, a length and whether it is written (R336, R361, R403), and run `k` with their pins; the pins are released at the end. -/
def withRanges (s : State) (x : Nat) (rs : List (Nat × Nat × Bool)) (acc : List Pins) (k : State → List Pins → LadleOut) : LadleOut :=
  let free (s : State) : State := acc.foldl (fun s p => s.release x p) s
  match rs with
  | [] =>
    match k s acc with
    | .done s1 => .done (free s1)
    | .fail s1 e => .fail (free s1) e
    | r => r
  | (va, n, wr) :: rest =>
    match s.submit x wr (rangeParts va n) [] with
    | .wait => .wait
    | .miss _ => .fail (free s) 1
    | .prot _ => .fail (free s) 2
    | .bad a => .fatal a
    | .ok s1 pins =>
      if wr && (rangePages va n).any (fun a => match boundAddr pins a with | some pa => s1.sealedAt pa | none => false)
      then .fail ((free s1).release x pins) 2
      else withRanges s1 x rest (acc ++ [pins]) k

/-- Read bytes of a bound range one by one. -/
def State.boundRead (s : State) (x : Nat) (pins : Pins) (va : Nat) : Nat → Far (List (Byte × Bool))
  | 0 => .ok []
  | n + 1 =>
    match (match boundAddr pins va with | some pa => s.farRead x none pa 1 | none => .fail 3) with
    | .ok b =>
      match State.boundRead s x pins (va + 1) n with
      | .ok l => .ok (b ++ l)
      | r => r
    | .fail e => .fail e
    | .wait => .wait
    | .dead a => .dead a

/-- Cut bytes at the aligned 8-byte boundaries of their addresses. -/
def split8 {α : Type} : Nat → Nat → List α → List (Nat × List α)
  | 0, _, _ => []
  | _, _, [] => []
  | k + 1, va, x :: xs =>
    let n := 8 - va % 8
    (va, (x :: xs).take n) :: split8 k (va + n) ((x :: xs).drop n)

/-- The unit in which a ladle writes a bound range at an address: 8 bytes, and whole blocks of a code table (R198). -/
def writeUnit (pins : Pins) (va : Nat) : Nat :=
  match boundAddr pins va with
  | some pa => if isTable pa then 64 else 8
  | none => 8

/-- Cut bytes at the boundaries of the units of their addresses. -/
def splitUnits {α : Type} (pins : Pins) : Nat → Nat → List α → List (Nat × List α)
  | 0, _, _ => []
  | _, _, [] => []
  | k + 1, va, x :: xs =>
    let n := writeUnit pins va - va % writeUnit pins va
    (va, (x :: xs).take n) :: splitUnits pins k (va + n) ((x :: xs).drop n)

/-- Write aligned pieces of a bound range. -/
def State.boundPieces (s : State) (x : Nat) (pins : Pins) :
    List (Nat × List (Byte × Bool)) → Far State
  | [] => .ok s
  | (va, d) :: rest =>
    match (match boundAddr pins va with | some pa => s.farWrite x none pa (d.map Prod.fst) (d.any Prod.snd) | none => .fail 3) with
    | .ok s1 => State.boundPieces s1 x pins rest
    | r => r

/-- Write bytes with their poison. -/
def State.boundWrite (s : State) (x : Nat) (pins : Pins) (va : Nat) (d : List (Byte × Bool)) : Far State :=
  s.boundPieces x pins (splitUnits pins d.length va d)

/-- Go through a list until an operation fails. -/
def eachOut {α : Type} (f : State → α → LadleOut) (s : State) : List α → LadleOut
  | [] => .done s
  | a :: rest =>
    match f s a with
    | .done s1 => eachOut f s1 rest
    | r => r

/-- The outcome of a write in an operation; a refused access is a protection failure. -/
def outOf (s : State) (r : Far State) : LadleOut :=
  match r with
  | .ok s1 => .done s1
  | .fail _ => .fail s 2
  | .wait => .wait
  | .dead a => .fatal a

/-- NOPK (R335). -/
def execNopk (ladle : Nat) (s : State) := ladleOp ladle 0 (fun s _ _ => .done s) s

/-- Write a piece to the device of a rank for a COPY (R335; ESTAT 0x08). -/
def State.copyPeer (s : State) (x l rank va : Nat) (d : List (Byte × Bool)) : LadleOut :=
  match s.rankModule x rank with
  | none => .fail s 8
  | some md =>
    if s.rankOwn x rank then
      match s.gateWrite x none va (d.map (·.1)) (d.any (·.2)) true with
      | .ok s1 => .done s1
      | .fail _ => .fail s 8
      | .wait => .wait
      | .dead a => .fatal a
    else
      match s.peerStatus (l / 4) md va d.length with
      | some _ => .fail s 8
      | none => .done (s.send (.store x md va (d.map (·.1)) (d.any (·.2)) (4096 + l) 0 true))

/-- COPY (R335): aligned 8-byte pieces of the destination, ascending; in a code table, its 64-byte blocks (R198). -/
def execCopy (ladle : Nat) (s : State) :=
  ladleOp ladle 1 (fun s x p =>
    let n := pdw p 5
    let dst := pdw p 4
    withRanges s x ([(pdw p 3, n, false)] ++ (if pPen p then [] else [(dst, n, true)])) [] (fun s pins =>
      eachOut (fun s (u : Nat × List Nat) =>
        match s.boundRead x (pins.getD 0 []) (pdw p 3 + (u.1 - dst)) u.2.length with
        | .wait => .wait
        | .dead a => .fatal a
        | .fail _ => .fail s 2
        | .ok d =>
          if pPen p then s.copyPeer x ladle (pPeer p) u.1 d
          else outOf s (s.boundWrite x (pins.getD 1 []) u.1 d)) s (splitUnits (pins.getD 1 []) n dst (List.range n)))) s

/-- FILL (R335). -/
def execFill (ladle : Nat) (s : State) :=
  ladleOp ladle 2 (fun s x p =>
    withRanges s x [(pdw p 3, pdw p 4, true)] [] (fun s pins =>
      eachOut (fun s i => outOf s (s.boundWrite x (pins.getD 0 []) (pdw p 3 + 8 * i) ((natLe 8 (pdw p 5)).map (fun b => (b, false)))))
        s (List.range (pdw p 4 / 8)))) s

/-- The words of a block, with whether any is poisoned. -/
def blockWords (d : List (Byte × Bool)) : List Fv × Bool :=
  ((wordsOf (d.map (·.1))).map (fun w => Fmt.f32.decode w.toNat), d.any (·.2))

/-- Codes packed as bytes: 8-bit codes, or two 4-bit codes in a byte, the even one low. -/
def packCodes (half : Bool) (l : List Nat) : List Byte :=
  if half then (List.range (l.length / 2)).map (fun i => BitVec.ofNat 8 (l.getD (2 * i) 0 + 16 * l.getD (2 * i + 1) 0))
  else l.map (BitVec.ofNat 8)

/-- A result with poison has free bytes (R52). -/
def State.maybeFree (s : State) (poison : Bool) (d : List Byte) : List (Byte × Bool) :=
  if poison then (List.range d.length).map (fun i => (Config.freeByte s.fresh i, true)) else d.map (fun b => (b, false))

/-- The draws of a stochastic generator for `n` elements, from its state on (R23). -/
def draws : Nat → W32 → List W32
  | 0, _ => []
  | n + 1, st => srNext st :: draws n (srNext st)

/-- QMX (R335). -/
def execQmx (ladle : Nat) (s : State) :=
  ladleOp ladle 3 (fun s x p =>
    let nblk := pdw p 6 % 2 ^ 32
    let elem := mxElem (pdw p 6 / 2 ^ 32 % 4)
    let half := decide (elem = .e2m1)
    let sz := if half then 16 else 32
    let mode := rmOf (pdw p 6 / 2 ^ 35 % 8)
    let seed : W32 := BitVec.ofNat 32 (pdw p 7)
    withRanges s x [(pdw p 3, 128 * nblk, false), (pdw p 4, sz * nblk, true), (pdw p 5, nblk, true)] [] (fun s pins =>
      eachOut (fun s b =>
        match s.boundRead x (pins.getD 0 []) (pdw p 3 + 128 * b) 128 with
        | .wait => .wait
        | .dead a => .fatal a
        | .fail _ => .fail s 2
        | .ok d =>
          let (vs, pz) := blockWords d
          let st := (draws (32 * (b + 1)) seed).drop (32 * b)
          let (scale, codes, _) := mxQuantise vs elem ((pdw p 6).testBit 34) mode st
          match s.boundWrite x (pins.getD 1 []) (pdw p 4 + sz * b) (s.maybeFree pz (packCodes half codes)) with
          | .ok s1 => outOf s1 (s1.bump.boundWrite x (pins.getD 2 []) (pdw p 5 + b) (s1.bump.maybeFree pz [BitVec.ofNat 8 scale]))
          | .fail _ => .fail s 2
          | .wait => .wait
          | .dead a => .fatal a) s (List.range nblk))) s

/-- A context's code table in the store of stack `k`, checked (R196, R198, R336): the bytes, or the ESTAT. -/
def State.ladleTable (s : State) (k x n : Nat) : Except Nat (List Byte) :=
  let a := tableBase + 4096 * x + 256 * n
  let t := s.rdB a 256
  if s.pzB a 256 || s.tableBad k a then .error 3
  else if !tableSound t || decide (2 ^ 15 < kraft t) then .error 6
  else .ok t

/-- QCB4 (R335). -/
def execQcb4 (ladle : Nat) (s : State) :=
  ladleOp ladle 4 (fun s x p =>
    let nblk := pdw p 6 % 2 ^ 32
    withRanges s x [(pdw p 3, 128 * nblk, false), (pdw p 4, 16 * nblk, true), (pdw p 5, 2 * nblk, true)] [] (fun s pins =>
      if nblk = 0 then .done s
      else
        match s.ladleTable (ladle / 4) x (pdw p 6 / 2 ^ 32 % 16) with
        | .error e => .fail s e
        | .ok t =>
          let cb := (chunksOf 2 16 ((t.drop 128).take 32)).map (fun b => Fmt.f16.decode (leNat b))
          eachOut (fun s b =>
            match s.boundRead x (pins.getD 0 []) (pdw p 3 + 128 * b) 128 with
            | .wait => .wait
            | .dead a => .fatal a
            | .fail _ => .fail s 2
            | .ok d =>
              let (vs, pz) := blockWords d
              let (scale, ix) := cb4Encode vs cb
              match s.boundWrite x (pins.getD 1 []) (pdw p 4 + 16 * b) (s.maybeFree pz (packCodes true ix)) with
              | .ok s1 => outOf s1 (s1.bump.boundWrite x (pins.getD 2 []) (pdw p 5 + 2 * b) (s1.bump.maybeFree pz (natLe 2 scale)))
              | .fail _ => .fail s 2
              | .wait => .wait
              | .dead a => .fatal a) s (List.range nblk))) s

/-! INGOT (R193, R194, R335). -/

/-- Bits packed into bytes, each from its most significant bit down, the last padded with zeros (R194). -/
def packBits : Nat → List Bool → List Byte
  | 0, _ => []
  | _, [] => []
  | k + 1, b :: bs =>
    let h := (b :: bs).take 8
    BitVec.ofNat 8 (bitsVal h * 2 ^ (8 - h.length)) :: packBits k ((b :: bs).drop 8)

/-- The bits of a codeword. -/
def codeBits (codes : List (Nat × Nat × Nat)) (sym : Nat) : Option (List Bool) :=
  (codes.find? (fun c => c.2.2 = sym)).map (fun c => (List.range c.1).map (fun i => c.2.1.testBit (c.1 - 1 - i)))

/-- A lane's substream: the restart marker and the codewords, or the ESTAT of the first symbol that fails. -/
def laneStream (codes : List (Nat × Nat × Nat)) (syms : List (Byte × Bool)) : Except Nat (List Byte) :=
  let bits := syms.foldl (fun (a : Except Nat (List Bool)) y =>
    match a with
    | .error e => .error e
    | .ok l =>
      if y.2 then .error 3
      else match codeBits codes y.1.toNat with
        | some b => .ok (l ++ b)
        | none => .error 7) (.ok [])
  match bits with
  | .error e => .error e
  | .ok l => .ok ([0xA7, 0xC5] ++ packBits l.length l)

/-- The substreams of all lanes, or the first failure. -/
def allStreams (codes : List (Nat × Nat × Nat)) (src : List (Byte × Bool)) (nsym : Nat) : List Nat → Except Nat (List (List Byte))
  | [] => .ok []
  | j :: rest =>
    match laneStream codes ((List.range nsym).map (fun n => src.getD (32 * n + j) (0, false))) with
    | .error e => .error e
    | .ok a =>
      match allStreams codes src nsym rest with
      | .error e => .error e
      | .ok l => .ok (a :: l)

/-- The segment's bytes without its scale block, and its header. -/
def headerOfStreams (l : List (List Byte)) : List Byte := l.flatMap (fun b => natLe 2 b.length)

/-- INGOT (R335). The destination's range is the extent of the segment (R193). -/
def execIngot (ladle : Nat) (s : State) :=
  ladleOp ladle 5 (fun s x p =>
    let nsym := pdw p 6 % 512 + 1
    let ctab := pdw p 6 / 2 ^ 13 % 16
    let efmt := pdw p 6 / 2 ^ 17
    let een := (pP2 p).testBit 5
    let entry := pdw p 7 + 16 * (pP2 p % 32)
    withRanges s x [(pdw p 3, 32 * nsym, false)] [] (fun s pins0 =>
      match s.boundRead x (pins0.getD 0 []) (pdw p 3) (32 * nsym) with
      | .wait => .wait
      | .dead a => .fatal a
      | .fail _ => .fail s 2
      | .ok src =>
        let table := s.ladleTable (ladle / 4) x ctab
        let streams := match table with
          | .ok t => allStreams (codewords t) src nsym (List.range 32)
          | .error e => .error e
        let size := 64 + scaleBytes efmt + (match streams with | .ok l => (l.map List.length).sum | .error _ => 0)
        withRanges s x ([(pdw p 4, size, true), (pdw p 5, scaleBytes efmt, false)] ++ (if een then [(entry, 16, true)] else [])) []
          (fun s pins =>
          match table with
          | .error e => .fail s e
          | .ok _ =>
            match s.boundRead x (pins.getD 1 []) (pdw p 5) (scaleBytes efmt) with
            | .wait => .wait
            | .dead a => .fatal a
            | .fail _ => .fail s 2
            | .ok sc =>
              if sc.any (·.2) then .fail s 3
              else
                match streams with
                | .error e => .fail s e
                | .ok l =>
                  let header := headerOfStreams l
                  let seg := header ++ sc.map (·.1) ++ l.flatten
                  let off := pdw p 4 - pdw p 7
                  match s.boundWrite x (pins.getD 0 []) (pdw p 4) (seg.map (fun b => (b, false))) with
                  | .wait => .wait
                  | .dead a => .fatal a
                  | .fail _ => .fail s 2
                  | .ok s1 =>
                    if !een then .done s1
                    else if pdw p 4 < pdw p 7 ∨ off % 64 ≠ 0 ∨ 2 ^ 32 ≤ off then .fail s1 7
                    else
                      let e := (crc32c header).toNat * 2 ^ 96 + efmt * 2 ^ 84 + ctab * 2 ^ 80 + off
                      outOf s1 (s1.boundWrite x (pins.getD 2 []) entry ((natLe 16 e).map (fun b => (b, false))))))) s

/-- HIST (R335): a poisoned input byte fails the packet after the counts before it. -/
def execHist (ladle : Nat) (s : State) :=
  ladleOp ladle 6 (fun s x p =>
    let n := pdw p 5
    if n = 0 then .done s
    else
      withRanges s x [(pdw p 3, n, false), (pdw p 4, 1024, true)] [] (fun s pins =>
        match s.boundRead x (pins.getD 0 []) (pdw p 3) n, s.boundRead x (pins.getD 1 []) (pdw p 4) 1024 with
        | .ok src, .ok old =>
          let acc := (pP2 p).testBit 0
          if acc && old.any (·.2) then .fail s 3
          else
            let good := src.takeWhile (fun b => !b.2)
            let ws := (wordsOf (old.map (·.1)))
            let new := (List.range 256).flatMap (fun k =>
              natLe 4 (((if acc then (ws.getD k 0).toNat else 0) + (good.filter (fun b => b.1.toNat = k)).length) % 2 ^ 32))
            match s.boundWrite x (pins.getD 1 []) (pdw p 4) (new.map (fun b => (b, false))) with
            | .wait => .wait
            | .dead a => .fatal a
            | .fail _ => .fail s 2
            | .ok s1 => if good.length < n then .fail s1 3 else .done s1
        | .wait, _ => .wait
        | _, .wait => .wait
        | .dead a, _ => .fatal a
        | _, .dead a => .fatal a
        | _, _ => .fail s 2)) s

end Sys2Proof.Machine
end

