-- ==== Sys2Proof/Machine/Mailbox.lean ====
section
/-! DEFINITION. The mailbox (R368 to R370) and its context commands: CTX_CREATE (R371), CTX_END (R370), TLB_HOLD and TLB_RELEASE (R364), TWIN_SET (R365), ESC_ANSWER (R354), LQ_BIND (R329), CP_START (R320). -/

namespace Sys2Proof.Machine

/-! The request and the response (R368, R369). -/

/-- `n` bytes of a list that stands for a register area, zero where it lists none. -/
def areaBytesAt (l : List Byte) (off n : Nat) : List Byte := (List.range n).map (fun i => l.getD (off + i) 0)

/-- The 8-byte parameter at a byte of the submitted request. -/
def State.param (s : State) (off : Nat) : Nat := leNat (areaBytesAt s.mbox.cmd off 8)

/-- The opcode of the submitted request. -/
def State.opcode (s : State) : Nat := s.param 0 % 65536

/-- What a command comes to: a status with the bytes of its response after byte 8, or a wait in which the command runs on. -/
inductive CmdOut where
  | done (s : State) (status : Nat) (rsp : List Byte)
  | wait

/-- The end of a command (R368, R369): the response, MBST with its tag and status, and the interrupt. -/
def State.finishCmd (s : State) (status : Nat) (rsp : List Byte) : State :=
  let head := s.param 0
  let tag := head / 2 ^ 32
  let st : W64 := BitVec.ofNat 64 (tag * 2 ^ 32 + status % 256 * 2 ^ 8 + 2) ||| (s.mbox.mbst &&& 4)
  let s1 : State := { s with mbox := { s.mbox with rsp := natLe 4 (status % 256) ++ natLe 4 tag ++ rsp, mbst := st } }
  if head.testBit 16 then s1.interrupt 0 else s1

/-- Run a command while the mailbox is busy with its opcode; a request whose zero field is nonzero ends with status 0x02. -/
def mbCommand (op : Nat) (k : State → CmdOut) (s : State) : Result :=
  if !bitAt s.mbox.mbst 0 || s.opcode != op then .next s
  else if s.param 0 / 2 ^ 17 % 2 ^ 15 ≠ 0 then .next (s.finishCmd 2 [])
  else
    match k s with
    | .done s1 st rsp => .next (s1.finishCmd st rsp)
    | .wait => .next s

/-- A command's failure with a status. -/
def CmdOut.fail (s : State) (st : Nat) : CmdOut := .done s st []

/-- Run `k` on a context that exists and has not ended; otherwise the status is 0x05 (R369). -/
def withContext (s : State) (x : Nat) (k : Context → CmdOut) : CmdOut :=
  match s.context x with
  | some cx => if cx.dead then .fail s 5 else k cx
  | none => .fail s 5

/-! Ladle queue tables (R329). -/

/-- The entry of a ladle queue table. -/
def lqEntry (bs : List Byte) : BitVec 128 := BitVec.ofNat 128 (leNat bs)
def lqV (e : BitVec 128) : Bool := bitAt e 63
def lqHdr (e : BitVec 128) : Nat := (fld e 0 52).toNat
def lqFieldsOk (e : BitVec 128) : Bool := fld e 66 62 == 0 && fld e 52 11 == 0 && lqHdr e % 64 == 0

/-- An entry as it stands in memory; a poisoned one fails its check. -/
def State.lqRead (s : State) (table q : Nat) : Option (BitVec 128) :=
  let d := s.peek (table + 16 * q) 16
  if d.any (·.2) then none else some (lqEntry (d.map (·.1)))

/-- The physical address of a header as the tables stand. -/
def State.hdrPhys (s : State) (x va : Nat) : Option Nat :=
  match s.pageAt x va with
  | .leaf _ _ e size => some (s.transOf e size va).pa
  | _ => none

/-- The result of binding a queue. -/
inductive BindOut where
  | ok (s : State)
  | bad
  | full

/-- Bind a queue (R328, R329, R363): the header's page is pinned, and the ladle captures BASE and LSZ. -/
def State.bindQueue (s : State) (x q : Nat) (e : BitVec 128) : BindOut :=
  match s.submit x true [(lqHdr e, 64)] [] with
  | .ok s1 pins =>
    match boundAddr pins (lqHdr e), s1.context x with
    | some pa, some cx =>
      if !isHbm (pa + 63) then .bad
      else
        let h := headerOf ((s1.peek pa 32).map (·.1))
        let l := 4 * (pa / 0x2000000000) + (fld e 64 2).toNat
        .ok (s1.setContext x { cx with lqs := tset none cx.lqs q (some ⟨pa, lqHdr e, h.base, h.lsz, l, none⟩) })
    | _, _ => .bad
  | .wait => .full
  | _ => .bad

/-- Release a queue's header page and its binding. -/
def State.unbindQueue (s : State) (x q : Nat) : State :=
  match s.context x with
  | none => s
  | some cx =>
    match tget none cx.lqs q with
    | none => s
    | some b =>
      let page := match s.pageAt x b.hdrVa with | .leaf v _ _ size => [(v, size, 0)] | _ => []
      (s.release x page).setContext x { cx with lqs := tset none cx.lqs q none }

/-- Whether a queue of a context is bound to the header at an address. -/
def State.headerTaken (s : State) (x va : Nat) : Bool :=
  match s.hdrPhys x va, s.context x with
  | some pa, some cx => cx.lqs.any (fun b => match b.2 with | some b => b.hdr = pa | none => false)
  | _, _ => false

/-- Bind every queue of a table (R329); no two entries name one header. -/
def State.bindAll (s : State) (x table : Nat) : Nat → BindOut
  | 0 => .ok s
  | n + 1 =>
    match State.bindAll s x table n with
    | .ok s1 =>
      match s1.lqRead table n with
      | none => .bad
      | some e =>
        if !lqFieldsOk e then .bad
        else if !lqV e then .ok s1
        else if s1.headerTaken x (lqHdr e) then .bad
        else s1.bindQueue x n e
    | r => r

/-! The rank table (R258). -/

/-- The valid copy of the configuration region with the larger SEQ (R392); true says that it is B. -/
def Boot.newest (b : Boot) : Option (Bool × Seal × ConfigImage) :=
  let valid (x : Option (Seal × ConfigImage)) : Option (Seal × ConfigImage) := x.filter (fun x => x.1.ok && x.1.fmt == 2)
  match valid b.copyA, valid b.copyB with
  | some a, some c => some (if a.1.seq < c.1.seq then (true, c) else (false, a))
  | some a, none => some (false, a)
  | none, some c => some (true, c)
  | none, none => none

/-- The contents of the configuration region that boot reads. -/
def Boot.config (b : Boot) : Option ConfigImage := b.newest.map (fun x => x.2.2)

/-- The module's number in the scale-up domain (R423). -/
def State.ownModule (s : State) : Nat :=
  match s.boot.config with
  | some c => (match c.policy with | w :: _ => (fld w 2 9).toNat | [] => Config.freeModule % 512)
  | none => Config.freeModule % 512

/-- The entries of a rank table; a valid entry with a nonzero zero field spoils it. -/
def rankEntries (ws : List W32) : Option (List (Option Nat)) :=
  if ws.any (fun w => bitAt w 31 && fld w 9 22 != 0) then none
  else some (ws.map (fun w => if bitAt w 31 then some (fld w 0 9).toNat else none))

/-- The checks of a rank table: no module twice, this module once. -/
def ranksOk (own : Nat) (rs : List (Option Nat)) : Bool :=
  let ms := rs.filterMap id
  decide ms.Nodup && ms.any (· = own)

/-! CTX_CREATE (R371). -/

/-- `n` bytes from a physical address that the device can read: they lie in HBM or host memory. -/
def plainRange (a n : Nat) : Bool :=
  decide (a < 2 ^ 52) && ((isHbm a && isHbm (a + n - 1)) || (isHost a && isHost (a + n - 1)))

/-- Whether the parameters lie within their limits. -/
def State.createOk (s : State) : Bool :=
  let p := s.param
  let cqs := p 72 % 65536
  decide (p 8 < 64) && (s.context (p 8)).isNone
    && p 16 % 256 == 0 && isHbm (p 16)
    && plainRange (p 24) 512
    && plainRange (p 32) (4 * (p 40 % 2 ^ 17))
    && decide (1 ≤ p 40 % 2 ^ 17) && decide (p 40 % 2 ^ 17 ≤ 65536)
    && p 40 / 2 ^ 17 % 2 ^ 15 == 0 && decide (20 ≤ p 40 / 2 ^ 32) && decide (p 40 / 2 ^ 32 ≤ 36)
    && decide (p 56 ≤ 4096) && plainRange (p 48) (8192 + 8388608 * (p 56))
    && decide (p 64 / 2 ^ 10 % 2 ^ 6 = 0) && decide (p 64 < 2 ^ 27)
    && decide (p 64 % 1024 + p 64 / 2 ^ 16 ≤ 1024)
    && s.contexts.all (fun c => match c.2 with | some cx => cx.cqMask &&& cqs == 0 | none => true)
    && plainRange (p 80) 4096
    && decide (p 88 < 2 ^ 52) && p 88 % 32 == 0
    && decide (p 96 < 2048)

/-- The cores of a grant bitmap. -/
def bitmapCores (bs : List Byte) : List Nat :=
  (List.range 4096).filter (fun n => bitAt (bs.getD (n / 8) 0) (n % 8))

/-- Start a context's command stream at an image (R320): every register takes its reset value. -/
def State.startCp (s : State) (x va : Nat) : State :=
  let s0 := s.performAll (.cp x) (s.agent (.cp x)).stores
  let s1 := s0.setAgent (.cp x) { Core.reset with mode := .user, tref := s.ref / 105, tun := s.ref }
  { s1 with cpBase := tset 0 s1.cpBase x va }

/-- The context that a request describes. -/
def State.newContext (s : State) (ranks : List (Option Nat)) (cores : List Nat) : Context :=
  let p := s.param
  { ptbr := p 16, cores := cores, rcount := p 40 % 2 ^ 17, ranks := ranks
    ownRank := ranks.findIdx (fun r => r == some s.ownModule)
    wdt := 2 ^ (p 40 / 2 ^ 32), save := p 48, nslot := p 56, slots := []
    semFirst := p 64 % 1024, semCount := p 64 / 2 ^ 16
    cqMask := p 72 % 65536, cqLevels := p 72 / 2 ^ 16
    lqTable := p 80, lqs := [], escVector := p 96, escCount := 0
    usedPour := false, gens := [], onModule := true, dead := false }

/-- CTX_CREATE (R371): the tables are read and checked, the code tables (R196) and the granted semaphores (R325) become zero, every ladle queue is bound, and a stream may start. Whether save or table resources are free is open (status 0x04). -/
def createContext (s0 : State) : CmdOut :=
  let p := s0.param
  let x := p 8
  if !s0.createOk then .fail s0 2
  else
    let rt := s0.peek (p 32) (4 * (p 40 % 2 ^ 17))
    let gt := s0.peek (p 24) 512
    match rankEntries (wordsOf (rt.map (·.1))) with
    | none => .fail s0 2
    | some ranks =>
      if rt.any (·.2) || gt.any (·.2) || !ranksOk s0.ownModule ranks then .fail s0 2
      else if Config.freeVerdict s0.fresh then .fail s0.bump 4
      else
        let s := s0.bump
        let t := tableBase + 4096 * x
        let s1 : State := (s.dropTablePz x).zeroBytes t 4096
        let sem := semAddr (p 64 % 1024)
        let n := 8 * (p 64 / 2 ^ 16)
        let s1 : State := { s1 with mem := s1.mem.paste sem n [], pz := pzPaste s1.pz sem n [] }
        let s2 := s1.setContext x (s1.newContext ranks (bitmapCores (gt.map (·.1))))
        match s2.bindAll x (p 80) 256 with
        | .bad => .fail s 2
        | .full => .fail s 4
        | .ok s3 => .done (if p 88 = 0 then s3 else s3.startCp x (p 88)) 0 []

def execCtxCreate (s : State) : Result := mbCommand 1 createContext s

/-! CTX_END (R370). -/

/-- Release everything of a context: its pins, its holds, its cores, its grants and slots. -/
def State.dropContext (s : State) (x : Nat) : State :=
  let cores := s.cores.foldl (fun s c => if c.2.ctx = some x then s.modCore c.1 (fun k => { k with ctx := none }) else s) s
  { cores with
    contexts := tset none cores.contexts x none
    cps := tdel cores.cps x
    locks := cores.locks.filter (fun k => k.1 / 2 ^ 52 ≠ x)
    tlbHolds := cores.tlbHolds.filter (fun h => h.1 ≠ x)
    fatal := cores.fatal.filter (fun f => f.ctx ≠ x) }

/-- CTX_END (R370): the fatal context error, then every grant, pin and slot is released. -/
def execCtxEnd (s : State) : Result :=
  mbCommand 2 (fun s =>
    let x := s.param 8
    match s.context x with
    | none => .fail s 5
    | some _ => .done ((s.endContext ⟨x, fatalCtxEnd, 0, 0⟩).dropContext x) 0 []) s

/-! TLB_HOLD and TLB_RELEASE (R364). -/

/-- Whether a page of a range is pinned. -/
def State.pinnedIn (s : State) (x va n : Nat) : Bool :=
  s.locks.any (fun k => k.1 / 2 ^ 52 = x &&
    (let p := k.1 % 2 ^ 52
     let size := match s.pageAt x p with | .leaf _ _ _ size => size | _ => 16384
     decide (p < va + n) && decide (va < p + size)))

/-- Drop every cached copy of a range's entries, after the accesses that used them. -/
def State.dropTlb (s : State) (x va n : Nat) : State :=
  s.cores.foldl (fun s c =>
    if c.2.ctx = some x then
      (s.publish (.core c.1)).modCore c.1 (fun k =>
        { k with lates := [], tlb := k.tlb.filter (fun t => !(decide (t.va < va + n) && decide (va < t.va + t.size))) })
    else s) (s.publish (.cp x))

/-- TLB_HOLD: status 0x03 when a page of the range is pinned. -/
def execTlbHold (s : State) : Result :=
  mbCommand 3 (fun s =>
    let x := s.param 8
    let va := s.param 16
    let n := s.param 24
    if 2 ^ 52 < va + n then .fail s 2
    else withContext s x (fun _ =>
      if s.pinnedIn x va n then .fail s 3
      else
        let s1 := s.dropTlb x va n
        .done { s1 with tlbHolds := s1.tlbHolds ++ [(x, va, n)] } 0 [])) s

/-- TLB_RELEASE: the hold of the range ends. -/
def execTlbRelease (s : State) : Result :=
  mbCommand 4 (fun s =>
    let x := s.param 8
    let h := (x, s.param 16, s.param 24)
    if 2 ^ 52 < s.param 16 + s.param 24 then .fail s 2
    else withContext s x (fun _ => .done { s with tlbHolds := s.tlbHolds.filter (fun k => k ≠ h) } 0 [])) s

/-! TWIN_SET (R365). -/

/-- The page size that a code names. -/
def pageSize (k : Nat) : Nat := if k = 0 then 2 ^ 14 else if k = 1 then 2 ^ 25 else 2 ^ 36

/-- TWIN_SET: register a pair, or change its TS, or take it out. -/
def execTwinSet (s : State) : Result :=
  mbCommand 5 (fun s =>
    let f := s.param 8
    let k := s.param 16
    let size := pageSize k
    if 2 < k ∨ 1 < s.param 24 ∨ 1 < s.param 32 ∨ f % (2 * size) ≠ 0 ∨ !isHbm (f + 2 * size - 1) then .fail s 2
    else
      let rest := s.twins.filter (fun t => !(t.lower = f && t.size = size))
      if s.param 32 = 1 then
        (if rest.length = s.twins.length then .fail s 2 else .done { s with twins := rest } 0 [])
      else if rest.any (fun t => decide (t.lower < f + 2 * size) && decide (f < t.lower + 2 * t.size)) then .fail s 2
      else .done { s with twins := rest ++ [⟨f, size, s.param 24 = 1⟩] } 0 []) s

/-! ESC_ANSWER (R354). -/

/-- The saved iteration of an escalation that has been answered goes on when it is restored (R293, R354). -/
def State.resumeSaved (s : State) (x seq : Nat) : State :=
  match s.context x with
  | none => s
  | some cx =>
    let slot (y : Nat × Option SavedCore) : Nat × Option SavedCore :=
      (y.1, y.2.map (fun v => if v.core.mode == .escalated && v.core.escSeq == some seq
        then { v with core := { v.core with mode := .user, escSeq := none } } else v))
    s.setContext x { cx with slots := cx.slots.map slot }

/-- RESUME, which acts as UHRET (R290, R354). -/
def State.resumeEscalated (s : State) (m : Mover) (seq : Nat) : State :=
  let c := s.agent m
  if c.mode = .escalated ∧ c.escSeq = some seq then
    let s1 := (s.setAgent m (c.resume (c.now + 3))).answerStep m (tget 0 c.tr 0)
    match m with
    | .core n => s1.catchUp n
    | .cp _ => s1
  else s

/-- ESC_ANSWER: RESUME or END (R291, R354). -/
def execEscAnswer (s : State) : Result :=
  mbCommand 6 (fun s =>
    let x := s.param 8
    if 1 < s.param 24 then .fail s 2
    else withContext s x (fun _ =>
      match (s.ringOf x).find? (fun e => e.seq = s.param 16) with
      | none => .fail s 2
      | some e =>
        let m : Mover := if e.cp then .cp x else .core e.core
        let s1 : State := { s with escs := s.escs.erase e }
        if s.param 24 = 0 then .done (((s1.resumeEscalated m e.seq).resumeSaved x e.seq).fillRing x) 0 []
        else .done { s1 with fatal := s1.fatal ++ [⟨x, fatalEscalation, 0, e.core⟩] } 0 [])) s

/-! LQ_BIND (R329). -/

/-- Whether an entry may be bound (R329): fields, translation to a writable page of module HBM, no other valid entry of the context with its header. -/
def State.lqCheck (s : State) (x table q : Nat) (e : BitVec 128) : Option Nat :=
  if !lqFieldsOk e then none
  else
    match s.pageAt x (lqHdr e) with
    | .leaf _ _ le size =>
      let pa := (s.transOf le size (lqHdr e)).pa
      let others := (List.range 256).any (fun k =>
        k ≠ q && (match s.lqRead table k with
          | some o => lqV o && (lqHdr o == lqHdr e || s.hdrPhys x (lqHdr o) == some pa)
          | none => false))
      if s.permits x le size pa 64 true false && isHbm (pa + 63) && !others then some pa else none
    | _ => none

/-- Whether a ladle performs an operation of a queue. -/
def State.queueBusy (s : State) (x q : Nat) : Bool := s.ladles.any (fun l => l.2.busy = some (x, q))

/-- Clear HALT, ESTAT and EIDX, and for SKIP advance RIDX (R329). -/
def State.recoverQueue (s : State) (hdr : Nat) (skip : Bool) : State :=
  let s1 := s.poke (hdr + 24) (List.replicate 8 0) false
  if skip then s1.poke (hdr + 8) (natLe 8 (s1.rdNatC (hdr + 8) 8 + 1)) false else s1

/-- LQ_BIND (R329): check, drain, binding, recovery. -/
def execLqBind (s : State) : Result :=
  mbCommand 7 (fun s =>
    let x := s.param 8
    let q := s.param 16
    let fl := s.param 24
    if 255 < q ∨ 3 < fl then .fail s 2
    else withContext s x (fun cx =>
      match s.lqRead cx.lqTable q with
      | none => .fail s 2
      | some e =>
        let pa := if lqV e then s.lqCheck x cx.lqTable q e else (tget none cx.lqs q).map (·.hdr)
        let clr := fl.testBit 0
        let skip := fl.testBit 1
        match pa with
        | none => if lqV e ∨ skip then .fail s 2 else .done s 0 []
        | some hdr =>
          if skip && decide (s.rdNatC (hdr + 31) 1 < 128) then .fail s 2
          else if s.queueBusy x q then .wait
          else
            let s1 := s.unbindQueue x q
            let s2 := if lqV e then (match s1.bindQueue x q e with | .ok s => some s | _ => none) else some s1
            match s2 with
            | none => .wait
            | some s3 => .done (if clr || skip then s3.recoverQueue hdr skip else s3) 0 [])) s

/-! CP_START (R320). -/

/-- A stream that has not ended (R320). -/
def Core.streamRuns (c : Core) : Bool :=
  c.mode == .escalated || (c.mode == .user && !(c.es.ended || c.fetch.stopped))

/-- CP_START: status 0x06 while the stream runs. -/
def execCpStart (s : State) : Result :=
  mbCommand 8 (fun s =>
    let x := s.param 8
    let va := s.param 16
    if va % 32 ≠ 0 ∨ 2 ^ 52 ≤ va then .fail s 2
    else withContext s x (fun _ =>
      if (s.agent (.cp x)).streamRuns then .fail s 6 else .done (s.startCp x va) 0 [])) s

/-! Other opcodes and a busy mailbox. -/

/-- The opcodes that R370 and R426 assign. -/
def knownOpcode (op : Nat) : Bool := (decide (1 ≤ op) && decide (op ≤ 8)) || (decide (0x10 ≤ op) && decide (op ≤ 0x12))

/-- UNKNOWN_OPCODE (R370): status 0x01. -/
def execUnknownOpcode (s : State) : Result :=
  if bitAt s.mbox.mbst 0 && !knownOpcode s.opcode then .next (s.finishCmd 1 []) else .next s

/-- DOORBELL_WHILE_BUSY (R369): the doorbell is ignored, and LOST is set. -/
def execDoorbellWhileBusy (s : State) : Result :=
  if bitAt s.mbox.mbst 0 then .next { s with mbox := { s.mbox with mbst := s.mbox.mbst ||| 4 } } else .next s

end Sys2Proof.Machine
end

