-- ==== Sys2Proof/Machine/Power.lean ====
section
/-! DEFINITION. Operating points (R425 to R427), their mailbox commands (R426) and the protective limits (R428). -/

namespace Sys2Proof.Machine

/-! Events. -/

/-- Set an event; the first time, vector 1 is sent (R426). -/
def State.raiseEvent (s : State) (k : Nat) : State :=
  if bitAt s.events k then s else ({ s with events := s.events ||| (1#64 <<< k) } : State).interrupt 1

/-! Operating points. -/

/-- A request for a point (R427): no effect for the point in force, a ramp, or a pending request. -/
def Cluster.request (k : Cluster) (p : BitVec 3) : Cluster :=
  if k.ramp || !k.powered then { k with pv := true, pend := p }
  else if k.cur = p then k
  else { k with ramp := true, tgt := p }

/-- The end of a ramp (R427): the pending request starts at once. -/
def Cluster.rampDone (k : Cluster) : Cluster :=
  if !k.ramp then k
  else
    let k1 := { k with cur := k.tgt, ramp := false }
    if k1.pv then ({ k1 with pv := false, pend := 0 } : Cluster).request k1.pend else k1

/-- Power returns after a trip (R428): the pending point, or the target of the abandoned ramp. -/
def Cluster.restart (k : Cluster) : Cluster :=
  { k with powered := true, cur := if k.pv then k.pend else k.tgt, tgt := if k.pv then k.pend else k.tgt, pv := false, pend := 0 }

/-- A trip abandons the ramp and removes the power (R428). -/
def Cluster.trip (k : Cluster) : Cluster :=
  if !k.powered then k else { k with powered := false, ramp := false, tgt := if k.ramp then k.tgt else k.cur }

/-- The cluster word of OP_GET (R426). -/
def Cluster.word (k : Cluster) : Nat :=
  (if 0 < k.plim then 2 ^ 25 else 0) + (if 0 < k.therm then 2 ^ 24 else 0) + k.emin % 32 * 2 ^ 16
    + k.pend.toNat * 2 ^ 8 + (if k.pv then 2 ^ 7 else 0) + k.tgt.toNat * 2 ^ 4
    + (if k.ramp then 2 ^ 3 else 0) + k.cur.toNat

/-- Change a cluster. -/
def State.modCluster (s : State) (k : Nat) (f : Cluster → Cluster) : State := s.setCluster k (f (s.cluster k))

/-- OP_SET (R426): a mask of 0, a point above 7, or nonzero bits elsewhere end it with status 0x02. -/
def execOpSet (s : State) : Result :=
  mbCommand 0x10 (fun s =>
    let mask := s.param 8 + 2 ^ 64 * s.param 16
    let p := s.param 24
    if mask = 0 ∨ 7 < p ∨ (areaBytesAt s.mbox.cmd 32 224).any (· != 0) then .fail s 2
    else
      .done ((List.range 128).foldl (fun s k =>
        if mask.testBit k then s.modCluster k (fun c => c.request (BitVec.ofNat 3 p)) else s) s) 0 []) s

/-- OP_GET (R426). -/
def execOpGet (s : State) : Result :=
  mbCommand 0x11 (fun s =>
    if 127 < s.param 8 then .fail s 2 else .done s 0 (natLe 8 (s.cluster (s.param 8)).word)) s

/-- LIMIT_GET (R426): the events, and two measurements, which are free values. -/
def execLimitGet (s : State) : Result :=
  mbCommand 0x12 (fun s =>
    if 1 < s.param 8 then .fail s 2
    else
      let rsp := natLe 8 s.events.toNat ++ natLe 8 s.freeW.toNat ++ natLe 8 s.bump.freeW.toNat
      let s1 := s.bump.bump
      .done (if s.param 8 = 1 then { s1 with events := 0 } else s1) 0 rsp) s

/-- RAMP_COMPLETE (R427). -/
def execRampComplete (cluster : Nat) (s : State) : Result := .next (s.modCluster cluster Cluster.rampDone)

/-! Protective limits (R428). -/

/-- THERMAL_THROTTLE_TICK: one more, up to 16. -/
def execThermalThrottleTick (cluster : Nat) (s : State) : Result :=
  .next ((s.modCluster cluster (fun c => { c with therm := min 16 (c.therm + 1) })).raiseEvent 0)

/-- THERMAL_RELEASE_TICK: one less, down to inactive. -/
def execThermalReleaseTick (cluster : Nat) (s : State) : Result :=
  .next (s.modCluster cluster (fun c => { c with therm := c.therm - 1 }))

/-- THERMAL_TRIP: a cluster power loss. -/
def execThermalTrip (cluster : Nat) (s : State) : Result :=
  .next (((clusterCores cluster).foldl State.coreLoss (s.modCluster cluster Cluster.trip)).raiseEvent 1)

/-- TRIP_RECOVERY: power returns and every core resumes by R386. -/
def execTripRecovery (cluster : Nat) (s : State) : Result :=
  if (s.cluster cluster).powered then .next s
  else .next (((clusterCores cluster).foldl State.chillResume (s.modCluster cluster Cluster.restart)).raiseEvent 3)

/-- POWER_LIMIT_TICK: every cluster's divisor. -/
def execPowerLimitTick (s : State) : Result :=
  .next (((List.range 128).foldl (fun s k => s.modCluster k (fun c => { c with plim := min 16 (c.plim + 1) })) s).raiseEvent 2)

/-- POWER_LIMIT_RELEASE_TICK. -/
def execPowerLimitReleaseTick (s : State) : Result :=
  .next ((List.range 128).foldl (fun s k => s.modCluster k (fun c => { c with plim := c.plim - 1 })) s)

/-- DROOP_FIRE: the cluster's engine cycles are stretched by up to two reference cycles (R86). -/
def execDroopFire (cluster : Nat) (stretch : BitVec 2) (s : State) : Result :=
  .next (s.modCluster cluster (fun c => { c with stretch := min 2 stretch.toNat }))

/-- DROOP_CLEAR. -/
def execDroopClear (cluster : Nat) (s : State) : Result :=
  .next (s.modCluster cluster (fun c => { c with stretch := 0 }))

end Sys2Proof.Machine
end

