-- ==== Sys2Proof/Machine/Links.lean ====
section
/-! DEFINITION. Links: training (R421), the policy words (R423), key exchange (R424) and link retry (R417). -/

namespace Sys2Proof.Machine

/-- A UCIe link, an Ivaraog port, and the port's number (R420). -/
def isUcie (l : Nat) : Bool := decide (l < 28)
def isPort (l : Nat) : Bool := decide (28 ≤ l) && decide (l < 44)

def State.link (s : State) (l : Nat) : Link := tget Link.reset s.links l
def State.setLink (s : State) (l : Nat) (v : Link) : State := { s with links := tset Link.reset s.links l v }

/-- The stack of a link's records (R415): a port's own, and of the two that a UCIe link joins the lower; the PCI Express link counts for stack 0. -/
def linkStack (l : Nat) : Nat :=
  if isPort l then (l - 28) / 2
  else if isUcie l then ((List.range 8).find? (fun a => (List.range 8).any (fun b => decide (a < b) && pairLink a b == l))).getD 0
  else 0

/-- A record of a link (R415). -/
def State.logLink (s : State) (l syn : Nat) : State :=
  s.logError ⟨0, BitVec.ofNat 16 syn, if isUcie l then 0x0B else if isPort l then 0x0C else 0x0D, 0, linkStack l, none, 0, 0⟩

/-- The policy word of a port (R423): its bits from 11 on are 0. -/
def State.policy (s : State) (l : Nat) : W32 :=
  match s.boot.config with
  | some c => c.policy.getD (l - 28) 0 &&& 0x7FF
  | none => 0

/-- A training state fails (R421): the port goes DOWN and tries again from DETECT; after the third failure it stays down. A retrain that fails takes the link down at once for traffic (R417). -/
def State.trainFail (s : State) (l : Nat) : State :=
  let k := s.link l
  if k.tries + 1 < 3 then s.setLink l { k with st := .down, tries := k.tries + 1, wasDown := true, retraining := false }
  else (s.setLink l { k with st := .down, tries := 3, wasDown := true, retraining := false }).logLink l 3

/-- A port reaches UP (R421); one that a failure has taken down logs it. -/
def State.trainUp (s : State) (l : Nat) : State :=
  let k := s.link l
  let s1 := s.setLink l { k with st := .up, tries := 0, fails := 0, wasDown := false, retraining := false }
  if k.wasDown then s1.logLink l 4 else s1

/-- Enter a training state. -/
def State.trainTo (s : State) (l : Nat) (st : LinkState) : State := s.setLink l { s.link l with st := st }

/-- LINK_TRAINING_STEP (R421, R423, R424): the work of the present state ends, well or not. In IDENT the partner's ENC and CMP must equal the port's. -/
def execLinkTrainingStep (link : Nat) (ok : Bool) (partner : W32) (s : State) : Result :=
  let k := s.link link
  if !(isUcie link || isPort link) then .next s
  else if !ok && k.st != .down && k.st != .up then .next (s.trainFail link)
  else
    match k.st with
    | .down => .next (if ok && decide (k.tries < 3) then s.trainTo link .detect else s)
    | .detect => .next (s.trainTo link .equalise)
    | .equalise => .next (s.trainTo link .feclock)
    | .feclock => .next (if isUcie link then s.trainUp link else s.trainTo link .ident)
    | .ident =>
      if fld (s.policy link) 0 2 ≠ fld partner 0 2 then .next (s.trainFail link)
      else if bitAt (s.policy link) 0 then .next (s.trainTo link .keyx)
      else .next (s.trainUp link)
    | .keyx => .next (s.trainUp link)
    | .up => .next s

/-- LINK_STATE_TIMEOUT (R421): a time limit is a failure of the state. -/
def execLinkStateTimeout (link : Nat) (s : State) : Result :=
  let k := s.link link
  if k.st = .down ∨ k.st = .up then .next s else .next (s.trainFail link)

/-- KEYX_REKEY (R424): a rekey while UP; one that fails takes the port down. -/
def execKeyxRekey (port : Nat) (ok : Bool) (s : State) : Result :=
  let l := 28 + port
  let k := s.link l
  if k.st ≠ .up ∨ 16 ≤ port ∨ !bitAt (s.policy l) 0 ∨ ok then .next s
  else .next ((s.setLink l { k with st := .down, tries := 3, wasDown := true }).logLink l 3)

/-- FLIT_CHECK_FAILURE (R417, R424): a replay; a flit that has failed at first and in eight consecutive replays leads to a retrain. Whether a failure concerns the flit of the one before is a free value. PCI Express replays as it specifies, and AER reports it. -/
def execFlitCheckFailure (link : Nat) (s : State) : Result :=
  let k := s.link link
  if !(isUcie link || isPort link) then .next (((s.setLink link { k with replays := k.replays + 1 }).logLink link 1).send (.aer link))
  else if k.st ≠ .up then .next s
  else
    let f := if k.fails ≠ 0 && Config.freeVerdict s.fresh then k.fails + 1 else 1
    let s1 := (s.bump.setLink link { k with replays := k.replays + 1, fails := f }).logLink link 1
    if f < 9 then .next s1
    else .next ((s1.setLink link { s1.link link with st := .detect, tries := 0, fails := 0, retraining := true }).logLink link 2)

/-- LINK_ENABLE at boot (R421, R429): every link starts from DETECT. -/
def State.startTraining (s : State) : State :=
  (List.range 44).foldl (fun s l => s.setLink l { Link.reset with st := .detect }) s

end Sys2Proof.Machine
end

