-- ==== Sys2Proof/Machine/Errors.lean ====
section
/-! DEFINITION. Detected errors and their fates (R412), the module machine check (R415), scrubbing (R391, R413) and spare-lane steering (R416). -/

namespace Sys2Proof.Machine

/-! Where an error lies. -/

/-- UNIT of a record (R415). The table names none for scalar and predicate registers; they take that of the lanes. -/
def siteUnit (e : ErrSite) : Nat :=
  match e with
  | .scratchpad _ _ => 0x01
  | .matrix _ _ => 0x02
  | .accumulator _ _ => 0x03
  | .queue _ _ _ _ => 0x04
  | .scalar _ _ => 0x04
  | .predicate _ _ => 0x04
  | .riser _ _ _ => 0x07
  | .l1 _ _ => 0x05
  | .instructionStore _ => 0x06
  | .memorySideCache _ => 0x09
  | .tableStore _ _ => 0x0E
  | .semaphore _ => 0x11
  | .hbm _ => 0x0A
  | .chill _ _ _ => 0x08
  | .pcie => 0x0D
  | .coreControl _ => 0x0F
  | .moduleControl _ => 0x0F
  | .residue _ _ _ => 0x04

/-- The core of a site, if it lies in one. -/
def siteCore (e : ErrSite) : Option Nat :=
  match e with
  | .scratchpad c _ => some c
  | .matrix c _ => some c
  | .accumulator c _ => some c
  | .queue c _ _ _ => some c
  | .scalar c _ => some c
  | .predicate c _ => some c
  | .riser c _ _ => some c
  | .l1 c _ => some c
  | .instructionStore c => some c
  | .chill c _ _ => some c
  | .coreControl c => some c
  | .memorySideCache _ => none
  | .tableStore _ _ => none
  | .semaphore _ => none
  | .hbm _ => none
  | .pcie => none
  | .moduleControl _ => none
  | .residue c _ _ => some c

/-- ADDR of a record: a physical address or an array offset (R415). -/
def siteAddr (e : ErrSite) : Nat :=
  match e with
  | .scratchpad _ o => o
  | .matrix _ o => o
  | .accumulator _ o => o
  | .l1 _ a => a
  | .memorySideCache a => a
  | .tableStore _ a => a
  | .hbm a => a
  | .semaphore n => semAddr n
  | .chill _ _ o => o
  | .queue _ _ _ _ => 0
  | .scalar _ _ => 0
  | .predicate _ _ => 0
  | .riser _ _ _ => 0
  | .instructionStore _ => 0
  | .pcie => 0
  | .coreControl _ => 0
  | .moduleControl _ => 0
  | .residue _ _ _ => 0

/-- STACK of a record. -/
def siteStack (e : ErrSite) : Nat :=
  match siteCore e with
  | some c => c / 512
  | none =>
    match e with
    | .hbm a => a / 0x2000000000 % 8
    | .memorySideCache a => a / 0x2000000000 % 8
    | .tableStore k _ => k % 8
    | .moduleControl k => k % 8
    | _ => 0

/-- The context to which a semaphore is granted, 0 when none has it. -/
def State.semOwner (s : State) (n : Nat) : Nat :=
  ((s.contexts.find? (fun c => match c.2 with | some cx => decide (cx.semFirst ≤ n) && decide (n < cx.semFirst + cx.semCount) | none => false)).map (·.1)).getD 0

/-- The context that owns the data, 0 when there is none. Whose a frame of HBM is, is a free value. -/
def State.siteCtx (s : State) (e : ErrSite) : Nat :=
  match siteCore e with
  | some c => (s.core c).ctx.getD 0
  | none =>
    match e with
    | .tableStore _ a => (a - tableBase) / 4096 % 64
    | .semaphore n => s.semOwner n
    | .hbm a => Config.freeOwner s.ref a % 64
    | .memorySideCache a => Config.freeOwner s.ref a % 64
    | _ => 0

/-- SEV of an uncorrected error (R412, R415). -/
def siteSev (e : ErrSite) : Nat :=
  match e with
  | .l1 _ _ => 0
  | .pcie => 0
  | .instructionStore _ => 2
  | .coreControl _ => 2
  | .moduleControl _ => 3
  | .residue _ _ _ => 1
  | .scratchpad _ _ => 1
  | .matrix _ _ => 1
  | .accumulator _ _ => 1
  | .queue _ _ _ _ => 1
  | .scalar _ _ => 1
  | .predicate _ _ => 1
  | .riser _ _ _ => 1
  | .memorySideCache _ => 1
  | .tableStore _ _ => 1
  | .semaphore _ => 1
  | .hbm _ => 1
  | .chill _ _ _ => 1

/-! Fates (R412). -/

/-- Poison `n` bytes that an uncorrected error has hit (R52, R412): the tag is set, and what the bytes hold is open (assumption 2). -/
def State.poisonAt (s : State) (a n : Nat) : State :=
  ({ s with mem := s.mem.wrN a ((List.range n).map (Config.freeByte s.fresh)), pz := poisonRange s.pz a n } : State).bump

/-- Poison the granule that holds an address. -/
def State.poisonGranule (s : State) (a : Nat) : State := s.poisonAt (granuleBase a) (granule a)

/-- Poison a lane word of an operand queue's entry; its value `v` is open. -/
def Core.poisonQueue (c : Core) (q entry lane : Nat) (v : W32) : Core :=
  c.setQueue q (lmod (c.queue q) entry (fun e => { e with lanes := lset e.lanes lane v, pz := lset e.pz lane true }))

/-- Poison the 64-bit word of a riser block that holds a 32-bit word; its value `v` is open. -/
def Core.poisonRiser (c : Core) (block word : Nat) (v : W64) : Core :=
  { c with riser := lmod c.riser block (fun b =>
      { b with
        data := b.data.take (word / 2 * 8) ++ natLe 8 v.toNat ++ b.data.drop (word / 2 * 8 + 8)
        poison := (List.range 8).foldl (fun p i => lset p (word / 2 * 8 + i) true) b.poison }) }

/-- A fatal context error for the context on a core (R292, R412). -/
def State.coreFatal (s : State) (n cause : Nat) : State :=
  match (s.core n).ctx with
  | some x => s.ctxFatal x cause 0 n
  | none => s

/-- A module machine check (R415): it ends every context and stops the CP and the runner. -/
def State.machineCheck (s : State) : State :=
  let xs := s.contexts.filterMap (fun c => match c.2 with | some cx => (if cx.dead then none else some c.1) | none => none)
  { xs.foldl (fun s x => s.endContext ⟨x, fatalMachine, 0, 0⟩) s with checked := true }

/-- A result word that is in flight, poisoned; its value `v` is open. -/
def Write.poisonWord (w : Write) (a : Nat) (v : W32) : Write :=
  match w with
  | .words b ws => if b ≤ a ∧ a < b + 4 * ws.length then .words b (lset ws ((a - b) / 4) (v, true)) else w
  | _ => w

/-- Poison a result word of a lane (R416): in flight, if it has not become visible yet, else where it stands. -/
def State.poisonResult (s : State) (n a : Nat) : State :=
  let flying := (s.core n).pend.any (fun p => match p.w with | .words b ws => decide (b ≤ a) && decide (a < b + 4 * ws.length) | _ => false)
  if flying then s.bump.modCore n (fun c => { c with pend := c.pend.map (fun p => { p with w := p.w.poisonWord a (fld s.freeW 0 32) }) })
  else s.poisonGranule a

/-- The fate of an uncorrected error (R412). One in the table store of a stack poisons the block of that stack's table alone (R198). -/
def State.fate (s : State) (e : ErrSite) : State :=
  match e with
  | .scratchpad c o => s.poisonGranule (winBase c + o)
  | .matrix c o => s.poisonGranule (winBase c + 0x400000 + o)
  | .accumulator c o => s.poisonGranule (winBase c + 0x800000 + o)
  | .queue c q k l => s.bump.modCore c (fun r => r.poisonQueue q k l (fld s.freeW 0 32))
  | .scalar c n => s.bump.modCore c (fun r => r.ws n s.freeW (some (dataPz 0)))
  | .predicate c n => s.bump.modCore c (fun r => r.wp n (fld s.freeW 0 32) 0xFFFFFFFF (some (dataPz 0)))
  | .riser c b w => s.bump.modCore c (fun r => r.poisonRiser b w s.freeW)
  | .l1 c a => s.modCore c (fun r => r.dropLine a)
  | .instructionStore c => s.coreFatal c fatalCoreState
  | .memorySideCache a => s.poisonAt (a - a % 64) 64
  | .tableStore k a => { s with tablePz := s.tablePz ++ [(k % 8, a - a % 64)] }
  | .semaphore n => s.poisonAt (semAddr n) 8
  | .hbm a => s.poisonAt (a - a % 64) 64
  | .chill c b o => s.setChill c ((s.chillOf c).setSlot b (((s.chillOf c).slot b).spoil o))
  | .pcie => s
  | .coreControl c => s.coreFatal c fatalCoreState
  | .moduleControl _ => s.machineCheck
  | .residue c _ ws => ws.foldl (fun s o => s.poisonResult c (winBase c + 0x400000 + o)) s

/-- The lane whose residue check has failed, if that is the error (R416). -/
def failedLane (r : ErrorReport) : Option (Nat × BitVec 5) :=
  match r.site with
  | .residue c l _ => some (c, l)
  | _ => none

/-- Whether an error has a fate: it is uncorrected, or a failed residue check (R416). -/
def errFails (r : ErrorReport) : Bool := r.uncorrected || (failedLane r).isSome

/-- The record of an error (R415). -/
def State.errRecord (s : State) (r : ErrorReport) : ErrRec :=
  { addr := siteAddr r.site, syn := r.syn, unit := siteUnit r.site, core := (siteCore r.site).getD 0, stack := siteStack r.site
    lane := ((failedLane r).map (·.2)).or r.lane, ctx := s.siteCtx r.site, sev := if errFails r then siteSev r.site else 0 }

/-- The lane events of an error (R416): a failed residue check is one, and so is the sixteenth corrected record within one scrub period that names the lane; `logged` says that the record has been written. -/
def State.countLane (s : State) (r : ErrorReport) (logged : Bool) : State :=
  match failedLane r with
  | some (c, l) => { s with agenda := s.agenda ++ [AgendaItem.event (Instr.laneEvent c l)] }
  | none =>
  match r.uncorrected || !logged, r.lane, siteCore r.site with
  | false, some l, some c =>
    let k := 32 * c + l.toNat
    let n := tget 0 s.laneErrs k + 1
    if n < 16 then { s with laneErrs := tset 0 s.laneErrs k n }
    else { s with laneErrs := tset 0 s.laneErrs k 0, agenda := s.agenda ++ [AgendaItem.event (Instr.laneEvent c l)] }
  | _, _, _ => s

/-- ERROR_DETECTED (R412, R414). An L1 line that fails its parity is dropped and counts as corrected. -/
def execErrorDetected (e : ErrorReport) (s : State) : Result :=
  let s1 := (s.logError (s.errRecord e)).countLane e (!s.elog.full)
  .next (if errFails e then s1.fate e.site else s1)

/-! Scrubs. -/

/-- PATROL_SCRUB (R413) of a block of HBM or of a line of the memory-side cache: what it corrects it logs; what it cannot correct it poisons and logs, without a trap. A scrub of the HBM block at address 0 begins a new scrub period (R416). -/
def execPatrolScrub (addr : ScrubSite) (found : ScrubResult) (s : State) : Result :=
  let s0 : State := if addr = .hbm 0 then { s with laneErrs := [] } else s
  let site : ErrSite := match addr with
    | .cache a => .memorySideCache a
    | .hbm a => .hbm a
  let at_ : Nat := match addr with
    | .cache a => a
    | .hbm a => a
  let entry (sev : Nat) : ErrRec := ⟨at_, 0, siteUnit site, 0, siteStack site, none, s.siteCtx site, sev⟩
  match found with
  | .clean => .next s0
  | .corrected => .next (s0.logError (entry 0))
  | .uncorrectable => .next ((s0.logError (entry 1)).poisonAt (at_ - at_ % 64) 64)

/-- CHILL_SCRUB (R391): it corrects single-bit errors and logs them, and changes no seal; what it cannot correct has the fate of R386. -/
def execChillScrub (core : Nat) (slotB : Bool) (granule : Nat) (found : ScrubResult) (s : State) : Result :=
  let entry (sev : Nat) : ErrRec := ⟨512 * granule, 0, 0x08, core, core / 512, none, (s.core core).ctx.getD 0, sev⟩
  match found with
  | .clean => .next s
  | .corrected => .next (s.logError (entry 0))
  | .uncorrectable => .next ((s.logError (entry 1)).fate (.chill core slotB (512 * granule)))

/-! The sealed configuration region (R392). -/

/-- Write the configuration region (R392): the older copy, then its seal, of FMT 0x2 (R381). Until the next boot a loss of power may still find the seal half written. -/
def Boot.writeConfig (b : Boot) (c : ConfigImage) : Boot :=
  let new (seq : W64) : Option (Seal × ConfigImage) := some (({ Seal.empty with seq := seq + 1, valid := true, fmt := 2 } : Seal).sealed, c)
  match b.newest with
  | none => { b with copyA := new 0, writing := true }
  | some (false, x) => { b with copyB := new x.1.seq, writing := true }
  | some (true, x) => { b with copyA := new x.1.seq, writing := true }

/-! Spare lanes (R416). -/

/-- Keep a core's spare map in the configuration region, so that the next reset keeps it. -/
def State.keepSpare (s : State) (n : Nat) (map : BitVec 6) : State :=
  match s.boot.config with
  | none => s
  | some c => { s with boot := s.boot.writeConfig { c with spares := (n, map) :: c.spares.filter (fun p => p.1 ≠ n) } }

/-- Take a core offline: its iteration resumes on another core through a save slot, or its context ends (R416). `none` while a copy stands in the middle of a sector. -/
def State.takeOffline (s : State) (n : Nat) : Option State :=
  let c := s.core n
  let off (s : State) : State := s.modCore n (fun c => { c with offline := true })
  match s.recordOf c, c.run, c.ctx.bind s.context with
  | some r, some (_, l), some cx =>
    (match r.gang, cx.freeSlots with
    | false, i :: _ => (s.putAway n r l i false).map (fun s1 => off (s1.gangLeave r.order))
    | _, _ => some ((off s).coreFatal n fatalOffline))
  | _, _, _ => some (off s)

/-- The recovery handler's image of a core that runs an iteration (R350, R416), in the recovery slot of its stack's chill region; the core stands at a sector end of each of its copies. `none` while one does not. -/
def State.keepRecovery (s : State) (n : Nat) : Option State :=
  if (s.core n).run.isNone then some s
  else
    (s.settled n).map (fun s1 =>
      let o : Origin := { core := (s1.saveCore n (s1.core n) 0 0 false).core, cells := s1.windowCells n (fun _ => true), pz := s1.windowPz n (fun _ => true) }
      { s1 with recovery := tset none s1.recovery n (some o) })

/-- The recovery handler's work on a core (R416), or `none` while the core cannot be stopped. -/
def State.recover (s : State) (core : Nat) (lane : BitVec 5) : Option State :=
  if bitAt (s.core core).spmap 5 then s.takeOffline core
  else
    (s.keepRecovery core).map (fun s1 =>
      let map : BitVec 6 := 1#1 ++ lane
      let s2 := (s1.keepSpare core map).modCore core (fun c => { c with spmap := map.zeroExtend 32, l1 := [] })
      (s2.pass (.core core) (1 + Config.freeDelay s2.fresh)).bump)

/-- LANE_EVENT (R416): the recovery handler stops the core at a cycle boundary as a checkpoint does, keeps its image, steers the spare lane, restores the image and resumes the core, in handler mode too; only time passes. A core whose spare is in use goes offline. The event stands for the stop itself, so it comes at a cycle boundary or within a freeze; until it can, it waits. -/
def execLaneEvent (core : Nat) (lane : BitVec 5) (s : State) : Result :=
  let c := s.core core
  match (if c.turn ≠ 0 ∧ !c.frozen then none else s.recover core lane) with
  | some s1 => .next (s1.send (.supervisor core lane.toNat))
  | none => .next { s with agenda := s.agenda ++ [AgendaItem.event (Instr.laneEvent core lane)] }

end Sys2Proof.Machine
end

