-- ==== Sys2Proof/Machine/Boot.lean ====
section
/-! DEFINITION. Boot, firmware and identity: MODULE_RESET and FIRMWARE_IMAGE (R392, R429), and the SPDM responder (R430, R431). -/

namespace Sys2Proof.Machine

/-! Boot (R429). -/

/-- BOOTST: the stored security version, the last stage verified and the outcome. -/
def bootWord (svn : BitVec 16) (stage code : Nat) : W64 :=
  (svn.zeroExtend 64 <<< 32) ||| BitVec.ofNat 64 (stage % 256 * 256 + code % 256)

/-- The code of a stage: 0x02 signature failure, 0x03 rollback refused, 0 good. -/
def stageCode (svn : BitVec 16) (b : BootStage) : Nat :=
  if !b.signatureOk then 2 else if b.svn < svn then 3 else 0

/-- Verify the stages in order: the last one verified, and the code. -/
def verifyStages (svn : BitVec 16) : Nat → List BootStage → Nat × Nat
  | n, [] => (n, 0)
  | n, b :: rest => if stageCode svn b = 0 then verifyStages svn (n + 1) rest else (n, stageCode svn b)

/-- Bytes that the manual leaves open, and the counter. -/
def State.openBytes (s : State) (n : Nat) : List Byte := (List.range n).map (fun i => Config.freeByte s.fresh i)

/-- A digest (R429, R431). -/
def sha (d : List Byte) : List Byte := natLe 32 (Config.sha256 d).toNat

/-- The firmware stages that a boot finds (R429), supervisor, CP and link: those that images have written, and the others as the module was made with. -/
def Boot.found (k : Boot) (b : BootInput) : List BootStage :=
  [(tget none k.stages 0).getD b.supervisor, (tget none k.stages 1).getD b.cp, (tget none k.stages 2).getD b.link]

/-- The contents of the configuration region without its keys (R392, R431); the order of its parts is the model's. -/
def configBytes (c : ConfigImage) : List Byte :=
  c.spares.flatMap (fun p => natLe 2 p.1 ++ natLe 1 p.2.toNat) ++ c.trims ++ c.policy.flatMap (fun w => natLe 4 w.toNat) ++ natLe 2 c.svn.toNat

/-- The 16 policy words, port 0 first (R423, R431). -/
def policyBytes (c : ConfigImage) : List Byte :=
  (List.range 16).flatMap (fun p => natLe 4 (c.policy.getD p 0 &&& 0x7FF).toNat)

/-- The operating-point table (R425): reference clock in MHz, core supply in mV and minimum divisor of each point; and its bytes, whose layout is the model's. -/
def pointTable : List (Nat × Nat × Nat) :=
  [(3200, 800, 2), (2800, 750, 2), (2400, 700, 2), (2000, 650, 2), (3200, 800, 3), (3200, 800, 4), (1600, 600, 2), (800, 550, 2)]
def pointBytes : List Byte := pointTable.flatMap (fun p => natLe 2 p.1 ++ natLe 2 p.2.1 ++ natLe 2 p.2.2)

/-- The measurements of a boot (R431): ROM, supervisor, CP, link, configuration region, policy words, operating points. The policy words stand as they are, for attestation reports them (R423); the others are digests. -/
def measureBoot (b : BootInput) (stages : List BootStage) (c : ConfigImage) : List (List Byte) :=
  [b.romDigest] ++ stages.map (·.digest) ++ [sha (configBytes c), policyBytes c, sha pointBytes]

/-- Memory that a reset leaves powered: HBM and host memory (R415). -/
def keepMemory (m : Memory) : Memory := m.filter (fun c => isHbm c.1 || isHost c.1)

/-- The core with its spare map from the configuration region (R51, R392). -/
def State.setSpares (s : State) (l : List (Nat × BitVec 6)) : State :=
  l.foldl (fun s p => s.modCore p.1 (fun c => { c with spmap := p.2.zeroExtend 32 })) s

/-- Every register at its reset value; HBM, host memory and the chill tier stay as they are. -/
def State.warmReset (s : State) : State :=
  { State.reset with
    mem := keepMemory s.mem
    pz := s.pz.filter (fun a => isHbm a || isHost a)
    chill := s.chill
    boot := { Boot.reset with copyA := s.boot.copyA, copyB := s.boot.copyB, stages := s.boot.stages }
    recovery := s.recovery
    outbox := s.outbox, fresh := s.fresh, agenda := s.agenda, here := s.here
    peerMem := s.peerMem, peerPz := s.peerPz, peerFail := s.peerFail }

/-- MODULE_RESET (R429): the boot ROM tests itself, reads the configuration region, verifies and measures the stages, and starts training. The alias key follows from the keys and the measurements (R430). -/
def execModuleReset (b : BootInput) (s : State) : Result :=
  let r := s.warmReset
  let put (s : State) (w : W64) : State := { s with boot := { s.boot with bootst := w } }
  if !b.selfTestOk then .next (put r (bootWord 0 0 4))
  else
    match r.boot.config with
    | none => .next (put r (bootWord 0 0 1))
    | some c =>
      let v := verifyStages c.svn 0 (r.boot.found b)
      let r1 := put r (bootWord c.svn v.1 v.2)
      if v.2 ≠ 0 then .next r1
      else
        let ms := measureBoot b (r1.boot.found b) c
        let r2 : State := { r1 with boot := { r1.boot with measurements := ms, key := Config.aliasKey c.keys ms } }
        .next ((r2.setSpares c.spares).startTraining)

/-- FIRMWARE_IMAGE (R429, R392): a verified image is written, its stages among it, and the stored version never falls. The keys were made with the module and stay (R430). -/
def execFirmwareImage (f : FirmwareImage) (s : State) : Result :=
  if !f.signatureOk then .next s
  else
    let old := (s.boot.config.map (·.svn)).getD 0
    let c := { f.config with
      svn := if f.config.svn < old then old else f.config.svn
      keys := (s.boot.config.map (·.keys)).getD f.config.keys }
    let b := s.boot.writeConfig c
    .next { s with boot := { b with
      stages := (f.stages.filter (fun x => decide (x.1 < 3))).foldl (fun t x => tset none t x.1 (some x.2)) b.stages
      bootst := bootWord c.svn (fld b.bootst 8 8).toNat (fld b.bootst 0 8).toNat } }

/-! SPDM (R431). The codes and the state of a connection are those of SPDM 1.3; contents that the manual leaves open are free bytes. -/

/-- Answer a request, and note both in the transcript. -/
def State.answer (s : State) (req rsp : List Byte) (next : Nat) : State :=
  ({ s with boot := { s.boot with
      spdm := next
      transcript := (if next = 1 then [] else s.boot.transcript) ++ req ++ rsp } } : State).send (.doe rsp)

/-- An ERROR response with a code. -/
def State.spdmError (s : State) (req : List Byte) (code : Byte) (data : Byte) : State :=
  let _ := req
  s.send (.doe [0x13, 0x7F, code, data])

/-- A request that the connection's state admits; out of order it is UnexpectedRequest. -/
def spdmReply (need next : Nat) (code : Byte) (body : State → List Byte) (req : List Byte) (s : State) : Result :=
  if s.boot.spdm < need then .next (s.spdmError req 0x04 0)
  else .next (s.bump.answer req ([0x13, code, 0, 0] ++ body s) (max next s.boot.spdm))

/-- GET_VERSION: version 1.3; it begins a connection. -/
def execGetVersion (r : List Byte) (s : State) : Result :=
  .next (s.answer r [0x10, 0x04, 0, 0, 0, 1, 0x00, 0x13] 1)

/-- GET_CAPABILITIES. -/
def execGetCapabilities (r : List Byte) (s : State) : Result := spdmReply 1 2 0x61 (fun s => s.openBytes 16) r s

/-- NEGOTIATE_ALGORITHMS: SLH-DSA-SHA2-128s and SHA-256. -/
def execNegotiateAlgorithms (r : List Byte) (s : State) : Result := spdmReply 2 3 0x63 (fun s => s.openBytes 48) r s

/-- The certificate chain of the alias key, which ends in the Novug root (R430). -/
def Boot.chain (b : Boot) : List Byte := (List.range Config.chainLength).map (Config.chainByte b.key)

/-- A signature of 7,856 bytes by the alias key over what the connection has exchanged (R430, R431). -/
def State.sign (s : State) (m : List Byte) : List Byte :=
  (List.range 7856).map (Config.signByte s.fresh s.boot.key (s.boot.transcript ++ m))

/-- GET_DIGESTS: the digest of the certificate chain. -/
def execGetDigests (r : List Byte) (s : State) : Result := spdmReply 3 3 0x01 (fun s => sha s.boot.chain) r s

/-- GET_CERTIFICATE: a portion of the chain from an offset, with its length and what remains. -/
def execGetCertificate (r : List Byte) (s : State) : Result :=
  spdmReply 3 3 0x02 (fun s =>
    let off := leNat ((r.drop 4).take 2)
    let d := (s.boot.chain.drop off).take (leNat ((r.drop 6).take 2))
    natLe 2 d.length ++ natLe 2 (s.boot.chain.length - off - d.length) ++ d) r s

/-- CHALLENGE: the digest of the chain, a nonce, the digest of the measurements, no opaque data, and the signature by the alias key (R430). -/
def execChallenge (r : List Byte) (s : State) : Result :=
  spdmReply 3 3 0x03 (fun s =>
    let m := sha s.boot.chain ++ s.openBytes 32 ++ sha s.boot.measurements.flatten ++ [0, 0]
    m ++ s.sign (r ++ m)) r s

/-- The type of a measurement block in the DMTF format: ROM, firmware, configuration; the policy words are a raw value. -/
def measureType (i : Nat) : Byte := if i = 1 then 0 else if i ≤ 4 then 1 else if i = 6 then 0x83 else 3

/-- The measurement blocks that a request asks for (R431): all for 0xFF, their number for 0, else one. -/
def measurementBlocks (ms : List (List Byte)) (ix : Nat) : List Byte :=
  let block (i : Nat) : List Byte :=
    let m := ms.getD (i - 1) []
    [BitVec.ofNat 8 i, 1] ++ natLe 2 (m.length + 3) ++ [measureType i] ++ natLe 2 m.length ++ m
  let all := (List.range 7).map (· + 1)
  let chosen := if ix = 0xFF then all else all.filter (· = ix)
  [BitVec.ofNat 8 chosen.length] ++ natLe 3 ((chosen.flatMap block).length) ++ chosen.flatMap block

/-- GET_MEASUREMENTS: the blocks and, when asked for, a signature by the alias key. -/
def execGetMeasurements (r : List Byte) (s : State) : Result :=
  spdmReply 3 3 0x60 (fun s =>
    let m := measurementBlocks s.boot.measurements (r.getD 3 0).toNat
    m ++ (if bitAt (r.getD 2 0) 0 then s.sign (r ++ m) else [])) r s

/-- SPDM_UNSUPPORTED_REQUEST: the error UnsupportedRequest with the request's code. -/
def execSpdmUnsupportedRequest (r : List Byte) (s : State) : Result := .next (s.spdmError r 0x07 (r.getD 1 0))

end Sys2Proof.Machine
end

