-- ==== Sys2Proof/Machine/Matrix.lean ====
section
/-! DEFINITION. The matrix array and the accumulator tiles (R146 to R165): operands, the multiply instructions, their groups as they are read, their tile writes and late faults, and the accumulator instructions. -/

namespace Sys2Proof.Machine

/-! Formats (R146). -/

/-- A format: element types of A and B, whether they are scaled by E8M0 blocks, whether B is CB4, kstep, and whether the tile is INT32. -/
structure MatFmt where
  ea : Ety
  eb : Ety
  mx : Bool
  cb4 : Bool
  ks : Nat
  int : Bool

def matFmt (c : Nat) : MatFmt :=
  let f (a b : Fmt) (mx : Bool) (ks : Nat) : MatFmt := ⟨.fp a, .fp b, mx, false, ks, false⟩
  match c with
  | 0 => f .bf16 .bf16 false 1
  | 1 => f .f16 .f16 false 1
  | 2 => f .e4m3 .e4m3 false 2
  | 3 => f .e5m2 .e5m2 false 2
  | 4 => f .e4m3 .e5m2 false 2
  | 5 => f .e5m2 .e4m3 false 2
  | 6 => f .e4m3 .e4m3 true 2
  | 7 => f .e5m2 .e5m2 true 2
  | 8 => f .e4m3 .e5m2 true 2
  | 9 => ⟨.int 8 true, .int 8 true, false, false, 2, true⟩
  | 10 => f .e2m1 .e2m1 true 4
  | _ => ⟨.fp .e2m1, .int 4 false, true, true, 4, false⟩

/-- The EFMT that a format's B needs (R192). -/
def wantEfmt (c : Nat) : Nat :=
  match c with
  | 2 => 0
  | 5 => 0
  | 3 => 1
  | 4 => 1
  | 9 => 2
  | 6 => 3
  | 7 => 4
  | 8 => 4
  | 10 => 5
  | _ => 6

/-- The four multiply instructions, and the formats that each takes (R146). -/
inductive MulOp where
  | mma | mmac | mmar | mconv
  deriving DecidableEq, Repr

def MulOp.takes (o : MulOp) (fmt : Nat) : Bool :=
  match o with
  | .mma => decide (fmt ≤ 10)
  | .mmac => decide (2 ≤ fmt)
  | .mmar => decide (fmt ≤ 10)
  | .mconv => (decide (fmt ≤ 5) || fmt == 9)

/-! Descriptors (R147). -/

def odKind (d : BitVec 128) : Nat := (fld d 124 4).toNat
def odTr (d : BitVec 128) : Bool := bitAt d 109
def odK (d : BitVec 128) : Nat := (fld d 96 13).toNat + 1
def odPitch (d : BitVec 128) : Nat := (fld d 80 16).toNat
def odPeer (d : BitVec 128) : Nat := (fld d 64 16).toNat
def odSaddr (d : BitVec 128) : Nat := (fld d 32 21).toNat
def odAddr (d : BitVec 128) : Nat := (fld d 0 21).toNat
def odSeg (d : BitVec 128) : Nat := (fld d 21 5).toNat
def odO0 (d : BitVec 128) : Nat := (fld d 32 16).toNat
def odFar (d : BitVec 128) : Nat := (fld d 0 52).toNat

/-- Whether the zero fields of a descriptor of a kind are zero (R147). -/
def odZeros (d : BitVec 128) : Bool :=
  fld d 110 14 == 0 && fld d 53 11 == 0 &&
  match odKind d with
  | 0 => fld d 64 16 == 0 && fld d 21 11 == 0
  | 1 => fld d 26 84 == 0
  | 2 => fld d 109 1 == 0 && fld d 52 1 == 0
  | 3 => fld d 64 46 == 0 && fld d 48 5 == 0 && fld d 21 11 == 0
  | _ => false

/-! The shape register (R157). -/

structure Shape where
  padv : Nat
  pixp : Nat
  rowp : Nat
  oh : Nat
  ow : Nat
  padl : Nat
  padt : Nat
  dx : Nat
  dy : Nat
  sx : Nat
  sy : Nat
  fs : Nat
  fr : Nat
  c : Nat
  h : Nat
  w : Nat

def shapeOf (v : BitVec 256) : Shape :=
  let g (lo n : Nat) : Nat := (fld v lo n).toNat
  ⟨g 192 16, g 176 16, g 144 32, g 128 16, g 112 16, g 104 8, g 96 8, g 88 8, g 80 8, g 72 8, g 64 8, g 56 8, g 48 8,
    g 32 16, g 16 16, g 0 16⟩

/-- Whether every field lies within its limit (R157), for a kstep and an element width. -/
def shapeOk (v : BitVec 256) (ks w : Nat) : Bool :=
  let x := shapeOf v
  fld v 208 48 == 0 && decide (x.padv < 2 ^ w) && decide (1 ≤ x.oh) && decide (1 ≤ x.ow) && decide (1 ≤ x.dx) && decide (1 ≤ x.dy)
    && decide (1 ≤ x.sx) && decide (1 ≤ x.sy) && decide (1 ≤ x.fs) && decide (x.fs ≤ 16) && decide (1 ≤ x.fr)
    && decide (x.fr ≤ 16) && decide (1 ≤ x.c) && decide (x.c % ks = 0) && decide (1 ≤ x.h) && decide (1 ≤ x.w)
    && decide (x.fr * x.fs * x.c ≤ 8192)

/-- The input element of row `i` and reduction index `k` (R158): its bit address, or none for a pad. -/
def convBit (x : Shape) (base o w k : Nat) : Option Nat :=
  let oy := o / x.ow
  let ox := o % x.ow
  let fr := k / (x.fs * x.c)
  let fs := k / x.c % x.fs
  let ch := k % x.c
  let y : Int := (oy * x.sy + fr * x.dy : Nat) - (x.padt : Int)
  let z : Int := (ox * x.sx + fs * x.dx : Nat) - (x.padl : Int)
  if y < 0 ∨ (x.h : Int) ≤ y ∨ z < 0 ∨ (x.w : Int) ≤ z then none
  else some (8 * (base + y.toNat * x.rowp + z.toNat * x.pixp) + ch * w)

/-- Whether row `i` of the tile is written (R158). -/
def convLive (x : Shape) (o : Nat) : Bool := decide (o < x.ow * x.oh)

/-! Layouts (R148). -/

/-- The bit address of element (n, k) of a local operand. -/
def localBit (base pitch : Nat) (tr : Bool) (ks w n k : Nat) : Nat :=
  if tr then 8 * base + 8 * (k / 32) * pitch + (n * 32 + k % 32) * w
  else 8 * base + 8 * (k / ks) * pitch + (n * ks + k % ks) * w

/-- The pieces of scratchpad, as offset and length, that a local operand reads in group `g` (R148, R149). -/
def localPieces (base pitch : Nat) (tr : Bool) (ks w : Nat) (scale : Option Nat) (g : Nat) : List (Nat × Nat) :=
  (if tr then (List.range 32).map (fun n => (localBit base pitch true ks w n (g * ks) / 8, ks * w / 8))
   else [(base + g * pitch, 64)])
  ++ (match scale with
      | some a => if g * ks % 32 = 0 then [(a + g * ks, 32)] else []
      | none => [])

/-- The pieces that a convolution input reads in group `g` (R158). -/
def convPieces (x : Shape) (base o0 ks w g : Nat) : List (Nat × Nat) :=
  (List.range 32).flatMap (fun i =>
    if convLive x (o0 + i) then
      (List.range ks).filterMap (fun kk => (convBit x base (o0 + i) w (g * ks + kk)).map (fun b => (b / 8, max (w / 8) 1)))
    else [])

/-- The pieces of an operand in the scratchpad in group `g`. -/
def Operand.pieces (o : Operand) (ks w : Nat) (mx : Bool) (g : Nat) : List (Nat × Nat) :=
  match o with
  | .local base pitch tr sa => localPieces base pitch tr ks w (if mx then some sa else none) g
  | .conv base sh o0 => convPieces (shapeOf sh) base o0 ks w g
  | _ => []

/-- Whether a piece lies in bank group A (false) or B (true) (R150). -/
def inGroup (b : Bool) (p : Nat × Nat) : Bool :=
  if b then decide (0x100000 ≤ p.1) && decide (p.1 + p.2 ≤ 0x200000) else decide (p.1 + p.2 ≤ 0x100000)

/-- The bank accesses of pieces in one cycle, one for each block (R151). -/
def pieceUses (cyc : Nat) (ps : List (Nat × Nat)) : List (Nat × Nat × Nat) :=
  ((ps.flatMap (fun p => [p.1, p.1 + p.2 - 1])).map (fun o => (cyc, bankOf o, blockOf o))).eraseDups

/-! Values of a group. -/

/-- An operand element: its exact value with its scale (R16, R18), whether an input of it is non-finite or a NaN (R163), and poison. -/
structure Elem where
  v : Fv
  nf : Bool
  nan : Bool
  pz : Bool

def Fv.isFin (v : Fv) : Bool := !v.isNan && !v.isInf

/-- An element with an optional scale. -/
def elemOf (v : Fv) (scale : Option Fv) (pz : Bool) : Elem :=
  match scale with
  | none => ⟨v, !v.isFin, v.isNan, pz⟩
  | some sc => ⟨(mulV sc v).1, !v.isFin || !sc.isFin, v.isNan || sc.isNan, pz⟩

/-- An element of `w` bits at a bit address of a byte store, with the poison of every word that holds a byte of it. -/
def State.elemAt (s : State) (base bit w : Nat) : Nat × Bool :=
  let a := base + bit / 8
  ((if w = 4 then s.rdNat a 1 / 2 ^ (bit % 8) % 16 else s.rdNat a (w / 8)), poisonedIn s.pz a (max (w / 8) 1))

/-- The elements of line `n` in group `g` of a local operand, with the scale bytes of its block. -/
def State.localLine (s : State) (core base pitch : Nat) (tr : Bool) (sc : List (Byte × Bool)) (t : Ety) (mx : Bool) (ks g n : Nat) : List Elem :=
  let w := t.width
  let sn := sc.getD n (0, false)
  (List.range ks).map (fun kk =>
    let (code, p) := s.elemAt (winBase core) (localBit base pitch tr ks w n (g * ks + kk)) w
    if mx then elemOf (t.value code) (some (e8m0 sn.1.toNat)) (p || sn.2)
    else elemOf (t.value code) none p)

/-- The elements of row `i` in group `g` of a convolution input. -/
def State.convLine (s : State) (core base : Nat) (sh : BitVec 256) (o0 : Nat) (t : Ety) (ks g i : Nat) : List Elem :=
  let x := shapeOf sh
  (List.range ks).map (fun kk =>
    match convBit x base (o0 + i) t.width (g * ks + kk) with
    | none => elemOf (t.value x.padv) none false
    | some b =>
      let (code, p) := s.elemAt (winBase core) b t.width
      elemOf (t.value code) none p)

/-- The elements of column `j` in group `g` of a decoded ingot (R155, R195). -/
def ingotLine (f : MatFmt) (cols : List (List W32)) (pz : List Bool) (scales : List (List Byte)) (cb : List W16) (g j : Nat) :
    List Elem :=
  (List.range f.ks).map (fun kk =>
    let k := g * f.ks + kk
    let code := ((cols.getD j []).getD k 0).toNat
    let sc := scales.getD j []
    let p := pz.getD j false
    if f.cb4 then
      elemOf (Fmt.f16.decode (cb.getD code 0).toNat) (some (Fmt.bf16.decode (leNat ((sc.drop (2 * (k / 32))).take 2)))) p
    else if f.mx then elemOf (f.eb.value code) (some (e8m0 (sc.getD (k / 32) 0).toNat)) p
    else elemOf (f.eb.value code) none p)

/-- The elements of column `j` of a remote piece of 64 bytes with its scales (R156). -/
def remoteLine (f : MatFmt) (bs sc : List (Byte × Bool)) (j : Nat) : List Elem :=
  let w := f.eb.width
  (List.range f.ks).map (fun kk =>
    let bit := (j * f.ks + kk) * w
    let part := (bs.drop (bit / 8)).take (max (w / 8) 1)
    let code := leNat (part.map (·.1)) / 2 ^ (bit % 8) % 2 ^ w
    let s1 := sc.getD j (0, false)
    if f.mx then elemOf (f.eb.value code) (some (e8m0 s1.1.toNat)) (part.any (·.2) || s1.2)
    else elemOf (f.eb.value code) none (part.any (·.2)))

/-! One step of one cell (R33 to R35, R154). -/

/-- The exact sum of a group's products. -/
def groupSum (a b : List Elem) : Fv :=
  match List.zipWith (fun x y => (mulV x.v y.v).1) a b with
  | [] => .num false 0 0
  | p :: rest => rest.foldl (fun s q => (addV false s q).1) p

/-- Update a cell with one group. -/
def stepCell (int : Bool) (c : AccElt) (a b : List Elem) : AccElt :=
  let pz := c.pz || a.any (·.pz) || b.any (·.pz)
  if int then
    let sum : Int := match (addV false (Fv.ofInt c.v.toInt) (groupSum a b)).1 with
      | .num n m e => scaled n m e 0
      | _ => 0
    { c with v := BitVec.ofInt 32 sum, pz := pz, wrapped := c.wrapped || decide (sum < -(2 ^ 31)) || decide (2 ^ 31 ≤ sum) }
  else
    { c with
      v := roundF32 (addV false (Fmt.f32.decode c.v.toNat) (groupSum a b)).1
      pz := pz
      nonFinite := c.nonFinite || a.any (·.nf) || b.any (·.nf)
      nanIn := c.nanIn || a.any (·.nan) || b.any (·.nan) }

/-- Update the 32 × 32 cells with one group; a cell that is not live keeps its value (R158). -/
def stepCells (int : Bool) (acc : List AccElt) (a b : List (List Elem)) : List AccElt :=
  (List.range 1024).map (fun k =>
    let c := acc.getD k ⟨0, false, false, false, false, false⟩
    if c.live then stepCell int c (a.getD (k / 32) []) (b.getD (k % 32) []) else c)

/-! Reading a group in its cycle (R152, R154, R156). -/

/-- A group that was read, with the scale bytes of its block; a failed remote read with its subcode and address; a wait; or a page-table entry that cannot be read (R373). -/
inductive GroupRead where
  | ok (s : State) (lines : List (List Elem)) (sc : List (Byte × Bool))
  | fail (sub addr : Nat)
  | wait
  | dead (entry : Nat)

/-- The remote-operand subcode of a failed access (R156). -/
def remoteSub (st : BitVec 8) : Nat := if st.toNat ≤ 3 then st.toNat else 4

/-- Read group `g` of an operand of `f`; `t` is its element type. The scale bytes of a block are read with the first of its groups and kept in `sc` (R149). -/
def State.readGroup (s : State) (core : Nat) (o : Operand) (f : MatFmt) (t : Ety) (groups g : Nat) (sc : List (Byte × Bool)) : GroupRead :=
  let fresh := f.mx && (sc.isEmpty || g * f.ks % 32 == 0)
  match o with
  | .local base pitch tr sa =>
    let sp := winBase core + sa + 32 * (g * f.ks / 32)
    let sc1 := if fresh then (List.range 32).map (fun n => (s.mem.rd (sp + n), poisonedAt s.pz (sp + n))) else sc
    .ok s ((List.range 32).map (s.localLine core base pitch tr sc1 t f.mx f.ks g)) sc1
  | .conv base sh o0 => .ok s ((List.range 32).map (s.convLine core base sh o0 t f.ks g)) sc
  | .ingot cols pz scales cb _ => .ok s ((List.range 32).map (ingotLine f cols pz scales cb g)) sc
  | .remote addr pitch peer =>
    let x := (s.core core).ctx.getD 64
    let a := (addr + g * pitch) % 2 ^ 52
    match s.rankRead x (some core) peer a 64 with
    | .fail st => .fail (remoteSub st) a
    | .wait => .wait
    | .dead e => .dead e
    | .ok (s1, bs) =>
      if fresh then
        let sa := (addr + groups * pitch + 32 * (g * f.ks / 32)) % 2 ^ 52
        match s1.rankRead x (some core) peer sa 32 with
        | .fail st => .fail (remoteSub st) sa
        | .wait => .wait
        | .dead e => .dead e
        | .ok (s2, sc1) => .ok s2 ((List.range 32).map (remoteLine f bs sc1)) sc1
      else .ok s1 ((List.range 32).map (remoteLine f bs sc)) sc

/-- What reading the next group of a multiply comes to. -/
inductive Grown where
  | ok (s : State) (o : MatOp)
  | fail (sub addr : Nat)
  | wait
  | dead (entry : Nat)

/-- Whether a write has landed in the segment of an MMAC since its issue (R200). -/
def State.segmentMoved (s : State) (core : Nat) (o : MatOp) : Bool :=
  o.src.any (fun p => s.rdB (winBase core + p.1) p.2.length != p.2)

/-- What an MMAC whose segment has changed under it comes to: its result is not defined, and it may raise an ingot fault (R200); all of it is free. -/
def State.mixedOp (s : State) (o : MatOp) : State × MatOp :=
  if Config.freeVerdict s.fresh then
    ({ s with fresh := s.fresh + 2 }, { o with
      g := o.groups
      b := .ingot [] [] [] [] (some (0x18, (Config.freeWord s.fresh).toNat % 8, Config.freeWord (s.fresh + 1))) })
  else
    ({ s with fresh := s.fresh + 1024 }, { o with
      g := o.g + 1
      acc := o.acc.zipIdx.map (fun c => if c.1.live then { c.1 with v := fld (Config.freeWord (s.fresh + c.2)) 0 32 } else c.1) })

/-- Read the next group of a multiply and update its cells (R154). -/
def State.growOp (s : State) (core : Nat) (o : MatOp) : Grown :=
  let f := matFmt o.fmt
  if s.segmentMoved core o then .ok (s.mixedOp o).1 (s.mixedOp o).2
  else
  match s.readGroup core o.a f f.ea o.groups o.g o.scA with
  | .fail c a => .fail c a
  | .wait => .wait
  | .dead e => .dead e
  | .ok s1 a sa =>
    match s1.readGroup core o.b f f.eb o.groups o.g o.scB with
    | .fail c x => .fail c x
    | .wait => .wait
    | .dead e => .dead e
    | .ok s2 b sb => .ok s2 { o with g := o.g + 1, acc := stepCells f.int o.acc a b, scA := sa, scB := sb }

/-! Issue (R147, R150 to R155). -/

/-- The address step of a descriptor, where its option bit is set (R155). -/
def matStep (s : State) (f : XMat) (bit : Nat) : Int := if bitAt f.flags bit then s.cur.addrStep .x f.st else 0

/-- A local operand with its step, or an illegal operand (R148, R149, R155). The base is an integer until its group is checked. -/
def localOf (d : BitVec 128) (step : Int) (mx : Bool) : Option (Int × Nat × Bool × Nat) :=
  let base : Int := odAddr d + step
  if base % (if odTr d then 128 else 64) ≠ 0 ∨ (odTr d ∧ odPitch d % 2 = 1) ∨ (mx ∧ odSaddr d % 32 ≠ 0) then none
  else some (base, 64 * odPitch d, odTr d, odSaddr d)

/-- A tile word after the multiplies in flight on the tile, in issue order (R33, R154). -/
def afterMats (mats : List MatOp) (tile k : Nat) (here : W32 × Bool) : W32 × Bool :=
  mats.foldl (fun w o =>
    if o.tile = tile then
      (match o.acc[k]? with
       | some c => if c.live then (c.v, c.pz) else w
       | none => w)
    else w) here

/-- The cells that a multiply starts from (R154): zero, or the tile after every earlier multiply on it. -/
def State.startCells (s : State) (core tile : Nat) (zi int : Bool) (live : Nat → Bool) : List AccElt :=
  (List.range 1024).map (fun k =>
    let (v, pz) := afterMats (s.core core).mats tile k (s.word (tAddr core tile (k / 32) (k % 32)))
    let on := live (k / 32)
    if zi then ⟨0, false, false, false, false, on⟩
    else
      let x := Fmt.f32.decode v.toNat
      ⟨v, pz, !int && !x.isFin, !int && x.isNan, false, on⟩)

/-- Compare the tags of the pieces of an operand, ascending (R152). -/
def State.tagPieces (s : State) : List (Nat × Nat) → Except Effect State
  | [] => .ok s
  | p :: rest =>
    match s.tagCheck .x p.1 p.2 with
    | .error e => .error e
    | .ok s1 => State.tagPieces s1 rest

/-- A multiply ready to issue, with what it reads from group A and group B beside its operands. -/
structure Mul where
  a : Operand
  b : Operand
  k : Nat
  live : Nat → Bool

/-- The descriptors of a multiply checked and resolved (R147, R155, R157): none is an illegal operand. -/
def mulOf (s : State) (m : MulOp) (f : XMat) : Option Mul :=
  let fm := matFmt f.fmt.toNat
  let da := (s.cur.odOf f.odA.toNat).1
  let db := (s.cur.odOf f.odB.toNat).1
  let sa := matStep s f 3
  let sb := matStep s f 2
  let sh := shapeOf s.cur.shape
  let kinds := match m with
    | .mma => (0, 0)
    | .mmac => (0, 1)
    | .mmar => (0, 2)
    | .mconv => (3, 0)
  let k := if m = .mconv then sh.fr * sh.fs * sh.c else odK da
  let off (i : Int) : Nat := if i < 0 then 0x200000 else i.toNat
  let far := ((odFar db : Int) + sb) % 2 ^ 52
  if odKind da ≠ kinds.1 ∨ odKind db ≠ kinds.2 ∨ !odZeros da ∨ !odZeros db then none
  else if m = .mconv ∧ !shapeOk s.cur.shape fm.ks fm.ea.width then none
  else if k % fm.ks ≠ 0 ∨ (m = .mmac ∧ 256 < k) ∨ (m ≠ .mmac ∧ odK db ≠ k) then none
  else
    let a : Option Operand :=
      if m = .mconv then some (.conv (odAddr da) s.cur.shape ((odO0 da + sa) % 65536).toNat)
      else (localOf da sa fm.mx).map (fun x => .local (off x.1) x.2.1 x.2.2.1 x.2.2.2)
    let b : Option Operand :=
      match m with
      | .mmac =>
        if odAddr db % 16 ≠ 0 then none
        else
          let seg := (((odSeg db : Int) + sb) % 32).toNat
          let r := s.melt s.me (s.myCtx.getD 64) (odAddr db) seg f.tile.toNat k (wantEfmt f.fmt.toNat)
          some (.ingot r.cols r.pz r.scales r.codebook r.fault)
      | .mmar => if far % 64 ≠ 0 then none else some (.remote far.toNat (64 * odPitch db) (odPeer db))
      | _ => (localOf db sb fm.mx).map (fun x => .local (off x.1) x.2.1 x.2.2.1 x.2.2.2)
    match a, b with
    | some a, some b => some ⟨a, b, k, fun i => m != .mconv || convLive sh (((odO0 da : Int) + sa) % 65536 + i).toNat⟩
    | _, _ => none

/-- The pieces that a multiply reads in a group from group A and from group B. -/
def Mul.pieces (u : Mul) (f : MatFmt) (g : Nat) : List (Nat × Nat) × List (Nat × Nat) :=
  (u.a.pieces f.ks f.ea.width f.mx g, u.b.pieces f.ks f.eb.width f.mx g)

/-- The bank accesses of a multiply from cycle `c` on (R151). -/
def Mul.uses (u : Mul) (m : MulOp) (f : MatFmt) (c groups : Nat) : List (Nat × Nat × Nat) :=
  (List.range groups).flatMap (fun g =>
    let p := u.pieces f g
    (match m with
      | .mmac => (c + g, 33, 0) :: pieceUses (c + g) p.1
      | .mconv => (c + g, 32, 0) :: pieceUses (c + g) p.2
      | _ => pieceUses (c + g) (p.1 ++ p.2)))

/-- The remote-operand fault at group `p` (R156, R287). -/
def remoteTrap (sub addr tile p : Nat) : TrapInfo :=
  { TrapInfo.of 0x19 .x with sub := sub, addr := addr, detail := BitVec.ofNat 64 (tile * 2 ^ 54 + p) }

/-- X as it stands before the issue, with only the groups that the issue takes (R156). -/
def undoOf (q : Seq) (now occ : Nat) : Seq :=
  { q with queue := q.queue.take (q.queue.length - (q.issued now occ).queue.length) }

/-- The issue of a multiply (R154): its first group is read in the issue cycle. An MMAR's reads follow every earlier store of the core (R251). -/
def mulStart (s0 : State) (m : MulOp) (f : XMat) (u : Mul) (p0 : Nat) (cells : List AccElt) (groups : Nat) (src : List (Nat × Nat)) : Effect :=
  let s := if m = .mmar then s0.drainAll else s0
  let c := s.cur
  let (ln, la) := c.ex.pos
  let op : MatOp :=
    { tile := f.tile.toNat, fmt := f.fmt.toNat, start := c.now - p0, groups := groups, g := p0, a := u.a, b := u.b
      acc := cells, line := ln, lane := la, cyc := c.now, kk := u.k, scA := [], scB := [], part := false
      undo := if m = .mmar then some (undoOf c.ex c.now (groups - p0)) else none
      src := src.map (fun p => (p.1, s.rdB (winBase s.me + p.1) p.2)) }
  match u.b with
  | .ingot _ _ _ _ (some _) => .done (s.modCur (fun c => { c with mats := c.mats ++ [{ op with g := groups }] }))
  | _ =>
    match s.growOp s.me op with
    | .wait => .wait
    | .fail sub a => .trap (remoteTrap sub a f.tile.toNat p0)
    | .dead e => .fatal fatalTable e
    | .ok s1 o => .done (s1.modCur (fun c => { (holdLate c 1 (m = .mmar)) with mats := c.mats ++ [o], mprog := if m = .mmar then none else c.mprog }))

/-- The scratchpad pieces that a multiply's issue checks against its groups (R150): those of every k-group, and MMAC's index entry. -/
def groupsOk (m : MulOp) (fm : MatFmt) (u : Mul) (entry groups : Nat) : Bool :=
  (List.range groups).all (fun g =>
    let p := u.pieces fm g
    p.1.all (inGroup false) && p.2.all (inGroup true))
  && (m != .mmac || inGroup true (entry, 16))

/-- A multiply instruction (R146 to R158). An MMAR that stopped goes on with the operands of its first issue (R48, R156). The tags of an MMAC are compared over its segment too (R150, R152, R200). -/
def multiply (s : State) (m : MulOp) (f : XMat) : Effect × Nat :=
  let fm := matFmt f.fmt.toNat
  let oa := s.cur.odOf f.odA.toNat
  let ob := s.cur.odOf f.odB.toNat
  let prog := if m = .mmar then s.cur.mprog else none
  if !m.takes f.fmt.toNat then (illegalOperand .x, 1)
  else if prog.isNone && (oa.2 || ob.2 || (m == .mconv && s.cur.shapePz)) then (poisonTrap .x (dataPz 0), 1)
  else
    match (match prog with | some p => some (⟨p.a, p.b, p.kk, fun _ => true⟩ : Mul) | none => mulOf s m f) with
    | none => (illegalOperand .x, 1)
    | some u =>
      let groups := u.k / fm.ks
      let p0 := match prog with | some p => p.p | none => 0
      let seg := (((odSeg ob.1 : Int) + matStep s f 2) % 32).toNat
      let entry := odAddr ob.1 + 16 * seg
      let cells0 := s.startCells s.me f.tile.toNat (bitAt f.flags 1 && p0 == 0) fm.int u.live
      let cells := match prog with
        | some p => (List.range 1024).map (fun k =>
            let c := cells0.getD k ⟨0, false, false, false, false, false⟩
            match p.cells[k]? with
            | some o => { c with nonFinite := o.nonFinite, nanIn := o.nanIn, wrapped := o.wrapped }
            | none => c)
        | none => cells0
      (if !groupsOk m fm u entry groups then .trap (TrapInfo.of 0x12 .x)
       else
        match ((s.cur.copiedTile .x f.tile.toNat).or (s.cur.armedTile .x f.tile.toNat)).elim
            (s.useBanks .x (u.uses m fm (s.cur.now - p0) groups)) Except.error with
        | .error e => e
        | .ok s1 =>
          let ps := (List.range groups).flatMap (fun g => (u.pieces fm g).1 ++ (u.pieces fm g).2)
          let span := if m = .mmac then s1.segmentSpan s1.me (odAddr ob.1) seg else []
          match s1.tagPieces (ps ++ (if m = .mmac then (entry, 16) :: span else [])) with
          | .error e => e
          | .ok s2 => mulStart s2 m f u p0 cells groups span, groups - p0)

def execMma (f : XMat) (s : State) := s.issueOcc .x (multiply s .mma f).2 (multiply s .mma f).1
def execMmac (f : XMat) (s : State) := s.issueOcc .x (multiply s .mmac f).2 (multiply s .mmac f).1
def execMmar (f : XMat) (s : State) := s.issueOcc .x (multiply s .mmar f).2 (multiply s .mmar f).1
def execMconv (f : XMat) (s : State) := s.issueOcc .x (multiply s .mconv f).2 (multiply s .mconv f).1

/-! Tile writes and late faults. -/

/-- Words of cells with their poison; a poisoned element is free (R52, R154). -/
def State.cellWords (s : State) (acc : List AccElt) (r : Nat) : List (W32 × Bool) :=
  (List.range 32).map (fun c =>
    match acc[32 * r + c]? with
    | some x => if x.pz then (fld (Config.freeWord (s.fresh + 32 * r + c)) 0 32, true) else (x.v, false)
    | none => (0, false))

/-- Write the live rows of a tile. -/
def State.writeCells (s : State) (core tile : Nat) (acc : List AccElt) : State :=
  let s1 := (List.range 32).foldl (fun (t : State) r =>
    match acc[32 * r]? with
    | some x => if x.live then t.wrWords (tAddr core tile r 0) (s.cellWords acc r) else t
    | none => t) s
  { s1 with fresh := s.fresh + 1024 }

/-- The four counts of a multiply: OVF, INV, NFI, IWR (R163). -/
def cellCounts (int : Bool) (acc : List AccElt) : List Nat :=
  let l := acc.filter (fun c => c.live && !c.pz)
  let v (c : AccElt) : Fv := Fmt.f32.decode c.v.toNat
  if int then [0, 0, 0, (l.filter (·.wrapped)).length]
  else
    let ovf := (l.filter (fun c => (v c).isInf && !c.nonFinite)).length
    let inv := (l.filter (fun c => (v c).isNan && !c.nanIn)).length
    let non := (l.filter (fun c => !(v c).isFin)).length
    [ovf, inv, non - ovf - inv, 0]

/-- Add counts to a class's counters, which saturate (R163). -/
def addCounts (w : W64) (n : List Nat) : W64 :=
  let f (i : Nat) : Nat := Min.min 0xFFFF ((fld w (16 * i) 16).toNat + n.getD i 0)
  BitVec.ofNat 64 (f 0 + f 1 * 2 ^ 16 + f 2 * 2 ^ 32 + f 3 * 2 ^ 48)

/-- MATRIX_TILE_WRITE (R154, R163): the oldest multiply of the core that has reached its tile latency writes its tile, NF and the counters. -/
def execMatrixTileWrite (core : Nat) (s : State) : Result :=
  let c := s.core core
  match c.mats.find? (fun o => o.start + o.groups + 6 ≤ c.now && o.groups ≤ o.g) with
  | none => .next s
  | some o =>
    let int := (matFmt o.fmt).int
    let n := cellCounts int o.acc
    let nf := !o.part && !int && decide (0 < n.getD 0 0 + n.getD 1 0 + n.getD 2 0)
    let cls := o.tile / 64
    let s1 := s.setCore core { c with
      mats := c.mats.erase o
      fpflags := if nf then c.fpflags ||| 0x20 else c.fpflags
      exc := if o.part then c.exc else tset 0 c.exc cls (addCounts (tget 0 c.exc cls) n) }
    .next (s1.writeCells core o.tile o.acc)

/-- INGOT_FAULT (R155, R202): a multiply whose segment failed raises its fault in cycle c + T; the tile is left unchanged. -/
def execIngotFault (core : Nat) (s : State) : Result :=
  let c := s.core core
  let bad (o : MatOp) : Option (Nat × Nat × W64) := match o.b with
    | .ingot _ _ _ _ f => if o.start + o.groups ≤ c.now then f else none
    | _ => none
  match c.mats.find? (fun o => (bad o).isSome) with
  | none => .next s
  | some o =>
    match bad o with
    | none => .next s
    | some (code, sub, d) =>
      .next ((s.setCore core { c with mats := c.mats.erase o }).takeTrap (.core core)
        { TrapInfo.of code .x with sub := sub, detail := d })

/-- X moved back to an instruction that must issue again (R156). -/
def Seq.back (now undo : Seq) : Seq := { undo with queue := undo.queue ++ now.queue, free := 0 }

/-- REMOTE_OPERAND_FAULT (R156): a group whose remote data fails stops its MMAR; the groups before it go to the tile with the snapshot, in the place of the MMAR among the multiplies in flight, and X stands at the MMAR again. -/
def execRemoteOperandFault (core : Nat) (s : State) : Result :=
  let c := s.core core
  match c.mats.find? (fun o => o.undo.isSome && decide (o.g < o.groups) && decide (o.start + o.g ≤ c.now)) with
  | none => .next s
  | some o =>
    match s.growOp core o with
    | .ok s1 o' => .next (s1.modCore core (fun c => { c with mats := c.mats.map (fun x => if x = o then o' else x) }))
    | .wait => .next s
    | .dead e => .next (s.raiseFatal (.core core) fatalTable e)
    | .fail sub a =>
      let c1 := { c with
        mats := if 0 < o.g then c.mats.map (fun x => if x = o then { o with groups := o.g, undo := none, part := true } else x) else c.mats.erase o
        mprog := some ⟨o.g, o.acc, o.a, o.b, o.kk⟩
        ex := match o.undo with | some u => c.ex.back u | none => c.ex }
      .next ((s.setCore core c1).takeTrap (.core core) (remoteTrap sub a o.tile o.g))

/-! Accumulator instructions (R157, R160, R161, R163). -/

/-- MSHAPE (R157). -/
def execMshape (f : XMat) (ext : BitVec 32) (s : State) :=
  let _ := f
  let a := (fld ext 0 21).toNat
  s.issue .x
    (if a % 32 ≠ 0 then illegalOperand .x
     else
      match s.useBank .x 0 a with
      | .error e => e
      | .ok s1 =>
        match s1.tagCheck .x a 32 with
        | .error e => e
        | .ok s2 =>
          let p := winBase s.me + a
          .done (s2.modCur (fun c => c.emit .x 2 (.shape (BitVec.ofNat 256 (s.rdNat p 32)) (s.pzB p 32)))))

/-- ACCZ (R160): bits [15:8] hold n - 1. -/
def execAccz (f : XMat) (s : State) :=
  let n := (f.odA ++ f.odB : BitVec 8).toNat + 1
  let tiles := (List.range n).map (fun i => (f.tile.toNat + i) % 1024)
  s.issue .x
    (match s.cur.busyTiles .x tiles with
     | some e => e
     | none => .done (s.modCur (fun c => c.emits .x 2 (tiles.map .zeroTile))))

/-- The 1,024 words from an address with their poison. -/
def State.words1024 (s : State) (a : Nat) : List (W32 × Bool) := (List.range 1024).map (fun k => s.word (a + 4 * k))

/-- ACCRD (R161). -/
def execAccrd (f : XMat) (ext : BitVec 32) (s : State) :=
  let n := (fld ext 0 8).toNat
  s.issue .x
    (if 191 < n then illegalOperand .x
     else
      match (if bitAt ext 8 then s.cur.busyTile .x f.tile.toNat
          else (s.cur.ownedTile .x f.tile.toNat).or (s.cur.armedTile .x f.tile.toNat)) with
      | some e => e
      | none => .done (s.modCur (fun c => c.emits .x 4
          (.words (mAddr s.me n 0 0) (s.words1024 (tAddr s.me f.tile.toNat 0 0))
            :: (if bitAt ext 8 then [.zeroTile f.tile.toNat] else [])))))

/-- ACCWR (R161). -/
def execAccwr (f : XMat) (ext : BitVec 32) (s : State) :=
  let n := (fld ext 0 8).toNat
  s.issue .x
    (if 191 < n then illegalOperand .x
     else
      match s.cur.busyTile .x f.tile.toNat with
      | some e => e
      | none => .done (s.modCur (fun c => c.emit .x 4
          (.words (tAddr s.me f.tile.toNat 0 0) (s.words1024 (mAddr s.me n 0 0))))))

/-- Draw a group's next collective sequence number (R268). -/
def Core.drawSeq (c : Core) (g : BitVec 8) : Core :=
  let next (x : Member) : Member := if x.group = g then { x with seq := x.seq + 1 } else x
  { c with slots := c.slots.map next }

/-- ACCARM (R162, R268): the arming takes effect one cycle on with the group's next collective sequence number. -/
def execAccarm (f : XMat) (ext : BitVec 32) (s : State) :=
  let g := fld ext 0 8
  let c := s.cur
  let armed := (c.arms.map (·.nt)).sum
  let (ln, la) := c.ex.pos
  s.issue .x
    (match c.slots.find? (fun (m : Member) => m.group == g) with
     | none => illegalOperand .x
     | some m =>
      match c.busyTile .x f.tile.toNat with
      | some e => e
      | none =>
        if 64 ≤ armed then illegalOperand .x
        else
          let a : Arming :=
            { tile := f.tile.toNat, nt := 1, group := g, seq := m.seq, ctag := none, int := bitAt ext 8
              per := (fld ext 16 8).toNat + 1, src := 0, applied := 0
              tok := if bitAt ext 29 then some (fld ext 24 5) else none, line := ln, lane := la, waited := s.cur.tref, closed := false, checks := [] }
          .done (s.modCur (fun c => (c.emit .x 1 (.arm a)).drawSeq g)))

/-- MEXC (R163): sd stands in [25:20], the class in [19:16]. -/
def execMexc (f : XMat) (s : State) :=
  let cls := (fld f.tile 0 4).toNat
  s.issue .x
    (.done (s.modCur (fun c =>
      { c.emitS .x 2 (fld f.tile 4 6) (tget 0 c.exc cls) none with exc := tset 0 c.exc cls 0 })))

end Sys2Proof.Machine
end

