-- ==== Sys2Proof/Machine/Comm.lean ====
section
/-! DEFINITION. The communication sequencer N (R258 to R275): its commands and steps, the riser and its credits, fabric addends (R36, R162, R266, R267), and the collective watchdog. -/

namespace Sys2Proof.Machine

/-! Faults of N. -/

/-- The record of a step fault (R272): what its command has come to. -/
def Core.stepRecord (c : Core) (addr : Nat) (word : W64) (sub : Nat) : NRec :=
  let st := c.nrun.bind (fun r => r.step)
  { addr := addr, word := word, sub := sub, loops := (match c.nrun with | some r => r.loops | none => [])
    sent := (match st with | some x => x.sent | none => 0), recvd := (match st with | some x => x.recvd | none => 0)
    group := fld word 52 8, n := (match st with | some x => x.seq | none => 0), b := 0, h := 0 }

/-- N stops at a step and the core is asked to take an asynchronous trap. -/
def State.nTrap (s : State) (core : Nat) (t : TrapInfo) : State :=
  s.modCore core (fun c =>
    { c with nrun := c.nrun.map (fun r => { r with faulted := true, word := none }), asyncs := c.asyncs ++ [t] })

/-- A step fault (R272). -/
def State.stepFault (s : State) (core sub : Nat) (addr : Nat) (word : W64) : State :=
  (s.modCore core (fun c => { c with nrec := some (c.stepRecord addr word sub) })).nTrap core ⟨0x1B, sub, 4, true, 0, addr, word⟩

/-- A step fault of the step that the command stands at. -/
def State.nFault (s : State) (core : Nat) (r : NRun) (w : W64) (sub : Nat) : State := s.stepFault core sub r.addr w

/-! Fields of a transfer step (R263). -/

def stOp (w : W64) : Nat := (fld w 60 4).toNat
def stGrp (w : W64) : BitVec 8 := fld w 52 8
def stPm (w : W64) : Bool := bitAt w 51
def stPd (w : W64) : BitVec 16 := fld w 35 16
def stCd (w : W64) : Nat := (fld w 31 4).toNat
def stLaddr (w : W64) : Nat := (fld w 10 21).toNat
def stLc (w : W64) : Nat := (fld w 8 2).toNat
def stCrel (w : W64) : Bool := bitAt w 7
def stMode (w : W64) : Nat := (fld w 4 3).toNat
def stCtag (w : W64) : BitVec 4 := fld w 0 4

/-- The pass number of a loop level, 0 when it is not open (R259). -/
def NRun.lc (r : NRun) (l : Nat) : Nat := match r.loops[l]? with
  | some x => x.lc
  | none => 0

/-- MAPBASE and CSTRIDE (R261). -/
def NRun.mapBase (r : NRun) : Nat := (fld r.arg 32 21).toNat
def NRun.cstride (r : NRun) : Nat := (fld r.arg 0 32).toNat

/-- A peer of a step (R259): `some none` is no peer; an error is a step fault. -/
def peerOf (s : State) (core : Nat) (r : NRun) (w : W64) (m : Member) (back : Bool) : Except Nat (Option Nat) :=
  if stPm w then
    let i : Nat := (stPd w).toNat + r.lc (stLc w) + (if back then 1 else 0)
    let a := r.mapBase + 2 * i
    if r.mapBase % 2 ≠ 0 ∨ 0x200000 < a + 2 then .error 3
    else if (s.peek (winBase core + a) 2).any (·.2) then .error 9
    else
      let e := leNat ((s.peek (winBase core + a) 2).map (·.1))
      if e = 0xFFFF then .ok none else if m.size ≤ e then .error 2 else .ok (some e)
  else
    let d : Int := (stPd w).toInt
    .ok (some (((m.grank : Int) + (if back then -d else d)) % m.size).toNat)

/-- The chunk index of a rank (R260). -/
def chunkIndex (r : NRun) (w : W64) (m : Member) (x : Nat) : Nat :=
  (((x : Int) - r.lc (stLc w)) % m.size).toNat

/-- The local address of the box of a rank (R260, R263). -/
def boxAddr (r : NRun) (w : W64) (m : Member) (asrc : Bool) (x : Nat) : Nat :=
  (if asrc then 4 * stLaddr w else stLaddr w) + (if stCrel w then chunkIndex r w m x * r.cstride else 0)

/-- The fields of a descriptor that N reads (R263); a send takes no tag. -/
def nCd (d : BitVec 512) (send : Bool) : BitVec 512 :=
  let keep (lo n : Nat) : Nat := (fld d lo n).toNat * 2 ^ lo
  BitVec.ofNat 512
    (keep 54 2 + (if send then 0 else keep 56 1) + keep 58 6 + (if send then 0 else keep 80 16) + keep 96 64
      + keep 256 64 + keep 448 64)

/-- The fields that a COPY step reads (R263). -/
def copyCd (d : BitVec 512) : BitVec 512 :=
  let keep (lo n : Nat) : Nat := (fld d lo n).toNat * 2 ^ lo
  BitVec.ofNat 512 (keep 0 52 + keep 54 3 + keep 58 6 + keep 80 432)

/-! Boxes as byte streams (R264). -/

/-- The scratchpad or accumulator byte of stream byte `j` of a box. -/
def boxByte (core : Nat) (d : BitVec 512) (loc j : Nat) : Nat :=
  let e := cdEsz d
  winBase core + (if cdAsrc d then 0x800000 else 0) + loc + cdLocal d false (j / e) + j % e

/-- Stream bytes `from_` to `from_ + n - 1` of a box with their poison. -/
def State.boxRead (s : State) (core : Nat) (d : BitVec 512) (loc from_ n : Nat) : List (Byte × Bool) :=
  (List.range n).map (fun i => s.outByte (boxByte core d loc (from_ + i)))

/-- Write stream bytes of a box, element by element. -/
def State.boxWrite (s : State) (core : Nat) (d : BitVec 512) (loc from_ : Nat) (bs : List (Byte × Bool)) : State :=
  let e := cdEsz d
  ((chunksOf e bs.length bs).zipIdx).foldl (fun s x =>
    s.poke (boxByte core d loc (from_ + e * x.2)) (x.1.map (·.1)) (x.1.any (·.2))) s

/-- The bytes of a block with their poison. -/
def blockBytes (b : Block) : List (Byte × Bool) := b.data.zipIdx.map (fun x => (x.1, b.poison.getD x.2 false))

/-- The local bytes of a box (R264: two boxes of one step may not overlap). -/
def boxCells (d : BitVec 512) (loc : Nat) : List (Nat × Nat) :=
  (List.range (cdCount d)).map (fun k => (loc + cdLocal d false k, cdEsz d))
def overlaps (a b : List (Nat × Nat)) : Bool :=
  a.any (fun x => b.any (fun y => decide (x.1 < y.1 + y.2) && decide (y.1 < x.1 + x.2)))

/-! Reductions (R265). -/

/-- The size of a reduction element. -/
def redSize (mode : Nat) : Nat := if mode = 1 then 2 else 4

/-- One reduced element. -/
def redElem (mode : Nat) (a b : Nat) : Nat :=
  let f (t : Fmt) (v : Fv) : Nat := (t.round .rne 0 false false false v).code
  let x := Fmt.f32.decode a
  let y := Fmt.f32.decode b
  match mode with
  | 0 => f .f32 (addV false x y).1
  | 1 => f .bf16 (addV false (Fmt.bf16.decode a) (Fmt.bf16.decode b)).1
  | 2 => (a + b) % 2 ^ 32
  | 3 => f .f32 (minmaxV true x y).1
  | _ => f .f32 (minmaxV false x y).1

/-- Reduce received bytes into local ones; a poisoned input makes the element poisoned, with a free value (R52). -/
def redBytes (mode : Nat) (free : List Byte) (loc rec : List (Byte × Bool)) : List (Byte × Bool) :=
  let n := redSize mode
  (List.zip (chunksOf n loc.length loc) (chunksOf n rec.length rec)).flatMap (fun p =>
    if p.1.any (·.2) || p.2.any (·.2) then (free.take n).map (fun b => (b, true))
    else (natLe n (redElem mode (leNat (p.1.map (·.1))) (leNat (p.2.map (·.1))))).map (fun b => (b, false)))

/-! Armings (R36, R162, R266, R267). -/

/-- The first source rank at or above `x` that is another member. -/
def nextSource (m : Member) (x : Nat) : Nat := if x = m.grank then x + 1 else x

/-- Apply the addend of a block to the tile of an arming that is its turn (R36, R162). -/
def State.applyBlock (s : State) (core : Nat) (a : Arming) (b : Block) : State :=
  s.bringLate core (.addend ((a.tile + a.applied % (max a.nt 1)) % 1024) a.int (wordsGot (blockBytes b)))

/-- Replace an arming. -/
def Core.putArm (c : Core) (a b : Arming) : Core := { c with arms := c.arms.map (fun x => if x = a then b else x) }

/-- The arming after one more addend of its present source. -/
def Arming.next (a : Arming) (m : Member) : Arming :=
  if a.applied + 1 < a.per then { a with applied := a.applied + 1 }
  else { a with applied := 0, src := nextSource m (a.src + 1) }

/-- An arming with every addend applied is complete, and its riser blocks are released (R162). Its tiles stay armed to the end of the cycle. -/
def Core.closeArm (c : Core) (a : Arming) : Core :=
  { c with
    arms := c.arms.map (fun x => if x = a then { x with closed := true } else x)
    riser := c.riser.filter (fun b => !(b.group = a.group && b.seq = a.seq && b.addend)) }

/-- The token of a complete arming is signalled as soon as it fits, before every SIG and WAIT of the cycle (R162). -/
def Core.signalArm (c : Core) (a : Arming) : Core :=
  match a.tok with
  | none => c
  | some k =>
    let t := c.tok k.toNat
    if a.closed && decide (t.count.toNat + 1 ≤ t.ceiling.toNat) then
      (c.setTok k.toNat { t with count := t.count + 1 }).putArm a { a with tok := none }
    else c
def Core.signalArms (c : Core) : Core := c.arms.foldl Core.signalArm c

/-- A core with those armings, as a step of N finds its tiles (R266). -/
def Core.withDue (c : Core) : Core := { c with arms := c.arms ++ c.dueArms }

/-- The block in the riser that an arming applies next. -/
def Core.armBlock (c : Core) (a : Arming) : Option Block :=
  c.riser.find? (fun b => b.group = a.group && b.seq = a.seq && b.addend && b.src = a.src && b.idx = a.applied)

/-- Whether a message disagrees with an arming in its kind, its CTAG or its byte count (R268). An ACCARM has no CTAG. -/
def Arming.clashes (a : Arming) (b : Block) : Bool :=
  !b.addend || (a.ctag.isSome && a.ctag != some b.ctag) || b.total != a.per * 4096

/-- A message is discarded with every block of it, those to come among them (R268). -/
def Core.voidMsg (c : Core) (b : Block) : Core :=
  { c with
    riser := c.riser.filter (fun x => !(x.group = b.group && x.seq = b.seq && x.src = b.src))
    voided := c.voided ++ [(b.group, b.seq, b.src)] }

/-- A message that disagrees with an arming (R268): a step fault for an RRA, the accumulator-busy trap's cause for an ACCARM. -/
def State.armClash (s : State) (core : Nat) (a : Arming) (b : Block) : State :=
  let s1 := s.modCore core (fun c => c.voidMsg b)
  match a.ctag, (s1.core core).nrun with
  | some _, some r => s1.stepFault core 7 r.addr (match r.step with | some st => st.word | none => 0)
  | _, _ => s1.modCore core (fun c => { c with asyncs := c.asyncs ++
      [⟨0x17, 0, 2, true, 0, 0, busyDetail a.tile 2 a.line a.lane (a.group.toNat * 2 ^ 30 + a.seq.toNat % 2 ^ 30)⟩] })

/-- Compare what waits in the riser for an arming with it (R268). -/
def State.checkArm (s : State) (core : Nat) (a : Arming) : Nat → State
  | 0 => s
  | n + 1 =>
    match (s.core core).riser.find? (fun b => b.group = a.group && b.seq = a.seq && a.clashes b) with
    | none => s
    | some b => State.checkArm (s.armClash core a b) core a n

/-- Apply what the riser holds to an arming, and close it when it is complete. -/
def State.settleArm (s : State) (core : Nat) (m : Member) (a : Arming) : Nat → State
  | 0 => s
  | n + 1 =>
    let src := nextSource m a.src
    if m.size ≤ src then s.modCore core (fun c => c.closeArm a)
    else
      let a1 := { a with src := src }
      match (s.core core).armBlock a1 with
      | none => s.modCore core (fun c => c.putArm a a1)
      | some b =>
        let s1 := s.applyBlock core a b
        let a2 := a1.next m
        State.settleArm (s1.modCore core (fun c => c.putArm a a2)) core m a2 n

/-- Settle every arming of a core. -/
def State.settleArms (s : State) (core : Nat) : State :=
  ((s.core core).arms).foldl (fun s a =>
    match (s.core core).member a.group with
    | some m =>
      if a.closed then s else (s.checkArm core a 64).settleArm core m a (m.size * a.per + 2)
    | none => s) s

/-! Placing blocks (R268, R269). -/

/-- What becomes of a block that reaches its receiver: placed, refused, or mismatched with what it meets. -/
inductive Placed where
  | placed (s : State)
  | refused
  | mismatch (s : State)

/-- Whether a collective has been drawn already and is no longer active: its messages are acknowledged and discarded (R275). -/
def Core.pastSeq (c : Core) (b : Block) : Bool :=
  match c.member b.group with
  | none => false
  | some m => decide (m.seq - b.seq ≠ 0 ∧ (m.seq - b.seq).toNat < 2 ^ 31)

/-- The step of N that a block belongs to: the one with its group and number that receives from its source. -/
def Core.stepFor (c : Core) (b : Block) : Option (NRun × NStep) :=
  match c.nrun with
  | some r =>
    match r.step with
    | some st => if stGrp st.word = b.group ∧ st.seq = b.seq ∧ st.recvFrom = some b.src ∧ !st.armed then some (r, st) else none
    | none => none
  | none => none

/-- Write or reduce received bytes at the step's position. -/
def State.takeBytes (s : State) (core : Nat) (st : NStep) (bs : List (Byte × Bool)) : State :=
  if stOp st.word = 3 then
    let loc := s.boxRead core st.recvCd st.recvAt st.recvd bs.length
    (s.boxWrite core st.recvCd st.recvAt st.recvd (redBytes (stMode st.word) (natLe 8 s.freeW.toNat) loc bs)).bump
  else s.boxWrite core st.recvCd st.recvAt st.recvd bs

/-- Replace the step in progress. -/
def Core.putStep (c : Core) (st : Option NStep) : Core := { c with nrun := c.nrun.map (fun r => { r with step := st }) }

/-- Whether an ACCARM has drawn a number and its arming has not yet taken effect (R162, R268). -/
def Core.armDue (c : Core) (g : BitVec 8) (q : W32) : Bool :=
  c.dueArms.any (fun a => a.group = g && a.seq = q)

/-- Whether a core still runs the collective that a number names. -/
def Core.runsSeq (c : Core) (g : BitVec 8) (q : W32) : Bool :=
  c.arms.any (fun a => a.group = g && a.seq = q && !a.closed) || c.armDue g q
    || (match c.nrun with
        | some r => (match r.step with | some st => decide (stGrp st.word = g ∧ st.seq = q) | none => false)
        | none => false)

/-- Keep a block in a free riser block, or refuse it (R269). -/
def State.intoRiser (s : State) (core : Nat) (b : Block) : Placed :=
  if 64 ≤ (s.core core).riser.length then .refused
  else .placed (s.modCore core (fun c => { c with riser := c.riser ++ [b] }))

/-- A block reaches core `core` (R268, R269, R275). -/
def State.place (s : State) (core : Nat) (b : Block) : Placed :=
  let c := s.core core
  if c.voided.any (· = (b.group, b.seq, b.src)) then .placed s
  else
  match c.stepFor b with
  | some (r, st) =>
    if b.addend ∨ b.ctag ≠ stCtag st.word ∨ b.total ≠ st.recvBytes then
      .mismatch ((s.modCore core (fun c => c.voidMsg b)).nFault core r st.word 7)
    else if b.idx * 4096 = st.recvd then
      let s1 := s.takeBytes core st (blockBytes b)
      .placed (s1.modCore core (fun c => c.putStep (some { st with recvd := st.recvd + b.data.length })))
    else s.intoRiser core b
  | none =>
    match c.arms.find? (fun a => a.group = b.group && a.seq = b.seq && !a.closed) with
    | some a =>
      if a.clashes b then .mismatch (s.armClash core a b)
      else
        match c.member b.group with
        | some m =>
          if b.src = nextSource m a.src ∧ b.idx = a.applied then
            let s1 := s.applyBlock core a b
            .placed (s1.modCore core (fun c => c.putArm a ({ a with src := b.src }.next m)))
          else s.intoRiser core b
        | none => s.intoRiser core b
    | none => if c.pastSeq b ∧ !c.runsSeq b.group b.seq then .placed s else s.intoRiser core b

/-- Whether a saved iteration of this core waits for messages of a group (R275, R352). -/
def State.savedFor (s : State) (core : Nat) (g : BitVec 8) : Bool :=
  s.contexts.any (fun x => match x.2 with
    | some cx => cx.slots.any (fun y => match y.2 with
        | some v => v.from_ == core && (v.core.member g).isSome
        | none => false)
    | none => false)

/-- A block is placed, and may let an arming go on. It is refused by a core that writes an image (R385), and by one whose saved iteration it belongs to (R275). -/
def State.placeAll (s : State) (core : Nat) (b : Block) : Placed :=
  let c := s.core core
  if c.holds.any (fun h => h.kind = .persist) ∨ ((c.run.isNone ∨ (c.member b.group).isNone) ∧ s.savedFor core b.group) then .refused
  else
    match s.place core b with
    | .placed s1 => .placed (s1.settleArms core)
    | x => x

/-! Sending. -/

/-- The member of a group by its rank (R219). -/
def State.memberAt (s : State) (core : Nat) (g : BitVec 8) (rank : Nat) : Option GroupMember :=
  match s.recordOf (s.core core) with
  | none => none
  | some r => (tget [] r.groups g.toNat)[rank]?

/-- Where a member is: its module, and whether that is this one; a module or a stack without a path to it is unreachable (R418). -/
def State.memberModule (s : State) (core : Nat) (m : GroupMember) : Option (Nat × Bool) :=
  let x := (s.core core).ctx.getD 64
  if (if s.rankOwn x m.drank then s.stackPath (core / 512) (m.core / 512) else s.portUp (core / 512)) then (s.rankModule x m.drank).map (fun md => (md, s.rankOwn x m.drank)) else none

def Core.credit (c : Core) (g : BitVec 8) (dst : Nat) : Credit :=
  (c.credits.find? (fun k => k.group = g ∧ k.dst = dst)).getD ⟨g, dst, 0, []⟩
def Core.setCredit (c : Core) (k : Credit) : Core :=
  let rest := c.credits.filter (fun x => !(x.group = k.group && x.dst = k.dst))
  { c with credits := if k.used = 0 ∧ k.refused = [] then rest
      else insertBy (fun a b => decide ((a.group.toNat, a.dst).1 < b.group.toNat) || (a.group == b.group && decide (a.dst < b.dst))) k rest }

/-- The next block of a step's send part. -/
def State.nextBlock (s : State) (core : Nat) (m : Member) (st : NStep) : Block :=
  let n := min 4096 (st.sendBytes - st.sent)
  let bs := s.boxRead core st.sendCd st.sendAt st.sent n
  { group := stGrp st.word, seq := st.seq, src := m.grank, ctag := stCtag st.word
    addend := stOp st.word = 1 && stMode st.word = 1, total := st.sendBytes, idx := st.sent / 4096
    data := bs.map (·.1), poison := bs.map (·.2) }

/-- The step in progress has `n` more bytes accepted by their receiver. -/
def State.acked (s : State) (core n : Nat) : State :=
  s.modCore core (fun c =>
    match c.nrun with
    | some r => c.putStep (r.step.map (fun st => { st with acked := st.acked + n }))
    | none => c)

/-- Deliver a block to a core of this module: an acknowledgement at once, or a refusal that the sender keeps (R269). -/
def State.deliver (s : State) (core : Nat) (g : BitVec 8) (dst to_ : Nat) (b : Block) : State :=
  match s.placeAll to_ b with
  | .placed s1 => s1.acked core b.data.length
  | .mismatch s1 => s1.acked core b.data.length
  | .refused => s.modCore core (fun c =>
      let k := c.credit g dst
      c.setCredit { k with used := k.used + 1, refused := k.refused ++ [b] })

/-- Send the oldest refused block again (R269). -/
def State.resend (s : State) (core : Nat) (g : BitVec 8) (dst to_ : Nat) : State :=
  let k := (s.core core).credit g dst
  let back (s : State) (rest : List Block) : State :=
    s.modCore core (fun c => c.setCredit { k with used := k.used - 1, refused := rest })
  match k.refused with
  | [] => s
  | b :: rest =>
    match s.placeAll to_ b with
    | .placed s1 => (back s1 rest).acked core b.data.length
    | .mismatch s1 => (back s1 rest).acked core b.data.length
    | .refused => s

/-- A block goes to another module; its data is kept until it is acknowledged (R269). -/
def State.sendFar (s : State) (core : Nat) (g : BitVec 8) (dst md to_ : Nat) (b : Block) : State :=
  let c := s.core core
  let k := c.credit g dst
  (s.setCore core (c.setCredit { k with used := k.used + 1, refused := k.refused ++ [b] })).send (.block (c.ctx.getD 64) md to_ b core)

/-- The receiver in another module may report a free riser block after it has refused one: the oldest unacknowledged block is then sent again (R269). Whether it does is open here. -/
def State.resendFar (s : State) (core : Nat) (g : BitVec 8) (dst md to_ : Nat) : State :=
  match ((s.core core).credit g dst).refused with
  | [] => s
  | b :: _ => (if Config.freeVerdict s.fresh then s.send (.block ((s.core core).ctx.getD 64) md to_ b core) else s).bump

/-- One block of the send part goes out, if a credit is free and no earlier block waits to be sent again (R269). -/
def State.sendSome (s : State) (core : Nat) (m : Member) (st : NStep) : State :=
  match st.sendTo with
  | none => s
  | some dst =>
    let g := stGrp st.word
    match (s.memberAt core g dst).bind (fun gm => (s.memberModule core gm).map (fun x => (gm, x))) with
    | none => s.modCore core (fun c => c.putStep (some { st with sendTo := none, sendStatus := firstStatus st.sendStatus 1 }))
    | some (gm, md, own) =>
      let s1 := if own then s.resend core g dst gm.core else s.resendFar core g dst md gm.core
      let c := s1.core core
      match c.nrun.bind (·.step) with
      | none => s1
      | some st1 =>
        if st1.sendBytes ≤ st1.sent ∨ 4 ≤ (c.credit g dst).used ∨ (own && !(c.credit g dst).refused.isEmpty) then s1
        else
          let b := s1.nextBlock core m st1
          let s2 := s1.modCore core (fun c => c.putStep (some { st1 with sent := st1.sent + b.data.length }))
          if own then s2.deliver core g dst gm.core b
          else s2.sendFar core g dst md gm.core b

/-- Move the riser's blocks of the step's receive part into its box, in order (R269). -/
def State.drawRiser (s : State) (core : Nat) : Nat → State
  | 0 => s
  | n + 1 =>
    let c := s.core core
    match c.riser.find? (fun b => match c.stepFor b with | some (_, st) => b.idx * 4096 = st.recvd | none => false) with
    | none => s
    | some b =>
      match (s.setCore core { c with riser := c.riser.erase b }).place core b with
      | .placed s1 => State.drawRiser s1 core n
      | .mismatch s1 => s1
      | .refused => s

/-- The receive part of a step whose peer does not exist or has failed: fill, or poisoned words and a status (R264). -/
def State.recvAlone (s : State) (core : Nat) (st : NStep) (status : Option (BitVec 8)) : State :=
  let n := st.recvBytes - st.recvd
  let e := cdEsz st.recvCd
  match status with
  | none =>
    let fill := (List.replicate (n / e) ((natLe e (cdFill st.recvCd)).map (fun b => (b, false)))).flatten
    s.boxWrite core st.recvCd st.recvAt st.recvd fill
  | some _ =>
    let bs := (List.range n).map (fun i => (Config.freeByte s.fresh i, true))
    (s.boxWrite core st.recvCd st.recvAt st.recvd bs).bump

/-! The start of a step (R259 to R266, R272). -/

/-- The two parts of a transfer step before its checks: the box of each that the step has, as descriptor and address, and its peer, if one exists. -/
structure Parts where
  send : Option (Option Nat × BitVec 512 × Nat)
  recv : Option (Option Nat × BitVec 512 × Nat)

/-- The legal MODE values of a step (R264, R265). -/
def modeOk (op mode : Nat) : Bool :=
  match op with
  | 1 => decide (mode ≤ 1)
  | 3 => decide (mode ≤ 4)
  | 5 => decide (mode ≤ 1)
  | _ => mode == 0

/-- The chunk index of a receive box under CREL with no backward peer, which the manual leaves open (R260, R264). -/
def freeChunk (s : State) (w : W64) (r : NRun) (m : Member) : Nat :=
  if stCrel w then (s.freeW.toNat % max m.size 1) * r.cstride else 0

/-- The peers and boxes of SEND, RECV, RRS and HALO (R259, R260, R264). A receive box under CREL with no backward peer lies at a free chunk index. -/
def partsOf (s : State) (core : Nat) (r : NRun) (w : W64) (m : Member) : Except Nat Parts :=
  let c := s.core core
  let op := stOp w
  let cd (i : Nat) : BitVec 512 × Bool := c.cdOf (i % 16)
  let d := cd (stCd w)
  let d2 := cd (stCd w + 1)
  if d.2 ∨ (op = 6 ∧ d2.2) then .error 9
  else
    let sd := nCd d.1 true
    let f : Except Nat (Option Nat) := if op = 2 then .ok none else peerOf s core r w m false
    let b : Except Nat (Option Nat) := if op = 1 then .ok none else peerOf s core r w m true
    match f, b with
    | .error e, _ => .error e
    | _, .error e => .error e
    | .ok f, .ok b =>
      let sendAt := if op = 6 then (if cdAsrc sd then 4 * stLaddr w else stLaddr w) else boxAddr r w m (cdAsrc sd) m.grank
      let rd := nCd (if op = 6 then d2.1 else d.1) false
      let recvAt := if op = 6 then (fld d2.1 0 21).toNat
        else match b with
          | some x => boxAddr r w m false x
          | none => stLaddr w + freeChunk s w r m
      .ok ⟨if op = 2 then none else some (f, sd, sendAt), if op = 1 then none else some (b, rd, recvAt)⟩

/-- The checks of R264, R265 and R267 on a step's boxes, whether or not their peers exist: the number of the step fault, if any. -/
def partsFault (c : Core) (w : W64) (p : Parts) : Option Nat :=
  let op := stOp w
  let sBad := match p.send with
    | some (_, d, a) => !cdChecks .xst d a || (op == 1 && stMode w == 1 && cdBytes d % 4096 != 0)
        || (cdAsrc d && (decide (0x3FFFFF < 4 * stLaddr w) || (c.withDue.busyTiles .s (tilesOf d a)).isSome))
    | none => false
  let rBad := match p.recv with
    | some (_, d, a) => !cdChecks .xld d a || (op == 3 && cdBytes d % redSize (stMode w) != 0)
    | none => false
  let both := match p.send, p.recv with
    | some (_, d, a), some (_, e, b) => !cdAsrc d && overlaps (boxCells d a) (boxCells e b)
    | _, _ => false
  if sBad || rBad || both then some 3 else none

/-- The chunks that a step holds, each with its map (R264): those that it reads for a forward peer, and those that it writes. -/
def partsHolds (p : Parts) : List (Nat × Nat) :=
  (match p.send with
    | some (some _, d, a) => (chunksOf' .xld d a 0 0).map (fun x => (cdCm d, x.1))
    | _ => [])
  ++ (match p.recv with
      | some (_, d, a) => (chunksOf' .xld d a 0 0).map (fun x => (cdCm d, x.1))
      | none => [])

/-- Whether chunks are held already, or twice. -/
def holdsClash (c : Core) (l : List (Nat × Nat)) : Bool :=
  l.any (fun h => c.chunkHeld h.1 [h.2]) || decide (l.eraseDups.length ≠ l.length)

/-- Clear the bits of held chunks, and set them again at the end. -/
def Core.markHolds (c : Core) (on : Bool) (l : List (Nat × Nat)) : Core :=
  l.foldl (fun c h => c.setMap h.1 (setBits (c.map h.1) h.2 on 1)) c

/-- A transfer step on a group starts (R264, R268): its number is drawn, its place reserved, its chunks are held; `sub` on a fault. -/
def State.startTransfer (s : State) (core : Nat) (r : NRun) (w : W64) : Except Nat State :=
  let c := s.core core
  if !modeOk (stOp w) (stMode w) then .error 1
  else
    match c.member (stGrp w) with
    | none => .error 2
    | some m =>
      match partsOf s core r w m with
      | .error e => .error e
      | .ok p =>
        let sendCd := nCd (c.cdOf (stCd w)).1 true
        let holds := partsHolds p
        let sending := match p.send with | some (some _, d, a) => some (d, a) | _ => none
        let mapNo := match p.recv with
          | some (_, d, _) => cdCm d
          | none => cdCm sendCd
        match partsFault c w p with
        | some e => .error e
        | none =>
          if holdsClash c holds then .error 4
          else if 64 ≤ (c.posts mapNo).length then .error 5
          else
            let st : NStep :=
              { word := w, seq := m.seq
                sendTo := p.send.bind (·.1), sendAt := (match sending with | some x => x.2 | none => 0), sent := 0, acked := 0
                sendBytes := (match sending with | some x => cdBytes x.1 | none => 0), sendStatus := 0
                recvFrom := p.recv.bind (·.1), recvAt := (match p.recv with | some x => x.2.2 | none => 0), recvd := 0
                recvBytes := (match p.recv with | some x => cdBytes x.2.1 | none => 0), recvStatus := 0
                recvCd := (match p.recv with | some x => x.2.1 | none => 0), sendCd := sendCd
                holds := holds, place := some (mapNo, c.copySeq), copyId := none
                tiles := (match sending with | some x => tilesOf x.1 x.2 | none => []), armed := false, waited := c.tref }
            let c1 := (c.drawSeq (stGrp w)).markHolds false holds
            let c2 := c1.setPosts mapNo (c1.posts mapNo ++ [.reserved c.copySeq])
            let tagged := match p.recv with
              | some (_, d, a) =>
                if cdTgen d then
                  let rg := chunkRange (chunksOf' .xld d a 0 0)
                  c2.setTag (cdCm d) { c2.tag (cdCm d) with arrived := cdTag d, first := rg.1, count := rg.2 }
                else c2
              | none => c2
            let s1 := s.setCore core ({ tagged with copySeq := c.copySeq + 1 }.putStep (some st))
            let alone (status : Option (BitVec 8)) : State :=
              (s1.recvAlone core st status).modCore core (fun c =>
                c.putStep (some { st with recvFrom := none, recvd := st.recvBytes, recvStatus := status.getD 0 }))
            match p.recv with
            | none => .ok s1
            | some (none, _, _) => .ok (alone none).bump
            | some (some b, _, _) =>
              match (s.memberAt core (stGrp w) b).bind (s.memberModule core) with
              | none => .ok (alone (some 1))
              | some _ => .ok s1

/-- The end of a step: its chunks' bits are set, its arrival is posted, and N goes on (R261, R264). -/
def Core.endStep (c : Core) (st : NStep) : Core :=
  let c1 := c.markHolds true st.holds
  let bytes := if stOp st.word = 1 then st.sent else st.recvBytes
  let c2 := match st.place with
    | some (m, id) => c1.setPosts m (postPlace (c1.posts m) id bytes (firstStatus st.recvStatus st.sendStatus))
    | none => c1
  { c2 with nrun := c2.nrun.map (fun r => { r with step := none, word := none, addr := r.addr + 8 }) }

/-- Whether a step in progress is complete (R261). -/
def Core.stepDone (c : Core) (st : NStep) : Bool :=
  if st.armed then c.arms.all (fun a => !(a.group = stGrp st.word && a.seq = st.seq) || a.closed)
  else match st.copyId with
    | some k => c.copies.all (fun x => x.id ≠ k)
    | none => decide (st.recvBytes ≤ st.recvd)
        && (st.sendTo.isNone || (decide (st.sendBytes ≤ st.sent) && decide (st.sendBytes ≤ st.acked)))

/-- The receive part of a step in progress whose peer has failed since: the words that have not come are poisoned, with the status of R181 (R264). -/
def State.recvLost (s : State) (core : Nat) (st : NStep) : State :=
  match st.recvFrom with
  | none => s
  | some b =>
    if st.armed ∨ st.recvBytes ≤ st.recvd then s
    else
      match (s.memberAt core (stGrp st.word) b).bind (s.memberModule core) with
      | some _ => s
      | none => (s.recvAlone core st (some 1)).modCore core (fun c =>
          c.putStep (some { st with recvFrom := none, recvd := st.recvBytes, recvStatus := 1 }))

/-- One move of a transfer step in progress. -/
def State.goOn (s : State) (core : Nat) (st : NStep) : State :=
  let s1 := match (s.core core).member (stGrp st.word) with
    | some m =>
      let s9 := s.drawRiser core 65
      let s0 := match (s9.core core).nrun.bind (·.step) with
        | some st => s9.recvLost core st
        | none => s9
      match (s0.core core).nrun.bind (·.step) with
      | some st => s0.sendSome core m st
      | none => s0
    | none => s
  match (s1.core core).nrun.bind (·.step) with
  | some st => if (s1.core core).stepDone st then s1.modCore core (fun c => c.endStep st) else s1
  | none => s1

/-- A step of N on its core: `start` runs when no step is in progress, and one that is in progress goes on. Nothing happens when N runs no command, has stopped, or stands at another word. -/
def nStep (s : State) (core : Nat) (w : W64) (start : NRun → State) : Result :=
  match (s.core core).nrun with
  | none => .next s
  | some r =>
    if r.faulted then .next s
    else
      match r.step with
      | some st => .next (if st.word = w then s.goOn core st else s)
      | none =>
        if fld r.arg 53 11 ≠ 0 then .next (s.nFault core r w 1)
        else .next (start r)

/-- Start a step that may fault. -/
def State.tryStart (s : State) (core : Nat) (r : NRun) (w : W64) (x : Except Nat State) : State :=
  match x with
  | .ok s1 => s1
  | .error sub => s.nFault core r w sub

def execSend (core : Nat) (w : W64) (s : State) : Result :=
  nStep s core w (fun r => s.tryStart core r w (s.startTransfer core r w))
def execRecv (core : Nat) (w : W64) (s : State) : Result :=
  nStep s core w (fun r => s.tryStart core r w (s.startTransfer core r w))
def execRrs (core : Nat) (w : W64) (s : State) : Result :=
  nStep s core w (fun r => s.tryStart core r w (s.startTransfer core r w))
def execHalo (core : Nat) (w : W64) (s : State) : Result :=
  nStep s core w (fun r => s.tryStart core r w (s.startTransfer core r w))

/-- COPY (R264): the copy that XLD or XST makes with this local address and origin 0, of the fields that N reads. A page without a translation is fatal, and one that may not be accessed a protection fault at the step (R178, R361). It sees what the core has stored (R238). -/
def State.startCopy (s0 : State) (core : Nat) (w : W64) : Except Nat State :=
  let s := s0.publish (.core core)
  let c := s.core core
  let d := copyCd (c.cdOf (stCd w)).1
  let f : CopyForm := if stMode w = 1 then .xst else .xld
  let loc := if cdAsrc d then 4 * stLaddr w else stLaddr w
  if !modeOk 5 (stMode w) ∨ stGrp w ≠ 0 ∨ stPm w ∨ stPd w ≠ 0 ∨ stCtag w ≠ 0 then .error 1
  else if (c.cdOf (stCd w)).2 then .error 9
  else if (cdAsrc d ∧ 0x3FFFFF < loc) ∨ !cdChecks f d loc then .error 3
  else
    let chunks := chunksOf' f d loc 0 0
    let tiles := tilesOf d loc
    if (c.withDue.busyTiles .s tiles).isSome then .error 3
    else if c.chunkHeld (cdCm d) (chunks.map (·.1)) then .error 4
    else if 64 ≤ (c.posts (cdCm d)).length then .error 5
    else
      let x := c.ctx.getD 64
      let enter (s : State) (pins : List (Nat × Nat × Nat)) : State :=
        let k : CopyOp :=
          { id := c.copySeq, form := f, cd := d, loc := loc, o0 := 0, o1 := 0, next := 0, status := 0, begun := false
            landed := false, posted := false, cyc := c.now, line := 0, lane := 0, byStep := true, chunks := chunks, range := chunkRange chunks
            pins := pins, tiles := tiles, ahead := [], cdn := stCd w }
        let st : NStep :=
          { word := w, seq := 0, sendTo := none, sendAt := 0, sent := 0, acked := 0, sendBytes := 0, sendStatus := 0
            recvFrom := none, recvAt := 0, recvd := 0, recvBytes := 0, recvStatus := 0, recvCd := 0, sendCd := 0
            holds := [], place := none, copyId := some c.copySeq, tiles := [], armed := false, waited := c.tref }
        s.modCore core (fun c =>
          let c1 := c.setPosts (cdCm d) (c.posts (cdCm d) ++ [.reserved c.copySeq])
          (Core.beginCopies (s.copyStatus core) { c1 with copies := c1.copies ++ [k], copySeq := c.copySeq + 1 }).putStep (some st))
      let refuse (s : State) (va : Nat) : State := s.nTrap core ⟨0x07, 0, 4, true, 0, va, 0⟩
      match s.submit x (f == .xst) (farAddrs f d 0 0) [] with
      | .ok s1 pins => if s1.farSealed f d 0 0 pins then .ok (refuse (s1.release x pins) (cdAddr d)) else .ok (enter s1 pins)
      | .miss va => .ok (s.raiseFatal (.core core) fatalMiss va)
      | .prot va => .ok (refuse s va)
      | .bad a => .ok (s.raiseFatal (.core core) fatalTable a)
      | .wait => .ok s0

def execCopyStep (core : Nat) (w : W64) (s : State) : Result :=
  nStep s core w (fun r => s.tryStart core r w (s.startCopy core w))

/-- RRA (R266): the tiles are armed in the starting cycle. -/
def State.startRra (s : State) (core : Nat) (w : W64) : Except Nat State :=
  let c := s.core core
  let nt := (fld w 36 6).toNat + 1
  let tile := (fld w 42 10).toNat
  if fld w 4 31 ≠ 0 then .error 1
  else
    match c.member (stGrp w) with
    | none => .error 2
    | some m =>
      if 64 < (c.withDue.arms.map (·.nt)).sum + nt ∨ (c.withDue.busyTiles .s ((List.range nt).map (fun i => (tile + i) % 1024))).isSome then .error 3
      else
        let a : Arming :=
          { tile := tile, nt := nt, group := stGrp w, seq := m.seq, ctag := some (stCtag w), int := bitAt w 35, per := nt
            src := 0, applied := 0, tok := none, line := 0, lane := 0, waited := c.tref, closed := false, checks := [] }
        let st : NStep :=
          { word := w, seq := m.seq, sendTo := none, sendAt := 0, sent := 0, acked := 0, sendBytes := 0, sendStatus := 0
            recvFrom := none, recvAt := 0, recvd := 0, recvBytes := 0, recvStatus := 0, recvCd := 0, sendCd := 0
            holds := [], place := none, copyId := none, tiles := [], armed := true, waited := c.tref }
        let c1 := c.drawSeq (stGrp w)
        .ok ((s.setCore core ({ c1 with arms := c1.arms ++ [a] }.putStep (some st))).settleArms core)

def execRra (core : Nat) (w : W64) (s : State) : Result :=
  nStep s core w (fun r => s.tryStart core r w (s.startRra core w))

/-! Control steps (R271). -/

/-- N goes to a step address. -/
def State.nTo (s : State) (core : Nat) (r : NRun) (a : Nat) : State :=
  s.modCore core (fun c => { c with nrun := some { r with addr := a, word := none } })

/-- Add to a token, or find it past its ceiling (R47, R271). -/
def Core.addTok (c : Core) (k n : Nat) : Option Core :=
  let t := c.tok k
  if t.count.toNat + n ≤ t.ceiling.toNat then some (c.setTok k { t with count := BitVec.ofNat 16 (t.count.toNat + n) }) else none

def execSigs (core : Nat) (w : W64) (s : State) : Result :=
  nStep s core w (fun r =>
    if fld w 16 39 ≠ 0 then s.nFault core r w 1
    else
      match (s.core core).addTok (fld w 55 5).toNat (fld w 0 16).toNat with
      | none => s.nFault core r w 10
      | some c => (s.setCore core c).nTo core r (r.addr + 8))

def execWaits (core : Nat) (w : W64) (s : State) : Result :=
  let k := (fld w 55 5).toNat
  let n := fld w 0 16
  let t := (s.core core).tok k
  nStep s core w (fun r =>
    if fld w 16 39 ≠ 0 then s.nFault core r w 1
    else if t.ceiling.toNat < n.toNat then s.nFault core r w 10
    else if n.toNat ≤ t.count.toNat then
      (s.modCore core (fun c => c.setTok k { t with count := t.count - n })).nTo core r (r.addr + 8)
    else s)

/-- The step after the matching LEND of an LBEG with count 0 (R271), reading forward from `a`: an address, or a step fault. -/
def skipBody (s : State) (core a depth : Nat) : Nat → Except Nat Nat
  | 0 => .error 3
  | n + 1 =>
    if 0x1FFFF8 < a then .error 3
    else if (s.peek (winBase core + a) 8).any (·.2) then .error 9
    else
      match leNat ((s.peek (winBase core + a) 8).map (·.1)) / 2 ^ 60 with
      | 0 => .error 6
      | 9 => skipBody s core (a + 8) (depth + 1) n
      | 10 => if depth = 0 then .ok (a + 8) else skipBody s core (a + 8) (depth - 1) n
      | _ => skipBody s core (a + 8) depth n

def execLbeg (core : Nat) (w : W64) (s : State) : Result :=
  let gsz := bitAt w 51
  let n := (fld w 0 32).toNat
  nStep s core w (fun r =>
    if fld w 32 19 ≠ 0 ∨ (!gsz ∧ fld w 52 8 ≠ 0) then s.nFault core r w 1
    else if 4 ≤ r.loops.length then s.nFault core r w 6
    else
      let count : Option Nat := if gsz then ((s.core core).member (fld w 52 8)).map (fun m => m.size - n) else some n
      match count with
      | none => s.nFault core r w 2
      | some 0 =>
        match skipBody s core (r.addr + 8) 0 (0x200000 / 8) with
        | .ok a => s.nTo core r a
        | .error sub => s.nFault core r w sub
      | some k => s.nTo core { r with loops := r.loops ++ [⟨0, k, r.addr + 8⟩] } (r.addr + 8))

def execLend (core : Nat) (w : W64) (s : State) : Result :=
  nStep s core w (fun r =>
    if fld w 0 60 ≠ 0 then s.nFault core r w 1
    else
      match r.loops.getLast? with
      | none => s.nFault core r w 6
      | some l =>
        if l.lc + 1 < l.count then s.nTo core { r with loops := r.loops.dropLast ++ [{ l with lc := l.lc + 1 }] } l.start
        else s.nTo core { r with loops := r.loops.dropLast } (r.addr + 8))

/-- END (R271). -/
def execEndStep (core : Nat) (w : W64) (s : State) : Result :=
  let stop (c : Core) : Core := { c with nrun := none }
  nStep s core w (fun r =>
    if fld w 16 38 ≠ 0 then s.nFault core r w 1
    else if !r.loops.isEmpty then s.nFault core r w 6
    else if bitAt w 59 then
      match (s.core core).addTok (fld w 54 5).toNat (fld w 0 16).toNat with
      | none => s.nFault core r w 10
      | some c => s.setCore core (stop c)
    else s.modCore core stop)

/-- A reserved step word (R262, R272). -/
def execReservedStep (core : Nat) (w : W64) (s : State) : Result := nStep s core w (fun r => s.nFault core r w 1)

/-! Messages from other modules (R269, R270). -/

/-- What the receiver reports to the sender of a block in another module. -/
def State.tellSender (s : State) (core : Nat) (g : BitVec 8) (src : Nat) (msg : Nat → Nat → Nat → Message) : State :=
  let x := (s.core core).ctx.getD 64
  match s.memberAt core g src with
  | some m => s.send (msg x ((s.rankModule x m.drank).getD 0) m.core)
  | none => s

/-- A refused block of another module: its sender is told, and will be asked for it again (R269). -/
def State.refuseBlock (s : State) (core : Nat) (b : Block) : State :=
  (s.tellSender core b.group b.src (fun x md k => .riserFull x md k b.group b.src core)).modCore core (fun c => { c with refusals := c.refusals ++ [(b.group, b.src)] })

/-- A core with a free riser block reports it to those whose blocks it has refused (R269). -/
def State.reportFree (s : State) (core : Nat) : State :=
  let c := s.core core
  if c.refusals.isEmpty || decide (64 ≤ c.riser.length) || c.holds.any (fun h => h.kind = .persist) then s
  else c.refusals.foldl (fun s x => s.tellSender core x.1 x.2 (fun y md k => .riserFree y md k x.1 x.2 core)) (s.setCore core { c with refusals := [] })

/-- RISER_BLOCK_ARRIVAL (R268, R269): a block of another module reaches a core; once placed it is acknowledged. -/
def execRiserBlockArrival (core : Nat) (b : Block) (s : State) : Result :=
  let ack (s : State) : State := s.tellSender core b.group b.src (fun x md k => .creditReturn x md k b.group b.src core)
  match s.placeAll core b with
  | .placed s1 => .next (ack s1)
  | .mismatch s1 => .next (ack s1)
  | .refused => .next (s.refuseBlock core b)

/-- One block of a core toward a destination in another module is acknowledged: its data is kept no longer. -/
def Core.creditBack (c : Core) (g : BitVec 8) (dst : Nat) : Core :=
  let k := c.credit g dst
  if k.used = 0 then c
  else
    let c1 := c.setCredit { k with used := k.used - 1, refused := k.refused.tail }
    let bump (st : NStep) : NStep :=
      if st.sendTo = some dst ∧ stGrp st.word = g then { st with acked := min st.sendBytes (st.acked + 4096) } else st
    { c1 with nrun := c1.nrun.map (fun r => { r with step := r.step.map bump }) }

/-- Change the saved iterations of a core. -/
def State.modSaved (s : State) (core : Nat) (f : Core → Core) : State :=
  let slot (y : Nat × Option SavedCore) : Nat × Option SavedCore :=
    (y.1, y.2.map (fun v => if v.from_ = core then { v with core := f v.core } else v))
  { s with contexts := s.contexts.map (fun x => (x.1, x.2.map (fun cx => { cx with slots := cx.slots.map slot }))) }

/-- CREDIT_RETURN (R269): one block toward a destination is acknowledged; the credit of an iteration that has been saved goes to its image (R275). -/
def execCreditReturn (core : Nat) (g : BitVec 8) (dst : Nat) (s : State) : Result :=
  if ((s.core core).credit g dst).used = 0 then .next (s.modSaved core (fun c => c.creditBack g dst))
  else .next (s.modCore core (fun c => c.creditBack g dst))

/-- What the watchdog finds (R270). -/
inductive Watch where
  | wait
  | fault
  | lost

def watchCase (n : W32) (h : Nat) (sendsHere chilled : Bool) : Watch :=
  if h < n.toNat ∨ (h = n.toNat ∧ sendsHere) then .wait
  else if h = n.toNat ∨ !chilled then .fault
  else .lost

/-- The remaining addends of an arming are applied poisoned (R270). -/
def State.poisonArm (s : State) (core : Nat) (a : Arming) : State :=
  let s1 := (List.range a.nt).foldl (fun (t : State) i =>
    t.bringLate core (.bytes (tAddr core ((a.tile + i) % 1024) 0 0)
      ((List.range 1024).flatMap (fun k => natLe 4 (fld (Config.freeWord (s.fresh + 1024 * i + k)) 0 32).toNat)) true)) s
  { s1 with fresh := s.fresh + 1024 * a.nt }.modCore core (fun c => c.closeArm a)

/-- The watchdog of a context (R270). -/
def State.wdtOf (s : State) (c : Core) : Nat := match s.context (c.ctx.getD 64) with
  | some x => x.wdt
  | none => 0

/-- The head-of-line number of a core of this module on a group, and whether its collective of that number sends to a rank (R270): its running step or its oldest arming, or else its next number. -/
def Core.headOf (c : Core) (g : BitVec 8) (rank : Nat) : Nat × Bool :=
  let arms := (c.arms.filter (fun a => a.group = g && !a.closed)).map (fun a => (a.seq.toNat, false))
  let due := (c.dueArms.filter (fun a => a.group = g)).map (fun a => (a.seq.toNat, false))
  let step := match c.nrun.bind (fun r => r.step) with
    | some st => if stGrp st.word = g ∧ !st.armed ∧ st.copyId.isNone then [(st.seq.toNat, decide (st.sendTo = some rank))] else []
    | none => []
  match step ++ arms ++ due with
  | [] => (((c.member g).map (fun m => m.seq.toNat)).getD 0, false)
  | x :: rest => rest.foldl (fun a b => if b.1 < a.1 then b else a) x

/-- What the watchdog reads of a source: the module knows its own cores; of another module's it is told `h` and `sendsHere`. -/
def State.headRead (s : State) (core : Nat) (g : BitVec 8) (src h : Nat) (sendsHere : Bool) : Nat × Bool :=
  match (s.memberAt core g src).bind (fun gm => (s.memberModule core gm).map (fun x => (gm, x))) with
  | some (gm, _, true) => (s.core gm.core).headOf g ((((s.core core).member g).map (fun m => m.grank)).getD 0)
  | _ => (h, sendsHere)

/-- The watchdog asks another module for a member's head-of-line number (R270, R273). -/
def State.askHead (s : State) (core : Nat) (g : BitVec 8) (src : Nat) : State :=
  match (s.memberAt core g src).bind (fun gm => (s.memberModule core gm).map (fun x => (gm, x))) with
  | some (gm, md, false) => s.send (.query ((s.core core).ctx.getD 64) md gm.core g core)
  | _ => s

/-- Whether nothing of a message has arrived yet (R270). -/
def Core.unmatched (c : Core) (g : BitVec 8) (q : W32) (src : Nat) : Bool :=
  !c.riser.any (fun b => b.group = g && b.seq = q && b.src = src)

/-- What the record of a collective-order fault names: the group, n, b and h (R270). -/
def State.orderRecord (s : State) (core : Nat) (g : BitVec 8) (n : W32) (b h : Nat) : State :=
  s.modCore core (fun c => { c with nrec := c.nrec.map (fun r => { r with group := g, n := n, b := b, h := h }) })

/-- Whether an arming has applied nothing of a source, and has waited for it since its start or since the watchdog last checked it (R270). -/
def Arming.waits (a : Arming) (m : Member) (src wdt now : Nat) : Bool :=
  let cur := nextSource m a.src
  decide (src < m.size) && src != m.grank && (decide (cur < src) || (src == cur && a.applied == 0))
    && decide (((a.checks.find? (fun x => x.1 = src)).map (·.2)).getD a.waited + wdt ≤ now)

/-- COLLECTIVE_WATCHDOG (R270): `h` is the head-of-line number of source `src` on group `g`, and `sendsHere` says whether its collective of that number sends to this core. A receive part or an arming that has waited WDT reference cycles unmatched is checked. -/
def execCollectiveWatchdog (core : Nat) (g : BitVec 8) (src h : Nat) (sendsHere : Bool) (s0 : State) : Result :=
  let s := s0.askHead core g src
  let c := s.core core
  let wdt := s.wdtOf c
  let (h, sendsHere) := s.headRead core g src h sendsHere
  match c.nrun.bind (fun r => r.step.bind (fun st =>
      if stGrp st.word = g ∧ st.recvFrom = some src ∧ st.recvd = 0 ∧ 0 < st.recvBytes ∧ c.unmatched g st.seq src
          ∧ st.waited + wdt ≤ c.tref then some (r, st) else none)) with
  | some (r, st) =>
    match watchCase st.seq h sendsHere c.chilled with
    | .wait => .next (s.modCore core (fun c => c.putStep (some { st with waited := c.tref })))
    | .fault => .next ((s.nFault core r st.word 8).orderRecord core g st.seq src h)
    | .lost =>
      .next ((s.recvAlone core st (some 6)).modCore core (fun c =>
        c.putStep (some { st with recvFrom := none, recvd := st.recvBytes, recvStatus := 6 })))
  | none =>
    match c.arms.find? (fun a => a.group = g && !a.closed && c.unmatched g a.seq src
        && (match c.member g with | some m => a.waits m src wdt c.tref | none => false)) with
    | none => .next s
    | some a =>
      match watchCase a.seq h sendsHere c.chilled with
      | .wait => .next (s.modCore core (fun c => c.putArm a { a with checks := tput a.checks src c.tref }))
      | .lost => .next (s.poisonArm core a)
      | .fault =>
        match a.ctag, c.nrun with
        | some _, some r => .next ((s.stepFault core 8 r.addr (match r.step with | some st => st.word | none => 0)).orderRecord core g a.seq src h)
        | _, _ => .next (s.modCore core (fun c => { c with asyncs := c.asyncs ++
            [⟨0x1C, 0, 2, true, 0, g.toNat * 65536 + src % 65536, BitVec.ofNat 64 (a.seq.toNat * 2 ^ 32 + h % 2 ^ 32)⟩] }))

/-! What N does next. -/

/-- The instruction that a step word stands for (R262). -/
def stepInstrOf (core : Nat) (w : W64) : Instr :=
  match stOp w with
  | 0 => .endStep core w
  | 1 => .send core w
  | 2 => .recv core w
  | 3 => .rrs core w
  | 4 => .rra core w
  | 5 => .copyStep core w
  | 6 => .halo core w
  | 7 => .waits core w
  | 8 => .sigs core w
  | 9 => .lbeg core w
  | 10 => .lend core w
  | _ => .reservedStep core w

/-- What the communication sequencer of a core does next (R261): it takes a command, reads a step, or goes on with one. -/
inductive NPick where
  | run (s : State) (i : Instr)
  | rest (s : State)

/-- Whether a step word evaluates a token (R271): as a SIG, or as a WAIT. -/
def stepSigs (w : W64) : Bool := stOp w == 8 || (stOp w == 0 && bitAt w 59)
def stepWaits (w : W64) : Bool := stOp w == 7

/-- The step of N that evaluates a token in the core's cycle (R47, R271): a SIGS or an END after W's SIG, a WAITS after W's WAIT, once its count is reached. -/
def Core.nToken (c : Core) (core : Nat) (wait : Bool) : Option Instr :=
  match c.nrun with
  | some r =>
    match r.faulted, r.step, r.word with
    | false, none, some w =>
      let t := c.tok (fld w 55 5).toNat
      if !wait && stepSigs w then some (stepInstrOf core w)
      else if wait && stepWaits w && !(decide ((fld w 0 16).toNat ≤ t.ceiling.toNat) && decide (t.count.toNat < (fld w 0 16).toNat)) then some (stepInstrOf core w)
      else none
    | _, _, _ => none
  | none => none

/-- Whether the core of N goes through cycles, in which N's token steps then have their place (R47): a core that is stopped or frozen does not. -/
def Core.cycles (c : Core) : Bool :=
  (c.mode == .user || c.mode == .handler) && !c.holds.any (fun h => decide (h.due ≤ c.now))

/-- N goes on with its command: the step in progress, or the step whose word it reads once, when the step starts (R261). -/
def NRun.next (r : NRun) (s : State) (core : Nat) : NPick :=
  match r.step, r.word with
  | some st, _ => .run s (stepInstrOf core st.word)
  | none, some w =>
    if (stepSigs w || stepWaits w) && (s.core core).cycles then .rest s else .run s (stepInstrOf core w)
  | none, none =>
    if 0x1FFFF8 < r.addr then .rest (s.nFault core r 0 3)
    else
      let bs := s.peek (winBase core + r.addr) 8
      let w : W64 := BitVec.ofNat 64 (leNat (bs.map (·.1)))
      if bs.any (·.2) then .rest (s.nFault core r w 9)
      else
        let s1 := s.modCore core (fun c => { c with nrun := some { r with word := some w } })
        if (stepSigs w || stepWaits w) && (s.core core).cycles then .rest s1 else .run s1 (stepInstrOf core w)

/-- What N does next. It runs in the freezes and the trap stops of its core (R275), and takes a command from the cycle in which it sees it (R77). -/
def State.nNext (s : State) (core : Nat) : NPick :=
  let c := s.core core
  let on := match c.mode with
    | .user | .handler | .escalated => !c.holds.any (fun h => h.kind = .persist)
    | _ => false
  if !on then .rest s
  else
    match c.nrun with
    | none =>
      match c.ncmds with
      | [] => .rest s
      | k :: rest =>
        if c.now < k.vis then .rest s
        else .rest (s.setCore core { c with ncmds := rest, nrun := some ⟨k.addr, k.addr, k.arg, k.argPz, [], none, none, false⟩ })
    | some r => if r.faulted then .rest s else r.next s core

/-! Packets (R273). -/

/-- The class of what leaves the module as a remote packet (R273, R407): 0 request, 1 posted, 2 response, 3 control. A reply to an agent of the module is none. -/
def Message.packetClass (m : Message) : Option Nat :=
  match m with
  | .readRequest _ _ _ _ _ => some 0
  | .store _ _ _ _ _ _ _ _ | .block _ _ _ _ _ => some 1
  | .creditReturn _ _ _ _ _ _ | .riserFull _ _ _ _ _ _ | .riserFree _ _ _ _ _ _ => some 2
  | .reply md _ _ _ => md.map (fun _ => 2)
  | .arrival _ _ _ | .query _ _ _ _ _ => some 3
  | .pour kind _ _ _ _ _ => some (match kind with | 1 => 1 | 2 => 2 | _ => 3)
  | .msix _ | .enableCrc _ | .doe _ | .supervisor _ _ | .errorReport _ | .fatalReport _ _ _ _ | .completion _ _ _ | .aer _ => none

/-- The source of a packet that no core sends, in a flow tag: the gateway, or the stripe parity engine. -/
def noCore : Nat := 4096

/-- The flow tag of a packet on a switched path (R273): source core, destination module, class, and the batch tag of STB and XSTF, 0 for everything else. Only packets of one flow keep their order. -/
def Message.flowTag (m : Message) : Option (Nat × Nat × Nat × Nat) :=
  match m with
  | .readRequest _ md _ _ core => some (core, md, 0, 0)
  | .store _ md _ _ _ core batch _ => some (core, md, 1, batch)
  | .block _ md _ _ core => some (core, md, 1, 0)
  | .creditReturn _ md _ _ _ core | .riserFull _ md _ _ _ core | .riserFree _ md _ _ _ core => some (core, md, 2, 0)
  | .reply md _ _ _ => md.map (fun k => (noCore, k, 2, 0))
  | .arrival md _ core | .query _ md _ _ core => some (core, md, 3, 0)
  | .pour kind md _ _ _ _ => some (noCore, md, (match kind with | 1 => 1 | 2 => 2 | _ => 3), 0)
  | .msix _ | .enableCrc _ | .doe _ | .supervisor _ _ | .errorReport _ | .fatalReport _ _ _ _ | .completion _ _ _ | .aer _ => none

end Sys2Proof.Machine
end

