-- ==== Sys2Proof/Machine/Control.lean ====
section
/-! DEFINITION. Control transfers (R58, R95 to R97), loops (R99, R100), tokens (R102, R103), NOP (R122), traps raised by words and the return from a handler (R115, R288 to R291), and the illegal word (R73). -/

namespace Sys2Proof.Machine

/-- What a word that may not be issued as an S transfer of a loop body or handler comes to (R100, R289); `k` otherwise. -/
def plainStream (s : State) (k : Effect) : Effect :=
  if s.cur.es.inLoop then illegalInstr .s else k

/-- Whether a line is one of the handler's own (R289): HLINE to NLM1. -/
def State.inHandler (s : State) (l : Int) : Bool :=
  match s.handler s.cur with
  | some (h, n) => decide ((h : Int) ≤ l ∧ l ≤ n)
  | none => true

/-- A taken transfer: the S words after it in its line are discarded, and fetch goes on at the target from the next cycle (R58, R209). -/
def Core.transfer (c : Core) (target : Nat) : Core :=
  let here := c.es.pos.1
  { c with
    es := { c.es with
      queue := c.es.queue.take 1 ++ (c.es.queue.drop 1).filter (fun g => g.line ≠ here)
      fromLine := 0, fromLane := 0 }
    el := { c.el with fromLine := 0, fromLane := 0 }
    ex := { c.ex with fromLine := 0, fromLane := 0 }
    ew := { c.ew with fromLine := 0, fromLane := 0 }
    fetch := { FetchUnit.reset with next := target, ready := c.now + 1 } }

/-- A transfer that is not taken releases fetch from the next cycle (R209). -/
def Core.passed (c : Core) : Core := { c with fetch := { c.fetch with ready := max c.fetch.ready (c.now + 1) } }

/-- A taken transfer to `target`, with the range and handler checks (R58, R95, R96, R289). -/
def takeTransfer (s : State) (target : Int) (link : Bool) : Effect :=
  if s.cur.mode = .handler ∧ !s.inHandler target then illegalInstr .s
  else if target < 0 ∨ 2048 ≤ target then .trap (TrapInfo.of 0x04 .s)
  else
    let ret : W64 := BitVec.ofNat 64 (s.ownLine .s + 1)
    let s1 := if link then s.putS .s 1 63 ret none else s
    .done (s1.modCur (fun c => c.transfer target.toNat))

/-- The branch form: whether the transfer is taken (R95). -/
def brTaken (f : Br) (s : State) : Bool := bitAt (s.cur.rp f.pred.toNat).v 0 != (f.inv == 1)

/-- A branch-form transfer to a line (R95): the occupancy of a taken transfer is 3 (R82). -/
def branchTo (s : State) (f : Br) (target : Int) (link : Bool) : Result :=
  s.issueOcc .s (if brTaken f s then 3 else 1)
    (plainStream s (needClean .s [(s.cur.rp f.pred.toNat).pz]
      (if brTaken f s then takeTransfer s target link else .done (s.modCur Core.passed))))

def execBr (f : Br) (s : State) := branchTo s f (s.ownLine .s + f.off.toInt) false
def execCall (f : Br) (s : State) := branchTo s f (s.ownLine .s + f.off.toInt) true
def execJmpi (f : Br) (s : State) := branchTo s f f.off.toNat false

/-- JMP and RET (R96): the target is an unsigned register value. -/
def jumpReg (s : State) (f : SReg) : Result :=
  let a := s.cur.rs f.sa.toNat
  s.issueOcc .s 3 (plainStream s (needClean .s [a.pz] (takeTransfer s a.v.toNat false)))

def execJmp (f : SReg) (s : State) := jumpReg s f
def execRet (f : SReg) (s : State) := jumpReg s f

/-- HALT (R97): the S stream ends, and fetch stops; a command stream ends (R320, R375) once its results have landed. -/
def execHalt (_ : SReg) (s : State) :=
  s.issue .s (plainStream s
    (if s.cur.mode = .handler then illegalInstr .s
     else .done (s.modCur (fun c =>
      let c1 := c.transfer c.fetch.next
      { c1 with
        es := { c1.es with ended := true }
        fetch := { c1.fetch with stopped := true } }))))

/-! Loops. -/

/-- Open a loop level over the groups that follow the LOOP (R99). -/
def Seq.openLoop (q : Seq) (now len count : Nat) : Seq :=
  let (ln, la) := q.pos
  let q1 := q.take
  let start := match q1.levels with
    | [] => q1.lbuf.length
    | lv :: _ => lv.start + lv.idx
  ({ q1 with
    levels := ⟨start, len, 0, 0, count⟩ :: q1.levels
    free := now + 1, line := ln, lane := la + 1 }).skip 64

/-- Whether a LOOP of `len` groups nests legally (R100). -/
def Seq.nests (q : Seq) (len : Nat) : Bool :=
  match q.levels with
  | [] => true
  | [lv] => decide (lv.idx + 1 + len ≤ lv.len)
  | _ => false

/-- A LOOP with its count (R99, R100, R289). -/
def loopWith (s : State) (e : Engine) (len : BitVec 5) (st : StepWord) (count : Tagged 64) :
    Result :=
  let n := len.toNat + 1
  if st.isSome ∨ s.cur.mode = .handler ∨ !(s.cur.seqOf e).nests n then s.issue e (illegalInstr e)
  else
    match count.pz with
    | some r => s.issue e (poisonTrap e r)
    | none =>
      if 2 ^ 32 < count.v.toNat then s.issue e (illegalOperand e)
      else .next (s.modCur (fun c =>
        { c.setSeq e ((c.seqOf e).openLoop c.now n count.v.toNat) with turn := c.turn + 1 }))

def execLoopImm (e : Engine) (f : LoopImm) (s : State) := loopWith s e f.len f.st ⟨f.cimm.zeroExtend 64, none⟩
def execLoopReg (e : Engine) (f : LoopReg) (s : State) := loopWith s e f.len f.st (s.cur.rs f.creg.toNat)

/-! Tokens. -/

/-- SIG (R47, R102). -/
def execSig (e : Engine) (f : TokWord) (s : State) :=
  let t := s.cur.tok f.tok.toNat
  s.issue e
    (if f.n = 0 then .done s
     else if t.ceiling.toNat < t.count.toNat + f.n.toNat then .trap (TrapInfo.of 0x0D e)
     else .done (s.modCur (fun c => c.setTok f.tok.toNat { t with count := t.count + f.n })))

/-- WAIT (R47, R102). -/
def execWait (e : Engine) (f : TokWord) (s : State) :=
  let t := s.cur.tok f.tok.toNat
  s.issue e
    (if t.ceiling.toNat < f.n.toNat then illegalOperand e
     else if f.n.toNat ≤ t.count.toNat then
      .done (s.modCur (fun c => c.setTok f.tok.toNat { t with count := t.count - f.n }))
     else .block)

/-- The token number in the low five bits of a register field (R103). -/
def tokField (f : BitVec 6) : Nat := (fld f 0 5).toNat

/-- TKSET (R103): it takes effect in its issue cycle. -/
def execTkset (f : SReg) (s : State) :=
  let a := s.cur.rs f.sa.toNat
  s.issue .s (needClean .s [a.pz]
    (let t : Tok := ⟨fld a.v 0 16, fld a.v 16 16⟩
     if t.ceiling = 0 ∨ t.ceiling.toNat < t.count.toNat then illegalOperand .s
     else .done (s.modCur (fun c => c.setTok (tokField f.sd) t))))

/-- TKRD (R103): the token as at the start of the cycle. -/
def execTkrd (f : SReg) (s : State) :=
  let t := s.cur.tok0 (tokField f.sa)
  s.issue .s (.done (s.putS .s 1 f.sd (BitVec.ofNat 64 (t.ceiling.toNat * 65536 + t.count.toNat)) none))

/-- NOP (R122). -/
def execNop (e : Engine) (_ : StepWord) (s : State) := s.issue e (.done s)

/-! Traps. -/

/-- TRAP (R115): the trap is precise after the TRAP, so S has moved past it. -/
def execTrap (f : SReg) (s : State) : Result :=
  match plainStream s (.done s) with
  | .done _ =>
    .next ((s.modCur (fun c => (c.issued .s 1).passed)).syncTrap .s
      { TrapInfo.of 0x1F .s with detail := (f.sd ++ f.sa).zeroExtend 64 })
  | x => s.issue .s x

/-- UHRET (R115, R290): the core resumes three cycles on. -/
def execUhret (_ : SReg) (s : State) : Result :=
  if s.cur.mode = .handler then
    .next ((s.modCur (fun c => { c.resume (c.now + 3) with turn := c.turn + 1 })).answerStep s.here (tget 0 s.cur.tr 0))
  else s.issue .s (illegalInstr .s)

/-- DECLINE (R115, R291): the trap in hand escalates. -/
def execDecline (_ : SReg) (s : State) : Result :=
  if s.cur.mode = .handler then .next (s.escalate s.here 0 0)
  else s.issue .s (illegalInstr .s)

/-- A word that decodes to no instruction raises the illegal-instruction fault (R73). -/
def execIllegalInstruction (e : Engine) (_ : W32) (s : State) := s.issue e (illegalInstr e)

end Sys2Proof.Machine
end

