-- ==== Sys2Proof/Machine/HostIf.lean ====
section
/-! DEFINITION. What the outside does: register writes (R7, R367 to R369), BAR2 accesses (R365, R367, R403), host AtomicOps (R109, R110), accesses that reach a core window (R228, R385) or come from a peer (R361), and the translation unit's walk (R362). -/

namespace Sys2Proof.Machine

/-! Accesses in pieces. -/

/-- The aligned 8-byte pieces of a range: address and length. -/
def rangePieces (a n : Nat) : List (Nat × Nat) :=
  ((List.range (n / 8 + 2)).map (fun i =>
    let lo := max a ((a / 8 + i) * 8)
    let hi := min (a + n) ((a / 8 + i + 1) * 8)
    (lo, hi - lo))).filter (fun p => decide (0 < p.2))

/-- Write bytes piece by piece at their point of coherence. -/
def State.pokeAll (s : State) (a : Nat) (d : List Byte) (poison : Bool) : State :=
  (split8 d.length a d).foldl (fun s p => s.poke p.1 p.2 poison) s

/-- The host stores bytes at an offset of its own memory (R372): a store of the device that comes after it overwrites it, an AtomicOp is serialised with it, and a line of an L1 keeps what it holds (R234). -/
def State.hostStore (s : State) (off : Nat) (d : List Byte) : State :=
  if off + d.length ≤ 0x4000000000000 then s.pokeAll (hostBase + off) d false else s

/-- How many bytes an access touches, and whether it writes. -/
def accSize (a : Access) : Nat :=
  match a with
  | .read n => n
  | .write d _ => d.length
  | .put d _ => d.length
  | .amo _ d _ => if d then 8 else 4
  | .cas d _ _ => if d then 8 else 4
def accWrites (a : Access) : Bool :=
  match a with
  | .read _ => false
  | _ => true

/-- Perform an access at a physical address that has passed its tests: the state and the bytes that answer it. An atomic on poisoned memory changes nothing (R109, R278). -/
def State.perform1 (s : State) (pa : Nat) (a : Access) : State × List (Byte × Bool) :=
  match a with
  | .read n => (s, s.peek pa n)
  | .write d p => (s.pokeAll pa d p, [])
  | .put d p => (s.pokeAll pa d p, [])
  | .amo op d v =>
    let n := if d then 8 else 4
    let old := s.peek pa n
    if old.any (·.2) then (s, old)
    else (s.poke pa (natLe n (amoOp op (8 * n) (leNat (old.map (·.1))) v.toNat)) false, old)
  | .cas d e v =>
    let n := if d then 8 else 4
    let old := s.peek pa n
    if old.any (·.2) then (s, old)
    else if leNat (old.map (·.1)) = e.toNat % 2 ^ (8 * n) then (s.poke pa (natLe n (v.toNat % 2 ^ (8 * n))) false, old)
    else (s, old)

/-- An atomic is naturally aligned (R109). -/
def accAligned (a : Access) (addr : Nat) : Bool :=
  match a with
  | .amo _ _ _ => addr % accSize a == 0
  | .cas _ _ _ => addr % accSize a == 0
  | .read _ => true
  | .write _ _ => true
  | .put _ _ => true

/-- Reply with a status and the bytes read, to another module or to an agent of this one. -/
def State.replyTo (s : State) (md : Option Nat) (st : BitVec 8) (d : List (Byte × Bool)) : State := s.send (.reply md st (d.map (·.1)) (d.any (·.2)))

/-! Windows (R228, R385). -/

/-- WINDOW_ACCESS (R228): the test is made in the target cycle; a refused access is not performed, and one to a core that writes its image waits (R385). -/
def execWindowAccess (ctx core off : Nat) (acc : Access) (s : State) : Result :=
  let pa := winBase core + off
  if !accAligned acc off then .next (s.replyTo none 4 [])
  else
    match (s.winTest ctx pa (accSize acc) (accWrites acc)) with
    | .wait => .next s
    | .ok =>
      let r := s.perform1 pa acc
      .next (r.1.replyTo none 0 r.2)
    | w => .next (s.replyTo none w.status [])

/-! Peers (R361, R403). -/

/-- The pieces of a peer's write, each translated at the gateway; the first failure ends it. `hid` says that a tile copy, a ladle or a step makes it (R253). -/
def State.peerWrite (s : State) (x : Nat) (p hid : Bool) : List (Nat × List Byte) → Far State
  | [] => .ok s
  | (va, d) :: rest =>
    match s.gateWrite x none va d p hid with
    | .ok s1 => State.peerWrite s1 x p hid rest
    | r => r

/-- The pieces of a peer's read. -/
def State.peerRead (s : State) (x : Nat) : List (Nat × Nat) → Far (State × List (Byte × Bool))
  | [] => .ok (s, [])
  | (va, n) :: rest =>
    match s.gateRead x none va n with
    | .ok (s1, d) =>
      (match State.peerRead s1 x rest with
      | .ok (s2, d2) => .ok (s2, d ++ d2)
      | r => r)
    | r => r

/-- An atomic of a peer under the destination context's translation. -/
def State.peerAtomic (s : State) (x va : Nat) (acc : Access) : Far (State × List (Byte × Bool)) :=
  match s.translate x none (va % 2 ^ 52) (accSize acc) true false with
  | .miss => .fail 3
  | .bad a => .dead a
  | .prot => .fail 2
  | .held => .wait
  | .ok s1 t =>
    if t.uo || s1.sealedAt t.pa then .fail 2
    else if isWin t.pa then
      match s1.winTest x t.pa (accSize acc) true with
      | .ok => .ok (s1.perform1 t.pa acc)
      | .wait => .wait
      | w => .fail w.status
    else .ok (s1.perform1 t.pa acc)

/-- A write answers no bytes. -/
def Far.bare (f : Far State) : Far (State × List (Byte × Bool)) :=
  match f with
  | .ok s1 => .ok (s1, [])
  | .fail st => .fail st
  | .wait => .wait
  | .dead a => .dead a

/-- What an access from a peer comes to. -/
def State.peerDo (s : State) (x va : Nat) (acc : Access) : Far (State × List (Byte × Bool)) :=
  match acc with
  | .read n => s.peerRead x (rangePieces va n)
  | .write d p => (s.peerWrite x p false (split8 d.length va d)).bare
  | .put d p => (s.peerWrite x p true (split8 d.length va d)).bare
  | .amo _ _ _ => if accAligned acc va then s.peerAtomic x va acc else .fail 4
  | .cas _ _ _ => if accAligned acc va then s.peerAtomic x va acc else .fail 4

/-- PEER_ACCESS (R361): translated at the gateway under the destination context; a miss answers 0x3, a permission failure 0x2; a table entry that cannot be read ends the context (R373), and the sender's access has no translation. -/
def execPeerAccess (ctx va : Nat) (acc : PeerAccess) (s : State) : Result :=
  match s.peerDo ctx va acc.acc with
  | .ok (s1, d) => .next (s1.replyTo (some acc.src) 0 d)
  | .fail st => .next (s.replyTo (some acc.src) st [])
  | .wait => .next s
  | .dead a => .next ((s.ctxFatal ctx fatalTable a 0).replyTo (some acc.src) 3 [])

/-! BAR2 (R365, R367). -/

/-- The backing that a BAR2 address reaches: the visible one of a pair through its lower frame, none through its upper frame (R253, R365). -/
def State.bar2Addr (s : State) (a : Nat) : Option Nat :=
  match s.twins.find? (fun t => decide (t.lower ≤ a) && decide (a < t.lower + 2 * t.size)) with
  | none => some a
  | some t => if t.lower + t.size ≤ a then none else some (if t.ts then a + t.size else a)

/-- Complete a host request. -/
def State.complete (s : State) (ok : Bool) (d : List (Byte × Bool)) : State := s.send (.completion ok (d.map (·.1)) (d.any (·.2)))

/-- Whether a host access of `n` bytes is supported: after a good boot, in HBM, no upper frame of a pair, and for a write no unit that refuses it (R365, R367, R403, R429). -/
def State.bar2Ok (s : State) (a n : Nat) (wr : Bool) : Bool :=
  !s.bootFailed && decide (a + n ≤ 0x10000000000)
    && (rangePieces a n).all (fun p => match s.bar2Addr p.1 with | some x => !(wr && s.sealedAt x) | none => false)

/-- A host write through BAR2. -/
def State.bar2Write (s : State) (off : Nat) (d : List Byte) (p : Bool) : State :=
  if s.bar2Ok off d.length true then
    ((split8 d.length off d).foldl (fun s q => match s.bar2Addr q.1 with | some x => s.poke x q.2 p | none => s) s).complete true []
  else s.complete false []

/-- HOST_BAR2_ACCESS (R367): a read or a write at the home stack; what is not supported completes as an Unsupported Request. -/
def execHostBar2Access (off : Nat) (acc : Access) (s : State) : Result :=
  match acc with
  | .read n =>
    if s.bar2Ok off n false then
      .next (s.complete true ((rangePieces off n).flatMap (fun p => match s.bar2Addr p.1 with | some x => s.rdC x p.2 | none => [])))
    else .next (s.complete false [])
  | .write d p => .next (s.bar2Write off d p)
  | .put d p => .next (s.bar2Write off d p)
  | .amo _ _ _ => .next (s.complete false [])
  | .cas _ _ _ => .next (s.complete false [])

/-- The device atomic of a PCIe AtomicOp (R110). -/
def hostAtomic (op : AtomicOp) (d : Bool) (value cmp : W64) : Access :=
  match op with
  | .fetchAdd => .amo 0 d value
  | .swap => .amo 8 d value
  | .cas => .cas d cmp value

/-- HOST_ATOMICOP (R109, R110, R367): single-copy atomic at the home stack. -/
def execHostAtomicop (off : Nat) (op : AtomicOp) (d : Bool) (value cmp : W64) (s : State) : Result :=
  let acc := hostAtomic op d value cmp
  match (if s.bar2Ok off (accSize acc) true && accAligned acc off then s.bar2Addr off else none) with
  | none => .next (s.complete false [])
  | some a =>
    let r := s.perform1 a acc
    .next (r.1.complete true r.2)

/-! The translation unit (R362). -/

/-- TRANSLATION_WALK (R358, R362): a leaf that the access may use has A set, and D for a write; an entry that cannot be read ends the context (R373). -/
def execTranslationWalk (ctx va : Nat) (wr : Bool) (s : State) : Result :=
  match s.translate ctx none (va % 2 ^ 52) 1 wr false with
  | .ok s1 _ => .next s1
  | .bad a => .next (s.ctxFatal ctx fatalTable a 0)
  | _ => .next s

/-! Registers (R7, R367). -/

/-- The command that a submitted request asks for. -/
def commandOf (op : Nat) : Instr :=
  match op with
  | 1 => .ctxCreate
  | 2 => .ctxEnd
  | 3 => .tlbHold
  | 4 => .tlbRelease
  | 5 => .twinSet
  | 6 => .escAnswer
  | 7 => .lqBind
  | 8 => .cpStart
  | 0x10 => .opSet
  | 0x11 => .opGet
  | 0x12 => .limitGet
  | _ => .unknownOpcode

/-- The doorbell (R368, R369): a request is taken as it stands; while a command runs, LOST is set. -/
def State.doorbell (s : State) : State :=
  if bitAt s.mbox.mbst 0 then { s with mbox := { s.mbox with mbst := s.mbox.mbst ||| 4 } }
  else
    let s1 : State := { s with mbox := { s.mbox with cmd := areaBytesAt s.mbox.req 0 256, mbst := s.mbox.mbst ||| 1 } }
    { s1 with agenda := s1.agenda ++ [AgendaItem.event (commandOf s1.opcode)] }

/-- Replace 8 bytes of a 256-byte area. -/
def areaWrite (l : List Byte) (off : Nat) (v : W64) : List Byte :=
  areaBytesAt l 0 off ++ natLe 8 v.toNat ++ areaBytesAt l (off + 8) (248 - off)

/-- Write a doubleword of the MSI-X table; the mask of a vector stands in bit 32 of its second one (R324, R367). -/
def State.writeMsix (s : State) (off : Nat) (v : W64) : State :=
  let k := off / 16
  let s1 : State := { s with msixTable := tset 0 s.msixTable (off / 8) v }
  if off % 16 = 0 then s1
  else if bitAt v 32 then { s1 with msixMask := s1.msixMask ||| (1#2048 <<< k) }
  else
    let s2 : State := { s1 with msixMask := s1.msixMask &&& ~~~(1#2048 <<< k), msixPend := s1.msixPend &&& ~~~(1#2048 <<< k) }
    if bitAt s1.msixPend k then s2.send (.msix k) else s2

/-- Write a register of BAR0 (R367 to R369, R414, R419); what is reserved or read-only ignores the write. -/
def State.writeBar0 (s : State) (off : Nat) (v : W64) : State :=
  if s.bootFailed then s
  else if 0x100000 ≤ off ∧ off < 0x100100 then { s with mbox := { s.mbox with req := areaWrite s.mbox.req (off - 0x100000) v } }
  else if off = 0x100200 then (if bitAt v 0 then s.doorbell else s)
  else if off = 0x100208 then { s with mbox := { s.mbox with mbst := s.mbox.mbst &&& ~~~(v &&& 6) } }
  else if 0x200000 ≤ off ∧ off < 0x208000 then s.writeMsix (off - 0x200000) v
  else if off = 0x300000 then { s with elog := { s.elog with ctl := v &&& 0x7FFFFFF } }
  else if off = 0x300010 then { s with elog := { s.elog with ridx := v } }
  else if off = 0x300018 then { s with elog := { s.elog with drop := s.elog.drop &&& ~~~v } }
  else if off = 0x340000 then
    let s1 : State := { s with trig := { s.trig with ctl := v &&& 0x701 } }
    if bitAt v 1 then s1.fireTrigger else s1
  else s

/-- A doubleword of the MSI-X table as a read returns it: bit 32 of a vector's second one is its mask (R7, R324, R367). -/
def State.readMsix (s : State) (off : Nat) : W64 :=
  let w := tget 0 s.msixTable (off / 8)
  if off % 16 = 0 then w else (w &&& ~~~(1#64 <<< 32)) ||| (if bitAt s.msixMask (off / 16) then 1#64 <<< 32 else 0)

/-- A doubleword of BAR0 as a read returns it (R7, R367 to R369, R414, R419, R420, R429): what is reserved or write-only reads as 0, and after a failed boot only the identity registers and BOOTST answer. The manual gives no contents to the other identity registers. -/
def State.readBar0 (s : State) (off : Nat) : W64 :=
  let area (l : List Byte) (o : Nat) : W64 := BitVec.ofNat 64 (leNat (areaBytesAt l o 8))
  if off = 0x100 then s.boot.bootst
  else if off < 0x1000 then Config.identity (off / 8)
  else if s.bootFailed then 0
  else if 0x100000 ≤ off ∧ off < 0x100100 then area s.mbox.req (off - 0x100000)
  else if 0x100100 ≤ off ∧ off < 0x100200 then area s.mbox.rsp (off - 0x100100)
  else if off = 0x100208 then s.mbox.mbst
  else if 0x200000 ≤ off ∧ off < 0x208000 then s.readMsix (off - 0x200000)
  else if 0x208000 ≤ off ∧ off < 0x208100 then s.msixPend.extractLsb' (8 * (off - 0x208000)) 64
  else if off = 0x300000 then s.elog.ctl
  else if off = 0x300008 then s.elog.widx
  else if off = 0x300010 then s.elog.ridx
  else if off = 0x300018 then s.elog.drop
  else if 0x301000 ≤ off ∧ off < 0x321000 then
    (tget 0 s.elog.ring ((off - 0x301000) / 32)).extractLsb' (8 * ((off - 0x301000) % 32)) 64
  else if off = 0x340000 then s.trig.ctl
  else if off = 0x340008 then s.trig.cyc
  else if off = 0x340010 then s.trig.widx
  else if off = 0x340018 then s.trig.miss.zeroExtend 64
  else if 0x341000 ≤ off ∧ off < 0x390160 then tget 0 s.trig.regs off
  else 0

/-- REGISTER_WRITE (R7): an aligned doubleword of BAR0; from 0x1_0000_0000 on, a register of the coding group (R393). DESIGN CHOICE (assumption 159): the manual gives no widths or alignments to a write of BAR0; the model takes aligned doublewords, and drops a write at any other offset. -/
def execRegisterWrite (off : Nat) (value : W64) (s : State) : Result :=
  if off % 8 ≠ 0 ∧ off < 0x100000000 then .next s
  else if off < 0x100000000 then .next (s.writeBar0 off value)
  else
    let o := off - 0x100000000
    .next (if o = 0 ∧ bitAt value 63 then s.gcfgEnable value
    else if 0x40 ≤ o ∧ o < 0xE0 ∧ o % 8 = 0 ∧ bitAt value 62 then s.rebuildStart ((o - 0x40) / 8) value
    else { s with spe := s.spe.writeReg o value })

end Sys2Proof.Machine
end

