-- ==== Sys2Proof/Machine/Events.lean ====
section
/-! DEFINITION. Events between cycles: fetch (R57), late data (R84), stores that become visible (R239, R242, R246), traps taken at a cycle boundary (R282, R283). -/

namespace Sys2Proof.Machine

/-- The agent that an event names: cores 0 to 4,095, and from 4,096 on the command streams by context. -/
def agentOf (n : Nat) : Mover := if n < 4096 then .core n else .cp (n - 4096)

/-- The number of an agent in an event. -/
def agentNo (m : Mover) : Nat :=
  match m with
  | .core n => n
  | .cp x => 4096 + x

/-- FETCH_LINE (R57, R208): the fetch unit reads a line if every queue that it feeds has room. -/
def execFetchLine (core : Nat) (s : State) : Result :=
  let c := s.core core
  if c.mode != .user && c.mode != .handler then .next s
  else
    match c.fetchOne false (s.wordsOf (.core core)) with
    | some c1 => .next (s.setCore core { c1 with fetch := { c1.fetch with seen := c1.fetch.next } })
    | none => .next s

/-- MEMORY_DATA_ARRIVAL (R84): late data arrives, and the core enters its next cycle; the freeze lasts a free number of reference cycles. What the late units read is settled here or earlier, a free choice (R241). -/
def execMemoryDataArrival (core : Nat) (s : State) : Result :=
  let m := agentOf core
  let c := s.agent m
  if c.holds.any (fun h => h.kind = .data && decide (h.due ≤ c.now)) then
    let s1 := (((s.setAgent m { c with holds := c.holds.filter (fun h => !(h.kind = .data && decide (h.due ≤ c.now))) }).pass m (Config.freeDelay s.fresh))).bump
    .next { (State.rebindSome { s1 with here := m } none (c.lates.filter (·.acq.isNone))) with here := s.here }
  else .next s

/-- Whether a store may become visible before the earlier ones that are still pending (R239, R242, R243, R246); a pending fence orders the stores of earlier cycles before those of its own (R111). -/
def storeReady (fence : Bool) (earlier : List PendStore) (st : PendStore) : Bool :=
  !(earlier.any (fun k => !k.done && (k.holdsBack st || (fence && decide (k.cyc < st.cyc)))))

/-- STORE_VISIBLE (R237, R239): the store at a place of the agent's store buffer is accepted by its point of coherence. -/
def execStoreVisible (core idx : Nat) (s : State) : Result :=
  let m := agentOf core
  let c := s.agent m
  match c.stores[idx]? with
  | none => .next s
  | some st =>
    let fence := c.holds.any (fun h => h.kind = .retry)
    if (st.seen || fence || isWin st.addr) && !st.done && storeReady fence (c.stores.take idx) st then .next (s.tryStore m st)
    else .next s

/-! Faults that are due at a cycle boundary (R156, R202, R282, R286). -/

/-- What reading the due operand groups of a core's multiplies comes to (R154, R156). -/
inductive Growth where
  | ok (s : State)
  | fault
  | wait

/-- Read every operand group that is due in the core's cycle. -/
def State.growAll (s : State) (n : Nat) : Nat → Growth
  | 0 => .ok s
  | k + 1 =>
    let c := s.core n
    match c.mats.find? (fun o => decide (o.g < o.groups) && decide (o.start + o.g ≤ c.now)) with
    | none => .ok s
    | some o =>
      match s.growOp n o with
      | .ok s1 o' => State.growAll (s1.modCore n (fun c => { c with mats := c.mats.map (fun x => if x = o then o' else x) })) n k
      | .fail _ _ => .fault
      | .dead _ => .fault
      | .wait => .wait

/-- A late fault of an ingot that is due (R202). -/
def Core.lateIngot (c : Core) : Bool :=
  c.mats.any (fun o => match o.b with | .ingot _ _ _ _ f => f.isSome && decide (o.start + o.groups ≤ c.now) | _ => false)

/-- Whether a remote operand that is due fails (R156). -/
def State.lateOperand (s : State) (n : Nat) : Bool :=
  match s.growAll n (64 * ((s.core n).mats.length + 1)) with
  | .fault => true
  | .ok _ | .wait => false

/-- Whether a position that a handler has written names a group of S (R286). -/
def validSpos (words : Nat → List W32) (l a : Nat) : Bool :=
  match readLine false (words l) l with
  | .groups gs => gs.any (fun g => g.1 == .s && g.2.lane == a)
  | .illegal _ => false

/-- The position that a handler gave S, in the cycle of the resumption (R286). -/
def Core.movedNow (c : Core) : Option (Nat × Nat) := if c.mode = .user ∧ c.now = c.back then c.moved else none

/-- Whether a synchronous fault is due at the boundary of a core (R282). -/
def State.faultDue (s : State) (n : Nat) : Bool :=
  (s.core n).lateIngot || s.lateOperand n
    || (match (s.core n).movedNow with | some (l, a) => !validSpos (s.core n).lineWords l a | none => false)

/-- TRAP_TAKEN (R282, R283, R290): a pending asynchronous trap is taken at a cycle boundary at which no synchronous fault is due, in user mode, not before the cycle of a resumption. -/
def execTrapTaken (core : Nat) (s : State) : Result :=
  let c := s.core core
  match c.asyncs with
  | t :: rest =>
    if c.mode = .user ∧ c.turn = 0 ∧ c.back ≤ c.now ∧ c.powered ∧ !s.faultDue core then .next ((s.setCore core { c with asyncs := rest }).takeTrap (.core core) t)
    else .next s
  | [] => .next s

end Sys2Proof.Machine
end

