-- ==== Sys2Proof/Machine/Scalar.lean ====
section
/-! DEFINITION. Integer arithmetic, logic, shifts, bit fields, moves, compares and predicates of S (R88 to R94). -/

namespace Sys2Proof.Machine

/-- High halves of the products (R88). -/
def mulHigh (a b : W64) : W64 := BitVec.ofInt 64 (a.toInt * b.toInt / 2 ^ 64)
def mulHighU (a b : W64) : W64 := BitVec.ofNat 64 (a.toNat * b.toNat / 2 ^ 64)

/-- Division that truncates toward zero and never faults (R89). -/
def divS (a b : W64) : W64 :=
  if b = 0 then 0xFFFFFFFFFFFFFFFF else BitVec.ofInt 64 (a.toInt.tdiv b.toInt)
def remS (a b : W64) : W64 :=
  if b = 0 then a else BitVec.ofInt 64 (a.toInt.tmod b.toInt)
def divU (a b : W64) : W64 :=
  if b = 0 then 0xFFFFFFFFFFFFFFFF else BitVec.ofNat 64 (a.toNat / b.toNat)
def remU (a b : W64) : W64 :=
  if b = 0 then a else BitVec.ofNat 64 (a.toNat % b.toNat)

/-- Minimum and maximum (R88). -/
def minS (a b : W64) : W64 := if b.slt a then b else a
def maxS (a b : W64) : W64 := if a.slt b then b else a
def minU (a b : W64) : W64 := if b.ult a then b else a
def maxU (a b : W64) : W64 := if a.ult b then b else a

/-- Shifts by b[5:0] (R90). -/
def shlS (a b : W64) : W64 := a <<< (b.toNat % 64)
def shrS (a b : W64) : W64 := a >>> (b.toNat % 64)
def sraS (a b : W64) : W64 := a.sshiftRight (b.toNat % 64)

/-- The number of leading zero bits among the low `n` bits (R90). -/
def clzIn (v : Nat) : Nat → Nat
  | 0 => 0
  | n + 1 => if v.testBit n then 0 else 1 + clzIn v n

/-- The number of trailing zero bits, at most `n`, from bit `i` on (R90). -/
def ctzIn (v i : Nat) : Nat → Nat
  | 0 => 0
  | n + 1 => if v.testBit i then 0 else 1 + ctzIn v (i + 1) n

/-- The number of 1 bits among the low `n` bits (R90). -/
def popcIn (v : Nat) : Nat → Nat
  | 0 => 0
  | n + 1 => (if v.testBit n then 1 else 0) + popcIn v n

/-- The field of BEXT and BINS: position, and width w = min(len, 64 - pos) (R91). -/
def bitField (b : W64) : Nat × Nat :=
  let pos := b.toNat % 64
  let len := b.toNat / 256 % 128
  (pos, min (min len 64) (64 - pos))

/-- BEXT (R91). -/
def bextV (a b : W64) : W64 := BitVec.ofNat 64 (a.toNat / 2 ^ (bitField b).1 % 2 ^ (bitField b).2)

/-- BINS (R91): the old destination with the field replaced. -/
def binsV (a b d : W64) : W64 :=
  let (pos, w) := bitField b
  let m : W64 := BitVec.ofNat 64 ((2 ^ w - 1) * 2 ^ pos)
  (d &&& ~~~m) ||| (BitVec.ofNat 64 (a.toNat % 2 ^ w) <<< pos)

/-- SEXT and ZEXT of the low n bits, where the field holds n - 1 (R91). -/
def zextV (a : W64) (n1 : BitVec 6) : W64 := BitVec.ofNat 64 (a.toNat % 2 ^ (n1.toNat + 1))
def sextV (a : W64) (n1 : BitVec 6) : W64 :=
  let v := a.toNat % 2 ^ (n1.toNat + 1)
  if v.testBit n1.toNat then BitVec.ofInt 64 ((v : Int) - 2 ^ (n1.toNat + 1)) else BitVec.ofNat 64 v

def execAdd (f : SReg) (s : State) := s.issue .s (alu2 s f 1 (· + ·))
def execSub (f : SReg) (s : State) := s.issue .s (alu2 s f 1 (· - ·))
def execMul (f : SReg) (s : State) := s.issue .s (alu2 s f 3 (· * ·))
def execMulh (f : SReg) (s : State) := s.issue .s (alu2 s f 3 mulHigh)
def execMulhu (f : SReg) (s : State) := s.issue .s (alu2 s f 3 mulHighU)
def execDiv (f : SReg) (s : State) := s.issue .s (alu2 s f 18 divS)
def execDivu (f : SReg) (s : State) := s.issue .s (alu2 s f 18 divU)
def execRem (f : SReg) (s : State) := s.issue .s (alu2 s f 18 remS)
def execRemu (f : SReg) (s : State) := s.issue .s (alu2 s f 18 remU)
def execMin (f : SReg) (s : State) := s.issue .s (alu2 s f 1 minS)
def execMax (f : SReg) (s : State) := s.issue .s (alu2 s f 1 maxS)
def execMinu (f : SReg) (s : State) := s.issue .s (alu2 s f 1 minU)
def execMaxu (f : SReg) (s : State) := s.issue .s (alu2 s f 1 maxU)
def execAnd (f : SReg) (s : State) := s.issue .s (alu2 s f 1 (· &&& ·))
def execOr (f : SReg) (s : State) := s.issue .s (alu2 s f 1 (· ||| ·))
def execXor (f : SReg) (s : State) := s.issue .s (alu2 s f 1 (· ^^^ ·))
def execAndn (f : SReg) (s : State) := s.issue .s (alu2 s f 1 (fun a b => a &&& ~~~b))
def execShl (f : SReg) (s : State) := s.issue .s (alu2 s f 1 shlS)
def execShr (f : SReg) (s : State) := s.issue .s (alu2 s f 1 shrS)
def execSra (f : SReg) (s : State) := s.issue .s (alu2 s f 1 sraS)
def execClz (f : SReg) (s : State) := s.issue .s (alu1 s f 1 (fun a => BitVec.ofNat 64 (clzIn a.toNat 64)))
def execCtz (f : SReg) (s : State) := s.issue .s (alu1 s f 1 (fun a => BitVec.ofNat 64 (ctzIn a.toNat 0 64)))
def execPopc (f : SReg) (s : State) := s.issue .s (alu1 s f 1 (fun a => BitVec.ofNat 64 (popcIn a.toNat 64)))
def execSext (f : SReg) (s : State) := s.issue .s (alu1 s f 1 (fun a => sextV a f.sb))
def execZext (f : SReg) (s : State) := s.issue .s (alu1 s f 1 (fun a => zextV a f.sb))
def execBext (f : SReg) (s : State) := s.issue .s (alu2 s f 1 bextV)
def execBins (f : SReg) (s : State) := s.issue .s (alu3 s f 1 binsV)

/-- MOV (R92): the tag and its record move with the data. -/
def execMov (f : SReg) (s : State) := s.issue .s (.done (s.moveS .s 1 f.sd (s.cur.rs f.sa.toNat)))

def execSel (f : SReg) (s : State) := s.issue .s (alu3 s f 1 (fun a b d => if d ≠ 0 then a else b))

def execCmp (cc : BitVec 3) (f : SReg) (s : State) := s.issue .s (cmpTo s cc f.sd f.sa (s.cur.rs f.sb.toNat))

def execAddi (f : SImm) (s : State) := s.issue .s (aluImm s f (· + ·))
def execAndi (f : SImm) (s : State) := s.issue .s (aluImm s f (· &&& ·))
def execOri (f : SImm) (s : State) := s.issue .s (aluImm s f (· ||| ·))
def execXori (f : SImm) (s : State) := s.issue .s (aluImm s f (· ^^^ ·))
def execShli (f : SImm) (s : State) := s.issue .s (aluImm s f shlS)
def execShri (f : SImm) (s : State) := s.issue .s (aluImm s f shrS)
def execSrai (f : SImm) (s : State) := s.issue .s (aluImm s f sraS)

/-- LI (R92). -/
def execLi (f : SImm) (ext : BitVec 32) (s : State) :=
  s.issue .s (.done (s.putS .s 1 f.sd (ext.signExtend 64) none))

/-- LIH (R92): the low half is the old destination's. -/
def execLih (f : SImm) (ext : BitVec 32) (s : State) :=
  let d := s.cur.rs f.sd.toNat
  s.issue .s (.done (s.putS .s 1 f.sd (ext ++ fld d.v 0 32) d.pz))

/-- CMPI (R93): cc[1:0] stands below pd, cc[2] is the major code. -/
def execCmpiLo (f : SImm) (s : State) :=
  s.issue .s (cmpTo s (0#1 ++ fld f.sd 0 2) f.sd f.sa ⟨(imm64 f), none⟩)
def execCmpiHi (f : SImm) (s : State) :=
  s.issue .s (cmpTo s (1#1 ++ fld f.sd 0 2) f.sd f.sa ⟨(imm64 f), none⟩)

/-- The operation of PLOG (R94). -/
def plogOp (op : BitVec 2) (a b : W32) : W32 :=
  match op.toNat with
  | 0 => a &&& b
  | 1 => a ||| b
  | 2 => a ^^^ b
  | _ => a &&& ~~~b

/-- PLOG (R94). -/
def execPlog (op : BitVec 2) (f : SReg) (s : State) :=
  let a := s.cur.predOf f.sa
  let b := s.cur.predOf f.sb
  s.issue .s (.done (s.putP .s 1 (fld f.sd 0 4).toNat (plogOp op a.v b.v) 0xFFFFFFFF (firstPz [a.pz, b.pz])))

/-- The lanes a ≤ i < a + b, unbounded (R94). -/
def psetMask (a b : W64) : W32 :=
  BitVec.ofNat 32 (((List.range 32).map (fun i => if a.toNat ≤ i ∧ i < a.toNat + b.toNat then 2 ^ i else 0)).sum)

/-- PSET (R94). -/
def execPset (f : SReg) (s : State) :=
  let a := s.cur.rs f.sa.toNat
  let b := s.cur.rs f.sb.toNat
  s.issue .s (.done (s.putP .s 1 (fld f.sd 0 4).toNat (psetMask a.v b.v) 0xFFFFFFFF (firstPz [a.pz, b.pz])))

/-- MOVP sd, pN (R94): the record moves with the data (R277). -/
def execMovpToScalar (f : SReg) (s : State) :=
  let a := s.cur.predOf f.sa
  s.issue .s (.done (s.moveS .s 1 f.sd ⟨a.v.zeroExtend 64, a.pz⟩))

/-- MOVP pN, sa (R94): the record moves with the data (R277). -/
def execMovpToPredicate (f : SReg) (s : State) :=
  let a := s.cur.rs f.sa.toNat
  s.issue .s (.done (s.modCur (fun c => c.emit .s 1 (.predicate (fld f.sd 0 4).toNat (fld a.v 0 32) 0xFFFFFFFF a.pz))))

end Sys2Proof.Machine
end

