-- ==== Sys2Proof/Machine/Dispatch.lean ====
section
/-! DEFINITION. The dispatch: one arm per instruction. -/

namespace Sys2Proof.Machine

def exec (i : Instr) (s : State) : Host.Outcome State Fault Refusal :=
  match i with
  | .add f => Sys2Proof.Machine.execAdd f s
  | .sub f => Sys2Proof.Machine.execSub f s
  | .mul f => Sys2Proof.Machine.execMul f s
  | .mulh f => Sys2Proof.Machine.execMulh f s
  | .mulhu f => Sys2Proof.Machine.execMulhu f s
  | .div f => Sys2Proof.Machine.execDiv f s
  | .divu f => Sys2Proof.Machine.execDivu f s
  | .rem f => Sys2Proof.Machine.execRem f s
  | .remu f => Sys2Proof.Machine.execRemu f s
  | .min f => Sys2Proof.Machine.execMin f s
  | .max f => Sys2Proof.Machine.execMax f s
  | .minu f => Sys2Proof.Machine.execMinu f s
  | .maxu f => Sys2Proof.Machine.execMaxu f s
  | .and f => Sys2Proof.Machine.execAnd f s
  | .or f => Sys2Proof.Machine.execOr f s
  | .xor f => Sys2Proof.Machine.execXor f s
  | .andn f => Sys2Proof.Machine.execAndn f s
  | .shl f => Sys2Proof.Machine.execShl f s
  | .shr f => Sys2Proof.Machine.execShr f s
  | .sra f => Sys2Proof.Machine.execSra f s
  | .clz f => Sys2Proof.Machine.execClz f s
  | .ctz f => Sys2Proof.Machine.execCtz f s
  | .popc f => Sys2Proof.Machine.execPopc f s
  | .sext f => Sys2Proof.Machine.execSext f s
  | .zext f => Sys2Proof.Machine.execZext f s
  | .bext f => Sys2Proof.Machine.execBext f s
  | .bins f => Sys2Proof.Machine.execBins f s
  | .mov f => Sys2Proof.Machine.execMov f s
  | .sel f => Sys2Proof.Machine.execSel f s
  | .cmp cc f => Sys2Proof.Machine.execCmp cc f s
  | .addi f => Sys2Proof.Machine.execAddi f s
  | .andi f => Sys2Proof.Machine.execAndi f s
  | .ori f => Sys2Proof.Machine.execOri f s
  | .xori f => Sys2Proof.Machine.execXori f s
  | .shli f => Sys2Proof.Machine.execShli f s
  | .shri f => Sys2Proof.Machine.execShri f s
  | .srai f => Sys2Proof.Machine.execSrai f s
  | .li f ext => Sys2Proof.Machine.execLi f ext s
  | .lih f ext => Sys2Proof.Machine.execLih f ext s
  | .cmpiLo f => Sys2Proof.Machine.execCmpiLo f s
  | .cmpiHi f => Sys2Proof.Machine.execCmpiHi f s
  | .ld w f => Sys2Proof.Machine.execLd w f s
  | .st w f => Sys2Proof.Machine.execSt w f s
  | .ldSpec w f => Sys2Proof.Machine.execLdSpec w f s
  | .lda d f => Sys2Proof.Machine.execLda d f s
  | .stl d f => Sys2Proof.Machine.execStl d f s
  | .cas d f => Sys2Proof.Machine.execCas d f s
  | .amo d op f => Sys2Proof.Machine.execAmo d op f s
  | .fence kind scope f => Sys2Proof.Machine.execFence kind scope f s
  | .pfen f => Sys2Proof.Machine.execPfen f s
  | .probe f => Sys2Proof.Machine.execProbe f s
  | .unpin f => Sys2Proof.Machine.execUnpin f s
  | .trap f => Sys2Proof.Machine.execTrap f s
  | .uhret f => Sys2Proof.Machine.execUhret f s
  | .decline f => Sys2Proof.Machine.execDecline f s
  | .clkdiv f => Sys2Proof.Machine.execClkdiv f s
  | .chk f => Sys2Proof.Machine.execChk f s
  | .yield f => Sys2Proof.Machine.execYield f s
  | .npost f => Sys2Proof.Machine.execNpost f s
  | .lpost f => Sys2Proof.Machine.execLpost f s
  | .tkset f => Sys2Proof.Machine.execTkset f s
  | .tkrd f => Sys2Proof.Machine.execTkrd f s
  | .sysrd f => Sys2Proof.Machine.execSysrd f s
  | .syswr f => Sys2Proof.Machine.execSyswr f s
  | .br f => Sys2Proof.Machine.execBr f s
  | .call f => Sys2Proof.Machine.execCall f s
  | .jmpi f => Sys2Proof.Machine.execJmpi f s
  | .jmp f => Sys2Proof.Machine.execJmp f s
  | .ret f => Sys2Proof.Machine.execRet f s
  | .halt f => Sys2Proof.Machine.execHalt f s
  | .barv f => Sys2Proof.Machine.execBarv f s
  | .barw f => Sys2Proof.Machine.execBarw f s
  | .barred f => Sys2Proof.Machine.execBarred f s
  | .plog op f => Sys2Proof.Machine.execPlog op f s
  | .pset f => Sys2Proof.Machine.execPset f s
  | .movpToScalar f => Sys2Proof.Machine.execMovpToScalar f s
  | .movpToPredicate f => Sys2Proof.Machine.execMovpToPredicate f s
  | .ecprot f => Sys2Proof.Machine.execEcprot f s
  | .ecunprot f => Sys2Proof.Machine.execEcunprot f s
  | .ecseal f => Sys2Proof.Machine.execEcseal f s
  | .ecclose f => Sys2Proof.Machine.execEcclose f s
  | .ecstat f => Sys2Proof.Machine.execEcstat f s
  | .semwge f => Sys2Proof.Machine.execSemwge f s
  | .semadd f => Sys2Proof.Machine.execSemadd f s
  | .semset f => Sys2Proof.Machine.execSemset f s
  | .qsub f => Sys2Proof.Machine.execQsub f s
  | .intr f => Sys2Proof.Machine.execIntr f s
  | .loopImm e f => Sys2Proof.Machine.execLoopImm e f s
  | .loopReg e f => Sys2Proof.Machine.execLoopReg e f s
  | .sig e f => Sys2Proof.Machine.execSig e f s
  | .wait e f => Sys2Proof.Machine.execWait e f s
  | .nop e st => Sys2Proof.Machine.execNop e st s
  | .pfenMark e st => Sys2Proof.Machine.execPfenMark e st s
  | .vrd f => Sys2Proof.Machine.execVrd f s
  | .vld f => Sys2Proof.Machine.execVld f s
  | .gath f => Sys2Proof.Machine.execGath f s
  | .mldH f => Sys2Proof.Machine.execMldH f s
  | .mldV f => Sys2Proof.Machine.execMldV f s
  | .sprd f => Sys2Proof.Machine.execSprd f s
  | .xld f => Sys2Proof.Machine.execXld f s
  | .xldT f => Sys2Proof.Machine.execXldT f s
  | .xldn f => Sys2Proof.Machine.execXldn f s
  | .xldf f => Sys2Proof.Machine.execXldf f s
  | .odset f => Sys2Proof.Machine.execOdset f s
  | .cdset f => Sys2Proof.Machine.execCdset f s
  | .waitcChunk e f => Sys2Proof.Machine.execWaitcChunk e f s
  | .waitcPosting e f => Sys2Proof.Machine.execWaitcPosting e f s
  | .seqset f => Sys2Proof.Machine.execSeqset f s
  | .mst f => Sys2Proof.Machine.execMst f s
  | .spwr f => Sys2Proof.Machine.execSpwr f s
  | .scat f => Sys2Proof.Machine.execScat f s
  | .xst f => Sys2Proof.Machine.execXst f s
  | .xstn f => Sys2Proof.Machine.execXstn f s
  | .xstf f => Sys2Proof.Machine.execXstf f s
  | .stb f => Sys2Proof.Machine.execStb f s
  | .bclose f => Sys2Proof.Machine.execBclose f s
  | .pub f => Sys2Proof.Machine.execPub f s
  | .vadd f => Sys2Proof.Machine.execVadd f s
  | .vsub f => Sys2Proof.Machine.execVsub f s
  | .vmul f => Sys2Proof.Machine.execVmul f s
  | .vfma f ext => Sys2Proof.Machine.execVfma f ext s
  | .vfms f ext => Sys2Proof.Machine.execVfms f ext s
  | .vfnma f ext => Sys2Proof.Machine.execVfnma f ext s
  | .vmin f => Sys2Proof.Machine.execVmin f s
  | .vmax f => Sys2Proof.Machine.execVmax f s
  | .vminnum f => Sys2Proof.Machine.execVminnum f s
  | .vmaxnum f => Sys2Proof.Machine.execVmaxnum f s
  | .vrcp f => Sys2Proof.Machine.execVrcp f s
  | .vrsq f => Sys2Proof.Machine.execVrsq f s
  | .vsqrt f => Sys2Proof.Machine.execVsqrt f s
  | .vexp2 f => Sys2Proof.Machine.execVexp2 f s
  | .vlog2 f => Sys2Proof.Machine.execVlog2 f s
  | .vcmp f => Sys2Proof.Machine.execVcmp f s
  | .vclass f => Sys2Proof.Machine.execVclass f s
  | .viadd f => Sys2Proof.Machine.execViadd f s
  | .visub f => Sys2Proof.Machine.execVisub f s
  | .vimul f => Sys2Proof.Machine.execVimul f s
  | .vimulh f => Sys2Proof.Machine.execVimulh f s
  | .vimad f ext => Sys2Proof.Machine.execVimad f ext s
  | .viaddw f => Sys2Proof.Machine.execViaddw f s
  | .vimadw f ext => Sys2Proof.Machine.execVimadw f ext s
  | .vand f => Sys2Proof.Machine.execVand f s
  | .vor f => Sys2Proof.Machine.execVor f s
  | .vxor f => Sys2Proof.Machine.execVxor f s
  | .vshl f => Sys2Proof.Machine.execVshl f s
  | .vshr f => Sys2Proof.Machine.execVshr f s
  | .vsra f => Sys2Proof.Machine.execVsra f s
  | .vimin f => Sys2Proof.Machine.execVimin f s
  | .vimax f => Sys2Proof.Machine.execVimax f s
  | .vclz f => Sys2Proof.Machine.execVclz f s
  | .vpopc f => Sys2Proof.Machine.execVpopc f s
  | .vcvt f ext => Sys2Proof.Machine.execVcvt f ext s
  | .vqmx f ext => Sys2Proof.Machine.execVqmx f ext s
  | .vdqmx f ext => Sys2Proof.Machine.execVdqmx f ext s
  | .vscan f => Sys2Proof.Machine.execVscan f s
  | .vscanWide f => Sys2Proof.Machine.execVscanWide f s
  | .vred f => Sys2Proof.Machine.execVred f s
  | .vperm f => Sys2Proof.Machine.execVperm f s
  | .vrot f ext => Sys2Proof.Machine.execVrot f ext s
  | .vbcast f ext => Sys2Proof.Machine.execVbcast f ext s
  | .vsel f ext => Sys2Proof.Machine.execVsel f ext s
  | .vext f ext => Sys2Proof.Machine.execVext f ext s
  | .vins f ext => Sys2Proof.Machine.execVins f ext s
  | .vmov f => Sys2Proof.Machine.execVmov f s
  | .vlane f => Sys2Proof.Machine.execVlane f s
  | .mma f => Sys2Proof.Machine.execMma f s
  | .mmac f => Sys2Proof.Machine.execMmac f s
  | .mmar f => Sys2Proof.Machine.execMmar f s
  | .mconv f => Sys2Proof.Machine.execMconv f s
  | .mshape f ext => Sys2Proof.Machine.execMshape f ext s
  | .accz f => Sys2Proof.Machine.execAccz f s
  | .accrd f ext => Sys2Proof.Machine.execAccrd f ext s
  | .accwr f ext => Sys2Proof.Machine.execAccwr f ext s
  | .accarm f ext => Sys2Proof.Machine.execAccarm f ext s
  | .mexc f => Sys2Proof.Machine.execMexc f s
  | .fetchLine core => Sys2Proof.Machine.execFetchLine core s
  | .memoryDataArrival core => Sys2Proof.Machine.execMemoryDataArrival core s
  | .matrixTileWrite core => Sys2Proof.Machine.execMatrixTileWrite core s
  | .ingotFault core => Sys2Proof.Machine.execIngotFault core s
  | .remoteOperandFault core => Sys2Proof.Machine.execRemoteOperandFault core s
  | .trapTaken core => Sys2Proof.Machine.execTrapTaken core s
  | .copyChunkComplete core copy => Sys2Proof.Machine.execCopyChunkComplete core copy s
  | .copyArrivalPosted core copy => Sys2Proof.Machine.execCopyArrivalPosted core copy s
  | .neighbourArrival core copy => Sys2Proof.Machine.execNeighbourArrival core copy s
  | .windowAccess ctx core off acc => Sys2Proof.Machine.execWindowAccess ctx core off acc s
  | .peerAccess ctx va acc => Sys2Proof.Machine.execPeerAccess ctx va acc s
  | .stbSummaryReply core tag rank err deliv => Sys2Proof.Machine.execStbSummaryReply core tag rank err deliv s
  | .barrierArrival a => Sys2Proof.Machine.execBarrierArrival a s
  | .riserBlockArrival core b => Sys2Proof.Machine.execRiserBlockArrival core b s
  | .creditReturn core g dst => Sys2Proof.Machine.execCreditReturn core g dst s
  | .collectiveWatchdog core g src h sendsHere => Sys2Proof.Machine.execCollectiveWatchdog core g src h sendsHere s
  | .send core w => Sys2Proof.Machine.execSend core w s
  | .recv core w => Sys2Proof.Machine.execRecv core w s
  | .rrs core w => Sys2Proof.Machine.execRrs core w s
  | .rra core w => Sys2Proof.Machine.execRra core w s
  | .copyStep core w => Sys2Proof.Machine.execCopyStep core w s
  | .halo core w => Sys2Proof.Machine.execHalo core w s
  | .waits core w => Sys2Proof.Machine.execWaits core w s
  | .sigs core w => Sys2Proof.Machine.execSigs core w s
  | .lbeg core w => Sys2Proof.Machine.execLbeg core w s
  | .lend core w => Sys2Proof.Machine.execLend core w s
  | .endStep core w => Sys2Proof.Machine.execEndStep core w s
  | .persistImageSealed core => Sys2Proof.Machine.execPersistImageSealed core s
  | .corePowerLoss cluster n => Sys2Proof.Machine.execCorePowerLoss cluster n s
  | .chillResume core => Sys2Proof.Machine.execChillResume core s
  | .modulePowerLoss => Sys2Proof.Machine.execModulePowerLoss s
  | .recordAccept => Sys2Proof.Machine.execRecordAccept s
  | .iterationHandout core => Sys2Proof.Machine.execIterationHandout core s
  | .iterationRetire core => Sys2Proof.Machine.execIterationRetire core s
  | .recordComplete rec => Sys2Proof.Machine.execRecordComplete rec s
  | .loaderFill core rec => Sys2Proof.Machine.execLoaderFill core rec s
  | .planeFlip core => Sys2Proof.Machine.execPlaneFlip core s
  | .preemption rec => Sys2Proof.Machine.execPreemption rec s
  | .checkpointStop core => Sys2Proof.Machine.execCheckpointStop core s
  | .kill core => Sys2Proof.Machine.execKill core s
  | .iterationRestore ctx slot => Sys2Proof.Machine.execIterationRestore ctx slot s
  | .ladleWake ctx q => Sys2Proof.Machine.execLadleWake ctx q s
  | .ladleSlotTake ladle => Sys2Proof.Machine.execLadleSlotTake ladle s
  | .nopk ladle => Sys2Proof.Machine.execNopk ladle s
  | .copy ladle => Sys2Proof.Machine.execCopy ladle s
  | .fill ladle => Sys2Proof.Machine.execFill ladle s
  | .qmx ladle => Sys2Proof.Machine.execQmx ladle s
  | .qcb4 ladle => Sys2Proof.Machine.execQcb4 ladle s
  | .ingot ladle => Sys2Proof.Machine.execIngot ladle s
  | .hist ladle => Sys2Proof.Machine.execHist ladle s
  | .ctxCreate => Sys2Proof.Machine.execCtxCreate s
  | .ctxEnd => Sys2Proof.Machine.execCtxEnd s
  | .tlbHold => Sys2Proof.Machine.execTlbHold s
  | .tlbRelease => Sys2Proof.Machine.execTlbRelease s
  | .twinSet => Sys2Proof.Machine.execTwinSet s
  | .escAnswer => Sys2Proof.Machine.execEscAnswer s
  | .lqBind => Sys2Proof.Machine.execLqBind s
  | .cpStart => Sys2Proof.Machine.execCpStart s
  | .opSet => Sys2Proof.Machine.execOpSet s
  | .opGet => Sys2Proof.Machine.execOpGet s
  | .limitGet => Sys2Proof.Machine.execLimitGet s
  | .translationWalk ctx va wr => Sys2Proof.Machine.execTranslationWalk ctx va wr s
  | .hostBar2Access off acc => Sys2Proof.Machine.execHostBar2Access off acc s
  | .hostAtomicop off op d value cmp => Sys2Proof.Machine.execHostAtomicop off op d value cmp s
  | .registerWrite off value => Sys2Proof.Machine.execRegisterWrite off value s
  | .gcfgEnable value => Sys2Proof.Machine.execGcfgEnable value s
  | .rebuildStart pos value => Sys2Proof.Machine.execRebuildStart pos value s
  | .rebuildComplete => Sys2Proof.Machine.execRebuildComplete s
  | .sweepComplete => Sys2Proof.Machine.execSweepComplete s
  | .close src q => Sys2Proof.Machine.execClose src q s
  | .delta src q t j data => Sys2Proof.Machine.execDelta src q t j data s
  | .ack src q t j => Sys2Proof.Machine.execAck src q t j s
  | .prepared src q => Sys2Proof.Machine.execPrepared src q s
  | .refuse src q => Sys2Proof.Machine.execRefuse src q s
  | .commit src q => Sys2Proof.Machine.execCommit src q s
  | .abort src q => Sys2Proof.Machine.execAbort src q s
  | .dead src pos => Sys2Proof.Machine.execDead src pos s
  | .query src q => Sys2Proof.Machine.execQuery src q s
  | .answer src q yes => Sys2Proof.Machine.execAnswer src q yes s
  | .memberUnreachableTimeout pos => Sys2Proof.Machine.execMemberUnreachableTimeout pos s
  | .errorDetected e => Sys2Proof.Machine.execErrorDetected e s
  | .patrolScrub addr found => Sys2Proof.Machine.execPatrolScrub addr found s
  | .chillScrub core slotB granule found => Sys2Proof.Machine.execChillScrub core slotB granule found s
  | .laneEvent core lane => Sys2Proof.Machine.execLaneEvent core lane s
  | .flitCheckFailure link => Sys2Proof.Machine.execFlitCheckFailure link s
  | .linkTrainingStep link ok partner => Sys2Proof.Machine.execLinkTrainingStep link ok partner s
  | .linkStateTimeout link => Sys2Proof.Machine.execLinkStateTimeout link s
  | .keyxRekey port ok => Sys2Proof.Machine.execKeyxRekey port ok s
  | .rampComplete cluster => Sys2Proof.Machine.execRampComplete cluster s
  | .thermalThrottleTick cluster => Sys2Proof.Machine.execThermalThrottleTick cluster s
  | .thermalReleaseTick cluster => Sys2Proof.Machine.execThermalReleaseTick cluster s
  | .thermalTrip cluster => Sys2Proof.Machine.execThermalTrip cluster s
  | .tripRecovery cluster => Sys2Proof.Machine.execTripRecovery cluster s
  | .powerLimitTick => Sys2Proof.Machine.execPowerLimitTick s
  | .powerLimitReleaseTick => Sys2Proof.Machine.execPowerLimitReleaseTick s
  | .droopFire cluster stretch => Sys2Proof.Machine.execDroopFire cluster stretch s
  | .droopClear cluster => Sys2Proof.Machine.execDroopClear cluster s
  | .snapshotFire => Sys2Proof.Machine.execSnapshotFire s
  | .moduleReset b => Sys2Proof.Machine.execModuleReset b s
  | .firmwareImage f => Sys2Proof.Machine.execFirmwareImage f s
  | .getVersion r => Sys2Proof.Machine.execGetVersion r s
  | .getCapabilities r => Sys2Proof.Machine.execGetCapabilities r s
  | .negotiateAlgorithms r => Sys2Proof.Machine.execNegotiateAlgorithms r s
  | .getDigests r => Sys2Proof.Machine.execGetDigests r s
  | .getCertificate r => Sys2Proof.Machine.execGetCertificate r s
  | .challenge r => Sys2Proof.Machine.execChallenge r s
  | .getMeasurements r => Sys2Proof.Machine.execGetMeasurements r s
  | .spdmUnsupportedRequest r => Sys2Proof.Machine.execSpdmUnsupportedRequest r s
  | .illegalInstruction e w => Sys2Proof.Machine.execIllegalInstruction e w s
  | .reservedStep core w => Sys2Proof.Machine.execReservedStep core w s
  | .unknownOpcode => Sys2Proof.Machine.execUnknownOpcode s
  | .doorbellWhileBusy => Sys2Proof.Machine.execDoorbellWhileBusy s
  | .msixVectorUnmask v => Sys2Proof.Machine.execMsixVectorUnmask v s
  | .storeVisible core idx => Sys2Proof.Machine.execStoreVisible core idx s
  | .contextSwitch ctx off => Sys2Proof.Machine.execContextSwitch ctx off s
  | .baseTierLoss stack => Sys2Proof.Machine.execBaseTierLoss stack s
  | .enableCheckCrc src crc => Sys2Proof.Machine.execEnableCheckCrc src crc s
  | .memberDeclaredDead pos => Sys2Proof.Machine.execMemberDeclaredDead pos s

end Sys2Proof.Machine
end

