-- ==== Sys2Proof/Machine/Pick.lean ====
section
/-! DEFINITION. What an agent does next: the stages of one engine cycle (R40, R47, R84, R206, R215, R217), and the instruction or internal event that is due. -/

namespace Sys2Proof.Machine

/-- What comes next: an instruction to execute in a prepared state, or a change of state alone. -/
inductive Pick where
  | run (s : State) (i : Instr)
  | rest (s : State)

/-- The instruction of a due group, or the illegal instruction (R73). -/
def Due.instr (d : Due) (e : Engine) : Instr :=
  match d with
  | .run i => i
  | .illegal w => .illegalInstruction e w

/-- Fetch for every sequencer at the start of a cycle (R57). -/
def Core.fetchAll (c : Core) (cp : Bool) (words : Nat → List W32) : Core :=
  [Engine.s, .l, .x, .w].foldl (fun c e => c.fetchFor cp words e 2049) c

/-- The sequencer that blocks a line (R210, R287): the first whose queue is too full, or S when a transfer is unresolved. -/
def Core.blocker (c : Core) (cp : Bool) (words : Nat → List W32) : Nat :=
  if c.fetchBlocked then 0
  else
    match readLine cp (words c.fetch.next) c.fetch.next with
    | .illegal _ => 0
    | .groups gs =>
      if !readableFor cp words c.es .s gs then 0
      else if !readableFor cp words c.el .l gs then 1
      else if !readableFor cp words c.ex .x gs then 2
      else 3

/-- The deferral of WAIT to the end of the cycle (R47): a WAIT whose count does not exceed the ceiling. -/
def deferred (c : Core) (d : Due) : Bool :=
  match d with
  | .run (.wait _ f) => decide (f.n.toNat ≤ (c.tok f.tok.toNat).ceiling.toNat)
  | _ => false

/-- What an engine does in a turn. -/
inductive Turn where
  | pass
  | go (i : Instr)
  | deadlock (line lane : Nat)
  | illegalLine (line pos : Nat)
  | fetchRange
  | finish

/-- The engine of a turn. -/
def turnEngine (t : Nat) : Engine :=
  match (t - 1) % 4 with
  | 0 => .s
  | 1 => .l
  | 2 => .x
  | _ => .w

/-- An engine's turn: turns 1 to 4 are the sequencers S, L, X, W, turns 5 to 8 their WAITs (R40, R47). -/
def Core.turnOf (c : Core) (cp : Bool) (words : Nat → List W32) (t : Nat) : Turn :=
  let e := turnEngine t
  if t ≤ 4 ∧ c.fetch.stopped ∧ c.mode = .user ∧ !(c.seqOf e).ended ∧ !(c.seqOf e).parked ∧ (c.seqOf e).nextGroup.isNone then .finish
  else if !c.free e then .pass
  else
    match (c.seqOf e).nextGroup with
    | some g =>
      let d := decodeGroup cp e (c.seqOf e) g
      if t ≤ 4 then (if deferred c d then .pass else .go (d.instr e))
      else (if deferred c d then .go (d.instr e) else .pass)
    | none =>
      if 4 < t then .pass
      else
        match c.aheadOf cp words e with
        | .nothing => if c.fetch.pastEnd ∧ e = .s then .fetchRange else .pass
        | .illegal _ =>
          match c.fetch.illegal with
          | some (l, p) => if e = .s then .illegalLine l p else .pass
          | none => .pass
        | .group l p => if c.now < c.fetch.ready then .pass else .deadlock l p

/-- Whether a sequencer is ended, idle, or blocked in WAIT or PFEN (R215); the second component says that it is blocked in WAIT. -/
def Core.stuckAt (c : Core) (cp : Bool) (words : Nat → List W32) (e : Engine) : Bool × Bool :=
  let q := c.seqOf e
  if q.ended ∨ q.parked then (true, false)
  else
    match q.nextGroup with
    | some g => let w := decide ((fld g.code.word 26 6).toNat = 0x3E) && decide (q.free ≤ c.now); (w, w)
    | none =>
      match c.aheadOf cp words e with
      | .nothing => (true, false)
      | _ => (false, false)

/-- The sequencers of an agent (R319). -/
def seqsOf (cp : Bool) : List Engine := if cp then [.s] else [.s, .l, .x, .w]

/-- Whether every sequencer has ended, is idle or is blocked (R215). -/
def Core.allStuck (c : Core) (cp : Bool) (words : Nat → List W32) : Bool := (seqsOf cp).all (fun e => (c.stuckAt cp words e).1)

/-- The WAIT to which a token deadlock is charged (R215): every sequencer is blocked so throughout the cycle. -/
def Core.tokenDeadlock (c : Core) (cp : Bool) (words : Nat → List W32) : Option Engine :=
  if c.mode = .user ∧ c.stuck ∧ c.allStuck cp words ∧ (c.arms ++ c.dueArms).all (fun a => a.tok.isNone)
      ∧ c.ncmds.isEmpty ∧ c.nrun.isNone
  then (seqsOf cp).find? (fun e => (c.stuckAt cp words e).2)
  else none

/-- The start of a cycle: results become visible and fetch runs. A line that a due sequencer needs may have come late: then the core has been frozen for a free number of reference cycles (R57). -/
def State.openCycle (s : State) (m : Mover) : State :=
  let s1 := s.landDue m
  let c := s1.agent m
  let cp := (match m with | .cp _ => true | .core _ => false)
  let ws := s1.wordsOf m
  let c1 := Core.fetchAll { c with turn := 1 } cp ws
  let s2 := s1.setAgent m { c1 with blockedBy := c1.blocker cp ws, stuck := c1.allStuck cp ws }
  if (seqsOf cp).any (fun e => c1.mayLate e) then
    ((s2.setAgent m { s2.agent m with fetch := { c1.fetch with seen := c1.fetch.next } }).pass m (Config.freeDelay s2.fresh)).bump
  else s2

/-- The detail word of a token deadlock (R287). -/
def Core.deadlockDetail (c : Core) (e : Engine) : W64 :=
  match (c.seqOf e).nextGroup with
  | none => 0
  | some g =>
    let k := (fld g.code.word 21 5).toNat
    let t := c.tok k
    BitVec.ofNat 64 (k * 2 ^ 32 + t.ceiling.toNat * 65536 + t.count.toNat)

end Sys2Proof.Machine
end

