-- ==== Sys2Proof/Machine/Next.lean ====
section
/-! DEFINITION. Which agent moves, what it does next, and how an instruction is placed for the next step to fetch it. -/

namespace Sys2Proof.Machine

/-- The tiles of a complete arming are armed no longer from the next cycle on (R162); it stays while its token has no room. -/
def Core.dropArms (c : Core) : Core :=
  { c with arms := (c.arms.filter (fun a => !(a.closed && a.tok.isNone))).map (fun a => if a.closed then { a with nt := 0 } else a) }

/-- The end of a cycle (R86): what has reached the core in it is seen from here on, the copies that it has issued begin, and the next engine cycle begins after the cycle's reference cycles. -/
def State.tick (s : State) : State :=
  let s0 := (match s.here with | .core n => (s.landInbox n).reportFree n | .cp _ => s)
  let c := s0.begun s.here
  let s1 := s0.setCur { c.dropArms with now := c.now + 1, turn := 0, banks := c.banks.filter (fun b => decide (c.now < b.1)) }
  s1.pass s1.here (s.cycleLen s.here)

/-- The end of a cycle in which no engine has issued anything more: a token deadlock, if every sequencer waits for what cannot come (R215). -/
def State.endCycle (s : State) : Pick :=
  match s.cur.tokenDeadlock s.isCp (s.wordsOf s.here) with
  | some e => .rest (s.syncTrap e { TrapInfo.of 0x0E e with detail := s.cur.deadlockDetail e })
  | none => .rest s.tick

/-- The token step of N that has its place before the present turn (R47): after W's SIG, or after W's WAIT. -/
def State.nTurn (s : State) : Option Instr :=
  match s.here with
  | .core n => if s.cur.turn = 5 then s.cur.nToken n false else if 8 < s.cur.turn then s.cur.nToken n true else none
  | .cp _ => none

/-- Go through the turns of a cycle until an engine has something to do. -/
def scanTurns (s : State) : Nat → Pick
  | 0 => s.endCycle
  | n + 1 =>
    let c := s.cur
    match s.nTurn with
    | some i => .run s i
    | none =>
    if 8 < c.turn then s.endCycle
    else
      match c.turnOf s.isCp (s.wordsOf s.here) c.turn with
      | .go i => .run s i
      | .deadlock l p =>
        .rest (s.syncTrap (turnEngine c.turn)
          { TrapInfo.of 0x05 (turnEngine c.turn) with
            detail := BitVec.ofNat 64 (c.blockedBy * 2 ^ 14 + 8 * (l % 2048) + p) })
      | .illegalLine l p =>
        .rest (s.syncTrap .s { TrapInfo.of 0x03 .s with detail := BitVec.ofNat 64 (8 * (l % 2048) + p) })
      | .fetchRange => .rest (s.syncTrap .s (TrapInfo.of 0x04 .s))
      | .finish =>
        scanTurns (s.modCur (fun c =>
          { c.setSeq (turnEngine c.turn) { c.seqOf (turnEngine c.turn) with ended := true } with turn := c.turn + 1 })) n
      | .pass => scanTurns (s.modCur (fun c => { c with turn := c.turn + 1 })) n

/-! The boundary before a cycle. -/

/-- The stages of a core's cycle before its engines issue, once nothing holds it: results, late faults, tiles, operand groups, addends (R10, R154, R162), then fetch. -/
def State.startCycle (n : Nat) (s0 : State) : Pick :=
  let s := s0.modCore n (fun c => { c with frozen := false })
  let s1 := s.landDue (.core n)
  let c := s1.core n
  if c.mats.any (fun o => decide (o.start + o.groups + 6 ≤ c.now) && decide (o.groups ≤ o.g)) then .run s1 (.matrixTileWrite n)
  else
    match s1.growAll n (64 * (c.mats.length + 1)) with
    | .fault => .run s (.remoteOperandFault n)
    | .wait => .rest s.frozen
    | .ok s2 =>
      let s3 := if c.mats.any (fun o => o.undo.isSome && decide (o.g < o.groups)) then (s2.pass s.here (Config.freeDelay s2.fresh)).bump else s2
      let s4 := (s3.modCore n (fun c => { c with k0 := c.k })).settleArms n
      scanTurns ((s4.modCore n Core.signalArms).openCycle s.here) 9

/-- Whether an agent would freeze in the cycle that it stands before or in: what it does in that cycle, which `open_` begins, is gone through. -/
def freezes (open_ : State → Pick) (m : Mover) (s : State) : Nat → Bool
  | 0 => false
  | k + 1 =>
    let c := s.agent m
    match (if c.turn = 0 then open_ s else scanTurns s 9) with
    | .rest s1 => (s1.agent m).frozen
    | .run s1 i =>
      match exec i s1 with
      | .next s2 =>
        let d := s2.agent m
        if d.frozen then true
        else if d.mode = c.mode ∧ d.now = c.now ∧ s2.here = m then freezes open_ m s2 k
        else false
      | _ => false

/-- A core's cycle: where something in it would freeze the core, the core is frozen before it, and nothing of the core changes (R84). -/
def State.enterCycle (s : State) (n : Nat) : Pick :=
  if freezes (State.startCycle n) (.core n) s 64 then .rest s.frozen else s.startCycle n

/-- A fault of an operation in flight that is due in the core's cycle (R156, R202). It comes before the cycle's results, which so go to its snapshot (R217, assumption 21), and it does not wait for the end of a freeze (R283). -/
def State.lateFault (s : State) (n : Nat) : Option Pick :=
  if (s.core n).lateIngot then some (.run s (.ingotFault n))
  else if s.lateOperand n then some (.run s (.remoteOperandFault n))
  else none

/-- The hold of S's completing instruction goes. -/
def Core.dropRetry (c : Core) : Core := { c with holds := c.holds.filter (fun h => !(h.kind = .retry && decide (h.due ≤ c.now))) }

/-- Whether the condition of a completing instruction of the issuing agent holds (R82): a fence's stores are visible (R111), the pages of a PROBE, an ECPROT or an ECSEAL are not held (R364), the queue of N has room (R120). -/
def State.completes (s : State) (i : Instr) : Bool :=
  let x := s.myCtx.getD 64
  match i with
  | .fence _ _ _ => !s.fenceOpen
  | .probe f => !s.heldRange x (s.cur.rs f.sa.toNat).v.toNat (s.cur.rs f.sb.toNat).v.toNat
  | .ecprot f => !s.heldRange x (memAddr (s.cur.rs f.sa.toNat).v) (65536 * (fld (s.cur.rs f.sb.toNat).v 0 32).toNat)
  | .ecseal f => !s.heldRange x (memAddr (s.cur.rs f.sa.toNat).v) (s.cur.rs f.sb.toNat).v.toNat
  | .npost _ => decide (s.cur.ncmds.length < 8)
  | _ => true

/-- What holds an agent at the boundary, if anything (R82, R84, R112). A completing instruction whose condition has come to hold completes as of the cycle in which it issued (R82). -/
def State.held (s : State) : Option Pick :=
  let c := s.cur
  let k := agentNo s.here
  match c.holds.find? (fun h => decide (h.due ≤ c.now)) with
  | none => none
  | some h =>
    match h.kind with
    | .data => some (.run s (.memoryDataArrival k))
    | .persist =>
      if (s.chillOf k).writing.isNone then some (.rest (s.modCur (fun c => { c with holds := c.holds.erase h })))
      else some (.run s (.persistImageSealed k))
    | .retry =>
      match c.es.nextGroup with
      | none => some (.rest (s.modCur Core.dropRetry))
      | some g =>
        let i := (decodeGroup s.isCp .s c.es g).instr .s
        let s1 := s.modCur (fun c => { c.dropRetry with now := c.now - 1, turn := 8 })
        if s1.completes i then some (.run s1 i)
        else
          match c.stores.findIdx? (fun x => !x.done) with
          | some j => some (.run s (.storeVisible k j))
          | none => some (.rest s.frozen)

/-- The position that a handler gave S, once it is to go on from there (R286): it must name a group of S. -/
def State.movedPos (s : State) (n : Nat) : Option Pick :=
  match (s.core n).movedNow with
  | none => none
  | some (l, a) =>
    let s1 := s.modCur (fun c => { c with moved := none })
    if validSpos (s.wordsOf s.here) l a then some (.rest s1)
    else some (.rest (s.syncTrap .s { TrapInfo.of 0x03 .s with detail := BitVec.ofNat 64 (8 * (l % 2048) + a % 8) }))

/-- A core at a cycle boundary: a kill, a synchronous fault that is due (R282), a pending trap, a stop, the end of the iteration, a hold, or the cycle. -/
def State.coreBoundary (s : State) (n : Nat) : Pick :=
  let c := s.core n
  if c.pre = 3 then .run s (.kill n)
  else
    match s.lateFault n with
    | some p => p
    | none =>
      match s.movedPos n with
      | some p => p
      | none =>
        if c.mode = .handler then (match s.held with | some p => p | none => s.enterCycle n)
        else if !c.asyncs.isEmpty && decide (c.back ≤ c.now) then .run s (.trapTaken n)
        else if c.pre = 2 ∨ c.pre = 4 then .run s (.checkpointStop n)
        else if c.retires then .run s (.iterationRetire n)
        else (match s.held with | some p => p | none => s.enterCycle n)

/-- Fetch for a command stream, through its context's translations (R319, R360, R373); `none` while a page that it reads is held (R364). -/
def State.cpFetch (s : State) (x : Nat) : Nat → Option State
  | 0 => some s
  | n + 1 =>
    let c := s.agent (.cp x)
    if !c.free .s || c.hasGroup .s then some s
    else if c.fetch.stopped ∨ c.fetch.illegal.isSome ∨ c.fetch.pastEnd ∨ c.fetchBlocked ∨ c.now < c.fetch.ready then some s
    else
      let go (s : State) : Option State :=
        match c.fetchOne true (s.wordsOf (.cp x)) with
        | some c1 => State.cpFetch (s.setAgent (.cp x) c1) x n
        | none => some s
      if 2048 ≤ c.fetch.next then go s
      else
        let va := tget 0 s.cpBase x + 32 * c.fetch.next
        match (if va < 2 ^ 52 then s.translate x none va 32 false true else .miss) with
        | .ok s1 t => if s1.pzC t.pa 32 then some (s1.raiseFatal (.cp x) fatalCpFetch va) else go s1
        | .held => none
        | _ => some (s.raiseFatal (.cp x) fatalCpFetch va)

/-- Whether a SEMWGE waits for its value (R322). -/
def State.semWaits (s : State) (x : Nat) (f : SemWord) : Bool :=
  let a := (s.agent (.cp x)).rs f.sa.toNat
  let v := s.sem f.sem.toNat
  a.pz.isNone && s.semGranted x f.sem.toNat && !v.2 && decide (v.1 < a.v)

/-- Whether a command stream is ready (R320): a delivered group of it is due, and nothing blocks or holds it. -/
def State.cpReady (s : State) (x : Nat) : Bool :=
  let c := s.agent (.cp x)
  c.powered && c.mode == .user && c.turn == 0 && c.free .s && c.holds.all (fun h => decide (c.now < h.due))
    && (match c.es.nextGroup with
        | none => false
        | some g => (match (decodeGroup true .s c.es g).instr .s with | .semwge f => !s.semWaits x f | _ => true))

/-- The place of a command stream in the round robin by context number, after the stream that issued last (R320). -/
def State.cpTurn (s : State) (x : Nat) : Nat := (x + 63 - s.cpLast) % 64

/-- The ready stream whose place comes before that of `x`, and before that of every other (R320). -/
def State.cpBefore (s : State) (x : Nat) : Option Nat :=
  s.cps.foldl (fun b k =>
    if decide (s.cpTurn k.1 < s.cpTurn (b.getD x)) && s.cpReady k.1 then some k.1 else b) none

/-- A stream issues in a cycle of the command processor, which takes one group of one stream: the stream's own time comes to that cycle (R320). -/
def State.cpSlot (s : State) (x : Nat) : State :=
  let s1 := s.pass (.cp x) ((s.cpFree - (s.agent (.cp x)).tun + 104) / 105)
  { s1 with cpFree := (s1.agent (.cp x)).tun + 105 * s.cycleLen (.cp x) }

/-- A command stream at a cycle boundary; one that has halted goes on until its results have landed (R320, R375). It is frozen while its fetch is late (R57, R84). In each CP cycle one ready stream issues; one that the round robin passes over does not count the cycle (R320). -/
def State.startCpCycle (x : Nat) (s0 : State) : Pick :=
  let s := s0.setAgent (.cp x) { s0.agent (.cp x) with frozen := false }
  match (s.landDue (.cp x)).cpFetch x 2049 with
  | none => .rest s.frozen
  | some s1 =>
    let c := s1.agent (.cp x)
    if c.es.ended ∧ c.pend.isEmpty then .rest (s1.setAgent (.cp x) { c with mode := .idle })
    else if c.mode ≠ .user then .rest s1
    else
      let c1 : Core := { c with k0 := c.k, turn := 1, stuck := c.allStuck true (s1.wordsOf (.cp x)) }
      if !s1.cpReady x then scanTurns (s1.setAgent (.cp x) c1) 9
      else
        match s1.cpBefore x with
        | some y => .rest { s1 with here := .cp y }
        | none => scanTurns { (s1.setAgent (.cp x) c1).cpSlot x with cpLast := x } 9

/-- What a command stream does at a cycle boundary; as a core, it is frozen before a cycle in which something would freeze it (R84). -/
def State.cpBoundary (s : State) (x : Nat) : Pick :=
  match s.held with
  | some p => p
  | none => if freezes (State.startCpCycle x) (.cp x) s 16 then .rest s.frozen else s.startCpCycle x

/-- Whether an agent moves: it runs, and its core has power. -/
def Core.moves (c : Core) : Bool := c.powered && (c.mode == .user || c.mode == .handler)

/-- Go on with the cycle in which the agent `here` stands. A core that an instruction freezes is killed or stopped without waiting for it (R283, R293). -/
def State.restCycle (s : State) : Pick :=
  let c := s.cur
  match s.here with
  | .core n =>
    if c.frozen ∧ c.pre = 3 then .run s (.kill n)
    else if c.frozen ∧ (c.pre = 2 ∨ c.pre = 4) ∧ c.mode = .user then .run s (.checkpointStop n)
    else scanTurns (s.modCur (fun c => { c with frozen := false })) 9
  | .cp _ => scanTurns (s.modCur (fun c => { c with frozen := false })) 9

/-- What the agent `here` does next. A pre-emption reaches a core that has escalated, too (R293). -/
def State.moveHere (s : State) : Pick :=
  let c := s.cur
  if !c.moves then
    match s.here with
    | .core n => if c.mode = .escalated ∧ c.pre = 3 then .run s (.kill n) else if c.mode = .escalated ∧ c.pre = 2 then .run s (.checkpointStop n) else .rest s
    | .cp _ => .rest s
  else if c.turn ≠ 0 then s.restCycle
  else
    match s.here with
    | .core n => s.coreBoundary n
    | .cp x => if s.checked then .rest s else s.cpBoundary x

/-- What comes next in the machine: the rest of a cycle, an error to carry out, the agenda's head (an event, an agent that moves, or a store of the host to its own memory), or the agent `here`. A core that an instruction freezes within its cycle lets the others go on. -/
def State.nextMove (s : State) : Pick :=
  if s.cur.moves ∧ s.cur.turn ≠ 0 ∧ (!s.cur.frozen || (s.agenda.isEmpty && s.fatal.isEmpty)) then s.restCycle
  else if !s.fatal.isEmpty then .rest s.endAll
  else
    match s.agenda with
    | [] => s.moveHere
    | .event i :: rest => .run { s with agenda := rest } i
    | .core n :: rest => State.moveHere { s with agenda := rest, here := .core n }
    | .cp x :: rest => State.moveHere { s with agenda := rest, here := .cp x }
    | .host off d :: rest => .rest (State.hostStore { s with agenda := rest } off d)
    | .n k :: rest =>
      match State.nNext { s with agenda := rest } k with
      | .run s1 i => .run s1 i
      | .rest s1 => .rest s1

/-- The header nibble of a space's engine (R54). -/
def spaceNibble (sp : Space) : Nat :=
  match sp with
  | .s | .cp => 1
  | .l => 2
  | .x => 3
  | .w => 4

/-- The page tables that `placeWord` gives context 0 for its command image: one root entry, one leaf of 64 GiB at its own address, accessed, that may be fetched from. -/
def imageBase : Nat := 0xFE00000000
def imageRoot : Nat := 0xFD00000000
def imageTable : Nat := 0xFD00004000

/-- A context with a root table and nothing else. -/
def bareContext (ptbr : Nat) : Context :=
  { ptbr := ptbr, cores := [], rcount := 1, ranks := [], ownRank := 0, wdt := 2 ^ 28, save := 0, nslot := 0, slots := []
    semFirst := 0, semCount := 0, cqMask := 0, cqLevels := 0, lqTable := 0, lqs := [], escVector := 0, escCount := 0
    usedPour := false, gens := [], onModule := true, dead := false }

/-- Map the command image for context 0. -/
def State.mapImage (s : State) : State :=
  let s1 := s.wrNat imageRoot 8 (imageTable + 1)
  let s2 := s1.wrNat (imageTable + 8 * 15) 8 (0xF000000000 + 2 ^ 58 + 2 ^ 57 + 2 ^ 56 + 2 ^ 55 + 3)
  s2.setContext 0 { (s2.context 0).getD (bareContext imageRoot) with ptbr := imageRoot, dead := false, onModule := true }

/-- A sequencer at the start of the code for the space that is to issue, an ended one otherwise. -/
def placedSeq (now : Nat) (on : Bool) : Seq := { Seq.reset with free := now, ended := !on }

/-- Place a word as the machine's next instruction. -/
def placeWord (s : State) (_nbits w : Nat) : State :=
  let sp := match decodeTableIn tableSpaces w with
    | some (sp, _) => sp
    | none => Space.s
  let header := 0xA + 16 * spaceNibble sp + (if extCount sp (BitVec.ofNat 32 w) = 1 then 256 * 5 else 0)
  let words := [BitVec.ofNat 32 header, BitVec.ofNat 32 w, BitVec.ofNat 32 (w >>> 32)]
  match sp with
  | .cp =>
    let img := s.mapImage.wrB imageBase (natLe 4 header ++ natLe 4 (w % 2 ^ 32) ++ natLe 4 (w >>> 32)) false
    let c := img.agent (.cp 0)
    { img.setAgent (.cp 0) { c with
        mode := .user, turn := 0, pend := [], holds := [], asyncs := [], powered := true
        es := placedSeq c.now true, el := placedSeq c.now false, ex := placedSeq c.now false, ew := placedSeq c.now false
        fetch := { FetchUnit.reset with ready := c.now } }
      with here := .cp 0, agenda := [], fatal := [], checked := false, tlbHolds := [], cpBase := tput img.cpBase 0 imageBase, cpLast := 63, cpFree := c.tun }
  | _ =>
    let c := s.core 0
    let c1 := { c with
      mode := .user, turn := 0, pend := [], holds := [], mats := [], asyncs := [], moved := none, pre := 0, powered := true
      es := placedSeq c.now (sp == .s), el := placedSeq c.now (sp == .l)
      ex := placedSeq c.now (sp == .x), ew := placedSeq c.now (sp == .w)
      fetch := { FetchUnit.reset with ready := c.now }
      plane0 := if c.active then c.plane0 else tsetMany 0 c.plane0 0 words
      plane1 := if c.active then tsetMany 0 c.plane1 0 words else c.plane1 }
    { s.setCore 0 c1 with here := .core 0, agenda := [], fatal := [] }

end Sys2Proof.Machine
end

