-- ==== Sys2Proof/Machine/Step.lean ====
section
/-! DEFINITION. One step of the machine: the agent that the agenda names moves, or the agent `here`. -/

namespace Sys2Proof.Machine

/-- One step: what `next` picks is executed, or the state changes on its own. -/
def step (s : State) : Host.Outcome State Fault Refusal :=
  if s.checked && s.agenda.isEmpty then .fault .machineChecked
  else
    match s.nextMove with
    | .run s' i => exec i s'
    | .rest s' => .next s'

/-- `s` with an instruction placed where the next step fetches it: core 0 runs, at cycle 0 with nothing in flight, and line 0 of its active plane holds the instruction in lane 1 under the engine that `decodeTableWord` reads it for. -/
def State.withFetchWord (s : State) (nbits w : Nat) : State :=
  placeWord s nbits w

end Sys2Proof.Machine
end

