-- ==== Sys2Proof/Safety.lean ====
section
/-! DEFINITION. What counts as a safe run: a step that neither faults nor refuses. -/

namespace Sys2Proof

/-- The next step answers a next state. -/
def Machine.State.moves (s : Machine.State) : Prop := ∃ t, Machine.step s = .next t

/-- `k` steps all answer next states. -/
def Machine.State.safeFor (s : Machine.State) : Nat → Prop
  | 0 => True
  | k + 1 => ∃ t, Machine.step s = .next t ∧ Machine.State.safeFor t k

end Sys2Proof
end

