-- ==== Sys2Proof/Certificates/Slice0/Obligations.lean ====
section
/-! DEFINITION. The statements for the provers: vocabulary first (what stays, what is put in flight, the tables of the rules), then one proposition per obligation. -/

namespace Sys2Proof.Claim

open Sys2Proof.Machine

/-! What an instruction leaves alone. -/

/-- Of the module, only the issuing agent and the counter of the model's free values differ: memory, poison, every other agent and everything else stand. -/
def othersKeep (s t : State) : Prop :=
  t = { s with cores := t.cores, cps := t.cps, fresh := t.fresh } ∧ ∀ m, m ≠ s.here → t.agent m = s.agent m

/-- Of an agent, only its results in flight, its sequencers and its turn differ: every register, queue, token, descriptor, map, control and trap register stands. -/
def coreKeeps (c d : Core) : Prop :=
  d = { c with pend := d.pend, es := d.es, el := d.el, ex := d.ex, ew := d.ew, turn := d.turn }

/-- The sequencer of `e` has issued its group with issue occupancy `occ`, and no other has moved. -/
def seqMoved (c d : Core) (e : Engine) (occ : Nat) : Prop :=
  d.seqOf e = (c.seqOf e).issued c.now occ ∧ (∀ g, g ≠ e → d.seqOf g = c.seqOf g) ∧ d.turn = c.turn + 1

/-- The results `ws`, and no others, have been put in flight: they become visible `lat` cycles on. -/
def puts (c d : Core) (e : Engine) (lat : Nat) (ws : List Write) : Prop := d.pend = (c.emits e lat ws).pend

/-- The whole effect of an instruction that only puts results in flight. -/
def onlyResults (s t : State) (e : Engine) (occ lat : Nat) (ws : List Write) : Prop :=
  othersKeep s t ∧ coreKeeps s.cur t.cur ∧ seqMoved s.cur t.cur e occ ∧ puts s.cur t.cur e lat ws

/-- The value and the poison of a scalar source. -/
def sv (s : State) (n : BitVec 6) : W64 := (s.cur.rs n.toNat).v
def sp (s : State) (n : BitVec 6) : Option PRec := (s.cur.rs n.toNat).pz

/-- The instruction `i` completes: in `s` it answers a next state for which `p` holds. -/
def completes (i : Instr) (s : State) (p : State → Prop) : Prop := ∃ t, exec i s = .next t ∧ p t

/-- The sign-extended immediate of R87. -/
def immv (f : SImm) : W64 := f.imm.signExtend 64

/-! The scalar operations of R88 to R92: destination, latency (R75, R76), sources in order, value. -/

/-- What a scalar instruction computes. -/
structure ScalarOp where
  sd : BitVec 6
  lat : Nat
  srcs : List (BitVec 6)
  v : W64

/-- Shift amounts (R90): the low six bits. -/
def amount (b : W64) : Nat := (b.extractLsb' 0 6).toNat

/-- Position and width of a bit field (R91). -/
def fieldPos (b : W64) : Nat := (b.extractLsb' 0 6).toNat
def fieldWidth (b : W64) : Nat := min (min (b.extractLsb' 8 7).toNat 64) (64 - fieldPos b)

/-- The table of R88 to R92. -/
def scalarOp (s : State) : Instr → Option ScalarOp
  | .add f => some ⟨f.sd, 1, [f.sa, f.sb], sv s f.sa + sv s f.sb⟩
  | .sub f => some ⟨f.sd, 1, [f.sa, f.sb], sv s f.sa - sv s f.sb⟩
  | .mul f => some ⟨f.sd, 3, [f.sa, f.sb], sv s f.sa * sv s f.sb⟩
  | .mulh f => some ⟨f.sd, 3, [f.sa, f.sb], (((sv s f.sa).signExtend 128 * (sv s f.sb).signExtend 128).extractLsb' 64 64)⟩
  | .mulhu f => some ⟨f.sd, 3, [f.sa, f.sb], (((sv s f.sa).zeroExtend 128 * (sv s f.sb).zeroExtend 128).extractLsb' 64 64)⟩
  | .div f => some ⟨f.sd, 18, [f.sa, f.sb],
      if sv s f.sb = 0 then 0xFFFFFFFFFFFFFFFF
      else if sv s f.sa = 0x8000000000000000 ∧ sv s f.sb = 0xFFFFFFFFFFFFFFFF then 0x8000000000000000
      else BitVec.ofInt 64 ((sv s f.sa).toInt.tdiv (sv s f.sb).toInt)⟩
  | .rem f => some ⟨f.sd, 18, [f.sa, f.sb],
      if sv s f.sb = 0 then sv s f.sa
      else if sv s f.sa = 0x8000000000000000 ∧ sv s f.sb = 0xFFFFFFFFFFFFFFFF then 0
      else BitVec.ofInt 64 ((sv s f.sa).toInt - (sv s f.sb).toInt * (sv s f.sa).toInt.tdiv (sv s f.sb).toInt)⟩
  | .divu f => some ⟨f.sd, 18, [f.sa, f.sb], if sv s f.sb = 0 then 0xFFFFFFFFFFFFFFFF else sv s f.sa / sv s f.sb⟩
  | .remu f => some ⟨f.sd, 18, [f.sa, f.sb], if sv s f.sb = 0 then sv s f.sa else sv s f.sa % sv s f.sb⟩
  | .min f => some ⟨f.sd, 1, [f.sa, f.sb], if (sv s f.sa).toInt ≤ (sv s f.sb).toInt then sv s f.sa else sv s f.sb⟩
  | .max f => some ⟨f.sd, 1, [f.sa, f.sb], if (sv s f.sa).toInt ≤ (sv s f.sb).toInt then sv s f.sb else sv s f.sa⟩
  | .minu f => some ⟨f.sd, 1, [f.sa, f.sb], if (sv s f.sa).toNat ≤ (sv s f.sb).toNat then sv s f.sa else sv s f.sb⟩
  | .maxu f => some ⟨f.sd, 1, [f.sa, f.sb], if (sv s f.sa).toNat ≤ (sv s f.sb).toNat then sv s f.sb else sv s f.sa⟩
  | .and f => some ⟨f.sd, 1, [f.sa, f.sb], sv s f.sa &&& sv s f.sb⟩
  | .or f => some ⟨f.sd, 1, [f.sa, f.sb], sv s f.sa ||| sv s f.sb⟩
  | .xor f => some ⟨f.sd, 1, [f.sa, f.sb], sv s f.sa ^^^ sv s f.sb⟩
  | .andn f => some ⟨f.sd, 1, [f.sa, f.sb], sv s f.sa &&& ~~~sv s f.sb⟩
  | .shl f => some ⟨f.sd, 1, [f.sa, f.sb], sv s f.sa <<< amount (sv s f.sb)⟩
  | .shr f => some ⟨f.sd, 1, [f.sa, f.sb], sv s f.sa >>> amount (sv s f.sb)⟩
  | .sra f => some ⟨f.sd, 1, [f.sa, f.sb], (sv s f.sa).sshiftRight (amount (sv s f.sb))⟩
  | .clz f => some ⟨f.sd, 1, [f.sa], BitVec.ofNat 64 ((List.range 64).takeWhile (fun i => !(sv s f.sa).getMsbD i)).length⟩
  | .ctz f => some ⟨f.sd, 1, [f.sa], BitVec.ofNat 64 ((List.range 64).takeWhile (fun i => !(sv s f.sa).getLsbD i)).length⟩
  | .popc f => some ⟨f.sd, 1, [f.sa], BitVec.ofNat 64 ((List.range 64).countP (fun i => (sv s f.sa).getLsbD i))⟩
  | .sext f => some ⟨f.sd, 1, [f.sa], ((sv s f.sa).extractLsb' 0 (f.sb.toNat + 1)).signExtend 64⟩
  | .zext f => some ⟨f.sd, 1, [f.sa], ((sv s f.sa).extractLsb' 0 (f.sb.toNat + 1)).zeroExtend 64⟩
  | .bext f => some ⟨f.sd, 1, [f.sa, f.sb],
      ((sv s f.sa).extractLsb' (fieldPos (sv s f.sb)) (fieldWidth (sv s f.sb))).zeroExtend 64⟩
  | .sel f => some ⟨f.sd, 1, [f.sa, f.sb, f.sd], if sv s f.sd ≠ 0 then sv s f.sa else sv s f.sb⟩
  | .addi f => some ⟨f.sd, 1, [f.sa], sv s f.sa + immv f⟩
  | .andi f => some ⟨f.sd, 1, [f.sa], sv s f.sa &&& immv f⟩
  | .ori f => some ⟨f.sd, 1, [f.sa], sv s f.sa ||| immv f⟩
  | .xori f => some ⟨f.sd, 1, [f.sa], sv s f.sa ^^^ immv f⟩
  | .shli f => some ⟨f.sd, 1, [f.sa], sv s f.sa <<< amount (immv f)⟩
  | .shri f => some ⟨f.sd, 1, [f.sa], sv s f.sa >>> amount (immv f)⟩
  | .srai f => some ⟨f.sd, 1, [f.sa], (sv s f.sa).sshiftRight (amount (immv f))⟩
  | .li f ext => some ⟨f.sd, 1, [], ext.signExtend 64⟩
  | .lih f ext => some ⟨f.sd, 1, [f.sd], ext ++ (sv s f.sd).extractLsb' 0 32⟩
  | _ => none


/-- The condition codes of R76 and R93. -/
def ccHolds (cc : Nat) (a b : W64) : Prop :=
  match cc with
  | 0 => a = b
  | 1 => a ≠ b
  | 2 => a.toInt < b.toInt
  | 3 => b.toInt ≤ a.toInt
  | 4 => a.toNat < b.toNat
  | 5 => b.toNat ≤ a.toNat
  | 6 => b.toInt < a.toInt
  | _ => a.toInt ≤ b.toInt

/-- What a compare compares: predicate, condition code, sources, the two values (R93). -/
structure CompareOp where
  pd : Nat
  cc : Nat
  srcs : List (BitVec 6)
  a : W64
  b : W64

/-- The table of R93: CMP names its condition by its function code, CMPI by its major code and the low bits of its destination field. -/
def compareOp (s : State) : Instr → Option CompareOp
  | .cmp cc f => some ⟨(f.sd.extractLsb' 2 4).toNat, cc.toNat, [f.sa, f.sb], sv s f.sa, sv s f.sb⟩
  | .cmpiLo f => some ⟨(f.sd.extractLsb' 2 4).toNat, (f.sd.extractLsb' 0 2).toNat, [f.sa], sv s f.sa, immv f⟩
  | .cmpiHi f => some ⟨(f.sd.extractLsb' 2 4).toNat, 4 + (f.sd.extractLsb' 0 2).toNat, [f.sa], sv s f.sa, immv f⟩
  | _ => none

/-- A predicate named by the low four bits of a register field (R94). -/
def pv (s : State) (f : BitVec 6) : W32 := (s.cur.rp (f.extractLsb' 0 4).toNat).v
def pp (s : State) (f : BitVec 6) : Option PRec := (s.cur.rp (f.extractLsb' 0 4).toNat).pz

end Sys2Proof.Claim

open Sys2Proof Sys2Proof.Machine Sys2Proof.Claim

/-- Every scalar operation of R88 to R92 whose sources are unpoisoned completes: its value enters flight for s[sd] at the latency of R75 and R76, and nothing else changes but S moving on. -/
def Claim.ScalarOperationResults : Prop :=
  ∀ (i : Instr) (s : State) (o : ScalarOp), scalarOp s i = some o → (∀ r ∈ o.srcs, sp s r = none) →
    completes i s fun t => onlyResults s t .s 1 o.lat [.scalar o.sd.toNat o.v none]

/-- A poisoned source (R52, R87, R277): the operation completes as well, s[sd] receives the record of the first poisoned source, and its value is the model's free value (assumption 2). -/
def Claim.ScalarOperationPoison : Prop :=
  ∀ (i : Instr) (s : State) (o : ScalarOp) (r : PRec), scalarOp s i = some o → (o.srcs.map (sp s)).findSome? id = some r →
    completes i s fun t => onlyResults s t .s 1 o.lat [.scalar o.sd.toNat (Config.freeWord s.fresh) (some r)]

/-- BINS (R91): every bit of the field comes from a, every other bit from the old s[sd]. -/
def Claim.BitInsert : Prop :=
  ∀ (f : SReg) (s : State), sp s f.sa = none → sp s f.sb = none → sp s f.sd = none →
    completes (.bins f) s fun t => ∃ v : W64,
      (∀ i < 64, v.getLsbD i =
        if fieldPos (sv s f.sb) ≤ i ∧ i < fieldPos (sv s f.sb) + fieldWidth (sv s f.sb)
        then (sv s f.sa).getLsbD (i - fieldPos (sv s f.sb)) else (sv s f.sd).getLsbD i)
      ∧ onlyResults s t .s 1 1 [.scalar f.sd.toNat v none]

/-- CMP and CMPI (R76, R93): all 32 bits of the predicate are written, ones if the condition holds and zeros if not. -/
def Claim.CompareResults : Prop :=
  ∀ (i : Instr) (s : State) (o : CompareOp), compareOp s i = some o → (∀ r ∈ o.srcs, sp s r = none) →
    completes i s fun t => ∃ v : W32, (ccHolds o.cc o.a o.b → v = 0xFFFFFFFF) ∧ (¬ccHolds o.cc o.a o.b → v = 0)
      ∧ onlyResults s t .s 1 1 [.predicate o.pd v 0xFFFFFFFF none]

/-- The predicate group (R94): PLOG bit by bit, PSET lane by lane, and both moves of MOVP, which carry the poison of their source with them (R277). -/
def Claim.PredicateGroup : Prop :=
  (∀ (op : BitVec 2) (f : SReg) (s : State), pp s f.sa = none → pp s f.sb = none →
    completes (.plog op f) s fun t => ∃ v : W32,
      (∀ i < 32, v.getLsbD i =
        match op.toNat with
        | 0 => (pv s f.sa).getLsbD i && (pv s f.sb).getLsbD i
        | 1 => (pv s f.sa).getLsbD i || (pv s f.sb).getLsbD i
        | 2 => (pv s f.sa).getLsbD i ^^ (pv s f.sb).getLsbD i
        | _ => (pv s f.sa).getLsbD i && !(pv s f.sb).getLsbD i)
      ∧ onlyResults s t .s 1 1 [.predicate (f.sd.extractLsb' 0 4).toNat v 0xFFFFFFFF none])
  ∧ (∀ (f : SReg) (s : State), sp s f.sa = none → sp s f.sb = none →
    completes (.pset f) s fun t => ∃ v : W32,
      (∀ i < 32, v.getLsbD i = decide ((sv s f.sa).toNat ≤ i ∧ i < (sv s f.sa).toNat + (sv s f.sb).toNat))
      ∧ onlyResults s t .s 1 1 [.predicate (f.sd.extractLsb' 0 4).toNat v 0xFFFFFFFF none])
  ∧ (∀ (f : SReg) (s : State),
    completes (.movpToScalar f) s fun t => onlyResults s t .s 1 1 [.scalar f.sd.toNat ((pv s f.sa).zeroExtend 64) (pp s f.sa)])
  ∧ (∀ (f : SReg) (s : State),
    completes (.movpToPredicate f) s fun t =>
      onlyResults s t .s 1 1 [.predicate (f.sd.extractLsb' 0 4).toNat ((sv s f.sa).extractLsb' 0 32) 0xFFFFFFFF (sp s f.sa)])

/-- MOV (R92, R277): the data and its record move together, poisoned or not; NOP (R122) of any engine puts nothing in flight. -/
def Claim.MoveAndNop : Prop :=
  (∀ (f : SReg) (s : State), completes (.mov f) s fun t => onlyResults s t .s 1 1 [.scalar f.sd.toNat (sv s f.sa) (sp s f.sa)])
  ∧ (∀ (e : Engine) (st : StepWord) (s : State), completes (.nop e st) s fun t => onlyResults s t e 1 1 [])

/-- A result becomes visible (R10, R38): s[n] takes the value and its poison, every other scalar stands, and a result for s0 changes nothing that a read sees. A predicate takes the masked bits only, and p0 keeps reading as all ones. -/
def Obligations.ResultsBecomeVisible : Prop :=
  (∀ (s : State) (m : Mover) (n : Nat) (v : W64) (pz : Option PRec),
    (n ≠ 0 → ((s.land m (.scalar n v pz)).agent m).rs n = ⟨v, pz⟩)
    ∧ (∀ j, j ≠ n ∨ n = 0 → ((s.land m (.scalar n v pz)).agent m).rs j = (s.agent m).rs j)
    ∧ (s.land m (.scalar n v pz)).mem = s.mem ∧ ∀ k, k ≠ m → (s.land m (.scalar n v pz)).agent k = s.agent k)
  ∧ (∀ (s : State) (m : Mover) (n : Nat) (v mask : W32) (pz : Option PRec),
    (n ≠ 0 → ∀ i < 32, (((s.land m (.predicate n v mask pz)).agent m).rp n).v.getLsbD i =
      if mask.getLsbD i then v.getLsbD i else ((s.agent m).rp n).v.getLsbD i)
    ∧ (∀ j, j ≠ n ∨ n = 0 → ((s.land m (.predicate n v mask pz)).agent m).rp j = (s.agent m).rp j)
    ∧ ((s.land m (.predicate n v mask pz)).agent m).rp 0 = ⟨0xFFFFFFFF, none⟩)

/-- The scalar operations (R87, R88, R90 to R93): results, poison, and what stays. -/
def Obligations.ScalarOperations : Prop := Claim.ScalarOperationResults ∧ Claim.ScalarOperationPoison ∧ Claim.BitInsert

/-- Compares, the predicate group, the moves between registers and predicates, and NOP. -/
def Obligations.ComparesPredicatesAndMoves : Prop := Claim.CompareResults ∧ Claim.PredicateGroup ∧ Claim.MoveAndNop

namespace Sys2Proof.Claim

open Sys2Proof.Machine

/-- As `coreKeeps`, where the fetch unit may change as well. -/
def coreKeepsFetch (c d : Core) : Prop :=
  d = { c with pend := d.pend, es := d.es, el := d.el, ex := d.ex, ew := d.ew, turn := d.turn, fetch := d.fetch }

/-- A sequencer's groups: a transfer of S changes none of another sequencer's. -/
def sameGroups (p q : Seq) : Prop := p.queue = q.queue ∧ p.lbuf = q.lbuf ∧ p.levels = q.levels ∧ p.free = q.free ∧ p.ended = q.ended

/-- What the fields of a transfer say: whether it is taken, its target as an integer, and its link (R58, R95, R96). -/
structure TransferOp where
  taken : Bool
  target : Int
  link : Bool
  src : Option PRec
  branchForm : Bool

/-- Whether the branch form is taken: bit 0 of the predicate, inverted under `inv` (R95). -/
def branchTaken (s : State) (f : Br) : Bool := (s.cur.rp f.pred.toNat).v.getLsbD 0 != (f.inv == 1)

/-- The table of R95 and R96. -/
def transferOp (s : State) : Instr → Option TransferOp
  | .br f => some ⟨branchTaken s f, s.ownLine .s + f.off.toInt, false, (s.cur.rp f.pred.toNat).pz, true⟩
  | .call f => some ⟨branchTaken s f, s.ownLine .s + f.off.toInt, true, (s.cur.rp f.pred.toNat).pz, true⟩
  | .jmpi f => some ⟨branchTaken s f, f.off.toNat, false, (s.cur.rp f.pred.toNat).pz, true⟩
  | .jmp f => some ⟨true, (sv s f.sa).toNat, false, sp s f.sa, false⟩
  | .ret f => some ⟨true, (sv s f.sa).toNat, false, sp s f.sa, false⟩
  | _ => none

/-- The instruction's issue takes the trap with this code of R280 and no other effect: the state is that of the one trap operation. -/
def traps (i : Instr) (s : State) (e : Engine) (t : TrapInfo) : Prop := exec i s = .next (s.syncTrap e t)

/-- A completing instruction has issued and its condition does not hold: S keeps the group, the core does not enter its next cycle, and of the agent, which was `c`, nothing else changes (R82). -/
def waitsNext (i : Instr) (s : State) (c : Core) : Prop :=
  completes i s fun t => othersKeep s t ∧ t.cur = { c with turn := c.turn + 1, holds := c.holds ++ [⟨c.now + 1, .retry⟩] }

end Sys2Proof.Claim

/-- A taken transfer (R58, R82, R95, R96, R209): outside a loop body, and within the handler's lines in handler mode, fetch goes on at the target line from the next cycle, S may issue again three cycles on, the S groups after it in its line are discarded, CALL puts its line plus one in flight for s63, and nothing else changes. -/
def Claim.TransferTaken : Prop :=
  ∀ (i : Instr) (s : State) (o : TransferOp), transferOp s i = some o → o.taken = true → o.src = none →
    s.cur.es.levels = [] → 0 ≤ o.target → o.target < 2048 → (s.cur.mode = .handler → s.inHandler o.target = true) →
    completes i s fun t => othersKeep s t ∧ coreKeepsFetch s.cur t.cur
      ∧ t.cur.fetch.next = o.target.toNat ∧ t.cur.fetch.ready = s.cur.now + 1 ∧ t.cur.fetch.stopped = false
      ∧ t.cur.es.free = s.cur.now + 3 ∧ t.cur.es.ended = s.cur.es.ended
      ∧ t.cur.es.queue = (s.cur.es.queue.drop 1).filter (fun g => g.line ≠ s.ownLine .s)
      ∧ (∀ e, e ≠ .s → sameGroups (t.cur.seqOf e) (s.cur.seqOf e))
      ∧ t.cur.pend = (if o.link then s.cur.emit .s 1 (.scalar 63 (BitVec.ofNat 64 (s.ownLine .s + 1)) none) else s.cur).pend

/-- A transfer that is not taken (R95, R209): S goes on in the next cycle, fetch may read from the next cycle, and nothing else changes. -/
def Claim.TransferNotTaken : Prop :=
  ∀ (i : Instr) (s : State) (o : TransferOp), transferOp s i = some o → o.taken = false → o.src = none → s.cur.es.levels = [] →
    completes i s fun t => othersKeep s t ∧ coreKeepsFetch s.cur t.cur ∧ seqMoved s.cur t.cur .s 1
      ∧ t.cur.fetch = { s.cur.fetch with ready := max s.cur.fetch.ready (s.cur.now + 1) } ∧ t.cur.pend = s.cur.pend

/-- Where a transfer traps: a line outside 0 to 2047 is a fetch-range fault (R58), a poisoned source poison-consumed (R278), a transfer of a loop body an illegal instruction (R100), and a taken one in handler mode to a line that is not the handler's an illegal instruction (R289). -/
def Claim.TransferTraps : Prop :=
  ∀ (i : Instr) (s : State) (o : TransferOp), transferOp s i = some o →
    (s.cur.es.levels ≠ [] → traps i s .s (TrapInfo.of 0x01 .s))
    ∧ (s.cur.es.levels = [] → ∀ r, o.src = some r → traps i s .s (TrapInfo.poison .s r))
    ∧ (s.cur.es.levels = [] → o.src = none → o.taken = true →
        (s.cur.mode = .handler → s.inHandler o.target = false → traps i s .s (TrapInfo.of 0x01 .s))
        ∧ ((s.cur.mode = .handler → s.inHandler o.target = true) → o.target < 0 ∨ 2048 ≤ o.target → traps i s .s (TrapInfo.of 0x04 .s)))

/-- HALT (R97): in user mode and outside a loop body the S stream ends and fetch stops; in a loop body (R100) or in handler mode (R289) it is an illegal instruction. -/
def Claim.HaltEndsTheStream : Prop :=
  ∀ (f : SReg) (s : State),
    (s.cur.mode ≠ .handler → s.cur.es.levels = [] →
      completes (.halt f) s fun t => othersKeep s t ∧ coreKeepsFetch s.cur t.cur ∧ t.cur.es.ended = true
        ∧ t.cur.fetch.stopped = true ∧ t.cur.pend = s.cur.pend ∧ ∀ e, e ≠ .s → sameGroups (t.cur.seqOf e) (s.cur.seqOf e))
    ∧ (s.cur.mode = .handler ∨ s.cur.es.levels ≠ [] → traps (.halt f) s .s (TrapInfo.of 0x01 .s))

namespace Sys2Proof.Claim

open Sys2Proof.Machine

/-- A LOOP of either form: engine, number of groups of its body, step word, iteration count with its poison (R99). -/
structure LoopOp where
  e : Engine
  len : Nat
  st : StepWord
  count : Nat
  src : Option PRec

def loopOp (s : State) : Instr → Option LoopOp
  | .loopImm e f => some ⟨e, f.len.toNat + 1, f.st, f.cimm.toNat, none⟩
  | .loopReg e f => some ⟨e, f.len.toNat + 1, f.st, (s.cur.rs f.creg.toNat).v.toNat, (s.cur.rs f.creg.toNat).pz⟩
  | _ => none

/-- A LOOP nests if no level is open, or if one is open and the whole body lies inside its body (R100). -/
def nestsIn (levels : List LoopLevel) (len : Nat) : Prop :=
  levels = [] ∨ ∃ lv, levels = [lv] ∧ lv.idx + 1 + len ≤ lv.len

end Sys2Proof.Claim

/-- LOOP (R99, R100): it takes one cycle and opens a level over the groups that follow it, the outer body counting it as one of its groups. With count 0 the groups of its body that have been delivered are passed over and the level closes. -/
def Claim.LoopOpens : Prop :=
  ∀ (i : Instr) (s : State) (o : LoopOp), loopOp s i = some o → o.src = none → o.st = none → o.count ≤ 2 ^ 32 →
    s.cur.mode ≠ .handler → nestsIn (s.cur.seqOf o.e).levels o.len →
    completes i s fun t => othersKeep s t ∧ coreKeeps s.cur t.cur ∧ t.cur.pend = s.cur.pend
      ∧ (t.cur.seqOf o.e).free = s.cur.now + 1 ∧ (∀ g, g ≠ o.e → t.cur.seqOf g = s.cur.seqOf g)
      ∧ (1 ≤ o.count → (s.cur.seqOf o.e).levels = [] →
          (t.cur.seqOf o.e).levels = [⟨(s.cur.seqOf o.e).lbuf.length, o.len, 0, 0, o.count⟩]
          ∧ (t.cur.seqOf o.e).queue = (s.cur.seqOf o.e).queue.tail)
      ∧ (1 ≤ o.count → ∀ lv, (s.cur.seqOf o.e).levels = [lv] →
          (t.cur.seqOf o.e).levels = [⟨lv.start + lv.idx + 1, o.len, 0, 0, o.count⟩, { lv with idx := lv.idx + 1 }])
      ∧ (o.count = 0 → (s.cur.seqOf o.e).levels = [] → o.len < (s.cur.seqOf o.e).queue.length →
          (t.cur.seqOf o.e).levels = [] ∧ (t.cur.seqOf o.e).queue = (s.cur.seqOf o.e).queue.drop (o.len + 1))

/-- Where a LOOP traps: one with a step word, one that does not nest (R100), and one in handler mode (R289) are illegal instructions; a poisoned count is consumed (R278), and a count above 2^32 is an illegal operand (R99). -/
def Claim.LoopTraps : Prop :=
  ∀ (i : Instr) (s : State) (o : LoopOp), loopOp s i = some o →
    (o.st ≠ none ∨ s.cur.mode = .handler ∨ ¬nestsIn (s.cur.seqOf o.e).levels o.len → traps i s o.e (TrapInfo.of 0x01 o.e))
    ∧ (o.st = none → s.cur.mode ≠ .handler → nestsIn (s.cur.seqOf o.e).levels o.len →
        (∀ r, o.src = some r → traps i s o.e (TrapInfo.poison o.e r))
        ∧ (o.src = none → 2 ^ 32 < o.count → traps i s o.e (TrapInfo.of 0x02 o.e)))

/-- Tokens (R47, R102, R103): SIG adds its amount to the count, or overflows past the ceiling; WAIT subtracts once the count holds the amount, waits until then with no effect but the end of its turn, and an amount past the ceiling is an illegal operand; TKSET sets count and ceiling at once; TKRD reads both as they stood at the start of the cycle. Every other register stands. -/
def Obligations.Tokens : Prop :=
  (∀ (e : Engine) (f : TokWord) (s : State),
    let t := s.cur.tok f.tok.toNat
    (f.n.toNat ≠ 0 → t.count.toNat + f.n.toNat ≤ t.ceiling.toNat →
      completes (.sig e f) s fun u => othersKeep s u ∧ seqMoved s.cur u.cur e 1
        ∧ u.cur.tok f.tok.toNat = { t with count := t.count + f.n } ∧ (∀ k, k ≠ f.tok.toNat → u.cur.tok k = s.cur.tok k)
        ∧ coreKeeps { s.cur with k := u.cur.k } u.cur ∧ u.cur.pend = s.cur.pend)
    ∧ (f.n.toNat = 0 → completes (.sig e f) s fun u => onlyResults s u e 1 1 [])
    ∧ (f.n.toNat ≠ 0 → t.ceiling.toNat < t.count.toNat + f.n.toNat → traps (.sig e f) s e (TrapInfo.of 0x0D e))
    ∧ (t.ceiling.toNat < f.n.toNat → traps (.wait e f) s e (TrapInfo.of 0x02 e))
    ∧ (f.n.toNat ≤ t.ceiling.toNat → f.n.toNat ≤ t.count.toNat →
      completes (.wait e f) s fun u => othersKeep s u ∧ seqMoved s.cur u.cur e 1
        ∧ u.cur.tok f.tok.toNat = { t with count := t.count - f.n } ∧ (∀ k, k ≠ f.tok.toNat → u.cur.tok k = s.cur.tok k)
        ∧ coreKeeps { s.cur with k := u.cur.k } u.cur ∧ u.cur.pend = s.cur.pend)
    ∧ (f.n.toNat ≤ t.ceiling.toNat → t.count.toNat < f.n.toNat →
      completes (.wait e f) s fun u => othersKeep s u ∧ u.cur = { s.cur with turn := s.cur.turn + 1 }))
  ∧ (∀ (f : SReg) (s : State), sp s f.sa = none →
    let v := sv s f.sa
    let k := (f.sd.extractLsb' 0 5).toNat
    (v.extractLsb' 16 16 ≠ 0 → (v.extractLsb' 0 16).toNat ≤ (v.extractLsb' 16 16).toNat →
      completes (.tkset f) s fun u => othersKeep s u ∧ seqMoved s.cur u.cur .s 1
        ∧ u.cur.tok k = ⟨v.extractLsb' 0 16, v.extractLsb' 16 16⟩ ∧ (∀ j, j ≠ k → u.cur.tok j = s.cur.tok j)
        ∧ coreKeeps { s.cur with k := u.cur.k } u.cur ∧ u.cur.pend = s.cur.pend)
    ∧ (v.extractLsb' 16 16 = 0 ∨ (v.extractLsb' 16 16).toNat < (v.extractLsb' 0 16).toNat → traps (.tkset f) s .s (TrapInfo.of 0x02 .s)))
  ∧ (∀ (f : SReg) (s : State),
    let t := s.cur.tok0 (f.sa.extractLsb' 0 5).toNat
    completes (.tkrd f) s fun u => onlyResults s u .s 1 1
      [.scalar f.sd.toNat (BitVec.ofNat 64 (t.ceiling.toNat * 65536 + t.count.toNat)) none])

/-- Control transfers and HALT. -/
def Obligations.ControlTransfers : Prop := Claim.TransferTaken ∧ Claim.TransferNotTaken ∧ Claim.TransferTraps ∧ Claim.HaltEndsTheStream

/-- LOOP opens a body, or traps. -/
def Obligations.Loops : Prop := Claim.LoopOpens ∧ Claim.LoopTraps

namespace Sys2Proof.Claim

open Sys2Proof.Machine

/-- The trap registers of R284 to R287 as a trap `t` writes them: %tr.cause field by field, then %tr.addr, %tr.detail and the four positions as they stood. -/
def trapRegsOf (s : State) (m : Mover) (t : TrapInfo) (r : Tab W64) : Prop :=
  ((fld (tget 0 r 0) 0 8).toNat = t.code % 256 ∧ fld (tget 0 r 0) 8 4 = 0 ∧ fld (tget 0 r 0) 12 1 = BitVec.ofBool t.async
    ∧ (fld (tget 0 r 0) 13 3).toNat = t.eng % 8 ∧ (fld (tget 0 r 0) 16 4).toNat = t.sub % 16
    ∧ (fld (tget 0 r 0) 20 4).toNat = t.pcause % 16 ∧ fld (tget 0 r 0) 24 40 = 0)
  ∧ tget 0 r 1 = BitVec.ofNat 64 (t.addr % 2 ^ 52) ∧ tget 0 r 2 = t.detail
  ∧ tget 0 r 3 = s.posWord m .s ∧ tget 0 r 4 = s.posWord m .l ∧ tget 0 r 5 = s.posWord m .x ∧ tget 0 r 6 = s.posWord m .w

/-- The snapshot of a core at its stop cycle (R217). -/
def snapshotOf (c : Core) (sn : Snapshot) : Prop :=
  sn.stop = c.now ∧ sn.pend = c.pend ∧ sn.seqs = [c.es, c.el, c.ex, c.ew] ∧ sn.holds = c.holds ∧ sn.mats = c.mats ∧ sn.fetch = c.fetch

/-- The state in which a core stops (R82, R85, R216): what has reached its window is in it and its issued copies have begun; every register, sequencer, queue, token and result in flight stands, and so does every other core. -/
def stopKeeps (s d : State) (n : Nat) : Prop :=
  d.core n = { s.core n with cm := (d.core n).cm, tg := (d.core n).tg, post := (d.core n).post, copies := (d.core n).copies, inbox := [] }
  ∧ d = { s with cores := d.cores, mem := d.mem, pz := d.pz, fresh := d.fresh } ∧ (∀ k, k ≠ n → d.core k = s.core k)
  ∧ ((s.core n).inbox = [] → d.mem = s.mem ∧ d.pz = s.pz ∧ d.core n = (s.core n).beginCopies (s.copyStatus n))

/-- The trap enters the record's handler at `line` (R216, R217, R284 to R288), from the state `s` in which the core has stopped. -/
def entersHandler (s u : State) (n line : Nat) (t : TrapInfo) : Prop :=
  let b := s.core n
  (u.core n).mode = .handler ∧ trapRegsOf s (.core n) t (u.core n).tr ∧ (∃ sn, (u.core n).snap = some sn ∧ snapshotOf b sn)
  ∧ (u.core n).fetch = { FetchUnit.reset with next := line, ready := b.now + 1 }
  ∧ (u.core n).es.free = b.now + 3 ∧ (∀ e, ((u.core n).seqOf e).queue = [] ∧ ((u.core n).seqOf e).levels = [])
  ∧ (u.core n).pend = [] ∧ (u.core n).holds = [] ∧ (u.core n).mats = [] ∧ (u.core n).now = b.now + 1
  ∧ u.core n = { b with
      tr := (u.core n).tr, snap := (u.core n).snap, pend := [], holds := [], mats := [], banks := [], lates := [], frozen := false, mode := .handler,
      now := b.now + 1, turn := 0, es := (u.core n).es, el := Seq.reset, ex := Seq.reset, ew := Seq.reset, fetch := (u.core n).fetch,
      tref := (u.core n).tref, tun := (u.core n).tun }
  ∧ u = { s with cores := u.cores, ref := u.ref } ∧ ∀ k, k ≠ n → u.core k = s.core k

/-- A new entry of a context's escalation ring (R354): it takes a place that no unanswered entry has, its 128 bytes are written there, and no other byte of memory changes. -/
def ringEntry (s t : State) (cx : Context) (e : EscEntry) : Prop :=
  e.place < 32 ∧ (∀ d ∈ s.ringOf e.ctx, d.place ≠ e.place)
  ∧ (∀ i < 128, t.mem.rd (cx.save + 0x1000 + 128 * e.place + i) = e.entry.getD i 0)
  ∧ ∀ a, a < cx.save + 0x1000 + 128 * e.place ∨ cx.save + 0x1000 + 128 * e.place + 128 ≤ a → t.mem.rd a = s.mem.rd a

end Sys2Proof.Claim

/-- Taking a trap on a core whose record names a handler (R216, R217, R284 to R288): the seven trap registers and the snapshot are written, every queue is discarded, S begins at the handler's line no earlier than three cycles on, and every architectural register, memory and every other agent stand. -/
def Claim.TrapEntersTheHandler : Prop :=
  ∀ (s : State) (n line last : Nat) (t : TrapInfo), (s.core n).mode ≠ .handler → s.handler (s.core n) = some (line, last) →
    stopKeeps s (s.atStop (.core n)) n ∧ entersHandler (s.atStop (.core n)) (s.takeTrap (.core n) t) n line t

/-- A trap of a core whose record has no handler escalates (R288, R291, R354): the core stops with its trap registers and snapshot, and, when a place is free and no other escalation of the context waits, the next ring entry takes the registers and its number, and the context's escalation vector is raised. -/
def Claim.TrapEscalates : Prop :=
  ∀ (s : State) (n x : Nat) (cx : Context) (t : TrapInfo),
    let d := s.atStop (.core n)
    let u := s.takeTrap (.core n) t
    (s.core n).mode ≠ .handler → s.handler (s.core n) = none → (s.core n).ctx = some x → s.context x = some cx →
    (∀ e ∈ s.escs, e.ctx = x → e.seq ≠ 0) → (s.ringOf x).length < 32 →
      (u.core n).mode = .escalated ∧ trapRegsOf d (.core n) t (u.core n).tr ∧ (∃ sn, (u.core n).snap = some sn ∧ snapshotOf (d.core n) sn)
      ∧ (u.core n).escSeq = some (cx.escCount + 1)
      ∧ (∃ e, u.escs = s.escs ++ [e] ∧ ringEntry d u cx e ∧ e.ctx = x ∧ e.cp = false ∧ e.core = n ∧ e.seq = cx.escCount + 1 ∧ e.hcause = 0 ∧ e.hpos = 0
          ∧ e.regs = (List.range 7).map (tget 0 (u.core n).tr))
      ∧ (if s.msixMask.getLsbD cx.escVector then u.msixPend.getLsbD cx.escVector = decide (cx.escVector < 2048) else Message.msix cx.escVector ∈ u.outbox)

/-- TRAP (R115, R280): the software trap with its twelve-bit code, precise after the TRAP; in user mode on a core whose record has a handler it enters it, and a loop body refuses it (R100). -/
def Claim.TrapInstruction : Prop :=
  (∀ (f : SReg) (s : State) (n line last : Nat), s.here = .core n → s.cur.mode = .user → s.cur.es.levels = [] →
    s.handler s.cur = some (line, last) →
    completes (.trap f) s fun u =>
      entersHandler ((s.modCur (fun c => (c.issued .s 1).passed)).atStop (.core n)) u n line
        { TrapInfo.of 0x1F .s with detail := (f.sd ++ f.sa).zeroExtend 64 })
  ∧ (∀ (f : SReg) (s : State), s.cur.es.levels ≠ [] → traps (.trap f) s .s (TrapInfo.of 0x01 .s))

/-- UHRET (R115, R218, R290): in handler mode the core resumes three cycles on: each sequencer as it stood at the stop with its occupancy shifted, or S at the position that the handler wrote (R286), each result of the snapshot at its own offset beside those in flight, fetch as it stood; every register stands, and N's commands too unless the trap was a step fault (R272). Outside handler mode it is an illegal instruction. -/
def Obligations.UhretResumes : Prop :=
  (∀ (f : SReg) (s : State) (sn : Snapshot), s.cur.mode = .handler → s.cur.snap = some sn →
    completes (.uhret f) s fun t =>
      let c := s.cur
      let d := t.cur
      let u := c.now + 3
      othersKeep s t ∧ d.mode = .user ∧ d.snap = none ∧ d.back = u
      ∧ (c.moved = none → d.fetch = { sn.fetch with ready := u + (sn.fetch.ready - sn.stop) }
          ∧ ∀ e : Engine, d.seqOf e = { sn.seqs.getD e.rank Seq.reset with free := u + ((sn.seqs.getD e.rank Seq.reset).free - sn.stop) })
      ∧ (∀ l a, c.moved = some (l, a) → d.es.levels = [] ∧ d.es.queue = [] ∧ d.es.free = u ∧ d.es.line = l ∧ d.es.lane = a
          ∧ d.fetch.next = min l sn.fetch.next
          ∧ ∀ e : Engine, e ≠ .s → (d.seqOf e).levels = (sn.seqs.getD e.rank Seq.reset).levels ∧ (d.seqOf e).queue = (sn.seqs.getD e.rank Seq.reset).queue)
      ∧ (∀ p, p ∈ d.pend ↔ p ∈ c.pend ∨ ∃ q ∈ sn.pend, p = { q with due := u + (q.due - sn.stop) })
      ∧ (d.ncmds = c.ncmds ∨ (tget 0 c.tr 0).extractLsb' 0 8 = 0x1B ∧ d.ncmds = [] ∧ d.nrun = none)
      ∧ d = { c with
                     ncmds := d.ncmds, mode := .user, es := d.es, el := d.el, ex := d.ex, ew := d.ew, pend := d.pend, holds := d.holds, mats := d.mats,
                     banks := d.banks, q := d.q, fetch := d.fetch, escSeq := none, snap := none, nrun := d.nrun, back := u, turn := c.turn + 1 })
  ∧ (∀ (f : SReg) (s : State), s.cur.mode ≠ .handler → traps (.uhret f) s .s (TrapInfo.of 0x01 .s))

/-- DECLINE (R115, R291): in handler mode the core stays stopped with its snapshot and its trap registers go to the escalation ring; outside handler mode it is an illegal instruction. -/
def Claim.DeclineEscalates : Prop :=
  (∀ (f : SReg) (s : State) (n x : Nat) (cx : Context), s.here = .core n → s.cur.mode = .handler → s.cur.ctx = some x → s.context x = some cx →
    (∀ e ∈ s.escs, e.ctx = x → e.seq ≠ 0) → (s.ringOf x).length < 32 →
    completes (.decline f) s fun t =>
      t.cur = { s.cur with mode := .escalated, escSeq := some (cx.escCount + 1), turn := 0 }
      ∧ (∃ e, t.escs = s.escs ++ [e] ∧ ringEntry s t cx e ∧ e.ctx = x ∧ e.cp = false ∧ e.core = n ∧ e.seq = cx.escCount + 1 ∧ e.hcause = 0 ∧ e.hpos = 0
          ∧ e.regs = (List.range 7).map (tget 0 s.cur.tr))
      ∧ (∀ m, m ≠ s.here → t.agent m = s.agent m))
  ∧ (∀ (f : SReg) (s : State), s.cur.mode ≠ .handler → traps (.decline f) s .s (TrapInfo.of 0x01 .s))

/-- A word that decodes to no instruction (R73) raises the illegal-instruction fault of its engine, and so do LOOP, HALT, PFEN and YIELD in handler mode (R289). -/
def Claim.IllegalInstructions : Prop :=
  (∀ (e : Engine) (w : W32) (s : State), traps (.illegalInstruction e w) s e (TrapInfo.of 0x01 e))
  ∧ (∀ (f : SReg) (s : State), s.cur.mode = .handler →
      traps (.halt f) s .s (TrapInfo.of 0x01 .s) ∧ traps (.pfen f) s .s (TrapInfo.of 0x01 .s) ∧ traps (.yield f) s .s (TrapInfo.of 0x01 .s))
  ∧ (∀ (e : Engine) (f : LoopImm) (s : State), s.cur.mode = .handler → traps (.loopImm e f) s e (TrapInfo.of 0x01 e))
  ∧ (∀ (e : Engine) (f : LoopReg) (s : State), s.cur.mode = .handler → traps (.loopReg e f) s e (TrapInfo.of 0x01 e))

/-- Where an instruction traps, the core does not move past it (R11, R216): of the charged group's destinations nothing is put in flight, and in user mode with a handler the snapshot holds exactly what was in flight before the WAITs that come first in this cycle are settled. -/
def Claim.TrapHasNoOtherEffect : Prop :=
  ∀ (s : State) (e : Engine) (t : TrapInfo) (n line last : Nat), s.here = .core n → s.cur.mode = .user →
    (∀ f : Engine, f.rank < e.rank → s.cur.settleWait f = s.cur) → s.handler s.cur = some (line, last) →
    entersHandler (s.atStop (.core n)) (s.syncTrap e t) n line t

namespace Sys2Proof.Claim

open Sys2Proof.Machine

/-- The special registers as SYSRD reads them (R50, R284), but for %core of a command stream, which the manual leaves open. -/
def sysReg (s : State) (n : Nat) : Option W64 :=
  if n = 0x000 then some (BitVec.ofNat 64 s.cur.tref)
  else if n = 0x001 then some (BitVec.ofNat 64 (s.cur.tun / 336))
  else if n = 0x003 then some s.cur.iter
  else if n = 0x004 then some s.spe.pour
  else if n = 0x008 then some (s.cur.fpflags.zeroExtend 64)
  else if n = 0x009 then some (s.cur.fpctl.zeroExtend 64)
  else if 0x00A ≤ n ∧ n ≤ 0x019 then some (tget 0 s.cur.acclive (n - 0x00A))
  else if 0x020 ≤ n ∧ n ≤ 0x02F then some (s.cur.srseed.getD (2 * (n - 0x020) + 1) 0 ++ s.cur.srseed.getD (2 * (n - 0x020)) 0)
  else if n = 0x030 then some (s.cur.spmap.zeroExtend 64)
  else if 0x040 ≤ n ∧ n ≤ 0x046 ∧ s.cur.mode = .handler then some (tget 0 s.cur.tr (n - 0x040))
  else none

/-- The registers that SYSWR may write, with what the write does when it lands (R50). -/
def sysWritten (n : Nat) (v : W64) (c : Core) : Option Core :=
  if n = 0x008 then some { c with fpflags := (v.extractLsb' 0 32) &&& 0x3F }
  else if n = 0x009 then some { c with fpctl := (v.extractLsb' 0 32) &&& 0x3 }
  else if 0x00A ≤ n ∧ n ≤ 0x019 then some { c with acclive := tset 0 c.acclive (n - 0x00A) v }
  else if 0x020 ≤ n ∧ n ≤ 0x02F then
    some { c with srseed := lset (lset c.srseed (2 * (n - 0x020)) (v.extractLsb' 0 32)) (2 * (n - 0x020) + 1) (v.extractLsb' 32 32) }
  else none

end Sys2Proof.Claim

/-- SYSRD (R50, R116, R284): the register's value enters flight at latency 2; a number outside the table, or a trap register outside handler mode, is an illegal operand. -/
def Claim.SysrdReads : Prop :=
  (∀ (f : SImm) (s : State) (v : W64), sysReg s f.imm.toNat = some v →
    completes (.sysrd f) s fun t => onlyResults s t .s 1 2 [.scalar f.sd.toNat v none])
  ∧ (∀ (f : SImm) (s : State) (n : Nat), s.here = .core n → f.imm = 0x002 →
    completes (.sysrd f) s fun t => onlyResults s t .s 1 2 [.scalar f.sd.toNat (BitVec.ofNat 64 n) none])
  ∧ (∀ (f : SImm) (s : State), sysReg s f.imm.toNat = none → f.imm ≠ 0x002 → traps (.sysrd f) s .s (TrapInfo.of 0x02 .s))

/-- SYSWR and CLKDIV (R50, R116, R117, R286): the write is in flight for two cycles and changes that register alone when it lands; a read-only or unlisted register, and a divisor outside 2 to 16, is an illegal operand; a poisoned source is consumed (R278). -/
def Claim.SyswrAndClkdiv : Prop :=
  (∀ (f : SImm) (s : State), sp s f.sa = none → ¬(f.imm = 0x043 ∧ s.cur.mode = .handler) →
    (∀ c', sysWritten f.imm.toNat (sv s f.sa) s.cur = some c' →
      completes (.syswr f) s fun t => ∃ w, onlyResults s t .s 1 2 [w]
        ∧ ∀ (u : State) (m : Mover) (d : Core), sysWritten f.imm.toNat (sv s f.sa) (u.agent m) = some d → u.land m w = u.setAgent m d)
    ∧ (sysWritten f.imm.toNat (sv s f.sa) s.cur = none → traps (.syswr f) s .s (TrapInfo.of 0x02 .s)))
  ∧ (∀ (f : SImm) (s : State) (v : W64), sp s f.sa = none → sv s f.sa = v → f.imm = 0x043 → s.cur.mode = .handler →
    (v.extractLsb' 14 50 = 0 → v.extractLsb' 0 3 ≠ 0 →
      completes (.syswr f) s fun t => othersKeep s t ∧ t.cur.moved = some ((v.extractLsb' 3 11).toNat, (v.extractLsb' 0 3).toNat)
        ∧ coreKeeps { s.cur with moved := t.cur.moved } t.cur ∧ puts s.cur t.cur .s 2 [.trSpos v])
    ∧ (v.extractLsb' 14 50 ≠ 0 ∨ v.extractLsb' 0 3 = 0 → traps (.syswr f) s .s (TrapInfo.of 0x02 .s)))
  ∧ (∀ (f : SReg) (s : State), sp s f.sa = none →
    (2 ≤ (sv s f.sa).toNat → (sv s f.sa).toNat ≤ 16 →
      completes (.clkdiv f) s fun t => onlyResults s t .s 1 2 [.clkdiv (sv s f.sa).toNat])
    ∧ ((sv s f.sa).toNat < 2 ∨ 16 < (sv s f.sa).toNat → traps (.clkdiv f) s .s (TrapInfo.of 0x02 .s)))
  ∧ (∀ (f : SImm) (g : SReg) (s : State) (r : PRec), (sp s f.sa = some r → traps (.syswr f) s .s (TrapInfo.poison .s r))
    ∧ (sp s g.sa = some r → traps (.clkdiv g) s .s (TrapInfo.poison .s r)))

/-- CHK (R118, R279): it has no effect on an unpoisoned register; a poisoned scalar or predicate raises the deferred fault with its record, a matrix register the one with its lowest poisoned word; a number past the class's limit is an illegal operand. -/
def Obligations.ChkTests : Prop :=
  ∀ (f : SReg) (s : State) (n : Nat), (f.sd.extractLsb' 0 4 ++ f.sa).toNat = n →
    ((f.sd.extractLsb' 4 2).toNat = 0 →
      (n ≤ 63 → (s.cur.rs n).pz = none → completes (.chk f) s fun t => onlyResults s t .s 1 1 [])
      ∧ (n ≤ 63 → ∀ r, (s.cur.rs n).pz = some r → traps (.chk f) s .s { TrapInfo.of 0x1D .s with pcause := r.cause.toNat, addr := r.addr.toNat })
      ∧ (63 < n → traps (.chk f) s .s (TrapInfo.of 0x02 .s)))
    ∧ ((f.sd.extractLsb' 4 2).toNat = 1 →
      (n ≤ 15 → (s.cur.rp n).pz = none → completes (.chk f) s fun t => onlyResults s t .s 1 1 [])
      ∧ (n ≤ 15 → ∀ r, (s.cur.rp n).pz = some r → traps (.chk f) s .s { TrapInfo.of 0x1D .s with pcause := r.cause.toNat, addr := r.addr.toNat })
      ∧ (15 < n → traps (.chk f) s .s (TrapInfo.of 0x02 .s)))
    ∧ ((f.sd.extractLsb' 4 2).toNat = 2 → s.isCp = false →
      (n ≤ 191 → (∀ k < 1024, poisonedAt s.pz (winBase s.me + 0x400000 + 4096 * n + 4 * k) = false) →
        completes (.chk f) s fun t => onlyResults s t .s 1 1 [])
      ∧ (n ≤ 191 → ∀ k < 1024, poisonedAt s.pz (winBase s.me + 0x400000 + 4096 * n + 4 * k) = true →
        (∀ j < k, poisonedAt s.pz (winBase s.me + 0x400000 + 4096 * n + 4 * j) = false) →
        traps (.chk f) s .s { TrapInfo.of 0x1D .s with pcause := 1, detail := BitVec.ofNat 64 k })
      ∧ (191 < n → traps (.chk f) s .s (TrapInfo.of 0x02 .s)))

/-- NPOST (R77, R82, R120, R251): with room in the queue of eight, every earlier store is made visible and the command joins its end, for N to see two cycles on; nothing else changes. A misaligned program is an alignment fault; while the queue is full the core does not enter its next cycle. -/
def Claim.NpostQueues : Prop :=
  ∀ (f : SReg) (s : State), sp s f.sa = none → sp s f.sb = none →
    ((sv s f.sa).toNat % 8 = 0 → s.cur.ncmds.length < 8 →
      completes (.npost f) s fun t => othersKeep s.drainAll t ∧ seqMoved s.drainAll.cur t.cur .s 1
        ∧ t.cur.ncmds = s.drainAll.cur.ncmds ++ [⟨(sv s f.sa).toNat, sv s f.sb, false, s.drainAll.cur.now + 2⟩]
        ∧ coreKeeps { s.drainAll.cur with ncmds := t.cur.ncmds } t.cur ∧ t.cur.pend = s.drainAll.cur.pend)
    ∧ ((sv s f.sa).toNat % 8 ≠ 0 → traps (.npost f) s .s { TrapInfo.of 0x06 .s with addr := (sv s f.sa).toNat })
    ∧ ((sv s f.sa).toNat % 8 = 0 → 8 ≤ s.cur.ncmds.length → waitsNext (.npost f) s s.cur)

/-- Taking a trap: the entry itself, TRAP, and the illegal instruction. -/
def Obligations.TrapEntry : Prop := Claim.TrapEntersTheHandler ∧ Claim.TrapInstruction ∧ Claim.TrapHasNoOtherEffect ∧ Claim.IllegalInstructions

/-- Escalation: a fault in the handler, and DECLINE. -/
def Obligations.Escalation : Prop := Claim.TrapEscalates ∧ Claim.DeclineEscalates

/-- Reads and writes of special registers, and CLKDIV. -/
def Obligations.SpecialRegisters : Prop := Claim.SysrdReads ∧ Claim.SyswrAndClkdiv

namespace Sys2Proof.Claim

open Sys2Proof.Machine

/-- `t` is `u` after the issuing agent has taken `f` and moved past its group; memory, poison and every other agent are those of `u`. -/
def issuedOn (u t : State) (e : Engine) (f : Core → Core) : Prop := othersKeep u t ∧ t.cur = (f u.cur).issued e 1

/-- The address of the immediate form: a + imm modulo 2^52 (R106). -/
def memAddrOf (s : State) (f : SImm) : Nat := (sv s f.sa + immv f).toNat % 2 ^ 52

/-- A condition that late data of a memory-met result puts on the cycle in which it is due (R84). -/
def heldData (c : Core) (lat : Nat) (late : Bool) : Core :=
  if late then { c with holds := c.holds ++ [⟨c.now + lat, .data⟩] } else c

/-- The poison that a load gives its register: the load's own address under cause 0x1 (R106, R276). -/
def dataRecord (poisoned : Bool) (a : Nat) : Option PRec := if poisoned then some ⟨1, BitVec.ofNat 52 a⟩ else none

/-- A store as it enters the store buffer of an agent, under the next order number; `rel` is the scope of an STL (R108). -/
def newStore (c : Core) (e : Engine) (t : Trans) (d : List Byte) (poison : Bool) (rel : Option Nat) : PendStore :=
  ⟨c.nextOrder, false, t.pa, d, poison, t.so, t.uo, rel.any (· ≠ 0), c.now, e.rank, c.fences, false, [], none, rel⟩

/-- What a store does at its issue (R80, R106, R237): it enters the store buffer, and the core sees it `lat` cycles on; an earlier load of its bytes has its value (R246). -/
def storeIssued (c : Core) (e : Engine) (lat : Nat) (t : Trans) (d : List Byte) (poison : Bool) (rel : Option Nat) : Core :=
  Core.emit { c.settleLates t.pa d.length with stores := c.stores ++ [newStore c e t d poison rel] } e lat (.store c.nextOrder)

/-- A store of one unit has issued (R80, R111, R228, R237, R242, R246): one to the core's own window is in flight for it, one to memory is in the store buffer, and one to another core's window, a semaphore or a code table is performed at once, after the stores that a pending fence and the order of its page put before it. -/
def stored (s u : State) (e : Engine) (lat : Nat) (t : Trans) (d : List Byte) (poison : Bool) (rel : Option Nat) : Prop :=
  (s.ownWin t.pa = true → issuedOn (s.soFirst t) u e fun c => (c.settleLates t.pa d.length).emit e lat (.bytes t.pa d poison))
  ∧ (s.ownWin t.pa = false → (isHbm t.pa || isHost t.pa) = true → issuedOn s u e fun c => storeIssued c e lat t d poison rel)
  ∧ (s.ownWin t.pa = false → (isHbm t.pa || isHost t.pa) = false →
      let f := s.fencedFirst.soFirst t
      issuedOn ((f.modCur (fun c => storeIssued c e lat t d poison rel)).perform f.here (newStore f.cur e t d poison rel)) u e id)

/-- A byte as the agent that issues finds it past its L1 (R10, R228, R239): memory's, its own window's as it stands, or another's as that core shows it, under its own stores. -/
def seenByte (s : State) (pa : Nat) : Byte × Bool :=
  ownView s.cur.stores pa
    (if isHbm pa || isHost pa then s.byteC pa else if s.ownWin pa then (s.mem.rd pa, poisonedAt s.pz pa) else s.outByte pa)

end Sys2Proof.Claim

/-- LD and LD.spec (R106, R107): of an aligned address that may be read, the bytes read in the issue cycle, zero-extended, are put in flight at latency 4, poisoned if the data is; where the data may be late, memory may still be read for it until then (R241). -/
def Claim.LoadResults : Prop :=
  ∀ (w : BitVec 2) (f : SImm) (s : State) (g : Got), sp s f.sa = none → memAddrOf s f % 2 ^ w.toNat = 0 →
    s.readUnit .s (memAddrOf s f) (2 ^ w.toNat) 0 = .ok g →
    let r (t : State) : Prop := issuedOn g.s t .s fun c =>
      (heldData (c.emit .s 4 (.scalar f.sd.toNat (BitVec.ofNat 64 (leNat (g.data.map (·.1)))) (dataRecord (g.data.any (·.2)) (memAddrOf s f)))) 4 g.late).addLates
        4 g.units (fun _ => .scalar f.sd.toNat (memAddrOf s f))
    completes (.ld w f) s r ∧ completes (.ldSpec w f) s r

/-- What a read of a unit returns (R10, R106, R166, R227, R231): after translation, bytes of the core's own scratchpad as it holds them now (through a strongly ordered page (R242), as its stores have left them), and other bytes that no line of the L1 serves as the core sees them under its own stores. -/
def Claim.ReadsSeeMemory : Prop :=
  ∀ (s : State) (e : Engine) (va n at_ : Nat) (g : Got), s.readUnit e va n at_ = .ok g →
    ∃ s1 t, s.xlatMine e (va % 2 ^ 52) n false = .ok (s1, t) ∧ g.data.length = n
      ∧ (isWin t.pa = true → s1.ownSpm t.pa = true →
          (t.so = false → g.s.mem = s1.mem ∧ ∀ i < n, g.data[i]? = some (s1.mem.rd (t.pa + i), poisonedAt s1.pz (t.pa + i)))
          ∧ (t.so = true → ∀ i < n, g.data[i]? = some (g.s.outByte (t.pa + i))))
      ∧ ((isWin t.pa && s1.ownSpm t.pa) = false → (isHbm t.pa || isHost t.pa) = false ∨ t.cache = false → t.so = false →
          g.s = s1.modCur (fun c => c.settleLates t.pa n) ∧ ∀ i < n, g.data[i]? = some (seenByte s1 (t.pa + i)))

/-- Where a scalar access traps (R106 to R109, R278): a poisoned address, a misaligned one, a page that does not permit it, and a translation that misses; LD.spec defers the last three to a poisoned register with its cause, free value and no access. -/
def Obligations.ScalarAccessTraps : Prop :=
  (∀ (w : BitVec 2) (f : SImm) (s : State) (r : PRec), sp s f.sa = some r →
    traps (.ld w f) s .s (TrapInfo.poison .s r) ∧ traps (.ldSpec w f) s .s (TrapInfo.poison .s r) ∧ traps (.st w f) s .s (TrapInfo.poison .s r))
  ∧ (∀ (w : BitVec 2) (f : SImm) (s : State), sp s f.sa = none → memAddrOf s f % 2 ^ w.toNat ≠ 0 →
    traps (.ld w f) s .s { TrapInfo.of 0x06 .s with addr := memAddrOf s f } ∧ traps (.st w f) s .s { TrapInfo.of 0x06 .s with addr := memAddrOf s f }
    ∧ completes (.ldSpec w f) s fun t => onlyResults s t .s 1 4 [.scalar f.sd.toNat (Config.freeWord s.fresh) (some ⟨2, BitVec.ofNat 52 (memAddrOf s f)⟩)])
  ∧ (∀ (w : BitVec 2) (f : SImm) (s : State), sp s f.sa = none → memAddrOf s f % 2 ^ w.toNat = 0 →
    (s.translate (s.myCtx.getD 64) s.myTlb (memAddrOf s f) (2 ^ w.toNat) false false = .prot →
      traps (.ld w f) s .s { TrapInfo.of 0x07 .s with addr := memAddrOf s f }
      ∧ completes (.ldSpec w f) s fun t => onlyResults s t .s 1 4 [.scalar f.sd.toNat (Config.freeWord s.fresh) (some ⟨3, BitVec.ofNat 52 (memAddrOf s f)⟩)])
    ∧ (s.translate (s.myCtx.getD 64) s.myTlb (memAddrOf s f) (2 ^ w.toNat) false false = .miss →
      (∃ t, exec (.ld w f) s = .next t ∧ t = s.raiseFatal s.here 1 (memAddrOf s f))
      ∧ completes (.ldSpec w f) s fun t => onlyResults s t .s 1 4 [.scalar f.sd.toNat (Config.freeWord s.fresh) (some ⟨4, BitVec.ofNat 52 (memAddrOf s f)⟩)]))

/-- ST and STL (R106, R108): of an aligned address that may be written, the low bytes of s[sd] with its poison become a store that the core sees one cycle on. Before a release every earlier load outside unordered pages has its value; one that does not wait in the buffer comes after every earlier store outside unordered pages, at scope .core after those to the core's own window alone. -/
def Claim.StoreIssues : Prop :=
  (∀ (w : BitVec 2) (f : SImm) (s s1 s2 : State) (t : Trans), sp s f.sa = none → memAddrOf s f % 2 ^ w.toNat = 0 →
    s.xlatMine .s (memAddrOf s f) (2 ^ w.toNat) true = .ok (s1, t) → s1.writeTests .s (memAddrOf s f) t (2 ^ w.toNat) 0 = .ok s2 →
    s2.mem = s1.mem ∧ s2.pz = s1.pz
    ∧ completes (.st w f) s fun u => stored s2 u .s 1 t (natLe (2 ^ w.toNat) (sv s f.sd).toNat) (sp s f.sd).isSome none)
  ∧ (∀ (d : BitVec 1) (f : SReg) (s s1 s2 : State) (t : Trans), sp s f.sa = none → (sv s f.sa).toNat % 2 ^ 52 % wd d = 0 →
    s.xlatMine .s ((sv s f.sa).toNat % 2 ^ 52) (wd d) true = .ok (s1, t) → t.uo = false →
    s1.writeTests .s ((sv s f.sa).toNat % 2 ^ 52) t (wd d) 0 = .ok s2 →
    let wide : Bool := f.sb.extractLsb' 3 3 ≠ 0
    let s3 := if (isHbm t.pa || isHost t.pa) && !t.so then s2.bindRc else if wide then s2.bindRc.drain else s2.bindRc.show_ s2.here
    completes (.stl d f) s fun u => stored s3 u .s 1 t (natLe (wd d) (sv s f.sd).toNat) (sp s f.sd).isSome (some (f.sb.extractLsb' 3 3).toNat))

/-- LDA (R108): an acquire load of unpoisoned data outside unordered pages; at a scope of .cluster or wider the L1 is invalidated before the read. Poisoned data is consumed. -/
def Claim.AcquireLoads : Prop :=
  ∀ (d : BitVec 1) (f : SReg) (s s1 : State) (t : Trans) (g : Got) (a : Nat), sp s f.sa = none → (sv s f.sa).toNat % 2 ^ 52 = a → a % wd d = 0 →
    s.xlatMine .s a (wd d) false = .ok (s1, t) → t.uo = false →
    (if (f.sb.extractLsb' 3 3).toNat = 0 then s1 else s1.modCur (fun c => { c with l1 := [] })).readUnit .s a (wd d) 0 = .ok g →
      (g.data.any (·.2) = false → completes (.lda d f) s fun u => issuedOn g.s u .s fun c =>
        (heldData (c.emit .s 4 (.scalar f.sd.toNat (BitVec.ofNat 64 (leNat (g.data.map (·.1)))) none)) 4 g.late).addLates 4 g.units (fun _ => .scalar f.sd.toNat a) (some (f.sb.extractLsb' 3 3).toNat))
      ∧ (g.data.any (·.2) = true → traps (.lda d f) s .s (TrapInfo.poison .s ⟨1, BitVec.ofNat 52 a⟩))

/-- A store in the buffer reaches its point of coherence (R52, R85, R231, R237, R239): its bytes, and no others, are written, when no protected unit holds its address; a core that stands inside a cycle has them in its window from its next cycle on. A release that synchronises with an acquire under way changes nothing of it; where the scope of one of them leaves the other core out, the acquire may still take the release's value (R247). One that the core sees leaves the buffer, if no older one to the same bytes is still open; one that it does not see yet is marked as performed. -/
def Claim.StoresReachMemory : Prop :=
  ∀ (s : State) (n : Nat) (st : PendStore), s.unitAt st.addr = none →
    let t := s.perform (.core n) st
    ((∀ k, winCore st.addr = some k → (s.core k).amid = false) → ∀ i < st.data.length, t.mem.rd (st.addr + i) = st.data.getD i 0)
    ∧ (∀ k, winCore st.addr = some k → (s.core k).amid = true →
        t.mem = s.mem ∧ (t.core k).inbox = (s.core k).inbox ++ [.bytes st.addr st.data st.poison])
    ∧ (∀ x, x < st.addr ∨ st.addr + st.data.length ≤ x → t.mem.rd x = s.mem.rd x)
    ∧ (st.seen = true → (∀ x ∈ (s.core n).openStores, x.order < st.order → x.meets st = false) →
        ∀ y ∈ (t.core n).stores, y.order ≠ st.order)
    ∧ (st.seen = false → ∀ y ∈ (t.core n).stores, y.order = st.order → y.done = true)
    ∧ ((isHbm st.addr || isHost st.addr) = true →
        (st.stl = none → ∀ k, k ≠ n → t.core k = { s.core k with stores := (t.core k).stores }
          ∧ ((∀ x ∈ (s.core k).stores, x.done = false ∨ x.seen = false) → t.core k = s.core k))
        ∧ (∀ sc, st.stl = some sc → ∀ k, k ≠ n →
          t.core k = { s.core k with stores := (t.core k).stores, pend := (t.core k).pend, q := (t.core k).q, l1 := (t.core k).l1 }
          ∧ ((∀ u ∈ (s.core k).lates, ∀ own, u.acq = some own → st.touches u.pa u.n = true → inScope sc (.core n) (.core k) = true ∧ inScope own (.core k) (.core n) = true) →
              t.core k = { s.core k with stores := (t.core k).stores }))
        ∧ t.core n = { s.core n with stores := (t.core n).stores, shown := (t.core n).shown, batches := (t.core n).batches }
        ∧ (st.batch = none → (t.core n).batches = (s.core n).batches) ∧ (st.release = false → (t.core n).shown = (s.core n).shown))

namespace Sys2Proof.Claim

open Sys2Proof.Machine

/-- The new value of AMO (R77, R109) on `n`-bit values. -/
def amoValue (op : BitVec 4) (n old b : Nat) : Nat :=
  let x := old % 2 ^ n
  let y := b % 2 ^ n
  let si (v : Nat) : Int := if v < 2 ^ (n - 1) then v else (v : Int) - 2 ^ n
  match op.toNat with
  | 0 => (x + y) % 2 ^ n
  | 1 => x &&& y
  | 2 => x ||| y
  | 3 => x ^^^ y
  | 4 => if si y < si x then y else x
  | 5 => if si x < si y then y else x
  | 6 => min x y
  | 7 => max x y
  | _ => y

/-- The state in which an atomic reads and writes (R109, R246, R387): `s` after its translation, its ordinal, the tag comparison of the core's own scratchpad, the tests of a write, and the core's own earlier stores to the same bytes with what must come before those. -/
def atomicAt (s : State) (va n : Nat) (host : Bool) (t : Trans) (u : State) : Prop :=
  va % n = 0 ∧ ∃ s1 s2 s3 s4, s.xlatMine .s va n true = .ok (s1, t) ∧ t.uo = false
    ∧ (isHost t.pa = true → host = true ∧ Config.rootPortAtomics = true)
    ∧ s1.ordinal 1 va = .perform s2
    ∧ (if s2.ownSpm t.pa then s2.tagCheck .s (t.pa % 0x1000000) n else .ok s2) = .ok s3
    ∧ s3.writeTests .s va t n 0 = .ok s4 ∧ u = (s4.soFirst t).drainAt t.pa n

/-- What an atomic leaves: in the core's own window the new bytes are in flight, elsewhere they are written at once, the line leaves the L1, the old value is in flight at latency 8, and the journal has its entry. -/
def atomicDone (u t : State) (sd : BitVec 6) (va pa n old new : Nat) (poison : Bool) : Prop :=
  if u.ownWin pa then
    issuedOn (((u.trimShown pa n).modCur (fun c => c.emit .s 1 (.bytes pa (natLe n new) poison))).note 1 va (BitVec.ofNat 64 old)) t .s
      fun c => heldData ((c.dropLine pa).emit .s 8 (.scalar sd.toNat (BitVec.ofNat 64 old) none)) 8 (!u.ownSpm pa)
  else
    issuedOn ((u.poke pa (natLe n new) poison).note 1 va (BitVec.ofNat 64 old)) t .s
      fun c => heldData ((c.dropLine pa).emit .s 8 (.scalar sd.toNat (BitVec.ofNat 64 old) none)) 8 (!u.ownSpm pa)

end Sys2Proof.Claim

/-- AMO and CAS (R109, R110, R387): one atomic read-modify-write of unpoisoned data; s[sd] takes the old value, memory the new one. Poisoned data is consumed and nothing is written. -/
def Obligations.Atomics : Prop :=
  (∀ (d : BitVec 1) (op : BitVec 4) (f : SReg) (s u : State) (t : Trans) (va : Nat), sp s f.sa = none → (sv s f.sa).toNat % 2 ^ 52 = va →
    atomicAt s va (wd d) (op.toNat = 0 || 8 ≤ op.toNat) t u →
    let old := leNat ((u.peek t.pa (wd d)).map (·.1))
    ((u.peek t.pa (wd d)).any (·.2) = false →
      completes (.amo d op f) s fun w => atomicDone u w f.sd va t.pa (wd d) old (amoValue op (8 * wd d) old (sv s f.sb).toNat) (sp s f.sb).isSome)
    ∧ ((u.peek t.pa (wd d)).any (·.2) = true → traps (.amo d op f) s .s (TrapInfo.poison .s ⟨1, BitVec.ofNat 52 va⟩)))
  ∧ (∀ (d : BitVec 1) (f : SReg) (s u : State) (t : Trans) (va : Nat), sp s f.sa = none → sp s f.sd = none → (sv s f.sa).toNat % 2 ^ 52 = va →
    atomicAt s va (wd d) true t u →
    let old := leNat ((u.peek t.pa (wd d)).map (·.1))
    (u.peek t.pa (wd d)).any (·.2) = false →
      completes (.cas d f) s fun w =>
        if old = (sv s f.sd).toNat % 2 ^ (8 * wd d)
        then atomicDone u w f.sd va t.pa (wd d) old ((sv s f.sb).toNat % 2 ^ (8 * wd d)) (sp s f.sb).isSome
        else atomicDone u w f.sd va t.pa (wd d) old old false)

/-- FENCE (R82, R111): kinds .acq and .full at scope .cluster or wider empty the L1; kinds .ss, .rel and .full at such a scope keep the core from its next cycle while a store of an earlier cycle is not visible; at any scope they then show what it has stored to its own window, .ss and .full at scope .core putting the stores before them to a byte of an unordered page before those after (R239, R243); every kind but .ss binds the values of the loads before it. Nothing else changes. -/
def Claim.Fences : Prop :=
  ∀ (kind scope : BitVec 3) (f : SReg) (s : State), kind.toNat ≤ 4 →
    let shows : Prop := kind = 1 ∨ kind = 2 ∨ kind = 4
    let stores : Prop := shows ∧ scope ≠ 0
    let l1 : List L1Line := if (kind = 2 ∨ kind = 3) ∧ scope ≠ 0 then [] else s.cur.l1
    (stores → (∃ x ∈ s.cur.stores, x.done = false ∧ x.cyc < s.cur.now) → waitsNext (.fence kind scope f) s { s.cur with l1 := l1 })
    ∧ (¬(stores ∧ ∃ x ∈ s.cur.stores, x.done = false ∧ x.cyc < s.cur.now) →
        completes (.fence kind scope f) s fun t => kind ≠ 2 ∨ (∀ u ∈ s.cur.lates, u.cyc < s.cur.now) →
          othersKeep s t ∧ ∃ sh fe, t.cur = Core.issued { s.cur with l1 := l1, shown := sh, fences := fe, lates := if kind = 1 then s.cur.lates else [] } .s 1
            ∧ (¬shows → sh = s.cur.shown) ∧ (shows → sh = max s.cur.shown (s.cur.now + 1))
            ∧ (scope = 0 ∧ (kind = 1 ∨ kind = 2) → fe = s.cur.fences + 1) ∧ (¬(scope = 0 ∧ (kind = 1 ∨ kind = 2)) → fe = s.cur.fences))

namespace Sys2Proof.Claim

open Sys2Proof.Machine

/-- The engine of a PFEN word of either form (R98, R112). -/
def pfenOf : Instr → Option Engine
  | .pfen _ => some .s
  | .pfenMark e _ => some e
  | _ => none

/-- Whether a page is the one that a key of the page-lock table names. -/
def pinnedAs (x k : Nat) (p : PageAt) : Bool :=
  match p with
  | .leaf v _ _ _ => lockKey x v == k
  | _ => false

/-- The core with `e` parked at its PFEN. -/
def parkedCore (c : Core) (e : Engine) : Core := c.setSeq e { c.seqOf e with parked := true }

end Sys2Proof.Claim

/-- PFEN and the persist marks (R112, R384): a sequencer parks at its word; the last of the four fences the core, once its copies stand at sector boundaries (R346): all four move past their words, the core is held before its next cycle, and the inactive slot holds an unsealed image of the core as it stands, its stores being visible. -/
def Claim.PersistFences : Prop :=
  ∀ (i : Instr) (e : Engine) (s : State) (n : Nat), pfenOf i = some e → s.here = .core n → s.cur.mode ≠ .handler →
    ((∃ g, ((parkedCore s.cur e).seqOf g).parked = false) →
      completes i s fun t => othersKeep s t ∧ t.cur = { parkedCore s.cur e with turn := s.cur.turn + 1 })
    ∧ ((∀ g, ((parkedCore s.cur e).seqOf g).parked = true) → (parkedCore s.cur e).capacity = none → s.cur.stores = [] → s.cur.inbox = [] →
      (∀ k ∈ s.cur.copies, k.begun = true ∧ k.next = k.sectorEnd) →
      completes i s fun t =>
        (∀ g, (t.cur.seqOf g).parked = false) ∧ t.cur.holds = s.cur.holds ++ [⟨s.cur.now + 1, .persist⟩] ∧ t.cur.pend = s.cur.pend
        ∧ t.mem = s.mem ∧ t.pz = s.pz
        ∧ ((t.chillOf n).slot (s.chillOf n).target).sl.valid = false
        ∧ ∃ k, ((t.chillOf n).slot (s.chillOf n).target).core = some k ∧ k.s = s.cur.s ∧ k.p = s.cur.p ∧ k.q = s.cur.q ∧ k.od = s.cur.od ∧ k.cd = s.cur.cd)

/-- The save slots of a context that no stop has been promised (R349). -/
def Claim.slotsLeft (s : State) (x k : Nat) : Prop := ∃ cx, s.context x = some cx ∧ s.promised x + k ≤ cx.freeSlots.length

/-- YIELD (R119, R289, R318, R345, R349): with a drain or a plane swap pending and a save slot free that no other stop will take the core stops after this cycle, a gang's only when there is one for each core that it holds; otherwise it has no effect. -/
def Claim.YieldStops : Prop :=
  ∀ (f : SReg) (s : State), s.cur.mode ≠ .handler →
    let due : Prop := s.cur.pre = 1 ∨ s.swapPending s.me = true
    let stop (c : Core) : Core := { c with pre := 4, goes := if c.pre = 1 then c.goes else c.shadow }
    (∀ n r, s.here = .core n → due → s.recordOf s.cur = some r → r.gang = false → slotsLeft s r.ctx 1 →
      completes (.yield f) s fun t => issuedOn s t .s stop)
    ∧ (∀ n r, s.here = .core n → due → s.recordOf s.cur = some r → r.gang = true → slotsLeft s r.ctx (s.gangNeed r) →
      completes (.yield f) s fun t => issuedOn (s.setRecord { r with saving := true }) t .s stop)
    ∧ (∀ n, s.here = .core n →
      ¬due ∨ (∀ r, s.recordOf s.cur = some r → ¬slotsLeft s r.ctx (if r.gang then s.gangNeed r else 1)) →
      completes (.yield f) s fun t => onlyResults s t .s 1 1 [])

/-- PROBE and UNPIN (R113, R114, R362, R363): a length of 0 has no effect, a range that ends above 2^52 is an illegal operand; a range whose pages all permit the access raises each page's pin count by 1, and UNPIN lowers each by 1; a page that does not is a page fault at its first byte of the range, and a count at its limit a pin-count fault. While a page of the range is held (R364) the core does not enter its next cycle. -/
def Obligations.ProbeAndUnpin : Prop :=
  (∀ (f : SReg) (s : State), sp s f.sa = none → sp s f.sb = none →
    (sv s f.sb = 0 → completes (.probe f) s fun t => onlyResults s t .s 1 1 [])
    ∧ (sv s f.sb ≠ 0 → 2 ^ 52 < (sv s f.sa).toNat + (sv s f.sb).toNat → traps (.probe f) s .s (TrapInfo.of 0x02 .s)))
  ∧ (∀ (f : SReg) (s s1 s2 : State) (x va n : Nat), sp s f.sa = none → sp s f.sb = none → s.myCtx = some x → (sv s f.sa).toNat = va → (sv s f.sb).toNat = n →
    0 < n → va + n ≤ 2 ^ 52 → s.heldRange x va n = false → s.probeFail x va (f.sd.extractLsb' 0 2 ≠ 0) (s.pagesIn x va n) = none →
    (s.pinPages x (f.sd.extractLsb' 0 2 ≠ 0) 786432 (s.pagesIn x va n) = some s1 → s1.ordinal 3 va = .perform s2 →
      completes (.probe f) s fun t => issuedOn (s2.note 3 va 0) t .s id)
    ∧ (s.pinPages x (f.sd.extractLsb' 0 2 ≠ 0) 786432 (s.pagesIn x va n) = none → s.isCp = true ∨ (s.chillOf s.me).replay = none →
      traps (.probe f) s .s { TrapInfo.of 0x09 .s with addr := va }))
  ∧ (∀ (f : SReg) (s s1 s2 : State) (x va : Nat), sp s f.sa = none → sp s f.sb = none → s.myCtx = some x → (sv s f.sa).toNat = va →
    s.unpinPages x (s.pagesIn x va (sv s f.sb).toNat) = some s1 → s1.ordinal 4 va = .perform s2 →
      completes (.unpin f) s fun t => issuedOn (s2.note 4 va 0) t .s id)
  ∧ (∀ (f : SReg) (s : State) (x : Nat), sp s f.sa = none → sp s f.sb = none → s.myCtx = some x →
    let va := (sv s f.sa).toNat
    let n := (sv s f.sb).toNat
    let pages := s.pagesIn x va n
    0 < n → va + n ≤ 2 ^ 52 → (s.isCp = true ∨ s.cur.ordinal < 4096 ∧ (s.chillOf s.me).replay = none) →
    (s.heldRange x va n = true → waitsNext (.probe f) s s.cur)
    ∧ (s.heldRange x va n = false →
      (∀ p ∈ pages, ∃ v a w size, p = .leaf v a w size ∧ tget 0 s.locks (lockKey x v) < 65535
        ∧ s.permits x w size (s.transOf w size (max va v)).pa 1 (f.sd.extractLsb' 0 2 ≠ 0) false = true) →
      s.locks.length + pages.countP (fun p => match p with | .leaf v _ _ _ => tget 0 s.locks (lockKey x v) == 0 | _ => false) ≤ 786432 →
      completes (.probe f) s fun t => ∀ k, tget 0 t.locks k = tget 0 s.locks k + pages.countP (pinnedAs x k))
    ∧ ((∀ p ∈ pages, ∃ v a w size, p = .leaf v a w size) → (∀ k, pages.countP (pinnedAs x k) ≤ tget 0 s.locks k) →
      completes (.unpin f) s fun t => ∀ k, tget 0 s.locks k = tget 0 t.locks k + pages.countP (pinnedAs x k)))
  ∧ (∀ (s t : State) (x limit : Nat) (wr : Bool) (pages : List PageAt), s.pinPages x wr limit pages = some t →
      ∀ k, tget 0 t.locks k = tget 0 s.locks k + pages.countP (fun p => match p with | .leaf v _ _ _ => lockKey x v == k | _ => false))
  ∧ (∀ (s t : State) (x : Nat) (pages : List PageAt), s.unpinPages x pages = some t →
      (∀ k, tget 0 s.locks k = tget 0 t.locks k + pages.countP (fun p => match p with | .leaf v _ _ _ => lockKey x v == k | _ => false))
      ∧ t = { s with locks := t.locks })

/-- LPOST (R121, R330, R331, R387): on a header that has room, the packet with its index in the low half-word goes to slot WIDX, WIDX rises by 1, and s[sd] takes the claimed index at latency 8; a full queue leaves all of it and answers all ones. -/
def Claim.LpostClaims : Prop :=
  ∀ (f : SReg) (s s1 s2 s3 sh : State) (t : Trans) (ha pa : Nat) (h : Header), sp s f.sa = none → sp s f.sb = none →
    (sv s f.sa).toNat % 2 ^ 52 = ha → (sv s f.sb).toNat % 2 ^ 52 = pa → ha % 64 = 0 → pa % 64 = 0 →
    s.xlatMine .s ha 64 true = .ok (s1, t) → t.uo = false → s1.writeTests .s ha t 64 0 = .ok s2 → s2.ordinal 2 ha = .perform s3 →
    (if s3.ownSpm t.pa then s3.tagCheck .s (t.pa % 0x1000000) 32 else .ok s3) = .ok sh →
    ((sh.drainAll.peek t.pa 32).take 16).any (·.2) = false → headerOf ((sh.drainAll.peek t.pa 32).map (·.1)) = h →
    (h.ridx + 2 ^ (h.lsz + 4) ≤ h.widx →
      completes (.lpost f) s fun w => issuedOn (sh.drainAll.note 2 ha 0xFFFFFFFFFFFFFFFF) w .s fun c =>
        heldData ((c.dropLine t.pa).emit .s 8 (.scalar f.sd.toNat 0xFFFFFFFFFFFFFFFF none)) 8 (!s.ownSpm t.pa))
    ∧ (h.widx < h.ridx + 2 ^ (h.lsz + 4) → ∀ (g : Got) (s4 s5 : State) (u : Trans),
      sh.drainAll.readUnits .s 8 ((List.range 8).map (fun k => (pa + 8 * k, 0))) = .ok g →
      g.s.xlatMine .s ((h.base + 64 * (h.widx % 2 ^ (h.lsz + 4))) % 2 ^ 52) 64 true = .ok (s4, u) → u.uo = false →
      s4.writeTests .s ((h.base + 64 * (h.widx % 2 ^ (h.lsz + 4))) % 2 ^ 52) u 64 0 = .ok s5 →
      completes (.lpost f) s fun w => issuedOn ((s5.postPacket t.pa u.pa h.widx g.data).note 2 ha (BitVec.ofNat 64 h.widx)) w .s fun c =>
        heldData ((c.dropLine t.pa).emit .s 8 (.scalar f.sd.toNat (BitVec.ofNat 64 h.widx) none)) 8 (!s.ownSpm t.pa || !s.ownSpm u.pa))

/-- The bytes of a posted packet (R121): in memory outside protected units, the core's own window and windows of cores inside a cycle, the slot holds the packet with its first half-word replaced by the index, and the header's first doubleword is the index plus one. -/
def Claim.PostedPacketBytes : Prop :=
  ∀ (s : State) (hpa spa i : Nat) (pkt : List (Byte × Bool)), pkt.length = 64 → (∀ p ∈ pkt, p.2 = false) →
    (∀ a, s.unitAt a = none) → s.ownWin hpa = false → (∀ k < 8, s.ownWin (spa + 8 * k) = false) →
    (∀ c, winCore hpa = some c ∨ (∃ k < 8, winCore (spa + 8 * k) = some c) → (s.core c).amid = false) → (hpa + 8 ≤ spa ∨ spa + 64 ≤ hpa) →
    let t := s.postPacket hpa spa i pkt
    (∀ k, 2 ≤ k → k < 64 → t.mem.rd (spa + k) = (pkt.getD k (0, false)).1)
    ∧ t.mem.rd spa = BitVec.ofNat 8 i ∧ t.mem.rd (spa + 1) = BitVec.ofNat 8 (i / 256)
    ∧ (∀ k < 8, t.mem.rd (hpa + k) = BitVec.ofNat 8 ((i + 1) / 256 ^ k))
    ∧ (∀ x, (x < spa ∨ spa + 64 ≤ x) → (x < hpa ∨ hpa + 8 ≤ x) → t.mem.rd x = s.mem.rd x)

namespace Sys2Proof.Claim

open Sys2Proof.Machine

/-- The state of the issuing core's group in its record's generation, fresh if nothing has reached it (R222). -/
def groupOf (s : State) (g : BitVec 8) (m : Member) : BarGroup :=
  (s.bar (s.myCtx.getD 64) g m.gen).getD (BarGroup.fresh (s.myCtx.getD 64) g m.gen m.size false)

end Sys2Proof.Claim

/-- BARV and BARRED (R104, R105, R223): a member's arrival for its present phase goes to the group after its earlier loads and stores outside unordered pages, s[sd] takes the phase and ph rises by 1; a core that is no member has an illegal operand; a fifth arrival in a full slot freezes the core. -/
def Claim.BarrierArrivals : Prop :=
  ∀ (i : Instr) (f : SImm) (op : Option (BitVec 3)) (v : W64) (poison : Bool) (s : State),
    (i = .barv f ∧ op = none ∧ v = 0 ∧ poison = false) ∨ (i = .barred f ∧ op = some (f.imm.extractLsb' 11 3) ∧ v = sv s f.sa ∧ poison = (sp s f.sa).isSome) →
    (s.cur.member (f.imm.extractLsb' 0 8) = none → traps i s .s (TrapInfo.of 0x02 .s))
    ∧ (∀ m, s.cur.member (f.imm.extractLsb' 0 8) = some m →
        let z := s.barClose (s.myCtx.getD 64) (f.imm.extractLsb' 0 8)
        let b := groupOf z (f.imm.extractLsb' 0 8) m
        ((((b.held ++ b.early).filter (fun h => h.grank = m.grank)).length < 4 ∨ (m.ph ≤ b.cph + 3 ∧ z.barWaits b = false)) →
          completes i s fun t => ∃ o, issuedOn { (z.bindRc.drain.barTake b ⟨s.myCtx.getD 64, f.imm.extractLsb' 0 8, m.gen, m.grank, m.ph, op, v, poison⟩) with outbox := o } t .s
            fun c => (c.setPh (f.imm.extractLsb' 0 8) (m.ph + 1)).emit .s 1 (.scalar f.sd.toNat m.ph none))
        ∧ (4 ≤ ((b.held ++ b.early).filter (fun h => h.grank = m.grank)).length → b.cph + 3 < m.ph ∨ z.barWaits b = true → exec i s = .next s.frozen))

/-- How a group takes arrivals (R223, R224): of the lowest open phase it records each member once; the arrival that makes it complete moves its value into the history and raises cph by 1, and one for a phase below cph is ignored. -/
def Claim.BarrierPhases : Prop :=
  ∀ (b : BarGroup) (a : Arrival) (p p1 p2 p3 : BarPhase), b.phases = [p, p1, p2, p3] →
    (a.phase < b.cph → b.meet a = b)
    ∧ (a.phase = b.cph → a.grank ∈ p.members → p.members.length ≠ b.expect → b.meet a = b)
    ∧ (a.phase = b.cph → a.grank ∉ p.members → p.members.length + 1 < b.expect →
        (b.meet a).cph = b.cph ∧ ∃ q, (b.meet a).phases = [q, p1, p2, p3] ∧ q.members = p.members ++ [a.grank])
    ∧ (a.phase = b.cph → a.grank ∉ p.members → p.members.length + 1 = b.expect → p1.members.length ≠ b.expect →
        (b.meet a).cph = b.cph + 1 ∧ (b.meet a).phases = [p1, p2, p3, BarPhase.empty]
        ∧ (b.meet a).history.getLast? = some (p.record a))

/-- BARW (R105, R225): of the two phases for which the core arrived last it waits until the phase is complete, then s[sd] takes the phase's value with its poison; any other phase is a barrier-phase fault, a phase of mixed ops a barrier-op fault. That the other devices have completed an older generation may come to light at it (R222): the state `z`. -/
def Claim.BarrierWaits : Prop :=
  ∀ (f : SImm) (s : State) (m : Member) (q : W64), s.cur.member (f.imm.extractLsb' 0 8) = some m → sp s f.sa = none → sv s f.sa = q →
    let z := s.barClose (s.myCtx.getD 64) (f.imm.extractLsb' 0 8)
    (m.ph ≤ q ∨ q.toNat + 2 < m.ph.toNat →
      exec (.barw f) s = .next (z.syncTrap .s { TrapInfo.of 0x10 .s with detail := BitVec.ofNat 64 ((f.imm.extractLsb' 0 8).toNat + 256 * q.toNat) }))
    ∧ (q < m.ph → m.ph.toNat ≤ q.toNat + 2 →
        let b := groupOf z (f.imm.extractLsb' 0 8) m
        (b.cph ≤ q → completes (.barw f) s fun t => othersKeep z t ∧ t.cur = { s.cur with turn := s.cur.turn + 1 })
        ∧ (q < b.cph → (b.cph - q).toNat ≤ b.history.length → ∀ p, b.history[b.history.length - (b.cph - q).toNat]? = some p →
            (p.mixed = false → completes (.barw f) s fun t => ∃ v, (p.poison = false → v = p.value)
              ∧ issuedOn z t .s fun c =>
                  Core.emit { c with l1 := if m.size ≤ 1 then c.l1 else [] } .s 1 (.scalar f.sd.toNat v (dataRecord p.poison 0)))
            ∧ (p.mixed = true → exec (.barw f) s = .next (z.syncTrap .s { TrapInfo.of 0x0F .s with detail := BitVec.ofNat 64 (m.group.toNat + 256 * q.toNat) }))))

/-- Scalar loads: plain, speculative and acquire. -/
def Obligations.ScalarLoads : Prop := Claim.LoadResults ∧ Claim.ReadsSeeMemory ∧ Claim.AcquireLoads

/-- Scalar stores: what the issue leaves, and what reaches memory when the store is performed. -/
def Obligations.ScalarStores : Prop := Claim.StoreIssues ∧ Claim.StoresReachMemory

/-- FENCE and the persist fence. -/
def Obligations.FencesOfBothKinds : Prop := Claim.Fences ∧ Claim.PersistFences

/-- NPOST and YIELD. -/
def Obligations.NpostAndYield : Prop := Claim.NpostQueues ∧ Claim.YieldStops

/-- LPOST and the packet that it posts. -/
def Obligations.LadlePosts : Prop := Claim.LpostClaims ∧ Claim.PostedPacketBytes

namespace Sys2Proof.Claim

open Sys2Proof.Machine

/-- Row and column of lane `i` of slice `k` (R43): horizontal, vertical, diagonal. -/
def laneRow (dir : BitVec 2) (k i : Nat) : Nat := if dir = 0 then k else i
def laneCol (dir : BitVec 2) (k i : Nat) : Nat := if dir = 0 then i else if dir = 1 then k else (i + k) % 32

/-- The address of word (r, c) of matrix register `n` of the issuing core (R227). -/
def wordAddr (s : State) (n r c : Nat) : Nat := winBase s.me + 0x400000 + 4096 * n + 128 * r + 4 * c

/-- The word of a lane of a slice, with its poison. -/
def laneWord (s : State) (reg : Nat) (dir : BitVec 2) (k i : Nat) : W32 × Bool :=
  (BitVec.ofNat 32 (leNat (s.mem.rdN (wordAddr s reg (laneRow dir k i) (laneCol dir k i)) 4)),
    poisonedAt s.pz (wordAddr s reg (laneRow dir k i) (laneCol dir k i)))

/-- The queue entry of 32 words, issued in cycle `now` and visible `lat` cycles on. -/
def entryOf (ws : Nat → W32 × Bool) (now lat : Nat) : QEntry :=
  ⟨(List.range 32).map (fun i => (ws i).1), (List.range 32).map (fun i => (ws i).2), now + lat, now⟩

/-- The `n` bytes of element `k` of data that was read. -/
def elem (g : Got) (n k : Nat) : List (Byte × Bool) := (g.data.drop (n * k)).take n

/-- Four or fewer bytes as a word, poisoned if a byte is. -/
def elemWord (b : List (Byte × Bool)) : W32 × Bool := (BitVec.ofNat 32 (leNat (b.map (·.1))), b.any (·.2))

/-- The lane addresses of GATH and SCAT (R172): the base plus each index word, signed or not, shifted. -/
def gatherAddr (base : Nat) (sel : Selector) (w : W32) : Nat :=
  (((base : Int) + (if sel.sgn then w.toInt else (w.toNat : Int)) * 2 ^ sel.shift) % 2 ^ 52).toNat

end Sys2Proof.Claim

/-- VRD and SPRD (R42, R43, R170): the words of the slice, or of the horizontal pair, with their poison join the operand queue and are visible six cycles on; a full queue overflows with nothing pushed, and a register above 191 is an illegal operand. -/
def Claim.RegisterToQueue : Prop :=
  (∀ (f : SliceQ) (s : State), f.reg.toNat ≤ 191 →
    ((s.cur.queue f.q.toNat).length < 8 →
      completes (.vrd f) s fun t => issuedOn s t .l fun c =>
        c.setQueue f.q.toNat (c.queue f.q.toNat ++ [entryOf (laneWord s f.reg.toNat f.dir f.slice.toNat) c.now 6]))
    ∧ (8 ≤ (s.cur.queue f.q.toNat).length → traps (.vrd f) s .l (TrapInfo.of 0x0C .l)))
  ∧ (∀ (f : SliceQ) (s : State), f.reg.toNat ≤ 191 → f.dir = 0 → f.slice.toNat % 2 = 0 →
    ((s.cur.queue f.q.toNat).length < 7 →
      completes (.sprd f) s fun t => issuedOn s t .l fun c =>
        c.setQueue f.q.toNat (c.queue f.q.toNat ++ [entryOf (laneWord s f.reg.toNat 0 f.slice.toNat) c.now 6,
          entryOf (laneWord s f.reg.toNat 0 (f.slice.toNat + 1)) c.now 6]))
    ∧ (7 ≤ (s.cur.queue f.q.toNat).length → traps (.sprd f) s .l (TrapInfo.of 0x0C .l)))
  ∧ (∀ (f : SliceQ) (s : State), 191 < f.reg.toNat → traps (.vrd f) s .l (TrapInfo.of 0x02 .l) ∧ traps (.sprd f) s .l (TrapInfo.of 0x02 .l))

/-- VLD and GATH (R166, R171, R172): 32 words from consecutive or indexed addresses join the queue and are visible 8 or 12 cycles on; where the data may be late, memory may still be read for a word until then (R241). -/
def Claim.MemoryToQueue : Prop :=
  (∀ (f : LWord) (s : State) (a : Nat) (g : Got), sp s f.base = none → sp s f.idx = none →
    s.lwAddr .l f.st (sv s f.base) ((sv s f.idx).toNat + 4 * (f.off.extractLsb' 0 11).toInt) = a → a % 4 = 0 →
    (s.cur.queue (f.off.extractLsb' 11 3).toNat).length < 8 →
    s.readUnits .l 4 ((List.range 32).map (fun i => ((a + 4 * i) % 2 ^ 52, 0))) = .ok g → g.s.cur.q = s.cur.q →
    completes (.vld f) s fun t => issuedOn g.s t .l fun c =>
      (heldData (c.setQueue (f.off.extractLsb' 11 3).toNat (c.queue (f.off.extractLsb' 11 3).toNat ++ [entryOf (fun i => elemWord (elem g 4 i)) c.now 8])) 8 g.late).addLates
        8 g.units (fun i => .lane (f.off.extractLsb' 11 3).toNat i))
  ∧ (∀ (f : LWord) (s : State) (sel : Selector) (g : Got), sp s f.base = none → sp s f.idx = none → selectorOf (sv s f.idx) = sel →
    sel.ireg ≤ 191 → sel.idir ≠ 3 →
    (∀ i < 32, (laneWord s sel.ireg sel.idir sel.isl i).2 = false) →
    let ad (i : Nat) : Nat := gatherAddr (s.lwAddr .l f.st (sv s f.base) 0) sel (laneWord s sel.ireg sel.idir sel.isl i).1
    (∀ i < 32, ad i % 4 = 0) → (s.cur.queue (f.off.extractLsb' 11 3).toNat).length < 8 →
    s.readUnits .l 4 ((List.range 32).map (fun i => (ad i, 1 + i / 8))) = .ok g → g.s.cur.q = s.cur.q →
    completes (.gath f) s fun t => issuedOn g.s t .l fun c =>
      (heldData (c.setQueue (f.off.extractLsb' 11 3).toNat (c.queue (f.off.extractLsb' 11 3).toNat ++ [entryOf (fun i => elemWord (elem g 4 i)) c.now 12])) 12 g.late).addLates
        12 g.units (fun i => .lane (f.off.extractLsb' 11 3).toNat i))

/-- MLD (R173): 1,024 elements of 4 or 2 bytes, row by row at the pitch, widened by zeros or by the sign, land in the matrix register ten cycles on, transposed for MLD.v. -/
def Claim.MemoryToRegister : Prop :=
  ∀ (tr : Bool) (f : LWord) (s : State) (n : Nat) (g : Got), sp s f.base = none → sp s f.idx = none →
    (f.off.extractLsb' 6 8).toNat ≤ 191 → n = (if (f.off.extractLsb' 4 2).toNat = 0 then 4 else 2) →
    let row (r : Nat) : Nat := s.lwAddr .l f.st (sv s f.base) (r * (sv s f.idx).toNat)
    (∀ r < 32, row r % n = 0) →
    s.readUnits .l n ((List.range 1024).map (fun k => ((row (k / 32) + n * (k % 32)) % 2 ^ 52, k / 128))) = .ok g →
    completes (if tr then .mldV f else .mldH f) s fun t => ∃ out : List (W32 × Bool), out.length = 1024
      ∧ (∀ r < 32, ∀ c < 32, out[32 * r + c]? =
          let b := elem g n (if tr then 32 * c + r else 32 * r + c)
          some (if (f.off.extractLsb' 4 2).toNat = 2 then (BitVec.ofNat 16 (leNat (b.map (·.1)))).signExtend 32 else BitVec.ofNat 32 (leNat (b.map (·.1))), b.any (·.2)))
      ∧ let a := winBase g.s.me + 0x400000 + 4096 * (f.off.extractLsb' 6 8).toNat
        issuedOn g.s t .l fun c => (heldData (c.emit .l 10 (.words a out)) 10 g.late).addLates 10 g.units
          (fun k => .word (a + 4 * (if tr then k % 32 * 32 + k / 32 else k)) ((f.off.extractLsb' 4 2).toNat = 2))

/-- MST and SPWR (R174): the 32 words of the slice, or the 32 doublewords of the horizontal pair, are stored from the address on, in lane order. -/
def Claim.RegisterToMemory : Prop :=
  (∀ (f : MstWord) (s s1 : State) (a : Nat), sp s f.base = none → f.reg.toNat ≤ 191 →
    s.lwAddr .w f.st (sv s f.base) (128 * f.off.toInt) = a → a % 4 = 0 →
    s.writeUnits .w 4 ((List.range 32).map (fun i => ((a + 4 * i) % 2 ^ 52, 0,
      natLe 4 (laneWord s f.reg.toNat f.dir f.slice.toNat i).1.toNat, (laneWord s f.reg.toNat f.dir f.slice.toNat i).2))) = .ok s1 →
    completes (.mst f) s fun t => issuedOn s1 t .w id)
  ∧ (∀ (f : MstWord) (s s1 : State) (a : Nat), sp s f.base = none → f.reg.toNat ≤ 191 → f.dir = 0 → f.slice.toNat % 2 = 0 →
    s.lwAddr .w f.st (sv s f.base) (128 * f.off.toInt) = a → a % 8 = 0 →
    s.writeUnits .w 4 ((List.range 32).map (fun i => ((a + 8 * i) % 2 ^ 52, 0,
      natLe 4 (laneWord s f.reg.toNat 0 f.slice.toNat i).1.toNat ++ natLe 4 (laneWord s f.reg.toNat 0 (f.slice.toNat + 1) i).1.toNat,
      (laneWord s f.reg.toNat 0 f.slice.toNat i).2 || (laneWord s f.reg.toNat 0 (f.slice.toNat + 1) i).2))) = .ok s1 →
    completes (.spwr f) s fun t => issuedOn s1 t .w id)

/-- SCAT (R167, R172, R228): the lanes are stored in ascending order at their indexed addresses; lanes that another core's window refuses leave a protection fault with their mask. -/
def Claim.ScatterLanes : Prop :=
  ∀ (f : LWord) (s s1 : State) (sel : Selector) (mask : Nat), sp s f.base = none → sp s f.idx = none → selectorOf (sv s f.idx) = sel →
    sel.ireg ≤ 191 → sel.idir ≠ 3 → sel.dreg ≤ 191 → sel.ddir ≠ 3 →
    (∀ i < 32, (laneWord s sel.ireg sel.idir sel.isl i).2 = false) →
    let ad (i : Nat) : Nat := gatherAddr (s.lwAddr .w f.st (sv s f.base) 0) sel (laneWord s sel.ireg sel.idir sel.isl i).1
    (∀ i < 32, ad i % 4 = 0) →
    scatLanes s 0 ((List.range 32).map (fun i => (i, ad i, laneWord s sel.dreg sel.ddir sel.dsl i))) = .ok (s1, mask) →
    (mask = 0 → completes (.scat f) s fun t => issuedOn s1 t .w id)
    ∧ (mask ≠ 0 → ∃ a, exec (.scat f) s = .next (s1.syncTrap .w { TrapInfo.of 0x07 .w with addr := a, detail := BitVec.ofNat 64 mask }))

/-- The synchronous words of L and W that move words between registers, queues and memory (R166 to R174). -/
def Obligations.LoadAndStoreWords : Prop :=
  Claim.RegisterToQueue ∧ Claim.MemoryToQueue ∧ Claim.MemoryToRegister ∧ Claim.RegisterToMemory ∧ Claim.ScatterLanes

/-- ODSET, CDSET and SEQSET (R175, R176, R185): a descriptor takes two scalars, the low one first, or 64 aligned bytes of the core's scratchpad, with their poison; SEQSET puts its tag and range in flight, and landing clears the range's chunk bits and makes the entry pending; a range past chunk 4,095 is an illegal operand. -/
def Claim.Descriptors : Prop :=
  (∀ (f : LWord) (s : State), completes (.odset f) s fun t =>
    onlyResults s t .l 1 1 [.od (f.off.extractLsb' 0 4).toNat (sv s f.idx ++ sv s f.base) ((sp s f.base).isSome || (sp s f.idx).isSome)])
  ∧ (∀ (f : LWord) (s s1 s2 : State) (a : Nat), sp s f.base = none → sp s f.idx = none → (sv s f.base + sv s f.idx).toNat = a →
    a < 0x200000 → a % 64 = 0 → s.tagCheck .l a 64 = .ok s1 → s1.useBank .l 0 a = .ok s2 →
    completes (.cdset f) s fun t => ∃ v p, issuedOn s2 t .l (fun c => c.emit .l 4 (.cd (f.off.extractLsb' 0 4).toNat v p))
      ∧ (∀ i < 64, v.extractLsb' (8 * i) 8 = s.mem.rd (winBase s.me + a + i))
      ∧ (p = true ↔ ∃ i < 64, poisonedAt s.pz (winBase s.me + a + i) = true))
  ∧ (∀ (f : LWord) (s : State), sp s f.base = none →
    let v := sv s f.base
    let m := (f.off.extractLsb' 8 6).toNat
    let first := (v.extractLsb' 16 12).toNat
    let n := (v.extractLsb' 28 13).toNat
    (first + n ≤ 4096 → s.cur.chunkHeld m ((List.range n).map (· + first)) = false →
      completes (.seqset f) s fun t => onlyResults s t .l 1 1 [.seqset m (v.extractLsb' 0 16) first n])
    ∧ (4096 < first + n → traps (.seqset f) s .l (TrapInfo.of 0x02 .l)))
  ∧ (∀ (s : State) (k : Mover) (m first n : Nat) (tag : BitVec 16), first + n ≤ 4096 →
    let t := s.land k (.seqset m tag first n)
    (t.agent k).tag m = ⟨tag, 0, first, n, true⟩
    ∧ ∀ b < 4096, ((t.agent k).map m).getLsbD b = (((s.agent k).map m).getLsbD b && !decide (first ≤ b ∧ b < first + n)))

/-- WAITC (R184): the chunk form waits until every selected chunk bit is 1; the posting form waits until the n oldest places are posted, takes them off and answers their byte sum modulo 2^40 with the first nonzero status above it, and the places that have become free go to the neighbours' arrivals that wait for one; n above 64 is an illegal operand. -/
def Claim.WaitOnMaps : Prop :=
  (∀ (e : Engine) (f : LWord) (s : State), sp s f.base = none → sp s f.idx = none →
    let want : Prop := ∀ i < 64, (sv s f.idx).getLsbD i = true →
      (s.cur.map (f.off.extractLsb' 8 6).toNat).getLsbD ((((sv s f.base).extractLsb' 0 12).toNat + i) % 4096) = true
    (want → completes (.waitcChunk e f) s fun t => onlyResults s t e 1 1 [])
    ∧ (¬want → completes (.waitcChunk e f) s fun t => othersKeep s t ∧ t.cur = { s.cur with turn := s.cur.turn + 1 }))
  ∧ (∀ (e : Engine) (f : LWord) (s : State) (n m : Nat) (l : List (BitVec 40 × BitVec 8)), (f.off.extractLsb' 0 7).toNat = n → (f.off.extractLsb' 8 6).toNat = m → n ≤ 64 →
    (((s.cur.posts m).take n = l.map (fun x => Place.posted x.1 x.2) ∧ l.length = n) →
      completes (.waitcPosting e f) s fun t => ∃ v : W64,
        (v.extractLsb' 0 40).toNat = (l.map (fun x => x.1.toNat)).sum % 2 ^ 40
        ∧ v.extractLsb' 40 8 = ((l.map (·.2)).find? (· ≠ 0)).getD 0
        ∧ v.extractLsb' 48 16 = 0
        ∧ issuedOn s t e fun c => ((c.setPosts m ((c.posts m).drop n)).fillPosts m n).emit e 1 (.scalar f.base.toNat v none))
    ∧ ((∃ id, .reserved id ∈ (s.cur.posts m).take n) ∨ (s.cur.posts m).length < n →
      completes (.waitcPosting e f) s fun t => othersKeep s t ∧ t.cur = { s.cur with turn := s.cur.turn + 1 }))
  ∧ (∀ (e : Engine) (f : LWord) (s : State), 64 < (f.off.extractLsb' 0 7).toNat → traps (.waitcPosting e f) s e (TrapInfo.of 0x02 e))
  ∧ (∀ (c : Core) (m n : Nat), (∀ x ∈ c.nbWaits, x.1 ≠ m) → c.fillPosts m n = c)
  ∧ (∀ (c : Core) (m n b : Nat) (rest : List (Nat × Nat)), c.nbWaits = (m, b) :: rest → (c.posts m).length < 64 →
      c.fillPosts m (n + 1) = Core.fillPosts { c.setPosts m (c.posts m ++ [.posted (BitVec.ofNat 40 b) 0]) with nbWaits := rest } m n)

/-- Descriptors, sequence tags and waits on chunk maps (R175, R176, R184, R185). -/
def Obligations.DescriptorsAndMaps : Prop := Claim.Descriptors ∧ Claim.WaitOnMaps

namespace Sys2Proof.Claim

open Sys2Proof.Machine

/-- Engine, form and word of a tile copy (R177, R178). -/
def copyWord : Instr → Option (Engine × CopyForm × LWord)
  | .xld f => some (.l, .xld, f)
  | .xldT f => some (.l, .xldT, f)
  | .xldn f => some (.l, .xldn, f)
  | .xldf f => some (.l, .xldf, f)
  | .xst f => some (.w, .xst, f)
  | .xstn f => some (.w, .xstn, f)
  | .xstf f => some (.w, .xstf, f)
  | _ => none

/-- The batch of an XSTF that has an element inside the tensor, after its stores are counted (R187); other forms keep theirs. -/
def copyBatch (s : State) (f : CopyForm) (d : BitVec 512) (o0 o1 : Int) : Option (List BatchPeer) :=
  if f = .xstf ∧ inBytes d o0 o1 ≠ 0 then
    addBatch (s.cur.batch (cdBtag d)) (cdPeer d) (inBytes d o0 o1)
  else some (s.cur.batch (cdBtag d))

end Sys2Proof.Claim

/-- A tile copy (R177 to R184, R187): with clean operands, legal fields, no busy tile, no held chunk, a free posting place and permitted pages it is entered with its box, its origin and its chunks, at element 0 and status 0, its place reserved on its map; the checks that fail raise illegal-operand, chunk-conflict, posting-overflow or batch-overflow. -/
def Claim.CopiesIssue : Prop :=
  ∀ (i : Instr) (e : Engine) (f : CopyForm) (w : LWord) (s : State) (d : BitVec 512) (a : Nat) (o0 o1 : Int), copyWord i = some (e, f, w) →
    sp s w.base = none → sp s w.idx = none → s.cur.cdOf (w.off.extractLsb' 0 4).toNat = (d, false) →
    (sv s w.base).toNat < localLimit d → stepLocal s e w.st (localLimit d) (sv s w.base).toNat = a →
    ((sv s w.idx).extractLsb' 0 32).toInt = o0 → ((sv s w.idx).extractLsb' 32 32).toInt = o1 →
    let chunks := chunksOf' f d a o0 o1
    (cdChecks f d a = false → traps i s e (TrapInfo.of 0x02 e))
    ∧ (cdChecks f d a = true → s.cur.busyTiles e (tilesOf d a) = none →
      (s.cur.chunkHeld (cdCm d) (chunks.map (·.1)) = true → traps i s e (TrapInfo.of 0x14 e))
      ∧ (s.cur.chunkHeld (cdCm d) (chunks.map (·.1)) = false →
        (64 ≤ (s.cur.posts (cdCm d)).length → traps i s e (TrapInfo.of 0x15 e))
        ∧ ((s.cur.posts (cdCm d)).length < 64 →
          (copyBatch s f d o0 o1 = none → traps i s e (TrapInfo.of 0x16 e))
          ∧ (∀ b s1 s2 pins, copyBatch s f d o0 o1 = some b → (if f.loads then Except.ok s else tagChunks s e chunks) = .ok s1 →
            s1.submit (s1.myCtx.getD 64) (f == .xst) (farAddrs f d o0 o1) [] = .ok s2 pins → s2.farSealed f d o0 o1 pins = false →
            completes i s fun t => ∃ k : CopyOp,
              k.form = f ∧ k.cd = d ∧ k.loc = a ∧ k.o0 = o0 ∧ k.o1 = o1 ∧ k.next = 0 ∧ k.status = 0 ∧ k.begun = false ∧ k.landed = false ∧ k.posted = false ∧ k.cyc = s2.drainAll.cur.now ∧ k.chunks = chunks
              ∧ k.pins = pins ∧ k.tiles = tilesOf d a ∧ k.id = s2.drainAll.cur.copySeq
              ∧ issuedOn (if f = .xstf then s2.drainAll.modCur (fun c => c.setBatch (cdBtag d) b) else s2.drainAll) t e fun c =>
                  { c.setPosts (cdCm d) (c.posts (cdCm d) ++ [.reserved k.id]) with copies := c.copies ++ [k], copySeq := c.copySeq + 1 }))))

/-- What a copy moves (R85, R178, R181, R183, R235): an element inside the tensor arrives with its bytes and its poison at its local address, one outside as the fill; one that fails arrives poisoned with its status kept if it is the first; no other byte changes, and a core that stands inside a cycle sees what arrives from its next cycle on. COPY_CHUNK_COMPLETE moves a ready copy on to a free later place of its box order, or some elements ahead of that order; the bits of the chunks whose last element it has passed are set, for an XSTN also those of the neighbour's chunks that have landed. COPY_ARRIVAL_POSTED posts the bytes and the status of a copy that is done and drops it; NEIGHBOUR_ARRIVAL posts at the neighbour. -/
def Claim.CopiesProgress : Prop :=
  (∀ (s s1 : State) (k : CopyOp) (n : Nat) (d : List (Byte × Bool)), k.form.loads = true → k.fetch s n k.next = .ok (s1, d) →
    winCore (k.localPa n k.next) = some n →
    ∃ t k1, k.moveOne s n = some (t, k1) ∧ k1 = { k with next := k.next + 1 }
      ∧ ((s1.core n).amid = false →
          (∀ i < d.length, t.mem.rd (k.localPa n k.next + i) = (d.getD i (0, false)).1)
          ∧ (∀ x, x < k.localPa n k.next ∨ k.localPa n k.next + d.length ≤ x → t.mem.rd x = s1.mem.rd x)
          ∧ t.pz = pzWrite s1.pz (k.localPa n k.next) d.length (d.any (·.2)))
      ∧ ((s1.core n).amid = true → t.mem = s1.mem ∧ t.pz = s1.pz
          ∧ (t.core n).inbox = (s1.core n).inbox ++ [.bytes (k.localPa n k.next) (d.map (·.1)) (d.any (·.2))]))
  ∧ (∀ (s : State) (k : CopyOp) (n : Nat), k.form.loads = true → cdIn k.cd k.o0 k.o1 k.next = false →
    k.fetch s n k.next = .ok (s, (natLe (cdEsz k.cd) (cdFill k.cd)).map (fun b => (b, false))))
  ∧ (∀ (s : State) (k : CopyOp) (n : Nat) (st : BitVec 8), k.form.loads = true → k.fetch s n k.next = .fail st →
    winCore (k.localPa n k.next) = some n → (s.core n).amid = false →
    ∃ t k1, k.moveOne s n = some (t, k1) ∧ k1.next = k.next + 1 ∧ k1.status = (if k.status = 0 then st else k.status)
      ∧ t.pz = pzWrite s.pz (k.localPa n k.next) (cdEsz k.cd) true)
  ∧ (∀ (s : State) (n id : Nat) (k : CopyOp), (s.core n).copies.find? (fun x => x.id = id) = some k → (s.core n).copyReady k = true →
    completes (.copyChunkComplete n id) s fun t =>
      (∃ stop, stop ≤ cdCount k.cd ∧ (k.next < cdCount k.cd → k.next < stop) ∧ t = (s.moveCopy n k stop).1.bump)
      ∨ ∃ i s1 k1, k.lead s n (k.unitOf i) = some (s1, k1) ∧ t = (s1.modCore n (fun c => c.putCopy k1)).bump)
  ∧ (∀ (s : State) (k : CopyOp) (n stop : Nat),
      let r := k.moveTo s n stop (s, k) (cdCount k.cd)
      s.moveCopy n k stop = (((r.1.markNeighbour n k r.2).modCore n (fun c => c.putCopy r.2)).finishChunks n k r.2, r.2))
  ∧ (∀ (s : State) (k k1 : CopyOp) (n : Nat), (s.core n).amid = false →
    ∀ b < 4096, (((s.finishChunks n k k1).core n).map (cdCm k.cd)).getLsbD b =
      (((s.core n).map (cdCm k.cd)).getLsbD b || k.chunks.any (fun x => x.1 == b && decide (k.next ≤ x.2) && decide (x.2 < k1.next))))
  ∧ (∀ (s : State) (n nb : Nat) (k k1 : CopyOp), k.form = .xstn → k.cd.getLsbD 78 = true → k.neighbour n = some nb → (s.core nb).ctx = (s.core n).ctx →
    (s.core nb).amid = false →
    ∀ b < 4096, (((s.markNeighbour n k k1).core nb).map (k.cd.extractLsb' 72 6).toNat).getLsbD b =
      (((s.core nb).map (k.cd.extractLsb' 72 6).toNat).getLsbD b || k.nbChunks.any (fun x => x.1 == b && decide (k.next ≤ x.2) && decide (x.2 < k1.next))))
  ∧ (∀ (s : State) (n m : Nat) (v : BitVec 4096), (s.core n).amid = true →
      s.bring n (.chunks m v) = s.modCore n (fun c => { c with inbox := c.inbox ++ [.chunks m v] }))
  ∧ (∀ (s : State) (n id : Nat) (k : CopyOp), (s.core n).copies.find? (fun x => x.id = id) = some k → k.begun = true → k.posted = false → cdCount k.cd ≤ k.next →
    (k.landed = true ∨ ∀ nb, s.nbPosts n k = some nb → (s.core nb).powered = true ∧ ∀ h ∈ (s.core nb).holds, h.kind ≠ .persist) →
    completes (.copyArrivalPosted n id) s fun t =>
      (t.core n).posts (cdCm k.cd) = ((s.core n).posts (cdCm k.cd)).map (fun p => if p = .reserved k.id then .posted (BitVec.ofNat 40 (cdBytes k.cd)) (s.copyStatus n k) else p)
      ∧ (t.core n).copies = (s.core n).copies.filter (fun x => x.id ≠ k.id) ∧ t.mem = s.mem
      ∧ (k.form = .xstf → k.landed = false → inBytes k.cd k.o0 k.o1 ≠ 0 → (t.core n).batch (cdBtag k.cd) =
          ((s.core n).batch (cdBtag k.cd)).map (fun p => if p.rank = cdPeer k.cd then { p with left := p.left - 1 } else p)))
  ∧ (∀ (s : State) (n id nb : Nat) (k : CopyOp), (s.core n).copies.find? (fun x => x.id = id) = some k → k.form = .xstn → k.next = cdCount k.cd →
    k.landed = false → k.begun = true → k.neighbour n = some nb → nb ≠ n → k.cd.getLsbD 78 = true → (s.core nb).ctx = (s.core n).ctx →
    ((s.core nb).posts (k.cd.extractLsb' 72 6).toNat).length < 64 → (s.core nb).powered = true → (∀ h ∈ (s.core nb).holds, h.kind ≠ .persist) →
    completes (.neighbourArrival n id) s fun t =>
      (t.core nb).posts (k.cd.extractLsb' 72 6).toNat =
        (s.core nb).posts (k.cd.extractLsb' 72 6).toNat ++ [.posted (BitVec.ofNat 40 (cdBytes k.cd)) 0]
      ∧ (∀ x ∈ (t.core n).copies, x.id = k.id → x.landed = true ∧ x.posted = false) ∧ t.mem = s.mem)

/-- Remote stores (R186 to R188, R253, R365): STB to another device is counted in its batch and sent after the core's earlier stores, one to the module's own rank in HBM is performed, and one to a rank without an entry is answered as unreachable; a summary reply reaches its peer's record; BCLOSE of an answered batch writes the summary records, empties the batch and answers the number of peers with the OR of their errors; PUB swaps the twin pages of its range two cycles on. -/
def Obligations.RemoteStoresAndPublication : Prop :=
  (∀ (f : LWord) (s : State) (b : List BatchPeer) (va x n md : Nat), sp s f.base = none → sp s (f.off.extractLsb' 8 6) = none →
    s.lwAddr .w f.st (sv s f.base) 0 = va → n = 2 ^ (f.off.extractLsb' 4 2).toNat → va % n = 0 → s.myCtx = some x →
    let rank := (sv s (f.off.extractLsb' 8 6)).extractLsb' 0 16
    addBatch (s.cur.batch (f.off.extractLsb' 6 2).toNat) rank n = some b →
    let u := s.drainAll.modCur (fun c => c.setBatch (f.off.extractLsb' 6 2).toNat b)
    (s.rankModule x rank.toNat = some md → s.rankOwn x rank.toNat = false → s.portUp (s.me / 512) = true →
      completes (.stb f) s fun t =>
        issuedOn (u.send (.store x md va (natLe n (sv s f.idx).toNat) (sp s f.idx).isSome s.me (f.off.extractLsb' 6 2).toNat false)) t .w id)
    ∧ (∀ (s1 : State) (tr : Trans), s.rankModule x rank.toNat = some md → s.rankOwn x rank.toNat = true → u.gateTo x va n false = .ok (s1, tr) → isWin tr.pa = false →
      completes (.stb f) s fun t =>
        issuedOn (s1.pushStore .w 1 tr (natLe n (sv s f.idx).toNat) (sp s f.idx).isSome none (some ((f.off.extractLsb' 6 2).toNat, rank))).performLast t .w id)
    ∧ (s.rankModule x rank.toNat = none → completes (.stb f) s fun t => issuedOn u t .w fun c =>
        c.setBatch (f.off.extractLsb' 6 2).toNat (b.map (fun p => if p.rank = rank then { p with err := p.err ||| 1, left := p.left - 1 } else p))))
  ∧ (∀ (n : Nat) (tag : BitVec 2) (rank : BitVec 16) (err : BitVec 8) (deliv : Nat) (s : State),
    completes (.stbSummaryReply n tag rank err deliv) s fun t => t = s.setCore n (t.core n)
      ∧ t.core n = { s.core n with batches := (t.core n).batches }
      ∧ (t.core n).batch tag.toNat = ((s.core n).batch tag.toNat).map (fun p => if p.rank = rank then
          { p with err := p.err ||| (err &&& 0x1F), deliv := p.deliv + BitVec.ofNat 64 deliv, left := p.left - 1 } else p)
      ∧ ∀ k, k ≠ tag.toNat → (t.core n).batch k = (s.core n).batch k)
  ∧ (∀ (f : LWord) (s s1 : State) (a t : Nat), sp s f.idx = none → (sv s f.idx).toNat = a → (f.off.extractLsb' 0 2).toNat = t →
    (f.idx ≠ 0 → a + 1024 ≤ 0x200000 ∧ a % 16 = 0) →
    (∀ p ∈ s.cur.batch t, p.left = 0) → s.cur.batchMoving t = false →
    (if f.idx = 0 then s1 = s else s.useBanks .w (((List.range 8).filter (fun i => decide (128 * i < 16 * (s.cur.batch t).length))).map (fun i =>
          (s.cur.now, bankOf (a + 128 * i), blockOf (a + 128 * i)))) = .ok s1) →
    completes (.bclose f) s fun u => ∃ v : W64,
      v = BitVec.ofNat 64 ((s.cur.batch t).length + 65536 * ((s.cur.batch t).foldl (fun x p => x ||| p.err) (0 : BitVec 8)).toNat)
      ∧ issuedOn s1 u .w fun c =>
        ((if f.idx = 0 then c else c.emit .w 1 (.bytes (winBase s.me + a)
            ((s.cur.batch t).flatMap (fun p => natLe 2 p.rank.toNat ++ [p.err, 0] ++ natLe 4 p.count.toNat ++ natLe 8 p.deliv.toNat)) false)).setBatch t []).emit
          .w 1 (.scalar f.base.toNat v none))
  ∧ (∀ (f : LWord) (s : State), sp s f.base = none → sp s f.idx = none →
    (sv s f.idx = 0 → completes (.pub f) s fun t => onlyResults s t .w 1 1 [])
    ∧ (∀ x va l, s.myCtx = some x → (sv s f.base).toNat % 2 ^ 52 = va → sv s f.idx ≠ 0 → s.heldRange x va (sv s f.idx).toNat = false →
        pubFrames s x va (s.pagesIn x va (sv s f.idx).toNat) = .ok l →
        completes (.pub f) s fun t => issuedOn s.bindLoads.drainAll t .w fun c => c.emit .w 2 (.twin l)))
  ∧ (∀ (s : State) (m : Mover) (l : List Nat), (s.land m (.twin l)).twins = s.twins.map (fun t => if t.lower ∈ l then { t with ts := !t.ts } else t)
    ∧ (s.land m (.twin l)).mem = s.mem)

/-- Copies: their issue and their progress. -/
def Obligations.TileCopies : Prop := Claim.CopiesIssue ∧ Claim.CopiesProgress

/-- The pour instructions (R399, R401, R402, R404, R405): outside states 5, 6 and 7, for a context whose CTXEN bit is 1, each answers at latency 1 as its table gives; SUB 0x1 of the EC fault otherwise, and ECSTAT raises it only for the CTXEN bit. -/
def Claim.PourInstructions : Prop :=
  (∀ (f : SReg) (s : State),
    (s.ecAllowed = false → traps (.ecstat f) s .s { TrapInfo.of 0x20 .s with sub := 1 })
    ∧ (s.ecAllowed = true → completes (.ecstat f) s fun t => ∃ v : W64,
        v.extractLsb' 0 32 = s.spe.dpour ∧ v.getLsbD 32 = s.spe.ab ∧ (v.extractLsb' 33 3).toNat = s.spe.st.code
        ∧ ((s.spe.regions.filter (fun r => r.2.isSome)).length ≤ 64 → s.spe.live.Nodup → (∀ i ∈ s.spe.live, i < 20) →
            (v.extractLsb' 36 8).toNat = (s.spe.regions.filter (fun r => r.2.isSome)).length ∧ ∀ i < 20, v.getLsbD (44 + i) = decide (i ∈ s.spe.live))
        ∧ issuedOn s.usedPour t .s fun c => c.emit .s 1 (.scalar f.sd.toNat v none)))
  ∧ (∀ (f : SReg) (s : State), sp s f.sa = none → sp s f.sb = none →
    (s.spe.shut = true ∨ s.ecAllowed = false →
      traps (.ecclose f) s .s { TrapInfo.of 0x20 .s with sub := 1 } ∧ traps (.ecseal f) s .s { TrapInfo.of 0x20 .s with sub := 1 }
      ∧ traps (.ecunprot f) s .s { TrapInfo.of 0x20 .s with sub := 1 } ∧ traps (.ecprot f) s .s { TrapInfo.of 0x20 .s with sub := 1 })
    ∧ (s.spe.shut = false → s.ecAllowed = true →
      (s.spe.pour + 1 < sv s f.sa → traps (.ecclose f) s .s { TrapInfo.of 0x20 .s with sub := 7 })
      ∧ (sv s f.sa ≤ s.spe.pour + 1 → sv s f.sa ≤ s.spe.pour → sv s f.sa ≠ 0 →
          completes (.ecclose f) s fun t => issuedOn s.usedPour t .s fun c => c.emit .s 1 (.scalar f.sd.toNat 2 none))
      ∧ (sv s f.sa = s.spe.pour + 1 → s.spe.pour < s.spe.pour + 1 → s.spe.closing = true →
          completes (.ecclose f) s fun t => issuedOn s.usedPour t .s fun c => c.emit .s 1 (.scalar f.sd.toNat 1 none))
      ∧ (sv s f.sa = s.spe.pour + 1 → s.spe.pour < s.spe.pour + 1 → s.spe.closing = false → s.spe.refused = false →
          completes (.ecclose f) s fun t => t.spe.st = .sealing ∧ (∀ u ∈ t.spe.units, (t.spe.unit u.unit).sealed = true) ∧ t.mem = s.mem
            ∧ t.outbox = s.outbox ++ (s.spe.live.filter (· ≠ s.spe.me)).map (fun i => Message.pour 0 (s.spe.moduleOf i) (s.spe.pour + 1).toNat 0 0 [])
            ∧ t.cur.pend = (s.cur.emit .s 1 (.scalar f.sd.toNat 0 none)).pend)
      ∧ (sv s f.sb = 0 → completes (.ecseal f) s fun t => issuedOn s.usedPour t .s fun c => c.emit .s 1 (.scalar f.sd.toNat 0 none))
      ∧ (∀ x va us, s.myCtx = some x → (sv s f.sa).toNat % 2 ^ 52 = va → sv s f.sb ≠ 0 → s.heldRange x va (sv s f.sb).toNat = false →
          s.sealUnits x va (va + (sv s f.sb).toNat) ((sv s f.sb).toNat / 16384 + 2) = some us →
          completes (.ecseal f) s fun t => (∀ u ∈ us, (t.spe.unit u).sealed = true) ∧ (∀ u, u ∉ us → t.spe.unit u = s.spe.unit u) ∧ t.mem = s.mem
            ∧ t.cur.pend = (s.cur.emit .s 1 (.scalar f.sd.toNat (BitVec.ofNat 64 (us.countP (fun u => !(s.spe.unit u).sealed))) none)).pend)
      ∧ (63 < (sv s f.sa).toNat → traps (.ecunprot f) s .s { TrapInfo.of 0x20 .s with sub := 5 })
      ∧ ((sv s f.sa).toNat ≤ 63 → s.spe.closing = true → traps (.ecunprot f) s .s { TrapInfo.of 0x20 .s with sub := 6 })
      ∧ ((sv s f.sa).toNat ≤ 63 → s.spe.closing = false → tget none s.spe.regions (sv s f.sa).toNat = none →
          completes (.ecunprot f) s fun t => issuedOn s.usedPour t .s fun c => c.emit .s 1 (.scalar f.sd.toNat 1 none))
      ∧ ((sv s f.sa).toNat ≤ 63 → s.spe.closing = false → ∀ g, tget none s.spe.regions (sv s f.sa).toNat = some g → g.leaving = false →
          completes (.ecunprot f) s fun t => tget none t.spe.regions (sv s f.sa).toNat = some { g with leaving := true }
            ∧ (∀ r, r ≠ (sv s f.sa).toNat → tget none t.spe.regions r = tget none s.spe.regions r) ∧ t.mem = s.mem
            ∧ t.cur.pend = (s.cur.emit .s 1 (.scalar f.sd.toNat 0 none)).pend)))

/-- ECPROT (R399, R400): a region already protected with the same base, first unit and count answers its number; a new one, backed unit by unit by permitted contiguous HBM, takes a free number, its units enter touched in the open pour; a count of 0 or units past U are SUB 0x2, a misaligned base SUB 0x3, a running close SUB 0x6; while a page of the range is held (R364) the core does not enter its next cycle. -/
def Claim.EcprotProtects : Prop :=
  ∀ (f : SReg) (s : State) (x va nu fu : Nat), sp s f.sa = none → sp s f.sb = none → s.spe.shut = false → s.ecAllowed = true → s.myCtx = some x →
    (sv s f.sa).toNat % 2 ^ 52 = va → ((sv s f.sb).extractLsb' 0 32).toNat = nu → ((sv s f.sb).extractLsb' 32 32).toNat = fu →
    (s.spe.closing = true → traps (.ecprot f) s .s { TrapInfo.of 0x20 .s with sub := 6 })
    ∧ (s.spe.closing = false →
      (∀ r, s.spe.sameRegion va fu nu = some r →
        completes (.ecprot f) s fun t => issuedOn s.usedPour t .s fun c => c.emit .s 1 (.scalar f.sd.toNat (BitVec.ofNat 64 r) none))
      ∧ (s.spe.sameRegion va fu nu = none →
        (nu = 0 ∨ gcfgU s.spe.gcfg < fu + nu → traps (.ecprot f) s .s { TrapInfo.of 0x20 .s with sub := 2 })
        ∧ (nu ≠ 0 → fu + nu ≤ gcfgU s.spe.gcfg → s.spe.overlaps fu nu [] = false → va % 65536 ≠ 0 →
            traps (.ecprot f) s .s { TrapInfo.of 0x20 .s with sub := 3 })
        ∧ (nu ≠ 0 → fu + nu ≤ gcfgU s.spe.gcfg → s.spe.overlaps fu nu [] = false → va % 65536 = 0 → s.heldRange x va (65536 * nu) = true →
            waitsNext (.ecprot f) s s.cur)
        ∧ (∀ frames, nu ≠ 0 → fu + nu ≤ gcfgU s.spe.gcfg → va % 65536 = 0 → s.heldRange x va (65536 * nu) = false →
            s.unitFrames x va nu = some frames → s.spe.overlaps fu nu [] = false → s.spe.overlaps fu nu frames = false → s.spe.freeRegions ≠ [] →
            completes (.ecprot f) s fun t => ∃ r < 64, tget none s.spe.regions r = none
              ∧ tget none t.spe.regions r = some ⟨x, va, frames, fu, frames.length, false, true⟩
              ∧ (∀ i, i ≠ r → tget none t.spe.regions i = tget none s.spe.regions i)
              ∧ (∀ j < frames.length, s.spe.pour < ((s.bump.markPages x va (4 * nu)).spe.unit (fu + j)).stamp1 → t.spe.unit (fu + j) = ⟨s.spe.pour + 1, stampAbsent, false⟩)
              ∧ t.cur.pend = (s.cur.emit .s 1 (.scalar f.sd.toNat (BitVec.ofNat 64 r) none)).pend)))

namespace Sys2Proof.Claim

open Sys2Proof.Machine

/-- A message of pour `q` from another live member reaches an enabled member (R407). -/
def heard (s : State) (src : Nat) : Prop := s.spe.enabled = true ∧ smem src s.spe.live = true ∧ src ≠ s.spe.me

/-- "Commit q" (R408): %pour becomes q in one write, the next pour is open, and the stamps of units that stay protected stand. -/
def committed (s t : State) : Prop :=
  t.spe.pour = s.spe.pour + 1 ∧ t.spe.st = .open_ ∧ t.spe.ab = false ∧ t.spe.dpour = (s.spe.pour + 1).extractLsb' 0 32
  ∧ (s.spe.leavers true = [] → t.mem = s.mem ∧ ∀ u, (t.spe.unit u).stamp0 = (s.spe.unit u).stamp0 ∧ (t.spe.unit u).stamp1 = (s.spe.unit u).stamp1)
  ∧ ∀ u ∈ t.spe.units, (t.spe.unit u.unit).sealed = false

/-- "Abort q" (R408): %pour stands, no slot is stamped q any more, and the next pour, of the same number, is open. -/
def aborted (s t : State) : Prop :=
  t.spe.pour = s.spe.pour ∧ t.spe.st = .open_ ∧ t.spe.ab = true ∧ t.spe.dpour = (s.spe.pour + 1).extractLsb' 0 32
  ∧ (s.spe.pour + 1 ≠ stampAbsent → ∀ u, (t.spe.unit u).stamp0 ≠ s.spe.pour + 1 ∧ (t.spe.unit u).stamp1 ≠ s.spe.pour + 1)
  ∧ ∀ u ∈ t.spe.units, (t.spe.unit u.unit).sealed = false

/-- A group message to every live member but this one, in their order. -/
def cast (s : State) (kind t : Nat) : List Message :=
  (s.spe.live.filter (· ≠ s.spe.me)).map (fun i => Message.pour kind (s.spe.moduleOf i) (s.spe.pour + 1).toNat t 0 [])

end Sys2Proof.Claim

/-- The decisions of a pour (R406 to R408): COMMIT and a yes commit, ABORT and the last no abort, REFUSE makes the coordinator abort with ABORT to all, and PREPARED from every live member makes it commit with COMMIT to all. -/
def Claim.PourDecisions : Prop :=
  ∀ (s : State) (src q : Nat), heard s src → s.spe.pour.toNat + 1 < 2 ^ 64 → q = (s.spe.pour + 1).toNat →
    (s.spe.undecided = true → completes (.commit src q) s (committed s) ∧ completes (.abort src q) s (aborted s))
    ∧ (s.spe.st = .querying → completes (.answer src q true) s (committed s)
        ∧ (sdel src s.spe.answers = [] → completes (.answer src q false) s (aborted s))
        ∧ (sdel src s.spe.answers ≠ [] → completes (.answer src q false) s fun t => t = { s with spe := { s.spe with answers := sdel src s.spe.answers } }))
    ∧ (s.spe.coordinator = s.spe.me →
        (s.spe.st = .sealing ∨ s.spe.st = .sweeping ∨ s.spe.st = .prepared ∨ s.spe.st = .querying →
          completes (.refuse src q) s fun t => aborted s t ∧ t.outbox = s.outbox ++ cast s 6 0)
        ∧ (s.spe.st = .open_ → completes (.refuse src q) s fun t => t = { s with spe := { s.spe with refused := true } })
        ∧ (s.spe.st = .prepared → s.spe.coordNo = false → (∀ i ∈ s.spe.live, smem i (sadd src s.spe.votes) = true) →
            completes (.prepared src q) s fun t => committed s t ∧ t.outbox = s.outbox ++ cast s 5 0)
        ∧ ((∃ i ∈ s.spe.live, smem i (sadd src s.spe.votes) = false) →
            completes (.prepared src q) s fun t => t = { s with spe := { s.spe with votes := sadd src s.spe.votes } }))
    ∧ (completes (.query src q) s fun t => t.spe = { s.spe with coordNo := s.spe.coordNo || s.spe.coordinator == s.spe.me }
        ∧ t.outbox = s.outbox ++ [Message.pour 9 (s.spe.moduleOf src) q 0 0 []] ∧ t.mem = s.mem)
    ∧ (∀ p, p ≤ s.spe.pour.toNat → completes (.query src p) s fun t => t = s.send (.pour 9 (s.spe.moduleOf src) p 1 0 []))

/-- The close of a pour (R406, R407): CLOSE seals every protected unit of an open member, which starts the close itself and broadcasts CLOSE; a member without touched units is prepared once its earlier writes are performed; a touched, unpoisoned unit sends its m DELTAs; a holder XORs a DELTA into its touched parity slot and answers ACK; the last ACK makes the member prepared. -/
def Claim.PourClose : Prop :=
  (∀ (s : State) (src q : Nat), heard s src → q = (s.spe.pour + 1).toNat → s.spe.st = .open_ → s.spe.refused = false →
    completes (.close src q) s fun t => t.spe.st = .sealing ∧ (∀ u ∈ t.spe.units, (t.spe.unit u.unit).sealed = true) ∧ t.mem = s.mem ∧ t.outbox = s.outbox ++ cast s 0 0)
  ∧ (∀ s : State, s.spe.st = .sealing → s.writesPending = false → s.spe.acksDue = [] → s.spe.held = false → s.spe.coordinator ≠ s.spe.me →
    (∀ x ∈ s.spe.sweepList, s.unitDelta x.1 x.2 = none) →
    completes .sweepComplete s fun t => t.spe.st = .prepared
      ∧ t.outbox = s.outbox ++ [Message.pour 3 (s.spe.moduleOf s.spe.coordinator) (s.spe.pour + 1).toNat 0 0 []] ∧ t.mem = s.mem)
  ∧ (∀ (s : State) (u : UnitAt) (d : List Byte), s.spe.st = .sealing → s.writesPending = false → s.spe.acksDue = [] →
    s.spe.sweepList = [(u, false)] → s.unitDelta u false = some d → 1 ≤ gcfgM s.spe.gcfg →
    (∀ x, liveSlot (s.spe.unit u.unit) s.spe.pour = some x → s.unitPoisoned (s.spe.slotBase u x) = false) →
    completes .sweepComplete s fun t =>
      let st := stripeOfData (gcfgK s.spe.gcfg) (gcfgN s.spe.gcfg) s.spe.me u.unit
      t.spe.st = .sweeping ∧ t.spe.acksDue = (List.range (gcfgM s.spe.gcfg)).map (fun j => (st.1, j)) ∧ t.mem = s.mem
      ∧ t.outbox = s.outbox ++ (List.range (gcfgM s.spe.gcfg)).map (fun j =>
          Message.pour 1 (s.spe.moduleOf (parityHolder (gcfgK s.spe.gcfg) (gcfgN s.spe.gcfg) st.1 j)) (s.spe.pour + 1).toNat st.1 j
            (d.map (gfMul (s.spe.coef s.spe.gcfg j st.2)))))
  ∧ (∀ (s : State) (src q t j y x : Nat) (data : List Byte), heard s src → q = (s.spe.pour + 1).toNat → s.spe.st ≠ .lost → s.spe.st ≠ .notEnabled →
    parityHolder (gcfgK s.spe.gcfg) (gcfgN s.spe.gcfg) t j = s.spe.me → j < gcfgM s.spe.gcfg →
    parityIndex (gcfgK s.spe.gcfg) (gcfgN s.spe.gcfg) s.spe.me t = y → touchedSlot (s.spe.parityUnit y) s.spe.pour = some x → data.length ≤ 65536 →
    completes (.delta src q t j data) s fun u =>
      (∀ b < data.length, u.mem.rd (s.spe.paritySlot y x + b) = s.mem.rd (s.spe.paritySlot y x + b) ^^^ data.getD b 0)
      ∧ (∀ a, a < s.spe.paritySlot y x ∨ s.spe.paritySlot y x + data.length ≤ a → u.mem.rd a = s.mem.rd a)
      ∧ u.outbox = s.outbox ++ [Message.pour 2 (s.spe.moduleOf src) q t j []] ∧ u.spe = s.spe)
  ∧ (∀ (s : State) (src q t j : Nat), heard s src → q = (s.spe.pour + 1).toNat → s.spe.st = .sweeping →
    src = parityHolder (gcfgK s.spe.gcfg) (gcfgN s.spe.gcfg) t j →
    (s.spe.acksDue.erase (t, j) ≠ [] → completes (.ack src q t j) s fun u => u = { s with spe := { s.spe with acksDue := s.spe.acksDue.erase (t, j) } })
    ∧ (s.spe.acksDue.erase (t, j) = [] → s.spe.held = false → s.spe.coordinator ≠ s.spe.me →
        completes (.ack src q t j) s fun u => u.spe = { s.spe with acksDue := [], st := .prepared }
          ∧ u.outbox = s.outbox ++ [Message.pour 3 (s.spe.moduleOf s.spe.coordinator) q 0 0 []] ∧ u.mem = s.mem))

/-- The coding group's membership (R393, R394, R407, R408, R411): enabling checks the configuration and sends its CRC, or leaves EN at 0 with the CODE; the last matching CRC enables the group at pour 0; a recorded death clears the member's LIVE and aborts an open pour; a rebuild seals every unit until its position is live again, when those that an ECSEAL had sealed stay sealed; the supervisor's other register writes change their register only. -/
def Claim.CodingGroupMembership : Prop :=
  (∀ (s : State) (v w : W64), s.spe.enabled = false → w = (v &&& 0xE01F1FE000FFFFFF) ||| (1#64 <<< 63) →
    (s.spe.check w ≠ 0 → completes (.gcfgEnable v) s fun t => t.spe.enabled = false ∧ t.spe.eccst = BitVec.ofNat 64 (s.spe.check w)
      ∧ t.outbox = s.outbox ++ [.errorReport (s.spe.check w)] ∧ t.mem = s.mem)
    ∧ (s.spe.check w = 0 → s.spe.crcs = [] → gcfgJoin w = false →
        completes (.gcfgEnable v) s fun t => t.spe = { s.spe with gcfg := w &&& ~~~(1#64 <<< 63), want := some w } ∧ t.mem = s.mem
          ∧ t.outbox = s.outbox ++ ((List.range (gcfgN w)).filter (· ≠ gcfgMe w)).map (fun _ => .enableCrc (s.spe.configCrc w none))))
  ∧ (∀ (s : State) (src : Nat) (w : W64), s.spe.enabled = false → s.spe.want = some w → gcfgJoin w = false →
    (∀ i < gcfgN w, i ≠ gcfgMe w → i = src ∨ ∃ c ∈ s.spe.crcs, c.1 = i) → (∀ c ∈ s.spe.crcs, c.2 = s.spe.configCrc w none) →
    completes (.enableCheckCrc src (s.spe.configCrc w none)) s fun t =>
      t.spe.gcfg = w ∧ t.spe.eccst = 0 ∧ t.spe.pour = 0 ∧ t.spe.live = List.range (gcfgN w) ∧ t.spe.st = .open_ ∧ t.spe.regions = [])
  ∧ (∀ (s : State) (src pos : Nat), s.spe.enabled = true → smem pos s.spe.live = true → pos ≠ s.spe.me → s.spe.st = .open_ →
    ({ s.spe with live := sdel pos s.spe.live } : Spe).dead.length ≤ gcfgM s.spe.gcfg →
    (heard s src → completes (.dead src pos) s fun t => t.spe.live = sdel pos s.spe.live ∧ aborted s t ∧ t.outbox = s.outbox)
    ∧ (∀ i, i = Instr.memberUnreachableTimeout pos ∨ i = Instr.memberDeclaredDead pos →
        completes i s fun t => t.spe.live = sdel pos s.spe.live ∧ aborted s t
          ∧ t.outbox = s.outbox ++ (s.spe.live.filter (fun i => i ≠ s.spe.me ∧ i ≠ pos)).map (fun i => Message.pour 7 (s.spe.moduleOf i) 0 pos 0 [])))
  ∧ (∀ (s : State) (pos : Nat) (v : W64), s.spe.enabled = true → smem pos s.spe.live = false → pos ≠ s.spe.me → pos < gcfgN s.spe.gcfg → pos < 20 → s.spe.st = .open_ →
    completes (.rebuildStart pos v) s fun t => t.spe.st = .rebuilding ∧ t.spe.rebuilding = some pos ∧ t.spe.member pos = v &&& 0x1FFFFFF
      ∧ (∀ u ∈ t.spe.units, (t.spe.unit u.unit).sealed = true) ∧ t.mem = s.mem)
  ∧ (∀ (s : State) (pos : Nat), s.spe.st = .rebuilding → s.spe.rebuilding = some pos → pos ≠ s.spe.me →
    completes .rebuildComplete s fun t => t.spe.st = .open_ ∧ t.spe.rebuilding = none ∧ t.spe.live = sadd pos s.spe.live
      ∧ (∀ u ∈ t.spe.units, (t.spe.unit u.unit).sealed = decide (u.unit ∈ s.spe.ecseals)) ∧ t.mem = s.mem)

/-- The instructions of the erasure-coded groups and the close of a pour. -/
def Obligations.PourUnits : Prop := Claim.PourInstructions ∧ Claim.EcprotProtects ∧ Claim.PourClose

/-- The votes and decisions of a pour, and the membership of a coding group. -/
def Obligations.PourProtocol : Prop := Claim.PourDecisions ∧ Claim.CodingGroupMembership

namespace Sys2Proof.Claim

open Sys2Proof.Machine

/-- What the rules fix of a vector instruction's shape: its word, the width of its result type, the entries that it takes from each queue (0 for none), whether it has a second queue, its latency (R81), whether only guarded lanes are written, and the condition of its extension word. -/
structure VecShape where
  f : XVec
  w : Nat
  pops : Nat
  two : Bool
  lat : Nat
  guarded : Bool
  ok : Bool

/-- Two-source and one-source instructions on a type of width `w`. -/
def shape2 (f : XVec) (w lat : Nat) : VecShape := ⟨f, w, if w = 64 then 2 else 1, true, lat, true, true⟩
def shape1 (f : XVec) (w lat : Nat) : VecShape := ⟨f, w, if w = 64 then 2 else 1, false, lat, true, true⟩

/-- The shapes of the X instructions that write matrix slices (R124, R129 to R143). -/
def vecShape : Instr → Option VecShape
  | .vadd f | .vsub f | .vmul f | .vfma f _ | .vfms f _ | .vfnma f _ => some (shape2 f (fpType f.tr).width 4)
  | .vmin f | .vmax f | .vminnum f | .vmaxnum f => some (shape2 f (fpType f.tr).width 2)
  | .vrcp f | .vrsq f | .vexp2 f | .vlog2 f => some (shape1 f (fpType f.tr).width 8)
  | .vsqrt f => some (shape1 f (fpType f.tr).width 12)
  | .vclass f => some (shape1 f (fpType f.tr).width 2)
  | .viadd f | .visub f | .vand f | .vor f | .vxor f | .vshl f | .vshr f | .vsra f | .vimin f | .vimax f => some (shape2 f (intType f.tr).1 2)
  | .vimul f | .vimulh f | .vimad f _ => some (shape2 f (intType f.tr).1 4)
  | .viaddw f | .vimadw f _ => some ⟨f, 64, 1, true, 4, true, true⟩
  | .vclz f | .vpopc f => some (shape1 f (intType f.tr).1 2)
  | .vcvt f ext =>
    let wd := (cvtType (ext.extractLsb' 12 4).toNat).width
    let ws := (cvtType (ext.extractLsb' 8 4).toNat).width
    some ⟨f, wd, if ws = 64 then 2 else 1, false, 3, true, decide ((ext.extractLsb' 4 3).toNat < max (perVec ws) (perVec wd) / min (perVec ws) (perVec wd))⟩
  | .vqmx f ext => some ⟨f, (mxElem (ext.extractLsb' 16 2).toNat).width, 1, false, 6, false, decide ((ext.extractLsb' 0 3).toNat ≤ mxPartMax (mxElem (ext.extractLsb' 16 2).toNat))⟩
  | .vdqmx f ext => some ⟨f, 32, 1, false, 4, true, decide ((ext.extractLsb' 0 3).toNat ≤ mxPartMax (mxElem (ext.extractLsb' 16 2).toNat))⟩
  | .vscan f => some (shape1 f (scanType f).1.width 6)
  | .vscanWide f => some ⟨f, 64, 1, false, 8, true, true⟩
  | .vred f => some (shape1 f (scanType f).1.width 6)
  | .vperm f => some ⟨f, 32, 1, true, 3, false, true⟩
  | .vrot f _ => some ⟨f, 32, 1, false, 2, false, true⟩
  | .vbcast f _ => some ⟨f, (intType f.tr).1, 0, false, 2, false, true⟩
  | .vsel f _ => some ⟨f, 32, 1, true, 2, false, true⟩
  | .vmov f => some ⟨f, 32, 1, false, 1, false, true⟩
  | .vlane f => some ⟨f, (intType f.tr).1, 0, false, 2, false, true⟩
  | .vins f ext => some ⟨f, (intType f.tr).1, 0, false, 2, false, decide ((ext.extractLsb' 0 8).toNat < perVec (intType f.tr).1)⟩
  | _ => none

/-- `n` entries of a queue are visible (R42). -/
def ready (s : State) (q : BitVec 3) (n : Nat) : Prop :=
  n ≤ (s.cur.queue q.toNat).length ∧ ∀ e ∈ (s.cur.queue q.toNat).take n, e.vis ≤ s.cur.now

/-- The destination is a legal slice, or slice pair for a 64-bit type (R45, R60). -/
def legalDest (f : XVec) (w : Nat) : Prop := f.dreg.toNat ≤ 191 ∧ (w = 64 → f.dir = 0 ∧ f.slice.toNat % 2 = 0)

/-- The active lanes of a modifier word without a poisoned guard (R65, R126). -/
def activeLanes (s : State) (md : ModWord) (act : W32) : Prop :=
  match md with
  | none => act = 0xFFFFFFFF
  | some m =>
    if m.getLsbD 28 then
      (s.cur.rp (m.extractLsb' 24 4).toNat).pz = none
        ∧ act = if m.getLsbD 29 then ~~~(s.cur.rp (m.extractLsb' 24 4).toNat).v else (s.cur.rp (m.extractLsb' 24 4).toNat).v
    else act = 0xFFFFFFFF

/-- A write that a vector instruction may make: a word of an active lane of its destination, flags, or VQMX's scale byte. -/
def laneWrite (s : State) (h : VecShape) (act : W32) (w : Write) : Prop :=
  (∃ i < 32, ∃ k, ∃ v : W32, ∃ p, (h.guarded = true → act.getLsbD i = true) ∧ (k = h.f.slice.toNat ∨ (h.w = 64 ∧ k = h.f.slice.toNat + 1))
    ∧ w = .bytes (wordAddr s h.f.dreg.toNat (laneRow h.f.dir k i) (laneCol h.f.dir k i)) (natLe 4 v.toNat) p)
  ∨ (∃ fl, w = .flags fl) ∨ (∃ n part v old pz, w = .byteOf n part v old pz)

/-- The frame of a vector instruction: its queues lose the entries that it took, results of active lanes are in flight at its latency, generators may step; every other register, queue and flag, memory and every other agent stand. -/
def vecFrame (s t : State) (h : VecShape) (act : W32) : Prop :=
  othersKeep s t ∧ seqMoved s.cur t.cur .x 1
  ∧ coreKeeps { s.cur with q := t.cur.q, srseed := t.cur.srseed } t.cur
  ∧ (∀ q, q ≠ h.f.qa.toNat → q ≠ h.f.qb.toNat → t.cur.queue q = s.cur.queue q)
  ∧ t.cur.queue h.f.qa.toNat = (s.cur.queue h.f.qa.toNat).drop h.pops
  ∧ t.cur.queue h.f.qb.toNat = (s.cur.queue h.f.qb.toNat).drop (if h.two || h.f.qa == h.f.qb then h.pops else 0)
  ∧ ∃ ws, t.cur.pend = (s.cur.emits .x h.lat ws).pend ∧ ∀ w ∈ ws, laneWrite s h act w

end Sys2Proof.Claim

/-- Every vector instruction of X that writes slices completes with its frame (R42, R45, R81, R124, R126, R129 to R143): the destination and the extension word legal, the guard unpoisoned, its sources visible. -/
def Claim.VectorCompletes : Prop :=
  ∀ (i : Instr) (s : State) (h : VecShape) (act : W32), vecShape i = some h → h.ok = true → legalDest h.f h.w → activeLanes s h.f.md act →
    ready s h.f.qa h.pops → (h.two = true → ready s h.f.qb h.pops) → completes i s fun t => vecFrame s t h act

/-- Where a vector instruction traps (R42, R45, R60, R126, R278): an illegal destination or part is an illegal operand, a poisoned guard is consumed, and a source without a visible entry underflows with nothing popped. -/
def Claim.VectorTraps : Prop :=
  ∀ (i : Instr) (s : State) (h : VecShape), vecShape i = some h →
    (¬legalDest h.f h.w → traps i s .x (TrapInfo.of 0x02 .x))
    ∧ (legalDest h.f h.w → h.ok = false → ∀ act, activeLanes s h.f.md act → traps i s .x (TrapInfo.of 0x02 .x))
    ∧ (legalDest h.f h.w → h.ok = true → ∀ m r, h.f.md = some m → m.getLsbD 28 = true → (s.cur.rp (m.extractLsb' 24 4).toNat).pz = some r →
        traps i s .x (TrapInfo.poison .x r))
    ∧ (legalDest h.f h.w → h.ok = true → ∀ act, activeLanes s h.f.md act → 0 < h.pops →
        (¬ready s h.f.qa h.pops → traps i s .x (TrapInfo.of 0x0B .x))
        ∧ (h.two = true → ready s h.f.qa h.pops → ¬ready s h.f.qb h.pops → traps i s .x (TrapInfo.of 0x0B .x)))

namespace Sys2Proof.Claim

open Sys2Proof.Machine

/-- Element `j` of width `w` of the entries at a queue's head (R44, R124). -/
def qElem (s : State) (q : BitVec 3) (w j : Nat) : Nat :=
  let e (n : Nat) : QEntry := (s.cur.queue q.toNat).getD n ⟨[], [], 0, 0⟩
  if w = 64 then ((e 1).lanes.getD j 0).toNat * 2 ^ 32 + ((e 0).lanes.getD j 0).toNat
  else ((e 0).lanes.getD (j / (32 / w)) 0).toNat / 2 ^ (j % (32 / w) * w) % 2 ^ w

/-- Whether lane `i` of the entries taken is poisoned. -/
def qPoison (s : State) (q : BitVec 3) (w i : Nat) : Bool :=
  let e (n : Nat) : QEntry := (s.cur.queue q.toNat).getD n ⟨[], [], 0, 0⟩
  (if w = 64 then List.zipWith (· || ·) (e 0).pz (e 1).pz else (e 0).pz).getD i false

/-- The third source (R125): a scalar's low bits, or the extension word, with its poison. -/
def third (s : State) (ext : BitVec 32) (w : Nat) (sg : Bool) : Nat × Option PRec :=
  if ext.toNat / 64 = 0x1FFFFFF then ((s.cur.rs (ext.toNat % 64)).v.toNat % 2 ^ w, (s.cur.rs (ext.toNat % 64)).pz)
  else if w = 64 then ((if sg then ext.signExtend 64 else ext.zeroExtend 64).toNat, none) else (ext.toNat % 2 ^ w, none)

/-- An instruction whose elements are computed one by one: its word, width, latency and sources, the code of each element, the poison of what it reads beside the queues, and whether its results are rounded stochastically. -/
structure ElemOp where
  f : XVec
  w : Nat
  lat : Nat
  two : Bool
  code : Nat → Nat
  third : Option PRec
  stochastic : Bool

/-- A floating-point operation (R129, R130): the exact value of the operands, rounded once to the type. -/
def fpElem2 (s : State) (f : XVec) (lat : Nat) (op : Fv → Fv → Fv) : ElemOp :=
  let t := fpType f.tr
  let rd (q : BitVec 3) (j : Nat) : Fv := let v := t.decode (qElem s q t.width j); if s.cur.fpctl.getLsbD 0 then t.flushIn v else v
  ⟨f, t.width, lat, true, fun j => (t.round (fpMode f.tr) 0 false (s.cur.fpctl.getLsbD 1) false (op (rd f.qa j) (rd f.qb j))).code, none, fpMode f.tr == .sr⟩

/-- A floating-point function of one operand (R131). -/
def fpElem1 (s : State) (f : XVec) (lat : Nat) (op : Fv → Fv) : ElemOp :=
  let t := fpType f.tr
  let rd (j : Nat) : Fv := let v := t.decode (qElem s f.qa t.width j); if s.cur.fpctl.getLsbD 0 then t.flushIn v else v
  ⟨f, t.width, lat, false, fun j => (t.round (fpMode f.tr) 0 false (s.cur.fpctl.getLsbD 1) false (op (rd j))).code, none, fpMode f.tr == .sr⟩

/-- A fused multiply-add with its third source (R129). -/
def fpElem3 (s : State) (f : XVec) (ext : BitVec 32) (np nb : Bool) : ElemOp :=
  let t := fpType f.tr
  let fl (v : Fv) : Fv := if s.cur.fpctl.getLsbD 0 then t.flushIn v else v
  let x := third s ext t.width false
  ⟨f, t.width, 4, true, fun j =>
    (t.round (fpMode f.tr) 0 false (s.cur.fpctl.getLsbD 1) false
      (fmaV (fpMode f.tr = .rdn) np nb (fl (t.decode (qElem s f.qa t.width j))) (fl (t.decode x.1)) (fl (t.decode (qElem s f.qb t.width j)))).1).code, x.2, fpMode f.tr == .sr⟩

/-- An integer operation on values (R134): the result modulo 2^w, of sources of width `ws`. -/
def intElem (s : State) (f : XVec) (ws w lat : Nat) (sg two : Bool) (t : Option PRec) (op : Int → Int → Int) : ElemOp :=
  let rd (q : BitVec 3) (j : Nat) : Int :=
    let c := qElem s q ws j
    if sg && decide (2 ^ (ws - 1) ≤ c) then (c : Int) - 2 ^ ws else c
  ⟨f, w, lat, two, fun j => (op (rd f.qa j) (if two then rd f.qb j else 0) % 2 ^ w).toNat, t, false⟩

/-- A signed or unsigned value of a pattern. -/
def asInt (w : Nat) (sg : Bool) (c : Nat) : Int := if sg && decide (2 ^ (w - 1) ≤ c % 2 ^ w) then ((c % 2 ^ w : Nat) : Int) - 2 ^ w else (c % 2 ^ w : Nat)

/-- The class bit of a value of a format (R133). -/
def classNo (f : Fmt) (v : Fv) : Nat :=
  match v with
  | .nan sg => if sg then 0 else 1
  | .inf n => if n then 2 else 9
  | .num n m _ => if m = 0 then (if n then 5 else 6) else if m < 2 ^ f.mb then (if n then 4 else 7) else (if n then 3 else 8)

/-- The elements of R129 to R131 and R133 to R135. -/
def elemOp (s : State) : Instr → Option ElemOp
  | .vadd f => some (fpElem2 s f 4 (fun a b => (addV (fpMode f.tr = .rdn) a b).1))
  | .vsub f => some (fpElem2 s f 4 (fun a b => (addV (fpMode f.tr = .rdn) a b.neg).1))
  | .vmul f => some (fpElem2 s f 4 (fun a b => (mulV a b).1))
  | .vfma f e => some (fpElem3 s f e false false)
  | .vfms f e => some (fpElem3 s f e false true)
  | .vfnma f e => some (fpElem3 s f e true false)
  | .vmin f => some (fpElem2 s f 2 (fun a b => (minmaxV false a b).1))
  | .vmax f => some (fpElem2 s f 2 (fun a b => (minmaxV true a b).1))
  | .vrcp f => some (fpElem1 s f 8 (fun v => (rcpV (fpType f.tr) v).v))
  | .vrsq f => some (fpElem1 s f 8 (fun v => (rsqV (fpType f.tr) v).v))
  | .vsqrt f => some (fpElem1 s f 12 (fun v => (sqrtFn v).v))
  | .vexp2 f => some (fpElem1 s f 8 (fun v => (exp2V (fpType f.tr) v).v))
  | .vlog2 f => some (fpElem1 s f 8 (fun v => (log2V (fpType f.tr) v).v))
  | .vclass f => some ⟨f, (fpType f.tr).width, 2, false, fun j => 2 ^ classNo (fpType f.tr) ((fpType f.tr).decode (qElem s f.qa (fpType f.tr).width j)), none, false⟩
  | .vminnum f => some (fpElem2 s f 2 (fun a b => (minmaxNumV false a b).1))
  | .vmaxnum f => some (fpElem2 s f 2 (fun a b => (minmaxNumV true a b).1))
  | .viadd f => some (intElem s f (intType f.tr).1 (intType f.tr).1 2 (intType f.tr).2 true none (· + ·))
  | .visub f => some (intElem s f (intType f.tr).1 (intType f.tr).1 2 (intType f.tr).2 true none (· - ·))
  | .vimul f => some (intElem s f (intType f.tr).1 (intType f.tr).1 4 (intType f.tr).2 true none (· * ·))
  | .vimulh f => some (intElem s f (intType f.tr).1 (intType f.tr).1 4 (intType f.tr).2 true none (fun a b => a * b / 2 ^ (intType f.tr).1))
  | .vimad f e =>
    let t := third s e (intType f.tr).1 (intType f.tr).2
    some (intElem s f (intType f.tr).1 (intType f.tr).1 4 (intType f.tr).2 true t.2 (fun a b => a * asInt (intType f.tr).1 (intType f.tr).2 t.1 + b))
  | .viaddw f => some (intElem s f 32 64 4 (intType f.tr).2 true none (· + ·))
  | .vimadw f e =>
    let t := third s e 32 (intType f.tr).2
    some (intElem s f 32 64 4 (intType f.tr).2 true t.2 (fun a b => a * asInt 32 (intType f.tr).2 t.1 + b))
  | .vand f => some { intElem s f (intType f.tr).1 (intType f.tr).1 2 false true none (fun _ _ => 0) with code := fun j => qElem s f.qa (intType f.tr).1 j &&& qElem s f.qb (intType f.tr).1 j }
  | .vor f => some { intElem s f (intType f.tr).1 (intType f.tr).1 2 false true none (fun _ _ => 0) with code := fun j => qElem s f.qa (intType f.tr).1 j ||| qElem s f.qb (intType f.tr).1 j }
  | .vxor f => some { intElem s f (intType f.tr).1 (intType f.tr).1 2 false true none (fun _ _ => 0) with code := fun j => qElem s f.qa (intType f.tr).1 j ^^^ qElem s f.qb (intType f.tr).1 j }
  | .vshl f => some (intElem s f (intType f.tr).1 (intType f.tr).1 2 false true none (fun a b => a * 2 ^ (b.toNat % (intType f.tr).1)))
  | .vshr f => some (intElem s f (intType f.tr).1 (intType f.tr).1 2 false true none (fun a b => a / 2 ^ (b.toNat % (intType f.tr).1)))
  | .vsra f => some (intElem s f (intType f.tr).1 (intType f.tr).1 2 (intType f.tr).2 true none (fun a b => a / 2 ^ ((b % 2 ^ (intType f.tr).1).toNat % (intType f.tr).1)))
  | .vimin f => some (intElem s f (intType f.tr).1 (intType f.tr).1 2 (intType f.tr).2 true none min)
  | .vimax f => some (intElem s f (intType f.tr).1 (intType f.tr).1 2 (intType f.tr).2 true none max)
  | .vclz f => some (intElem s f (intType f.tr).1 (intType f.tr).1 2 false false none (fun a _ => if a = 0 then (intType f.tr).1 else ((intType f.tr).1 - 1 - a.toNat.log2 : Nat)))
  | .vpopc f => some (intElem s f (intType f.tr).1 (intType f.tr).1 2 false false none (fun a _ => ((List.range (intType f.tr).1).countP (fun k => a.toNat.testBit k) : Nat)))
  | _ => none

/-- A value rounded to a type (R15, R27, R134, R137): to a format once; to an integer limited to the type's range from a format, 0 for a NaN, and modulo 2^w from an integer. -/
def finishCode (s : State) (t : Ety) (mode : Rm) (fromFp : Bool) (v : Fv) : Nat :=
  match t with
  | .fp f => (f.round mode 0 false (s.cur.fpctl.getLsbD 1) false v).code
  | .int w sg =>
    let lo : Int := if sg then -(2 ^ (w - 1)) else 0
    let hi : Int := if sg then 2 ^ (w - 1) - 1 else 2 ^ w - 1
    match v with
    | .nan _ => 0
    | .inf n => ((if n then lo else hi) % 2 ^ w).toNat
    | .num n m e =>
      let x := (roundIntV mode 0 n m e).1
      ((if fromFp then max lo (min hi x) else x) % 2 ^ w).toNat

/-- An element of a queue as a value of a type, as FZI lets it be read (R12, R15, R26). -/
def qRead (s : State) (q : BitVec 3) (t : Ety) (j : Nat) : Fv :=
  match t with
  | .fp f => let v := f.decode (qElem s q f.width j); if s.cur.fpctl.getLsbD 0 then f.flushIn v else v
  | .int w sg => Fv.ofInt (asInt w sg (qElem s q w j))

/-- The value of a scan after element `j` of the sources (R140): the combination, in ascending order, of all elements up to it. -/
def scanValue (op : Nat) (t : Ety) (wrapW : Nat) (mode : Rm) (x : Nat → Fv) : Nat → Fv
  | 0 => x 0
  | n + 1 => (combine op t wrapW mode 0 (scanValue op t wrapW mode x n) (x (n + 1))).1

/-- Conversions, block formats, scans and reductions (R16, R17, R136 to R141), whose results need all sources: the elements, with the number of the first destination element and how many there are. -/
def wholeOp (s : State) : Instr → Option (ElemOp × Nat × Nat)
  | .vcvt f ext =>
    let td := cvtType (ext.extractLsb' 12 4).toNat
    let ts := cvtType (ext.extractLsb' 8 4).toNat
    let part := (ext.extractLsb' 4 3).toNat
    let n := min (perVec ts.width) (perVec td.width)
    let src := if perVec ts.width ≤ perVec td.width then 0 else part * n
    let dst := if perVec ts.width ≤ perVec td.width then part * n else 0
    some (⟨f, td.width, 3, false, fun j => finishCode s td (fpMode f.tr) ts.isFp (qRead s f.qa ts (src + (j - dst))), none, fpMode f.tr == .sr⟩, dst, n)
  | .vqmx f ext =>
    let e := mxElem (ext.extractLsb' 16 2).toNat
    let x : List Fv := (List.range 32).map (fun i => Fmt.f32.decode (qElem s f.qa 32 i))
    let dst := 32 * (ext.extractLsb' 0 3).toNat
    some (⟨f, e.width, 6, false, fun j =>
      if x.any Fv.isNan then 0 else (mxElement e (ext.getLsbD 18) (fpMode f.tr) 0 (mxShared e x) (x.getD (j - dst) (.num false 0 0))).code, none, fpMode f.tr == .sr⟩, dst, 32)
  | .vdqmx f ext =>
    let e := mxElem (ext.extractLsb' 16 2).toNat
    let part := (ext.extractLsb' 0 3).toNat
    let sc := s.cur.rs (ext.extractLsb' 8 6).toNat
    some (⟨f, 32, 4, false, fun j =>
      (Fmt.f32.round (fpMode f.tr) 0 false false false (mulV (e8m0 (sc.v.toNat / 2 ^ (8 * part) % 256)) (e.decode (qElem s f.qa e.width (32 * part + j)))).1).code,
      sc.pz, fpMode f.tr == .sr⟩, 0, 32)
  | .vscan f =>
    let (t, mode) := scanType f
    some (⟨f, t.width, 6, false, fun j => finishCode s t mode t.isFp (scanValue (f.qb.extractLsb' 0 2).toNat t t.width mode (qRead s f.qa t) j), none, mode == .sr⟩, 0, perVec t.width)
  | .vscanWide f =>
    let sg := (intType f.tr).2
    some (⟨f, 64, 8, false, fun j =>
      finishCode s (.int 64 sg) (intMode f.tr) false (scanValue (f.qb.extractLsb' 0 2).toNat (.int 32 sg) 64 (intMode f.tr) (qRead s f.qa (.int 32 sg)) j), none, false⟩, 0, 32)
  | .vred f =>
    let (t, mode) := scanType f
    some (⟨f, t.width, 6, false, fun _ =>
      finishCode s t mode t.isFp (scanValue (f.qb.extractLsb' 0 2).toNat t t.width mode (qRead s f.qa t) (perVec t.width - 1)), none, mode == .sr⟩, 0, perVec t.width)
  | _ => none

/-- The result in flight for lane `i` holds the elements `code` (R44, R45). -/
def laneHolds (s t : State) (o : ElemOp) (i : Nat) : Prop :=
  let at_ (k : Nat) (v : W32) : Prop :=
    (⟨s.cur.now + o.lat, s.cur.now, Engine.x.rank, .bytes (wordAddr s o.f.dreg.toNat (laneRow o.f.dir k i) (laneCol o.f.dir k i)) (natLe 4 v.toNat) false⟩ : Pend) ∈ t.cur.pend
  if o.w = 64 then at_ o.f.slice.toNat (BitVec.ofNat 32 (o.code i)) ∧ at_ (o.f.slice.toNat + 1) (BitVec.ofNat 32 (o.code i / 2 ^ 32))
  else at_ o.f.slice.toNat (BitVec.ofNat 32 (((List.range (32 / o.w)).map (fun k => o.code (i * (32 / o.w) + k) * 2 ^ (k * o.w))).sum))

end Sys2Proof.Claim

/-- The elements of vector arithmetic without a modifier word and outside stochastic rounding (R24 to R26, R44, R129 to R131, R133 to R135): the instruction completes, and every lane whose sources are unpoisoned receives the exact results, rounded once or taken modulo 2^w. -/
def Claim.VectorArithmetic : Prop :=
  ∀ (i : Instr) (s : State) (o : ElemOp), elemOp s i = some o → o.f.md = none → o.third = none → legalDest o.f o.w → o.stochastic = false →
    (∀ h, vecShape i = some h → ready s o.f.qa h.pops ∧ (o.two = true → ready s o.f.qb h.pops)) →
    completes i s fun t => ∀ l < 32, (∀ h, vecShape i = some h →
        qPoison s o.f.qa (if h.pops = 2 then 64 else 32) l = false ∧ (o.two = true → qPoison s o.f.qb (if h.pops = 2 then 64 else 32) l = false)) →
      laneHolds s t o l

/-- Conversions, block formats, scans and reductions without a modifier word and outside stochastic rounding (R16, R17, R27, R136 to R141): with unpoisoned sources the instruction completes, and every destination lane of its range receives its results; VQMX puts the scale code of the block in its byte of the scale register. -/
def Claim.VectorConversionsAndScans : Prop :=
  (∀ (i : Instr) (s : State) (o : ElemOp) (lo n : Nat), wholeOp s i = some (o, lo, n) → o.f.md = none → o.third = none → legalDest o.f o.w → o.stochastic = false →
    (∀ h, vecShape i = some h → h.ok = true ∧ ready s o.f.qa h.pops ∧ ∀ e ∈ (s.cur.queue o.f.qa.toNat).take h.pops, ∀ b ∈ e.pz, b = false) →
    completes i s fun t => ∀ l < 32, lo ≤ l * perLane o.w → l * perLane o.w < lo + n → laneHolds s t o l)
  ∧ (∀ (f : XVec) (ext : BitVec 32) (s : State) (sh : Nat), f.md = none → legalDest f (mxElem (ext.extractLsb' 16 2).toNat).width →
    (ext.extractLsb' 0 3).toNat ≤ mxPartMax (mxElem (ext.extractLsb' 16 2).toNat) → ready s f.qa 1 → (∀ e ∈ (s.cur.queue f.qa.toNat).take 1, ∀ b ∈ e.pz, b = false) →
    (let x : List Fv := (List.range 32).map (fun i => Fmt.f32.decode (qElem s f.qa 32 i))
     sh = (if x.any Fv.isNan then 255 else (mxShared (mxElem (ext.extractLsb' 16 2).toNat) x + 127).toNat)) →
    completes (.vqmx f ext) s fun t =>
      (⟨s.cur.now + 6, s.cur.now, Engine.x.rank, .byteOf (ext.extractLsb' 8 6).toNat (ext.extractLsb' 0 3).toNat (BitVec.ofNat 8 sh)
        (s.cur.rs (ext.extractLsb' 8 6).toNat).v (s.cur.rs (ext.extractLsb' 8 6).toNat).pz⟩ : Pend) ∈ t.cur.pend)

/-- Vector moves, compares and extracts (R94, R132, R142, R143): VMOV, VSEL, VPERM and VROT place whole lanes with their tags; VLANE numbers elements; VCMP writes a predicate of the lanes whose elements all satisfy its condition; VEXT writes a scalar with the extended element and its tag; each at its latency. -/
def Obligations.VectorMovesAndPredicates : Prop :=
  let put (s t : State) (f : XVec) (lat i : Nat) (x : W32 × Bool) : Prop :=
    (⟨s.cur.now + lat, s.cur.now, Engine.x.rank, .bytes (wordAddr s f.dreg.toNat (laneRow f.dir f.slice.toNat i) (laneCol f.dir f.slice.toNat i)) (natLe 4 x.1.toNat) x.2⟩ : Pend) ∈ t.cur.pend
  let lane (s : State) (q : BitVec 3) (i : Nat) : W32 × Bool :=
    (((s.cur.queue q.toNat).getD 0 ⟨[], [], 0, 0⟩).lanes.getD i 0, ((s.cur.queue q.toNat).getD 0 ⟨[], [], 0, 0⟩).pz.getD i false)
  (∀ (f : XVec) (s : State), f.md = none → legalDest f 32 → ready s f.qa 1 →
    (completes (.vmov f) s fun t => ∀ i < 32, put s t f 1 i (lane s f.qa i))
    ∧ (∀ (ext : BitVec 32), (third s ext 32 false).2 = none →
        completes (.vrot f ext) s fun t => ∀ i < 32, put s t f 2 i (lane s f.qa ((i + (third s ext 32 false).1) % 32)))
    ∧ (ready s f.qb 1 →
        (∀ (ext : BitVec 32), (s.cur.rp (ext.extractLsb' 0 4).toNat).pz = none →
          completes (.vsel f ext) s fun t => ∀ i < 32,
            put s t f 2 i (if ((s.cur.rp (ext.extractLsb' 0 4).toNat).v.getLsbD i != ext.getLsbD 4) then lane s f.qa i else lane s f.qb i))
        ∧ (completes (.vperm f) s fun t => ∀ i < 32, (lane s f.qb i).2 = false →
            put s t f 3 i (if (lane s f.qb i).1.getLsbD 7 then (0, false) else lane s f.qa ((lane s f.qb i).1.extractLsb' 0 5).toNat))))
  ∧ (∀ (f : XVec) (s : State), f.md = none → legalDest f (intType f.tr).1 → (intType f.tr).1 = 32 →
    (completes (.vlane f) s fun t => ∀ i < 32, put s t f 2 i (BitVec.ofNat 32 i, false))
    ∧ (∀ ext : BitVec 32, (third s ext 32 (intType f.tr).2).2 = none →
        completes (.vbcast f ext) s fun t => ∀ i < 32, put s t f 2 i (BitVec.ofNat 32 (third s ext 32 (intType f.tr).2).1, false))
    ∧ (∀ ext : BitVec 32, (ext.extractLsb' 0 8).toNat < 32 →
        completes (.vins f ext) s fun t => put s t f 2 (ext.extractLsb' 0 8).toNat
          ((s.cur.rs (ext.extractLsb' 8 6).toNat).v.extractLsb' 0 32, (s.cur.rs (ext.extractLsb' 8 6).toNat).pz.isSome)))
  ∧ (∀ (f : XVec) (s : State) (cc : Nat), f.md = none → f.slice.getLsbD 4 = true → (f.slice.extractLsb' 0 4).toNat = cc → cc < 6 → (intType f.tr).1 = 32 →
    ready s f.qa 1 → ready s f.qb 1 → (∀ i < 32, (lane s f.qa i).2 = false ∧ (lane s f.qb i).2 = false) →
    completes (.vcmp f) s fun t => ∃ v : W32,
      (∀ i < 32, v.getLsbD i = true ↔
        let a := asInt 32 (intType f.tr).2 (lane s f.qa i).1.toNat
        let b := asInt 32 (intType f.tr).2 (lane s f.qb i).1.toNat
        (cc = 0 ∧ a = b) ∨ (cc = 1 ∧ a ≠ b) ∨ (cc = 2 ∧ a < b) ∨ (cc = 3 ∧ b ≤ a) ∨ (cc = 4 ∧ b < a) ∨ (cc = 5 ∧ a ≤ b))
      ∧ othersKeep s t ∧ seqMoved s.cur t.cur .x 1 ∧ coreKeeps { s.cur with q := t.cur.q } t.cur
      ∧ puts s.cur t.cur .x 2 [.predicate (f.dreg.extractLsb' 0 4).toNat v 0xFFFFFFFF none])
  ∧ (∀ (f : XVec) (ext : BitVec 32) (s : State) (w j : Nat), (intType f.tr).1 = w → (ext.extractLsb' 0 8).toNat = j → j < perVec w → ready s f.qa (if w = 64 then 2 else 1) →
    completes (.vext f ext) s fun t => othersKeep s t ∧ seqMoved s.cur t.cur .x 1 ∧ coreKeeps { s.cur with q := t.cur.q } t.cur
      ∧ puts s.cur t.cur .x 3 [.scalar (f.dreg.extractLsb' 0 6).toNat (BitVec.ofInt 64 (asInt w (intType f.tr).2 (qElem s f.qa w j)))
        (if qPoison s f.qa w (if w = 64 then j else j / (32 / w)) then some ⟨1, 0⟩ else none)])

/-- The results of vector arithmetic, of conversions, block formats, scans and reductions. -/
def Obligations.VectorElements : Prop := Claim.VectorArithmetic ∧ Claim.VectorConversionsAndScans

/-- Every vector instruction completes where it is legal, and traps where it is not. -/
def Obligations.VectorInstructions : Prop := Claim.VectorCompletes ∧ Claim.VectorTraps

namespace Sys2Proof.Claim

open Sys2Proof.Machine

/-- A device semaphore (R325, R357): its address, its 8 bytes little-endian, and whether they are poisoned. -/
def semAt (n : BitVec 10) : Nat := semBase + 8 * n.toNat
def semaphore (s : State) (n : BitVec 10) : W64 := BitVec.ofNat 64 (leNat (s.mem.rdN (semAt n) 8))
def semPoisoned (s : State) (n : BitVec 10) : Bool := poisonedIn s.pz (semAt n) 8

/-- The issuing agent's context was granted the semaphore, or the compute queue (R322, R326, R371). -/
def ownsSem (s : State) (n : BitVec 10) : Prop :=
  ∃ x c, s.myCtx = some x ∧ s.context x = some c ∧ c.semFirst ≤ n.toNat ∧ n.toNat < c.semFirst + c.semCount
def ownsQueue (s : State) (q : BitVec 4) : Prop := ∃ x c, s.myCtx = some x ∧ s.context x = some c ∧ c.cqMask.testBit q.toNat = true

end Sys2Proof.Claim

/-- SEMWGE, SEMADD and SEMSET (R322, R325) on a granted semaphore: SEMWGE waits while the word is below its operand and then answers it; SEMADD, after every earlier load has its value (R246) and every earlier store has been made visible, adds and answers the old value; SEMSET writes and clears the poison. A poisoned word is consumed by the first two, and one that was not granted is an illegal operand. -/
def Claim.SemaphoreWords : Prop :=
  (∀ (f : SemWord) (s : State), sp s f.sa = none → ownsSem s f.sem →
    (semPoisoned s f.sem = false →
      ((sv s f.sa).toNat ≤ (semaphore s f.sem).toNat →
        completes (.semwge f) s fun t => onlyResults s t .s 1 1 [.scalar f.sd.toNat (semaphore s f.sem) none])
      ∧ ((semaphore s f.sem).toNat < (sv s f.sa).toNat →
        completes (.semwge f) s fun t => t = s.modCur (fun c => { c with turn := c.turn + 1 }))
      ∧ completes (.semadd f) s fun t =>
          issuedOn (s.bindRc.drainAll.wrB (semAt f.sem) (natLe 8 (semaphore s f.sem + sv s f.sa).toNat) false) t .s fun c =>
            c.emit .s 1 (.scalar f.sd.toNat (semaphore s f.sem) none))
    ∧ (completes (.semset f) s fun t => issuedOn (s.bindRc.drainAll.wrB (semAt f.sem) (natLe 8 (sv s f.sa).toNat) false) t .s id)
    ∧ (semPoisoned s f.sem = true →
        traps (.semwge f) s .s (TrapInfo.poison .s ⟨1, BitVec.ofNat 52 (semAt f.sem)⟩)
        ∧ traps (.semadd f) s .s (TrapInfo.poison .s ⟨1, BitVec.ofNat 52 (semAt f.sem)⟩)))
  ∧ (∀ (f : SemWord) (s : State) (x : Nat), s.myCtx = some x → sp s f.sa = none → ¬ownsSem s f.sem →
    traps (.semwge f) s .s (TrapInfo.of 0x02 .s) ∧ traps (.semadd f) s .s (TrapInfo.of 0x02 .s) ∧ traps (.semset f) s .s (TrapInfo.of 0x02 .s))
  ∧ (∀ (f : SemWord) (s : State) (r : PRec), sp s f.sa = some r →
    traps (.semwge f) s .s (TrapInfo.poison .s r) ∧ traps (.semadd f) s .s (TrapInfo.poison .s r) ∧ traps (.semset f) s .s (TrapInfo.poison .s r))

/-- QSUB (R323): after every earlier load has its value (R246) and every earlier store has been made visible, the address joins the queue and 0 is the answer; a queue of 64 stays as it is and answers all ones. INTR (R324): the vector is sent, or held pending while it is masked; the unmasking sends a pending one, and does nothing after a failed boot (R429). -/
def Claim.QueuesAndInterrupts : Prop :=
  (∀ (f : QueWord) (s : State), sp s f.sa = none → (sv s f.sa).toNat % 128 = 0 → ownsQueue s f.q →
    ((tget [] s.cqs f.q.toNat).length < 64 →
      completes (.qsub f) s fun t =>
        issuedOn { s.bindRc.drainAll with cqs := tset [] s.bindRc.drainAll.cqs f.q.toNat (tget [] s.cqs f.q.toNat ++ [⟨(sv s f.sa).toNat % 2 ^ 52, f.ser == 1⟩]) } t .s fun c =>
          c.emit .s 1 (.scalar f.sd.toNat 0 none))
    ∧ (64 ≤ (tget [] s.cqs f.q.toNat).length →
      completes (.qsub f) s fun t => issuedOn s.bindRc.drainAll t .s fun c => c.emit .s 1 (.scalar f.sd.toNat 0xFFFFFFFFFFFFFFFF none)))
  ∧ (∀ (f : QueWord) (s : State) (x : Nat), s.myCtx = some x → sp s f.sa = none → ((sv s f.sa).toNat % 128 ≠ 0 ∨ ¬ownsQueue s f.q) →
    traps (.qsub f) s .s (TrapInfo.of 0x02 .s))
  ∧ (∀ (f : QueWord) (s : State), sp s f.sa = none →
    ((sv s f.sa).toNat < 2048 →
      completes (.intr f) s fun t =>
        issuedOn (if s.drainAll.msixMask.getLsbD (sv s f.sa).toNat
          then { s.drainAll with msixPend := s.drainAll.msixPend ||| (1#2048 <<< (sv s f.sa).toNat) }
          else { s.drainAll with outbox := s.drainAll.outbox ++ [.msix (sv s f.sa).toNat] }) t .s id)
    ∧ (2048 ≤ (sv s f.sa).toNat → traps (.intr f) s .s (TrapInfo.of 0x02 .s)))
  ∧ (∀ (f : QueWord) (s : State) (r : PRec), sp s f.sa = some r → traps (.qsub f) s .s (TrapInfo.poison .s r) ∧ traps (.intr f) s .s (TrapInfo.poison .s r))
  ∧ (∀ (v : BitVec 11) (s : State), completes (.msixVectorUnmask v) s fun t =>
    (s.boot.bootst.extractLsb' 0 8 ≠ 0 → t = s)
    ∧ (s.boot.bootst.extractLsb' 0 8 = 0 → t = { s with
      msixMask := s.msixMask &&& ~~~(1#2048 <<< v.toNat)
      msixPend := s.msixPend &&& ~~~(1#2048 <<< v.toNat)
      outbox := if s.msixPend.getLsbD v.toNat then s.outbox ++ [.msix v.toNat] else s.outbox }))

/-- The words of the command processor (R322 to R326). -/
def Obligations.CommandProcessorWords : Prop := Claim.SemaphoreWords ∧ Claim.QueuesAndInterrupts

namespace Sys2Proof.Claim

open Sys2Proof.Machine

/-- As `issuedOn`, with an issue occupancy of its own (R154). -/
def issuedFor (u t : State) (e : Engine) (occ : Nat) (f : Core → Core) : Prop := othersKeep u t ∧ t.cur = (f u.cur).issued e occ

/-- The four multiply instructions. -/
def mulInstr : MulOp → XMat → Instr
  | .mma, f => .mma f
  | .mmac, f => .mmac f
  | .mmar, f => .mmar f
  | .mconv, f => .mconv f

/-- What a stopped MMAR has kept (R48, R156). -/
def stoppedMul (s : State) (m : MulOp) : Option MProg := if m = .mmar then s.cur.mprog else none

/-- The operands of a multiply: those of its descriptors, or those that a stopped MMAR has kept (R48, R147, R156). -/
def mulNow (s : State) (m : MulOp) (f : XMat) : Option Mul :=
  match stoppedMul s m with
  | some p => some ⟨p.a, p.b, p.kk, fun _ => true⟩
  | none => mulOf s m f

/-- The group at which a multiply starts: 0, or where a stopped MMAR goes on (R156). -/
def firstGroup (s : State) (m : MulOp) : Nat := match stoppedMul s m with | some p => p.p | none => 0

/-- The cells that a multiply starts from (R154, R156, R163): the tile's, or zero, with what a stopped MMAR has seen of its inputs. -/
def firstCells (s : State) (m : MulOp) (f : XMat) (u : Mul) : List AccElt :=
  let cells := s.startCells s.me f.tile.toNat (f.flags.getLsbD 1 && firstGroup s m == 0) (matFmt f.fmt.toNat).int u.live
  match stoppedMul s m with
  | some p => (List.range 1024).map (fun k =>
      let c := cells.getD k ⟨0, false, false, false, false, false⟩
      match p.cells[k]? with
      | some o => { c with nonFinite := o.nonFinite, nanIn := o.nanIn, wrapped := o.wrapped }
      | none => c)
  | none => cells

/-- The number of MMAC's segment and its index entry (R155, R192). -/
def segNo (s : State) (f : XMat) : Nat := (((odSeg (s.cur.odOf f.odB.toNat).1 : Int) + matStep s f 2) % 32).toNat
def segEntry (s : State) (f : XMat) : Nat := odAddr (s.cur.odOf f.odB.toNat).1 + 16 * segNo s f

/-- The multiply as it is put in flight. -/
def firstOp (s s2 : State) (m : MulOp) (f : XMat) (u : Mul) : MatOp :=
  let groups := u.k / (matFmt f.fmt.toNat).ks
  { tile := f.tile.toNat, fmt := f.fmt.toNat, start := s2.cur.now - firstGroup s m, groups := groups, g := firstGroup s m, a := u.a, b := u.b
    acc := firstCells s m f u, line := s2.cur.ex.pos.1, lane := s2.cur.ex.pos.2, cyc := s2.cur.now, kk := u.k
    scA := [], scB := [], part := false
    undo := if m = .mmar then some (undoOf s2.cur.ex s2.cur.now (groups - firstGroup s m)) else none
    src := if m = .mmac then (s.segmentSpan s.me (odAddr (s.cur.odOf f.odB.toNat).1) (segNo s f)).map (fun p => (p.1, s.rdB (winBase s.me + p.1) p.2)) else [] }

/-- The descriptors of a multiply are unpoisoned. -/
def cleanMul (s : State) (m : MulOp) (f : XMat) : Prop :=
  (s.cur.odOf f.odA.toNat).2 = false ∧ (s.cur.odOf f.odB.toNat).2 = false ∧ (m = .mconv → s.cur.shapePz = false)

/-- The issue of a multiply obtains its tile, banks and tags (R150 to R152, R159, R162, R200): `s2` is the state after the checks. -/
def mulAdmitted (s s2 : State) (m : MulOp) (f : XMat) (u : Mul) : Prop :=
  let fm := matFmt f.fmt.toNat
  let groups := u.k / fm.ks
  m.takes f.fmt.toNat = true ∧ (stoppedMul s m = none → cleanMul s m f) ∧ mulNow s m f = some u ∧ groupsOk m fm u (segEntry s f) groups = true
  ∧ s.cur.copiedTile .x f.tile.toNat = none ∧ s.cur.armedTile .x f.tile.toNat = none
  ∧ ∃ s1, s.useBanks .x (u.uses m fm (s.cur.now - firstGroup s m) groups) = .ok s1
    ∧ s1.tagPieces ((List.range groups).flatMap (fun g => (u.pieces fm g).1 ++ (u.pieces fm g).2) ++ (if m = .mmac then (segEntry s f, 16) :: s1.segmentSpan s1.me (odAddr (s.cur.odOf f.odB.toNat).1) (segNo s f) else [])) = .ok s2

end Sys2Proof.Claim

/-- MMA, MMAC, MMAR and MCONV (R146 to R158): an admitted multiply reads its first group in its issue cycle, occupies X for its groups and is in flight; one whose segment has failed is in flight without reading (R155); one whose first remote group fails takes the remote-operand fault (R156). An MMAR's reads follow every earlier store of the core (R251), and one that stopped goes on with the operands of its first issue (R48). -/
def Claim.MultiplyIssues : Prop :=
  ∀ (m : MulOp) (f : XMat) (s z s2 : State) (u : Mul), mulAdmitted s z m f u → s2 = (if m = .mmar then z.drainAll else z) →
    let groups := u.k / (matFmt f.fmt.toNat).ks
    let o := firstOp s s2 m f u
    (∀ c p sc cb x, u.b = .ingot c p sc cb (some x) →
      completes (mulInstr m f) s fun t => issuedFor s2 t .x (groups - firstGroup s m) fun c => { c with mats := c.mats ++ [{ o with g := groups }] })
    ∧ ((∀ c p sc cb x, u.b ≠ .ingot c p sc cb (some x)) →
      (∀ s3 o', s2.growOp s2.me o = .ok s3 o' →
        completes (mulInstr m f) s fun t => issuedFor s3 t .x (groups - firstGroup s m) fun c =>
          { heldData c 1 (m = .mmar) with mats := c.mats ++ [o'], mprog := if m = .mmar then none else c.mprog })
      ∧ (∀ sub a, s2.growOp s2.me o = .fail sub a →
        traps (mulInstr m f) s .x { TrapInfo.of 0x19 .x with sub := sub, addr := a, detail := BitVec.ofNat 64 (f.tile.toNat * 2 ^ 54 + firstGroup s m) }))

/-- The multiplies complete (R146 to R158): with a format that the instruction takes, unpoisoned descriptors that fit, operands in their bank groups, no bank access at which another one clashes, no pending sequence tag that disagrees, a tile that nothing owns, and, for an MMAR, a first remote group that can be read, the multiply is in flight on its tile with its groups and X goes on when they have passed. -/
def Claim.MultipliesComplete : Prop :=
  ∀ (m : MulOp) (f : XMat) (s : State) (u : Mul),
    let fm := matFmt f.fmt.toNat
    let groups := u.k / fm.ks
    let uses := u.uses m fm s.cur.now groups
    m.takes f.fmt.toNat = true → stoppedMul s m = none → cleanMul s m f → mulOf s m f = some u → groupsOk m fm u (segEntry s f) groups = true →
    s.cur.busyTile .x f.tile.toNat = none →
    (∀ a ∈ uses, ∀ b ∈ s.cur.banks, bankClash a b = false) → uses.Pairwise (fun a b => bankClash b a = false) →
    (∀ k ∈ s.cur.tg, k.2.pending = false) →
    (∀ a pitch peer, u.b = .remote a pitch peer →
      let z := (s.modCur (fun c => { c with banks := uses.reverse ++ c.banks })).drainAll
      ∃ z1 d, z.rankRead ((z.core z.me).ctx.getD 64) (some z.me) peer (a % 2 ^ 52) 64 = .ok (z1, d)
        ∧ (fm.mx = true → ∃ z2 sc, z1.rankRead ((z.core z.me).ctx.getD 64) (some z.me) peer ((a + groups * pitch) % 2 ^ 52) 32 = .ok (z2, sc))) →
    ∃ t, exec (mulInstr m f) s = .next t
      ∧ (∃ o ∈ t.cur.mats, o.tile = f.tile.toNat ∧ o.fmt = f.fmt.toNat ∧ o.groups = groups ∧ o.cyc = s.cur.now ∧ o.start = s.cur.now)
      ∧ t.cur.ex = s.cur.ex.issued s.cur.now groups

/-- Where a multiply traps (R146, R147, R150, R151, R278): a format that it does not take and a descriptor that does not fit are illegal operands, a poisoned descriptor is consumed, an operand in the wrong bank group and a bank conflict have their codes. -/
def Claim.MultiplyTraps : Prop :=
  ∀ (m : MulOp) (f : XMat) (s : State),
    (m.takes f.fmt.toNat = false → traps (mulInstr m f) s .x (TrapInfo.of 0x02 .x))
    ∧ (m.takes f.fmt.toNat = true → stoppedMul s m = none → (s.cur.odOf f.odA.toNat).2 = true ∨ (s.cur.odOf f.odB.toNat).2 = true →
        traps (mulInstr m f) s .x (TrapInfo.poison .x ⟨1, 0⟩))
    ∧ (m.takes f.fmt.toNat = true → stoppedMul s m = none → cleanMul s m f → mulOf s m f = none → traps (mulInstr m f) s .x (TrapInfo.of 0x02 .x))
    ∧ (∀ u, m.takes f.fmt.toNat = true → (stoppedMul s m = none → cleanMul s m f) → mulNow s m f = some u →
        groupsOk m (matFmt f.fmt.toNat) u (segEntry s f) (u.k / (matFmt f.fmt.toNat).ks) = false →
        traps (mulInstr m f) s .x (TrapInfo.of 0x12 .x))

/-- The issue of the matrix instructions (R146 to R158). -/
def Obligations.MatrixMultiplies : Prop := Claim.MultiplyIssues ∧ Claim.MultipliesComplete ∧ Claim.MultiplyTraps

namespace Sys2Proof.Claim

open Sys2Proof.Machine

/-- The address of word (r, c) of tile `t` of core `n` (R182, R227). -/
def tileWord (n t r c : Nat) : Nat := winBase n + 0x800000 + 4096 * t + 128 * r + 4 * c

/-- Element `n` of group `g` of a plain operand of the core (R148): `size` bytes at base + g · pitch + size · n. -/
def plainCode (s : State) (core base pitch size g n : Nat) : Nat := leNat (s.mem.rdN (winBase core + (base + g * pitch + size * n)) size)

end Sys2Proof.Claim

/-- What one group does to the cells of BF16 operands in the plain layout (R33, R148, R154): each live cell becomes the exact sum of its value and the product of the group's two elements, rounded once to FP32 to nearest even; a cell that is not live keeps its value. -/
def Claim.GroupOfProducts : Prop :=
  ∀ (s : State) (core : Nat) (o : MatOp) (ba pa sa bb pb sb : Nat), o.fmt = 0 → o.a = .local ba pa false sa → o.b = .local bb pb false sb → o.src = [] →
    ∃ o', s.growOp core o = .ok s o' ∧ o'.g = o.g + 1 ∧ o'.tile = o.tile ∧ o'.groups = o.groups ∧ ∀ i < 32, ∀ j < 32, ∀ c, o.acc[32 * i + j]? = some c →
      ∃ c', o'.acc[32 * i + j]? = some c' ∧ c'.live = c.live
        ∧ (c.live = false → c' = c)
        ∧ (c.live = true → c'.v = BitVec.ofNat 32 (Fmt.f32.round .rne 0 false false false
            (addV false (Fmt.f32.decode c.v.toNat)
              (mulV (Fmt.bf16.decode (plainCode s core ba pa 2 o.g i)) (Fmt.bf16.decode (plainCode s core bb pb 2 o.g j))).1).1).code)

/-- MATRIX_TILE_WRITE (R154, R163): the first multiply that has read its groups and reached its latency leaves the flight list; every unpoisoned cell of a live row stands in its tile, no other byte of memory changes, NF is set where a result of a floating-point format became non-finite, and the class counters add; what an MMAR read before it stopped sets and counts nothing. -/
def Claim.TileWrites : Prop :=
  (∀ (n : Nat) (s : State) (o : MatOp),
    (s.core n).mats.find? (fun o => o.start + o.groups + 6 ≤ (s.core n).now && o.groups ≤ o.g) = some o →
    completes (.matrixTileWrite n) s fun t =>
      (t.core n).mats = (s.core n).mats.erase o
      ∧ (∀ r < 32, ∀ c < 32, ∀ x0 x, o.acc[32 * r]? = some x0 → x0.live = true → o.acc[32 * r + c]? = some x → x.pz = false →
          leNat (t.mem.rdN (tileWord n o.tile r c) 4) = x.v.toNat)
      ∧ (∀ a, (a < tileWord n o.tile 0 0 ∨ tileWord n o.tile 0 0 + 4096 ≤ a) → t.mem.rd a = s.mem.rd a)
      ∧ tget 0 (t.core n).exc (o.tile / 64) =
          (if o.part then tget 0 (s.core n).exc (o.tile / 64) else addCounts (tget 0 (s.core n).exc (o.tile / 64)) (cellCounts (matFmt o.fmt).int o.acc))
      ∧ (∀ k, k ≠ o.tile / 64 → tget 0 (t.core n).exc k = tget 0 (s.core n).exc k)
      ∧ (t.core n).fpflags = (if o.part = false ∧ (matFmt o.fmt).int = false ∧ 0 < ((cellCounts (matFmt o.fmt).int o.acc).take 3).sum then (s.core n).fpflags ||| 0x20 else (s.core n).fpflags)
      ∧ t.core n = { s.core n with mats := (t.core n).mats, exc := (t.core n).exc, fpflags := (t.core n).fpflags }
      ∧ ∀ k, k ≠ n → t.core k = s.core k)
  ∧ (∀ (n : Nat) (s : State), (∀ o ∈ (s.core n).mats, (s.core n).now < o.start + o.groups + 6) →
    completes (.matrixTileWrite n) s fun t => t = s)

/-- The late faults of multiplies (R155, R156, R202): a failed segment's fault is raised once the multiply's groups have passed, with its tile left as it is; a remote group that fails stops its MMAR, what it read before goes on to the tile, and X stands at the MMAR again with its progress kept; one that arrives is added. -/
def Claim.LateFaults : Prop :=
  (∀ (n : Nat) (s : State) (o : MatOp) (rest : List MatOp) (c p sc cb) (code sub : Nat) (d : W64), (s.core n).mats = o :: rest →
    o.b = .ingot c p sc cb (some (code, sub, d)) → o.start + o.groups ≤ (s.core n).now →
    completes (.ingotFault n) s fun t =>
      t = (s.setCore n { s.core n with mats := rest }).takeTrap (.core n) { TrapInfo.of code .x with sub := sub, detail := d })
  ∧ (∀ (n : Nat) (s : State) (o : MatOp) (rest : List MatOp) (u : Seq), (s.core n).mats = o :: rest → o.undo = some u → o.g < o.groups →
    o.start + o.g ≤ (s.core n).now →
    (∀ s1 o', s.growOp n o = .ok s1 o' →
      completes (.remoteOperandFault n) s fun t => t = s1.modCore n (fun c => { c with mats := c.mats.map (fun x => if x = o then o' else x) }))
    ∧ (∀ sub a, s.growOp n o = .fail sub a →
      completes (.remoteOperandFault n) s fun t =>
        t = (s.setCore n { s.core n with
              mats := if 0 < o.g then (s.core n).mats.map (fun x => if x = o then { o with groups := o.g, undo := none, part := true } else x) else rest
              mprog := some ⟨o.g, o.acc, o.a, o.b, o.kk⟩
              ex := { u with queue := u.queue ++ (s.core n).ex.queue, free := 0 } }).takeTrap (.core n)
          { TrapInfo.of 0x19 .x with sub := sub, addr := a, detail := BitVec.ofNat 64 (o.tile * 2 ^ 54 + o.g) }))

/-- What multiplies in flight do (R33, R154 to R156, R163, R202). -/
def Obligations.MatrixInFlight : Prop := Claim.GroupOfProducts ∧ Claim.TileWrites ∧ Claim.LateFaults

/-- The accumulator instructions (R157, R160 to R163): MSHAPE loads the shape register two cycles on; ACCZ zeroes its run of tiles, ACCRD copies a tile into a register and may clear it, ACCWR copies a register into a tile; ACCARM arms a tile with the next number of its group; MEXC answers the class counters and clears them; a tile that is owned is an accumulator-busy trap with nothing done. -/
def Obligations.AccumulatorInstructions : Prop :=
  let words (s : State) (a : Nat) : List (W32 × Bool) :=
    (List.range 1024).map (fun k => (BitVec.ofNat 32 (leNat (s.mem.rdN (a + 4 * k) 4)), poisonedAt s.pz (a + 4 * k)))
  (∀ (f : XMat) (ext : BitVec 32) (s s1 s2 : State) (a : Nat), (ext.extractLsb' 0 21).toNat = a → a % 32 = 0 → s.useBank .x 0 a = .ok s1 → s1.tagCheck .x a 32 = .ok s2 →
    completes (.mshape f ext) s fun t => issuedOn s2 t .x fun c =>
      c.emit .x 2 (.shape (BitVec.ofNat 256 (leNat (s.mem.rdN (winBase s.me + a) 32))) (poisonedIn s.pz (winBase s.me + a) 32)))
  ∧ (∀ (f : XMat) (s : State) (n : Nat), (f.odA ++ f.odB : BitVec 8).toNat + 1 = n →
    ((∀ i < n, s.cur.busyTile .x ((f.tile.toNat + i) % 1024) = none) →
      completes (.accz f) s fun t => onlyResults s t .x 1 2 ((List.range n).map (fun i => .zeroTile ((f.tile.toNat + i) % 1024))))
    ∧ ((∃ i < n, ∃ x, s.cur.busyTile .x ((f.tile.toNat + i) % 1024) = some x) → ∃ d, traps (.accz f) s .x { TrapInfo.of 0x17 .x with detail := d }))
  ∧ (∀ (f : XMat) (ext : BitVec 32) (s : State) (n : Nat), (ext.extractLsb' 0 8).toNat = n →
    (n ≤ 191 → s.cur.ownedTile .x f.tile.toNat = none → s.cur.armedTile .x f.tile.toNat = none →
      (ext.getLsbD 8 = true → s.cur.copiedTile .x f.tile.toNat = none) →
      completes (.accrd f ext) s fun t =>
        onlyResults s t .x 1 4 (.words (wordAddr s n 0 0) (words s (tileWord s.me f.tile.toNat 0 0))
          :: if ext.getLsbD 8 then [.zeroTile f.tile.toNat] else []))
    ∧ (n ≤ 191 → s.cur.busyTile .x f.tile.toNat = none →
      completes (.accwr f ext) s fun t => onlyResults s t .x 1 4 [.words (tileWord s.me f.tile.toNat 0 0) (words s (wordAddr s n 0 0))])
    ∧ (191 < n → traps (.accrd f ext) s .x (TrapInfo.of 0x02 .x) ∧ traps (.accwr f ext) s .x (TrapInfo.of 0x02 .x)))
  ∧ (∀ (f : XMat) (ext : BitVec 32) (s : State) (g : BitVec 8), ext.extractLsb' 0 8 = g →
    (∀ m : Member, s.cur.slots.find? (fun m => m.group == g) = some m → s.cur.busyTile .x f.tile.toNat = none → (s.cur.arms.map (·.nt)).sum < 64 →
      completes (.accarm f ext) s fun t => issuedOn s t .x fun c =>
        { c.emit .x 1 (.arm ⟨f.tile.toNat, 1, g, m.seq, none, ext.getLsbD 8, (ext.extractLsb' 16 8).toNat + 1, 0, 0,
            if ext.getLsbD 29 then some (ext.extractLsb' 24 5) else none, s.cur.ex.pos.1, s.cur.ex.pos.2, s.cur.tref, false, []⟩) with
          slots := c.slots.map (fun x => if x.group = g then { x with seq := x.seq + 1 } else x) })
    ∧ (s.cur.slots.find? (fun m => m.group == g) = none → traps (.accarm f ext) s .x (TrapInfo.of 0x02 .x)))
  ∧ (∀ (f : XMat) (s : State), completes (.mexc f) s fun t => issuedOn s t .x fun c =>
    { c.emit .x 2 (.scalar (f.tile.extractLsb' 4 6).toNat (tget 0 c.exc (f.tile.extractLsb' 0 4).toNat) none) with
      exc := tset 0 c.exc (f.tile.extractLsb' 0 4).toNat 0 })

namespace Sys2Proof.Claim

open Sys2Proof.Machine

/-- A group may be delivered to a sequencer: it is not ended, has no open loop, and the group is not before the place from which it takes groups (R290). -/
def takes (q : Seq) (g : Group) : Prop := q.ended = false ∧ q.levels = [] ∧ (q.fromLine < g.line ∨ (q.fromLine = g.line ∧ q.fromLane ≤ g.lane))

/-- The agent that an event names: a core, or from 4,096 on a command stream by its context. -/
def named (n : Nat) : Mover := if n < 4096 then .core n else .cp (n - 4096)

end Sys2Proof.Claim

/-- FETCH_LINE (R55 to R57, R208): a running core whose fetch may go on reads the next line; each sequencer's queue takes the line's groups for it, in order, and fetch moves to the next line; a malformed line is remembered with its first failing nibble. A core that is not running, or whose fetch must wait, reads nothing. -/
def Claim.FetchReadsLines : Prop :=
  ∀ (n : Nat) (s : State),
    let c := s.core n
    (c.mode = .user → c.fetch.stopped = false → c.fetch.illegal = none → c.fetch.pastEnd = false → c.fetchBlocked = false → c.fetch.ready ≤ c.now → c.fetch.next < 2048 →
      (∀ gs, parseLine false c.fetch.next (c.lineWords c.fetch.next) = .ok gs → c.canRead false (s.wordsOf (.core n)) gs = true → (∀ x ∈ gs, takes (c.seqOf x.1) x.2) →
        completes (.fetchLine n) s fun t =>
          (t.core n).fetch = { c.fetch with next := c.fetch.next + 1, seen := c.fetch.next + 1 }
          ∧ (∀ e, ((t.core n).seqOf e).queue = (c.seqOf e).queue ++ (gs.filter (fun x => x.1 = e)).map (·.2))
          ∧ t = s.setCore n (t.core n))
      ∧ (∀ p, parseLine false c.fetch.next (c.lineWords c.fetch.next) = .error p →
        completes (.fetchLine n) s fun t => t = s.setCore n { c with fetch := { c.fetch with illegal := some (c.fetch.next, p), seen := c.fetch.next } }))
    ∧ (c.mode ≠ .user → c.mode ≠ .handler → completes (.fetchLine n) s fun t => t = s)

/-- MEMORY_DATA_ARRIVAL (R84, R241): the core's conditions on late data that are due are met, and time has passed; of the rest only what late units of loads have now read differs, in results and queue entries that keep their places. Without such a condition nothing happens. TRAP_TAKEN (R282, R283): in user mode, at a cycle boundary at which no synchronous fault is due, and not before the resumption's cycle, the oldest pending asynchronous trap is taken by the one trap operation; otherwise nothing happens. -/
def Claim.LateDataAndTraps : Prop :=
  (∀ (n : Nat) (s : State), let c := s.agent (named n)
    ((∃ h ∈ c.holds, h.kind = .data ∧ h.due ≤ c.now) →
      completes (.memoryDataArrival n) s fun t => ∃ k, let d := t.agent (named n)
        d = { c with holds := c.holds.filter (fun h => !(h.kind = .data && decide (h.due ≤ c.now))), tref := c.tref + k, tun := c.tun + k * s.period (named n),
                     pend := d.pend, q := d.q, l1 := d.l1 }
        ∧ d.pend.map (fun p => (p.due, p.cyc, p.rank)) = c.pend.map (fun p => (p.due, p.cyc, p.rank))
        ∧ (c.lates = [] → d.pend = c.pend ∧ d.q = c.q ∧ d.l1 = c.l1)
        ∧ t.mem = s.mem ∧ ∀ m, m ≠ named n → t.agent m = s.agent m)
    ∧ ((∀ h ∈ c.holds, h.kind = .data → c.now < h.due) → completes (.memoryDataArrival n) s fun t => t = s))
  ∧ (∀ (n : Nat) (s : State), let c := s.core n
    (∀ tr rest, c.asyncs = tr :: rest → c.mode = .user → c.turn = 0 → c.back ≤ c.now → c.powered = true → s.faultDue n = false →
      completes (.trapTaken n) s fun t => t = (s.setCore n { c with asyncs := rest }).takeTrap (.core n) tr)
    ∧ (c.asyncs = [] ∨ c.mode ≠ .user ∨ c.turn ≠ 0 ∨ c.now < c.back ∨ s.faultDue n = true → completes (.trapTaken n) s fun t => t = s)
    ∧ (c.mats = [] → c.moved = none → s.faultDue n = false))

/-- STORE_VISIBLE (R172, R239, R242, R243): a store to memory that the core sees, and that no earlier one holds back, is performed; one that an earlier store of the buffer must precede, to a common byte (but on unordered pages, of another instruction and with no fence between them), before a release, or both strongly ordered, stays where it is. -/
def Claim.StoresKeepTheirOrder : Prop :=
  ∀ (n k : Nat) (s : State) (st : PendStore), (s.agent (named n)).stores[k]? = some st →
    let before (e : PendStore) : Prop := e.done = false ∧
      ((e.meets st = true ∧ ¬(e.uo = true ∧ st.uo = true ∧ e.ep = st.ep ∧ ¬(e.cyc = st.cyc ∧ e.rank = st.rank))) ∨ (st.release = true ∧ e.uo = false) ∨ (st.so = true ∧ e.so = true))
    ((∃ e ∈ (s.agent (named n)).stores.take k, before e) → completes (.storeVisible n k) s fun t => t = s)
    ∧ ((∀ e ∈ (s.agent (named n)).stores.take k, ¬before e) → (∀ h ∈ (s.agent (named n)).holds, h.kind ≠ .retry) → st.seen = true → st.done = false →
        isWin st.addr = false → completes (.storeVisible n k) s fun t => t = s.perform (named n) st)

/-- The events at a core between its cycles (R57, R84, R239, R282, R283). -/
def Obligations.EventsBetweenCycles : Prop := Claim.FetchReadsLines ∧ Claim.LateDataAndTraps ∧ Claim.StoresKeepTheirOrder

/-- WINDOW_ACCESS (R109, R227, R228, R385): an access to a reserved offset or to a window of another context, and a write to an armed or owned tile, is refused with its status and changes nothing; one to a core that writes its image waits; any other reads the window as the other agents see it, or writes it (R85), and is answered with status 0. -/
def Claim.WindowAccesses : Prop :=
  ∀ (x n off : Nat) (s : State), n < 4096 → off < 0x1000000 →
    (∀ k, 0 < k → off + k ≤ 0x1000000 → (∀ i < k, reservedOff (off + i) = false) →
      ((s.core n).ctx = some x → (s.core n).powered = true → (∀ h ∈ (s.core n).holds, h.kind ≠ .persist) →
        (completes (.windowAccess x n off (.read k)) s fun t =>
          t = { s with outbox := s.outbox ++ [.reply none 0 ((List.range k).map (fun i => (s.outByte (winBase n + off + i)).1)) ((List.range k).any (fun i => (s.outByte (winBase n + off + i)).2))] })
        ∧ ((s.core n).pend = [] → (s.core n).snap = none → (s.core n).inbox = [] → ∀ a, winCore a = some n → s.outByte a = (s.mem.rd a, poisonedAt s.pz a))
        ∧ (∀ d p acc, (acc = .write d p ∨ acc = .put d p) → d.length = k → (off < 0x800000 ∨ (∀ i < k, (s.core n).tileArmed ((off + i - 0x800000) / 4096) = false ∧ (s.core n).tileOwned ((off + i - 0x800000) / 4096) = false)) →
            completes (.windowAccess x n off acc) s fun t =>
              t.outbox = s.outbox ++ [.reply none 0 [] false]
              ∧ ((s.core n).amid = false → ∀ i < k, t.mem.rd (winBase n + off + i) = d.getD i 0)
              ∧ ((s.core n).amid = true → t.mem = s.mem ∧ (s.core n).inbox.length < (t.core n).inbox.length)
              ∧ ∀ a, (a < winBase n + off ∨ winBase n + off + k ≤ a) → t.mem.rd a = s.mem.rd a))
      ∧ ((s.core n).ctx ≠ some x →
        completes (.windowAccess x n off (.read k)) s fun t => t = { s with outbox := s.outbox ++ [.reply none 5 [] false] })
      ∧ ((s.core n).ctx = some x → (s.core n).powered = true → (∃ h ∈ (s.core n).holds, h.kind = .persist) →
        completes (.windowAccess x n off (.read k)) s fun t => t = s))
    ∧ (∀ k, off + k < 0x1000000 → reservedOff (off + k) = true →
      completes (.windowAccess x n off (.read (k + 1))) s fun t => t = { s with outbox := s.outbox ++ [.reply none 4 [] false] })

/-- PEER_ACCESS (R361, R373): a peer's read of one aligned piece is translated at the gateway under the destination context and answered to the peer's module; a miss answers status 3, a page that does not permit it status 2, with nothing done; a table entry that cannot be read ends the context and answers status 3; memory that the peer may read is answered with its bytes. TRANSLATION_WALK (R362, R373): the walk of a permitted access leaves the leaf's A, and D for a write, set; one that meets an entry that cannot be read ends the context. -/
def Claim.PeersAndWalks : Prop :=
  (∀ (x va n src : Nat) (s : State), 0 < n → va % 8 + n ≤ 8 →
    (s.translate x none (va % 2 ^ 52) n false false = .miss →
      completes (.peerAccess x va ⟨src, .read n⟩) s fun t => t = { s with outbox := s.outbox ++ [.reply (some src) 3 [] false] })
    ∧ (∀ a, s.translate x none (va % 2 ^ 52) n false false = .bad a →
      completes (.peerAccess x va ⟨src, .read n⟩) s fun t =>
        t = { s with outbox := s.outbox ++ [.reply (some src) 3 [] false], fatal := s.fatal ++ [⟨x, fatalTable, a, 0⟩] })
    ∧ (s.translate x none (va % 2 ^ 52) n false false = .prot →
      completes (.peerAccess x va ⟨src, .read n⟩) s fun t => t = { s with outbox := s.outbox ++ [.reply (some src) 2 [] false] })
    ∧ (∀ s1 tr, s.translate x none (va % 2 ^ 52) n false false = .ok s1 tr → isHbm tr.pa = true →
      completes (.peerAccess x va ⟨src, .read n⟩) s fun t =>
        t = { s1 with outbox := s1.outbox ++ [.reply (some src) 0 ((List.range n).map (fun i => (s1.byteC (tr.pa + i)).1)) ((List.range n).any (fun i => (s1.byteC (tr.pa + i)).2))] }))
  ∧ (∀ (x va : Nat) (wr : Bool) (s : State),
    (∀ s1 tr, s.translate x none (va % 2 ^ 52) 1 wr false = .ok s1 tr → completes (.translationWalk x va wr) s fun t => t = s1)
    ∧ (∀ a, s.translate x none (va % 2 ^ 52) 1 wr false = .bad a →
        completes (.translationWalk x va wr) s fun t => t = { s with fatal := s.fatal ++ [⟨x, fatalTable, a, 0⟩] })
    ∧ ((∀ s1 tr, s.translate x none (va % 2 ^ 52) 1 wr false ≠ .ok s1 tr) → (∀ a, s.translate x none (va % 2 ^ 52) 1 wr false ≠ .bad a) →
        completes (.translationWalk x va wr) s fun t => t = s))

/-- HOST_BAR2_ACCESS and HOST_ATOMICOP (R110, R365, R367) of one aligned piece of HBM outside twin pairs and protected units, after a good boot: a read answers the bytes, a write stores them, an atomic applies its operation to unpoisoned bytes and answers the old ones; any other access completes as an Unsupported Request with nothing done. -/
def Claim.HostAccesses : Prop :=
  ∀ (off : Nat) (s : State), s.twins = [] → (∀ a, s.unitAt a = none) →
    (s.boot.bootst.extractLsb' 0 8 = 0 → ∀ n, 0 < n → off % 8 + n ≤ 8 → off + n ≤ 0x10000000000 →
      (completes (.hostBar2Access off (.read n)) s fun t =>
        t = { s with outbox := s.outbox ++ [.completion true (s.mem.rdN off n) ((List.range n).any (fun i => poisonedAt s.pz (off + i)))] })
      ∧ (∀ d p, d.length = n → completes (.hostBar2Access off (.write d p)) s fun t =>
        t.outbox = s.outbox ++ [.completion true [] false] ∧ (∀ i < n, t.mem.rd (off + i) = d.getD i 0)
        ∧ (∀ a, (a < off ∨ off + n ≤ a) → t.mem.rd a = s.mem.rd a))
      ∧ (∀ (op : AtomicOp) (w : Bool) (value cmp : W64), n = (if w then 8 else 4) → off % n = 0 → (∀ i < n, poisonedAt s.pz (off + i) = false) →
        let old := leNat (s.mem.rdN off n)
        completes (.hostAtomicop off op w value cmp) s fun t =>
          t.outbox = s.outbox ++ [.completion true (s.mem.rdN off n) false]
          ∧ leNat (t.mem.rdN off n) = (match op with
            | .fetchAdd => (old + value.toNat) % 2 ^ (8 * n)
            | .swap => value.toNat % 2 ^ (8 * n)
            | .cas => if old = cmp.toNat % 2 ^ (8 * n) then value.toNat % 2 ^ (8 * n) else old)
          ∧ (∀ a, (a < off ∨ off + n ≤ a) → t.mem.rd a = s.mem.rd a)))
    ∧ (∀ (acc : Access), (s.boot.bootst.extractLsb' 0 8 ≠ 0 ∨ 0x10000000000 < off + accSize acc ∨ (∃ op d v, acc = .amo op d v) ∨ ∃ d v w, acc = .cas d v w) →
      completes (.hostBar2Access off acc) s fun t => t = { s with outbox := s.outbox ++ [.completion false [] false] })
    ∧ (∀ (op : AtomicOp) (w : Bool) (value cmp : W64), (s.boot.bootst.extractLsb' 0 8 ≠ 0 ∨ 0x10000000000 < off + (if w then 8 else 4) ∨ off % (if w then 8 else 4) ≠ 0) →
      completes (.hostAtomicop off op w value cmp) s fun t => t = { s with outbox := s.outbox ++ [.completion false [] false] })

/-- REGISTER_WRITE (R7, R324, R367 to R369, R414, R419): the doorbell takes the request as it stands and starts its command, or sets LOST while one runs; MBST's DONE and LOST clear where 1 is written, as do the error log's drop bits; the error log's control and read index and the MSI-X masks are written; what is misaligned, reserved or written after a failed boot changes nothing. A read returns the value of what may be read, and 0 of the doorbell and of what is reserved. -/
def Claim.RegisterWrites : Prop :=
  ∀ (v : W64) (s : State),
    (s.boot.bootst.extractLsb' 0 8 = 0 →
      (v.getLsbD 0 = true → s.mbox.mbst.getLsbD 0 = false →
        completes (.registerWrite 0x100200 v) s fun t =>
          t.mbox.cmd = (List.range 256).map (fun i => s.mbox.req.getD i 0) ∧ t.mbox.mbst = s.mbox.mbst ||| 1 ∧ t.mbox.req = s.mbox.req
          ∧ t.agenda = s.agenda ++ [.event (commandOf (leNat ((List.range 8).map (fun i => s.mbox.req.getD i 0)) % 65536))]
          ∧ t = { s with mbox := t.mbox, agenda := t.agenda })
      ∧ (v.getLsbD 0 = true → s.mbox.mbst.getLsbD 0 = true →
        completes (.registerWrite 0x100200 v) s fun t => t = { s with mbox := { s.mbox with mbst := s.mbox.mbst ||| 4 } })
      ∧ (completes (.registerWrite 0x100208 v) s fun t => t = { s with mbox := { s.mbox with mbst := s.mbox.mbst &&& ~~~(v &&& 6) } })
      ∧ (completes (.registerWrite 0x300010 v) s fun t => t = { s with elog := { s.elog with ridx := v } })
      ∧ (completes (.registerWrite 0x300018 v) s fun t => t = { s with elog := { s.elog with drop := s.elog.drop &&& ~~~v } })
      ∧ (∀ k < 2048, v.getLsbD 32 = true → completes (.registerWrite (0x200000 + 16 * k + 8) v) s fun t =>
          t.msixMask = s.msixMask ||| (1#2048 <<< k) ∧ t.msixPend = s.msixPend ∧ t.outbox = s.outbox))
    ∧ (∀ off, off < 0x100000000 → (off % 8 ≠ 0 ∨ s.boot.bootst.extractLsb' 0 8 ≠ 0) → completes (.registerWrite off v) s fun t => t = s)
    ∧ s.readBar0 0x100 = s.boot.bootst
    ∧ (s.boot.bootst.extractLsb' 0 8 = 0 → ∀ k < 2048, (s.readBar0 (0x200000 + 16 * k + 8)).getLsbD 32 = s.msixMask.getLsbD k)
    ∧ (s.boot.bootst.extractLsb' 0 8 = 0 → s.readBar0 0x100208 = s.mbox.mbst ∧ s.readBar0 0x300000 = s.elog.ctl ∧ s.readBar0 0x300008 = s.elog.widx
        ∧ s.readBar0 0x300010 = s.elog.ridx ∧ s.readBar0 0x300018 = s.elog.drop ∧ s.readBar0 0x340000 = s.trig.ctl ∧ s.readBar0 0x100200 = 0)
    ∧ (s.boot.bootst.extractLsb' 0 8 ≠ 0 → ∀ off, 0x1000 ≤ off → s.readBar0 off = 0)

/-- What reaches the module from outside (R7, R109, R110, R227, R228, R324, R361, R362, R365, R367 to R369). -/
def Obligations.OutsideAccesses : Prop :=
  Claim.WindowAccesses ∧ Claim.PeersAndWalks ∧ Claim.HostAccesses ∧ Claim.RegisterWrites

/-- BARRIER_ARRIVAL (R222, R223): once the group's completed generations that the other devices have completed too are released, an arrival for a generation that has been released is ignored; one for a generation that has not started here waits for it; one for a group that has started, and for whose older generation nothing waits, meets the group. -/
def Claim.BarrierArrivalFromAfar : Prop :=
  ∀ (a : Arrival) (z : State) (x : Context), z.context a.ctx = some x →
    let s := z.barClose a.ctx a.group
    ((∀ b ∈ z.barriers, b.ctx = a.ctx → b.group = a.group → b.closing = false) → s = z)
    ∧ (s.bar a.ctx a.group a.gen = none → a.gen < tget 0 x.gens a.group.toNat → completes (.barrierArrival a) z fun t => t = s)
    ∧ (s.bar a.ctx a.group a.gen = none → tget 0 x.gens a.group.toNat ≤ a.gen →
      completes (.barrierArrival a) z fun t => t = { s with barriers := t.barriers } ∧ (t.bar a.ctx a.group a.gen).map (·.early) = some [a])
    ∧ (∀ b, s.bar a.ctx a.group a.gen = some b → b.expect = 0 →
      completes (.barrierArrival a) z fun t => t = { s with barriers := t.barriers } ∧ (t.bar a.ctx a.group a.gen).map (·.early) = some (b.early ++ [a]))
    ∧ (∀ b, s.bar a.ctx a.group a.gen = some b → b.expect ≠ 0 → s.barWaits b = false → (b.arrive a).is a.ctx a.group a.gen = true →
      completes (.barrierArrival a) z fun t => t = { s with barriers := t.barriers } ∧ t.bar a.ctx a.group a.gen = some (b.arrive a))

/-- The split barriers: arrivals, phases, waits, and arrivals from afar. -/
def Obligations.SplitBarriers : Prop := Claim.BarrierArrivals ∧ Claim.BarrierPhases ∧ Claim.BarrierWaits ∧ Claim.BarrierArrivalFromAfar

namespace Sys2Proof.Claim

open Sys2Proof.Machine

/-- Of the module only core `n` differs, and it is now `d`. -/
def coreOnly (s t : State) (n : Nat) (d : Core) : Prop :=
  t = { s with cores := t.cores } ∧ t.core n = d ∧ ∀ k, k ≠ n → t.core k = s.core k

/-- N of core `n` runs the command `r`, stands at a step that has not begun, and has not stopped; the zero bits of its ARG are zero (R261). -/
def atStep (s : State) (n : Nat) (r : NRun) : Prop :=
  (s.core n).nrun = some r ∧ r.faulted = false ∧ r.step = none ∧ r.arg.extractLsb' 53 11 = 0

/-- N goes on at a step address. -/
def goesTo (s t : State) (n : Nat) (r : NRun) (a : Nat) : Prop := coreOnly s t n { s.core n with nrun := some { r with addr := a, word := none } }

/-- A step fault (R272): N stops at the step, the core has an asynchronous trap pending with the step's address and word, and the fault's record holds what the command has come to. -/
def faultsAt (s t : State) (n : Nat) (r : NRun) (w : W64) (sub : Nat) : Prop :=
  coreOnly s t n { s.core n with
    nrun := some { r with faulted := true, word := none }
    asyncs := (s.core n).asyncs ++ [⟨0x1B, sub, 4, true, 0, r.addr, w⟩]
    nrec := some ((s.core n).stepRecord r.addr w sub) }

/-- Token `k` of a core with a new count. -/
def tokCount (c : Core) (k v : Nat) : Core := c.setTok k { c.tok k with count := BitVec.ofNat 16 v }

/-- A step word's operation, group, token and count (R262, R263, R271). -/
def wOp (w : W64) : Nat := (w.extractLsb' 60 4).toNat
def wGroup (w : W64) : BitVec 8 := w.extractLsb' 52 8
def wTok (w : W64) : Nat := (w.extractLsb' 55 5).toNat
def wCount (w : W64) : Nat := (w.extractLsb' 0 16).toNat

end Sys2Proof.Claim

/-- SIGS and WAITS (R47, R271): SIGS adds to a token unless that passes its ceiling; WAITS takes its count when the token holds it and waits while it does not; a count above the ceiling is step fault 10, a nonzero zero field step fault 1. -/
def Claim.TokenSteps : Prop :=
  ∀ (n : Nat) (w : W64) (s : State) (r : NRun), atStep s n r →
    let k := wTok w
    let tk := (s.core n).tok k
    (w.extractLsb' 16 39 = 0 →
      (tk.count.toNat + wCount w ≤ tk.ceiling.toNat →
        completes (.sigs n w) s fun t => coreOnly s t n { tokCount (s.core n) k (tk.count.toNat + wCount w) with nrun := some { r with addr := r.addr + 8, word := none } })
      ∧ (tk.ceiling.toNat < tk.count.toNat + wCount w → completes (.sigs n w) s fun t => faultsAt s t n r w 10)
      ∧ (wCount w ≤ tk.count.toNat → tk.count.toNat ≤ tk.ceiling.toNat →
        completes (.waits n w) s fun t => coreOnly s t n { tokCount (s.core n) k (tk.count.toNat - wCount w) with nrun := some { r with addr := r.addr + 8, word := none } })
      ∧ (tk.count.toNat < wCount w → wCount w ≤ tk.ceiling.toNat → completes (.waits n w) s fun t => t = s)
      ∧ (tk.ceiling.toNat < wCount w → completes (.waits n w) s fun t => faultsAt s t n r w 10))
    ∧ (w.extractLsb' 16 39 ≠ 0 → (completes (.sigs n w) s fun t => faultsAt s t n r w 1) ∧ completes (.waits n w) s fun t => faultsAt s t n r w 1)

/-- LBEG, LEND and END (R261, R271): LBEG opens a level with its count, or with its group's size less its count, and passes over the body of a count of 0; LEND starts the next pass or closes the level; END ends the command and signals its token; a fifth level, an unmatched LEND and an END inside a loop are step fault 6, a reserved word is step fault 1 (R262). -/
def Claim.LoopSteps : Prop :=
  ∀ (n : Nat) (w : W64) (s : State) (r : NRun), atStep s n r →
    (∀ count : Nat, w.extractLsb' 32 19 = 0 →
      ((w.getLsbD 51 = false ∧ wGroup w = 0 ∧ count = (w.extractLsb' 0 32).toNat)
        ∨ (w.getLsbD 51 = true ∧ ∃ m, (s.core n).member (wGroup w) = some m ∧ count = m.size - (w.extractLsb' 0 32).toNat)) →
      r.loops.length < 4 →
      (0 < count → completes (.lbeg n w) s fun t => coreOnly s t n { s.core n with nrun := some { r with loops := r.loops ++ [⟨0, count, r.addr + 8⟩], addr := r.addr + 8, word := none } })
      ∧ (count = 0 → ∀ a, skipBody s n (r.addr + 8) 0 0x40000 = .ok a → completes (.lbeg n w) s fun t => goesTo s t n r a))
    ∧ (w.extractLsb' 32 19 = 0 → (w.getLsbD 51 = true ∨ wGroup w = 0) → 4 ≤ r.loops.length → completes (.lbeg n w) s fun t => faultsAt s t n r w 6)
    ∧ (w.extractLsb' 0 60 = 0 →
      (∀ l ls, r.loops = ls ++ [l] →
        (l.lc + 1 < l.count → completes (.lend n w) s fun t => coreOnly s t n { s.core n with nrun := some { r with loops := ls ++ [{ l with lc := l.lc + 1 }], addr := l.start, word := none } })
        ∧ (l.count ≤ l.lc + 1 → completes (.lend n w) s fun t => coreOnly s t n { s.core n with nrun := some { r with loops := ls, addr := r.addr + 8, word := none } }))
      ∧ (r.loops = [] → completes (.lend n w) s fun t => faultsAt s t n r w 6))
    ∧ (w.extractLsb' 16 38 = 0 → let k := (w.extractLsb' 54 5).toNat
      (r.loops = [] → w.getLsbD 59 = false → completes (.endStep n w) s fun t => coreOnly s t n { s.core n with nrun := none })
      ∧ (r.loops = [] → w.getLsbD 59 = true → ((s.core n).tok k).count.toNat + wCount w ≤ ((s.core n).tok k).ceiling.toNat →
        completes (.endStep n w) s fun t => coreOnly s t n { tokCount (s.core n) k (((s.core n).tok k).count.toNat + wCount w) with nrun := none })
      ∧ (r.loops ≠ [] → completes (.endStep n w) s fun t => faultsAt s t n r w 6))
    ∧ completes (.reservedStep n w) s fun t => faultsAt s t n r w 1

/-- The control steps of N (R47, R261, R262, R271, R272). -/
def Obligations.ControlSteps : Prop := Claim.TokenSteps ∧ Claim.LoopSteps

/-- SEND, RECV, RRS and HALO (R259 to R265, R268, R272): a step whose fields, group, descriptors and boxes are legal begins: it has the group's next collective number, which rises by 1, a reserved place in its map's posting record, and its chunks' bits are clear; one that is not stops N with its step fault; one in progress goes on. -/
def Claim.TransferSteps : Prop :=
  ∀ (i : Instr) (n : Nat) (w : W64) (s : State) (r : NRun),
    (i = .send n w ∧ wOp w = 1) ∨ (i = .recv n w ∧ wOp w = 2) ∨ (i = .rrs n w ∧ wOp w = 3) ∨ (i = .halo n w ∧ wOp w = 6) → n < 4096 →
    (atStep s n r →
      (∀ (m : Member) (p : Parts), modeOk (wOp w) (w.extractLsb' 4 3).toNat = true → (s.core n).member (wGroup w) = some m → partsOf s n r w m = .ok p →
        let send := nCd ((s.core n).cdOf (w.extractLsb' 31 4).toNat).1 true
        let mp := match p.recv with | some x => cdCm x.2.1 | none => cdCm send
        partsFault (s.core n) w p = none → holdsClash (s.core n) (partsHolds p) = false → ((s.core n).posts mp).length < 64 →
        completes i s fun t => ∃ st, (t.core n).nrun = some { r with step := some st } ∧ st.word = w ∧ st.seq = m.seq
          ∧ st.sendTo = p.send.bind (·.1) ∧ st.holds = partsHolds p ∧ st.place = some (mp, (s.core n).copySeq)
          ∧ (t.core n).posts mp = (s.core n).posts mp ++ [.reserved (s.core n).copySeq]
          ∧ (t.core n).slots = (s.core n).slots.map (fun x => if x.group = wGroup w then { x with seq := x.seq + 1 } else x)
          ∧ (∀ h ∈ partsHolds p, ((t.core n).map h.1).getLsbD h.2 = false)
          ∧ ∀ k, k ≠ n → t.core k = s.core k)
      ∧ (∀ (m : Member) (p : Parts), modeOk (wOp w) (w.extractLsb' 4 3).toNat = true → (s.core n).member (wGroup w) = some m → partsOf s n r w m = .ok p →
        let mp := match p.recv with | some x => cdCm x.2.1 | none => cdCm (nCd ((s.core n).cdOf (w.extractLsb' 31 4).toNat).1 true)
        (∀ sub, partsFault (s.core n) w p = some sub → completes i s fun t => faultsAt s t n r w sub)
        ∧ (partsFault (s.core n) w p = none → holdsClash (s.core n) (partsHolds p) = true → completes i s fun t => faultsAt s t n r w 4)
        ∧ (partsFault (s.core n) w p = none → holdsClash (s.core n) (partsHolds p) = false → 64 ≤ ((s.core n).posts mp).length →
          completes i s fun t => faultsAt s t n r w 5))
      ∧ (∀ (m : Member) (sub : Nat), modeOk (wOp w) (w.extractLsb' 4 3).toNat = true → (s.core n).member (wGroup w) = some m → partsOf s n r w m = .error sub →
        completes i s fun t => faultsAt s t n r w sub)
      ∧ (modeOk (wOp w) (w.extractLsb' 4 3).toNat = false → completes i s fun t => faultsAt s t n r w 1)
      ∧ (modeOk (wOp w) (w.extractLsb' 4 3).toNat = true → (s.core n).member (wGroup w) = none → completes i s fun t => faultsAt s t n r w 2))
    ∧ (∀ st, (s.core n).nrun = some { r with step := some st, faulted := false } → st.word = w → completes i s fun t => t = s.goOn n st)

/-- COPY and RRA (R238, R264, R266): COPY, which sees what its core has stored, enters a copy from origin 0 with a reserved place, RRA arms its tiles with the group's next collective number; both are then in progress. -/
def Claim.CopyAndReduceSteps : Prop :=
  (∀ (n : Nat) (w : W64) (s s1 : State) (r : NRun) (f : CopyForm) (loc : Nat) (pins : List (Nat × Nat × Nat)), atStep s n r → wOp w = 5 →
    let s' := s.publish (.core n)
    let c := s'.core n
    let d := copyCd (c.cdOf (w.extractLsb' 31 4).toNat).1
    (w.extractLsb' 4 3 = 0 ∧ f = .xld) ∨ (w.extractLsb' 4 3 = 1 ∧ f = .xst) → wGroup w = 0 → w.getLsbD 51 = false → w.extractLsb' 35 16 = 0 → w.extractLsb' 0 4 = 0 →
    (c.cdOf (w.extractLsb' 31 4).toNat).2 = false → loc = (if cdAsrc d then 4 else 1) * (w.extractLsb' 10 21).toNat → (cdAsrc d = true → loc ≤ 0x3FFFFF) →
    cdChecks f d loc = true → c.withDue.busyTiles .s (tilesOf d loc) = none → c.chunkHeld (cdCm d) ((chunksOf' f d loc 0 0).map (·.1)) = false →
    (c.posts (cdCm d)).length < 64 → s'.submit (c.ctx.getD 64) (f == .xst) (farAddrs f d 0 0) [] = .ok s1 pins → s1.farSealed f d 0 0 pins = false →
    (∀ k ∈ c.copies, k.begun = true) → cdCount d ≠ 0 →
    completes (.copyStep n w) s fun t => ∃ st, (t.core n).nrun = some { r with step := some st } ∧ st.word = w ∧ st.copyId = some c.copySeq
      ∧ (t.core n).copySeq = c.copySeq + 1 ∧ (t.core n).posts (cdCm d) = c.posts (cdCm d) ++ [.reserved c.copySeq]
      ∧ ∃ k ∈ (t.core n).copies, k.id = c.copySeq ∧ k.form = f ∧ k.cd = d ∧ k.loc = loc ∧ k.o0 = 0 ∧ k.o1 = 0 ∧ k.pins = pins)
  ∧ (∀ (n : Nat) (w : W64) (s : State) (r : NRun) (m : Member), atStep s n r → wOp w = 4 → w.extractLsb' 4 31 = 0 → (s.core n).member (wGroup w) = some m →
    2 ≤ m.size → (s.core n).arms = [] → (s.core n).dueArms = [] → (s.core n).riser = [] →
    let nt := (w.extractLsb' 36 6).toNat + 1
    let tile := (w.extractLsb' 42 10).toNat
    (∀ i < nt, (s.core n).busyTile .s ((tile + i) % 1024) = none) →
    completes (.rra n w) s fun t => ∃ st a, (t.core n).nrun = some { r with step := some st } ∧ st.word = w ∧ st.seq = m.seq ∧ st.armed = true
      ∧ (t.core n).arms = [a] ∧ a.tile = tile ∧ a.nt = nt ∧ a.group = wGroup w ∧ a.seq = m.seq ∧ a.closed = false ∧ a.applied = 0 ∧ a.int = w.getLsbD 35 ∧ a.per = nt ∧ a.ctag = some (w.extractLsb' 0 4)
      ∧ (t.core n).slots = (s.core n).slots.map (fun x => if x.group = wGroup w then { x with seq := x.seq + 1 } else x))

/-- The transfer steps of N (R259 to R268). -/
def Obligations.TransferStepsOfN : Prop := Claim.TransferSteps ∧ Claim.CopyAndReduceSteps

/-- A block is refused (R269): nothing is placed, the sender is told that the riser is full, and the core notes that it owes a report of a free block. -/
def Claim.refused (s t : State) (n : Nat) (b : Block) : Prop :=
  t.mem = s.mem ∧ t.core n = { s.core n with refusals := (s.core n).refusals ++ [(b.group, b.src)] }
  ∧ ∀ gm, s.memberAt n b.group b.src = some gm →
      t.outbox = s.outbox ++ [.riserFull ((s.core n).ctx.getD 64) ((s.rankModule ((s.core n).ctx.getD 64) gm.drank).getD 0) gm.core b.group b.src n]

/-- RISER_BLOCK_ARRIVAL (R264, R265, R268, R269): the next block of a matching receive part is written, or reduced, into its box and acknowledged; another block of that message takes a free riser block and is acknowledged, and with the riser full, or at a core writing an image (R385), it is refused and its sender told; a message that disagrees with the step is step fault 7. CREDIT_RETURN (R269): a used credit is free again; one of a saved iteration is that image's (R275). -/
def Claim.BlocksAndCredits : Prop :=
  (∀ (n : Nat) (b : Block) (s : State) (r : NRun) (st : NStep) (gm : GroupMember), (s.core n).nrun = some r → r.step = some st → (s.core n).arms = [] →
    wGroup st.word = b.group → st.seq = b.seq → st.recvFrom = some b.src → st.armed = false → b.addend = false → b.ctag = st.word.extractLsb' 0 4 → b.total = st.recvBytes →
    s.memberAt n b.group b.src = some gm → (∀ h ∈ (s.core n).holds, h.kind ≠ .persist) → (s.core n).run.isSome = true →
    ((s.core n).member b.group).isSome = true → (b.group, b.seq, b.src) ∉ (s.core n).voided →
    (b.idx * 4096 = st.recvd → (s.core n).amid = false → (s.core n).allPend = [] →
      (∀ j < st.recvd + b.data.length, winCore (boxByte n st.recvCd st.recvAt j) = some n) →
      completes (.riserBlockArrival n b) s fun t =>
        t.mem = (s.boxWrite n st.recvCd st.recvAt st.recvd (if wOp st.word = 3
          then redBytes (st.word.extractLsb' 4 3).toNat (natLe 8 s.freeW.toNat) (s.boxRead n st.recvCd st.recvAt st.recvd b.data.length) (blockBytes b)
          else blockBytes b)).mem
        ∧ t.core n = { s.core n with nrun := some { r with step := some { st with recvd := st.recvd + b.data.length } } }
        ∧ t.outbox = s.outbox ++ [.creditReturn ((s.core n).ctx.getD 64) ((s.rankModule ((s.core n).ctx.getD 64) gm.drank).getD 0) gm.core b.group b.src n])
    ∧ (b.idx * 4096 ≠ st.recvd → (s.core n).riser.length < 64 →
      completes (.riserBlockArrival n b) s fun t => t.mem = s.mem ∧ t.core n = { s.core n with riser := (s.core n).riser ++ [b] })
    ∧ (b.idx * 4096 ≠ st.recvd → 64 ≤ (s.core n).riser.length → completes (.riserBlockArrival n b) s fun t => refused s t n b))
  ∧ (∀ (n : Nat) (b : Block) (s : State), (∃ h ∈ (s.core n).holds, h.kind = .persist) → completes (.riserBlockArrival n b) s fun t => refused s t n b)
  ∧ (∀ (n : Nat) (b : Block) (s : State) (r : NRun) (st : NStep), (s.core n).nrun = some r → r.step = some st →
    wGroup st.word = b.group → st.seq = b.seq → st.recvFrom = some b.src → st.armed = false →
    (b.addend = true ∨ b.ctag ≠ st.word.extractLsb' 0 4 ∨ b.total ≠ st.recvBytes) →
    (∀ h ∈ (s.core n).holds, h.kind ≠ .persist) → (s.core n).run.isSome = true → ((s.core n).member b.group).isSome = true →
    (b.group, b.seq, b.src) ∉ (s.core n).voided →
    completes (.riserBlockArrival n b) s fun t => t.mem = s.mem ∧ (t.core n).nrun = some { r with faulted := true, word := none }
      ∧ (t.core n).asyncs = (s.core n).asyncs ++ [⟨0x1B, 7, 4, true, 0, r.addr, st.word⟩] ∧ (b.group, b.seq, b.src) ∈ (t.core n).voided)
  ∧ (∀ (n : Nat) (g : BitVec 8) (dst : Nat) (s : State),
    (0 < ((s.core n).credit g dst).used → completes (.creditReturn n g dst) s fun t =>
      ((t.core n).credit g dst).used = ((s.core n).credit g dst).used - 1 ∧ t.mem = s.mem ∧ ∀ k, k ≠ n → t.core k = s.core k)
    ∧ (((s.core n).credit g dst).used = 0 → completes (.creditReturn n g dst) s fun t => t = s.modSaved n (fun c => c.creditBack g dst)))

/-- COLLECTIVE_WATCHDOG (R270): of a receive part that has waited WDT unmatched, a sender that has not come to the collective, or stands at it and sends, is waited for again; one that stands at it and does not send, or has passed it and is not chilled, is step fault 8, whose record names the group, n, b and h; on a chilled core one that has passed it leaves the part done with status 6. What stands at the sender is read from a core of this module itself, and asked of another module. A part that has not waited so long, or of which something has come, is left alone. -/
def Claim.CollectivesWatched : Prop :=
  ∀ (n : Nat) (src h0 : Nat) (here0 : Bool) (s : State) (r : NRun) (st : NStep), (s.core n).nrun = some r → r.step = some st →
    st.recvFrom = some src → (s.core n).arms = [] →
    let c := s.core n
    let g := wGroup st.word
    let z := s.askHead n g src
    let h := (s.headRead n g src h0 here0).1
    let sendsHere := (s.headRead n g src h0 here0).2
    (st.waited + s.wdtOf c ≤ c.tref → st.recvd = 0 → 0 < st.recvBytes → c.unmatched g st.seq src = true →
      (h < st.seq.toNat ∨ (h = st.seq.toNat ∧ sendsHere = true) →
        completes (.collectiveWatchdog n g src h0 here0) s fun t => coreOnly z t n { c with nrun := some { r with step := some { st with waited := c.tref } } })
      ∧ ((h = st.seq.toNat ∧ sendsHere = false) ∨ (st.seq.toNat < h ∧ c.chilled = false) →
        completes (.collectiveWatchdog n g src h0 here0) s fun t => coreOnly z t n { c with
          nrun := some { r with faulted := true, word := none }
          asyncs := c.asyncs ++ [⟨0x1B, 8, 4, true, 0, r.addr, st.word⟩]
          nrec := some { c.stepRecord r.addr st.word 8 with group := g, n := st.seq, b := src, h := h } })
      ∧ (st.seq.toNat < h → c.chilled = true →
        completes (.collectiveWatchdog n g src h0 here0) s fun t =>
          (t.core n).nrun = some { r with step := some { st with recvFrom := none, recvd := st.recvBytes, recvStatus := 6 } }))
    ∧ (c.tref < st.waited + s.wdtOf c ∨ st.recvd ≠ 0 ∨ c.unmatched g st.seq src = false → completes (.collectiveWatchdog n g src h0 here0) s fun t => t = z)

/-- What reaches N from elsewhere (R264, R268 to R270). -/
def Obligations.CollectiveEvents : Prop := Claim.BlocksAndCredits ∧ Claim.CollectivesWatched

namespace Sys2Proof.Claim

open Sys2Proof.Machine

/-- The compute queue without its head, and what it last accepted (R323, R326). -/
def poppedQueue (s : State) (q : Nat) (last : Option Nat) : State :=
  { s with cqs := tset [] s.cqs q (tget [] s.cqs q).tail, cqLast := tset none s.cqLast q last }

end Sys2Proof.Claim

/-- RECORD_ACCEPT (R308, R309, R315, R339): the runner takes an eligible head of the highest level and, of those, of the lowest queue; an accepted record joins the records, a refused one and one without iterations complete at once; with 64 records nothing is accepted; a page-table entry that cannot be read is a fatal context error (R373). What a context that has ended left in its queues is completed first (R315): `z`. -/
def Claim.RecordsAccepted : Prop :=
  (∀ (s : State) (q lvl x : Nat) (cx : Context) (e : CqEntry), let z := s.flushDead; bestHead z.eligible = some (q, lvl, x, cx, e) →
    (∀ h ∈ z.eligible, h.2.1 ≤ lvl ∧ (h.2.1 = lvl → q ≤ h.1))
    ∧ (z.records.length < 64 → z.checked = false →
      (∀ s1 r, z.acceptRead cx x q e.addr = .take s1 r → r.n ≠ 0 →
        completes .recordAccept s fun t =>
          t = { poppedQueue s1 q (some r.order) with records := s1.records ++ [r], accepted := s1.accepted + 1 })
      ∧ (∀ s1 r, z.acceptRead cx x q e.addr = .take s1 r → r.n = 0 →
        completes .recordAccept s fun t => t = ((poppedQueue s1 q none).release x r.pins).finishRecord x e.addr r.fields 1 0 0)
      ∧ (∀ s1 r k, z.acceptRead cx x q e.addr = .refuse s1 (some r) k →
        completes .recordAccept s fun t => t = (poppedQueue s1 q none).finishRecord x e.addr r 2 k 0)
      ∧ (∀ s1 k, z.acceptRead cx x q e.addr = .refuse s1 none k →
        completes .recordAccept s fun t => t = (poppedQueue s1 q none).logError (runnerRec e.addr x))
      ∧ (∀ a, z.acceptRead cx x q e.addr = .dead a → completes .recordAccept s fun t => t = z.ctxFatal x 3 a 0)
      ∧ (z.acceptRead cx x q e.addr = .wait → completes .recordAccept s fun t => t = z)))
  ∧ (∀ s : State, let z := s.flushDead; 64 ≤ z.records.length ∨ z.checked = true ∨ z.eligible = [] → completes .recordAccept s fun t => t = z)

/-- Smooth weighted round robin for a core (R340, R342): only candidates of the highest effective level take part; each counter rises by its weight, the largest, of equals the earliest, is chosen and falls by the sum of the weights. A choice that stands is not made again (R343), and a core of a reserving gang's set goes to that gang without a choice (R341). -/
def Claim.WeightedRoundRobin : Prop :=
  ∀ (n : Nat) (s : State), s.records.Pairwise (fun a b => a.order ≠ b.order) →
    let part := s.records.filter (fun r => s.candidate n r && (s.records.filter (s.candidate n)).all (fun q => decide (q.level ≤ r.level)))
    let up (r : RecordRun) : Int := r.cr + (nrec r.fields 344 8 : Nat)
    ((s.core n).goes = none → (∀ r ∈ s.records, s.reserves n r = false) →
      (part = [] → s.decideRecord n = (none, s.records))
      ∧ ∀ pre r0 post, part = pre ++ r0 :: post → (∀ q ∈ pre, up q < up r0) → (∀ q ∈ post, up q ≤ up r0) →
        (s.decideRecord n).1 = some { r0 with cr := up r0 }
        ∧ (s.decideRecord n).2 = s.records.map (fun r => if r ∈ part then { r with cr := if r.order = r0.order then up r - (part.map (fun q => (nrec q.fields 344 8 : Int))).sum else up r } else r))
    ∧ ∀ r ∈ s.records, s.candidate n r = true → (s.core n).goes = some r.order ∨ ((s.core n).goes = none ∧ s.reserves n r = true) → s.decideRecord n = (some r, s.records)

/-- ITERATION_HANDOUT (R205, R311, R312, R340): a free core whose active plane holds the kernel of the chosen record, with no saved iteration and no lower-numbered core ready, starts its next iteration in user mode with %iter and every sequencer at line 0; a choice that cannot start yet stands; a gang record is admitted when every core of its set is free for it, and reserves when not. A lower-numbered core that waits for a decision is served first. What the core has stored is visible (R314). A killed iteration starts from what it started from before (R145). -/
def Claim.IterationsHandedOut : Prop :=
  ∀ (n : Nat) (s : State) (w : RecordRun) (rs : List RecordRun), (s.core n).vacant = true → s.checked = false → s.lowerUndecided n = false → s.decideRecord n = (some w, rs) →
    (∀ r l rest cx, (w.gang = true → w.admitted = true) → (s.core n).plane = some w.order → s.hasSaved w = false → s.lowerReady w n = false →
      rs.find? (fun r => r.order = w.order) = some r → nextL r.handout = some (l, rest) → s.context r.ctx = some cx →
      completes (.iterationHandout n) s fun t =>
        (t.core n).run = some (r.order, l) ∧ (t.core n).iter = BitVec.ofNat 64 l ∧ (t.core n).mode = .user ∧ (t.core n).ctx = (match tget none r.origins l with | some o => o.core.ctx | none => some r.ctx) ∧ (t.core n).turn = 0
        ∧ (∀ e, ((t.core n).seqOf e).queue = [] ∧ ((t.core n).seqOf e).ended = false) ∧ (t.core n).fetch.next = 0
        ∧ (∀ v ∈ t.records, v.order = r.order → v.handout = rest ∧ v.started.contains n = true)
        ∧ ((s.core n).stores = [] → ∀ k, k ≠ n → t.core k = s.core k))
    ∧ ((w.gang = true → w.admitted = true) → ((s.core n).plane ≠ some w.order ∨ s.hasSaved w = true ∨ s.lowerReady w n = true) →
      completes (.iterationHandout n) s fun t => t = ({ s with records := rs } : State).modCore n (fun c => { c with goes := some w.order }))
    ∧ (w.gang = true → w.admitted = false →
      (s.gangFree w = false → completes (.iterationHandout n) s fun t => t = { s with records := rs, reserving := s.reserving.or (some w.order) })
      ∧ (s.gangFree w = true → ∀ r, rs.find? (fun r => r.order = w.order) = some r → completes (.iterationHandout n) s fun t => ∀ v ∈ t.records, v.order = w.order → v.admitted = true))

/-- ITERATION_RETIRE (R313) and RECORD_COMPLETE (R315): an iteration that meets every condition counts as retired, what was due on its core has landed, and complete armings keep their signal (R162); a record whose every iteration has retired completes; a pre-empted gang leaves its set with its last iteration (R312). -/
def Claim.IterationsRetire : Prop :=
  (∀ (n : Nat) (s : State) (r : RecordRun), s.recordOf (s.core n) = some r →
    let s0 := (s.landInbox n).landDue (.core n)
    ((s.core n).retires = true → (∀ q ∈ s.records, q.order = r.order → q.going = false) → completes (.iterationRetire n) s fun t =>
      t.core n = { (s0.core n).released with arms := (s0.core n).arms } ∧ (∀ k, k ≠ n → t.core k = s0.core k) ∧ t.mem = s0.mem
      ∧ ((s.core n).pend = [] → (s.core n).inbox = [] → t.mem = s.mem ∧ ∀ k, k ≠ n → t.core k = s.core k)
      ∧ t.records = s0.records.map (fun q => if q.order = r.order then { r with retired := r.retired + 1 } else q))
    ∧ ((s.core n).retires = true → r.going = true → (s.core n).pend = [] → (∀ k ∈ r.cores, k ≠ n → ∀ l, (s.core k).run ≠ some (r.order, l)) →
      completes (.iterationRetire n) s fun t => ∀ q ∈ t.records, q.order = r.order → q.retired = r.retired + 1 ∧ q.admitted = false ∧ q.going = false)
    ∧ ((s.core n).retires = false → completes (.iterationRetire n) s fun t => t = s))
  ∧ (∀ (rec : Nat) (s : State) (r : RecordRun), s.records.find? (fun r => r.order = rec) = some r →
    (r.retired = r.n → completes (.recordComplete rec) s fun t => t = s.completeRecord r 1 ∧ ∀ q ∈ t.records, q.order ≠ rec)
    ∧ (r.retired ≠ r.n → completes (.recordComplete rec) s fun t => t = s))

/-- LOADER_FILL and PLANE_FLIP (R317, R318): the loader fills the inactive plane of the cluster's cores for which the record is chosen; the planes change places at a drain point, once the shadow plane holds the next kernel. A word of the image that cannot be read ends the context (assumption 84). -/
def Claim.PlanesFilledAndFlipped : Prop :=
  (∀ (n rec : Nat) (s : State) (r : RecordRun), s.records.find? (fun r => r.order = rec) = some r → n ∈ r.cores → (s.core n).lacks rec = true →
    ((∀ b ∈ s.imageOf r, b.2 = false) → completes (.loaderFill n rec) s fun t =>
      ∀ k, if k = n ∨ (k ∈ r.cores ∧ k / 32 = n / 32 ∧ (s.core k).lacks rec = true ∧ s.chosen r k = true) then
          t.core k = (if (s.core k).active then { s.core k with plane0 := planeOf ((s.imageOf r).map (·.1)), shadow := some rec }
            else { s.core k with plane1 := planeOf ((s.imageOf r).map (·.1)), shadow := some rec })
        else t.core k = s.core k)
    ∧ ((∃ b ∈ s.imageOf r, b.2 = true) → completes (.loaderFill n rec) s fun t => t = { s with fatal := s.fatal ++ [⟨r.ctx, 1, nrec r.fields 0 52, n⟩] }))
  ∧ (∀ (n rec : Nat) (s : State) (r : RecordRun), s.records.find? (fun r => r.order = rec) = some r → n ∉ r.cores ∨ (s.core n).lacks rec = false →
    completes (.loaderFill n rec) s fun t => t = s)
  ∧ (∀ (n : Nat) (s : State), let c := s.core n
    (∀ r, c.vacant = true → s.records.find? (fun r => c.shadow = some r.order) = some r →
      (s.chosen r n = true → completes (.planeFlip n) s fun t => coreOnly s t n { c with active := !c.active, plane := c.shadow, shadow := c.plane })
      ∧ (s.chosen r n = false → completes (.planeFlip n) s fun t => t = s))
    ∧ (c.vacant = false ∨ s.records.find? (fun r => c.shadow = some r.order) = none → completes (.planeFlip n) s fun t => t = s))

/-- The life of a record (R205, R308 to R318, R339, R340). -/
def Obligations.RecordsAndIterations : Prop :=
  Claim.RecordsAccepted ∧ Claim.WeightedRoundRobin ∧ Claim.IterationsHandedOut ∧ Claim.IterationsRetire ∧ Claim.PlanesFilledAndFlipped

/-- A core's image in memory (R348, R350, R351): the slot's header has its fields and HCRC; a marked granule of a region holds the window's bytes, and those of an unmarked one are zero; nothing outside the slot changes. -/
def Claim.imageIn (s t : State) (n : Nat) (v : SavedCore) (base : Nat) : Prop :=
  (∀ i < 40, t.mem.rd (base + i) = v.header.getD i 0)
  ∧ (leNat (v.header.take 36) = v.recAddr % 2 ^ 52 * 2 ^ 184 + v.l % 2 ^ 48 * 2 ^ 136 + v.from_ % 4096 * 2 ^ 124 + (if v.yielded then 2 else 1) * 2 ^ 120 + v.spent / 336 % 2 ^ 64
    ∧ leNat (v.header.drop 36) = (crc32c (v.header.take 36)).toNat)
  ∧ (∀ k d, (k < 0x200000 ∧ d = k + 0x110000) ∨ (0x400000 ≤ k ∧ k < 0x4C0000 ∧ d = k - 0x400000 + 0x050000) ∨ (0x800000 ≤ k ∧ k < 0xC00000 ∧ d = k - 0x800000 + 0x310000) →
      (if t.slotMarked base (d / 512) then t.mem.rd (base + d) else 0) = s.mem.rd (winBase n + k))
  ∧ ∀ a, a < base ∨ base + 0x800000 ≤ a → t.mem.rd a = s.mem.rd a

/-- PREEMPTION, CHECKPOINT_STOP and KILL (R145, R343 to R349): a newcomer's victim has the stronger of its pending and its new policy, and its core goes to the newcomer; a core that is to be checkpointed stops between two cycles into the lowest free save slot, or drains where none is free; it waits in handler mode until it returns or has escalated (R293), and for copies to reach their sector's end; a killed iteration goes back to the head of the hand-out order, and its core is what it was before the iteration began, which the record keeps for its next start. -/
def Claim.StopsAndKills : Prop :=
  (∀ (rec n : Nat) (s : State) (w v : RecordRun), s.records.Pairwise (fun a b => a.order ≠ b.order) → s.records.find? (fun r => r.order = rec) = some w → (w.handout ≠ [] ∨ s.hasSaved w = true) → (w.gang = true → w.admitted = false) →
    s.victims w = [(v, n)] →
    (v.gang = false → v.going = false → completes (.preemption rec) s fun t => coreOnly s t n { s.core n with
      pre := if (s.core n).run.isSome then stronger (s.core n).pre (s.policyOf w v [n]) else (s.core n).pre, goes := if n ∈ w.cores then some w.order else (s.core n).goes })
    ∧ (v.gang = true → completes (.preemption rec) s fun t => (∀ q ∈ t.records, q.order = v.order → q.going = true ∨ q.admitted = false)
      ∧ (t.core n).goes = if n ∈ w.cores then some w.order else (s.core n).goes))
  ∧ (∀ (n l o : Nat) (s : State) (r : RecordRun) (cx : Context) (x : Nat), ((s.core n).pre = 2 ∨ (s.core n).pre = 4) →
    ((s.core n).mode = .user ∨ ((s.core n).mode = .escalated ∧ (s.core n).escSeq.isSome = true)) → ((s.core n).turn = 0 ∨ (s.core n).frozen = true) →
    (s.core n).powered = true → s.recordOf (s.core n) = some r → (s.core n).run = some (o, l) → (s.core n).ctx = some x → s.context x = some cx → r.ctx = x →
    (cx.freeSlots = [] → completes (.checkpointStop n) s fun t => coreOnly s t n { s.core n with pre := 1 })
    ∧ (∀ i more, cx.freeSlots = i :: more → s.settled n = none → completes (.checkpointStop n) s fun t => t = s)
    ∧ (∀ i more s1, cx.freeSlots = i :: more → s.settled n = some s1 → (∀ q ∈ s1.records, q.order = r.order → q.going = false) → completes (.checkpointStop n) s fun t =>
        let c := s1.core n
        let own : Core := { c with
          riser := c.riser.filter (fun b => (c.member b.group).isSome), credits := c.credits.filter (fun k => (c.member k.group).isSome), heldArr := s1.heldOf c }
        t.core n = { c.released with
          slots := [], nbWaits := [], nbNew := 0, riser := c.riser.filter (fun b => (c.member b.group).isNone), credits := c.credits.filter (fun k => (c.member k.group).isNone) }
        ∧ (∃ cx', t.context x = some cx' ∧ ∃ v, tget none cx'.slots i = some v ∧ v.recAddr = r.addr ∧ v.l = l ∧ v.from_ = n ∧ v.yielded = decide ((s.core n).pre = 4)
            ∧ v.core = (if c.mode == .user then own.stopped c.tr else own)
            ∧ (s1.mem.wf = true → imageIn s1 t n v (cx.slotBase i)))
        ∧ ∀ k, k ≠ n → t.core k = s1.core k))
  ∧ (∀ (n : Nat) (s : State), (s.core n).mode = .handler ∨ ((s.core n).pre ≠ 2 ∧ (s.core n).pre ≠ 4) → completes (.checkpointStop n) s fun t => t = s)
  ∧ (∀ (n l o : Nat) (s : State) (r : RecordRun), (s.core n).pre = 3 → (s.core n).run = some (o, l) → ((s.core n).turn = 0 ∨ (s.core n).frozen = true) → (s.core n).powered = true →
    s.recordOf (s.core n) = some r → (s.core n).stores = [] → (s.core n).copies = [] → (s.core n).inbox = [] → (s.core n).mode ≠ .escalated →
    let c : Core := { { s.core n with shown := max (s.core n).shown ((s.core n).now + 1) }.released with riser := [], credits := [] }
    (tget none s.starts n = none → completes (.kill n) s fun t => coreOnly { s with records := t.records } t n c
      ∧ ∀ q ∈ t.records, q.order = r.order → q.handout = (l, l) :: r.handout ∧ tget none q.origins l = none)
    ∧ (∀ origin, tget none s.starts n = some origin → completes (.kill n) s fun t =>
        t.core n = c.takeOrigin origin.core ∧ (∀ k, k ≠ n → t.core k = s.core k) ∧ t.mem = (s.pasteWindow n origin.cells origin.pz).mem
        ∧ ∀ q ∈ t.records, q.order = r.order → q.handout = (l, l) :: r.handout ∧ tget none q.origins l = some origin))
  ∧ (∀ (n : Nat) (s : State), (s.core n).pre ≠ 3 ∨ (s.core n).run = none ∨ ((s.core n).turn ≠ 0 ∧ (s.core n).frozen = false) ∨ (s.core n).powered = false →
    completes (.kill n) s fun t => t = s)

/-- ITERATION_RESTORE and CONTEXT_SWITCH (R351, R353, R355): a saved iteration goes on on the core that the rule names, with its registers, and its slot is free; a slot whose header fails its check, or whose record is no record of the context, is a fatal context error; a context whose cores run nothing goes off the module, and back on. -/
def Claim.RestoresAndSwitches : Prop :=
  (∀ (x slot : Nat) (s : State) (cx : Context) (v0 v : SavedCore), s.context x = some cx → tget none cx.slots slot = some v0 → s.readHeader (cx.slotBase slot) v0 = some v →
    (∀ r n, s.records.find? (fun r => r.ctx = x && r.addr = v.recAddr) = some r → s.restoreCore r v = some n → v.core.run.isSome = true → v.core.mode = .user → v.core.snap ≠ none → v.core.moved = none →
      v.core.heldArr = [] → (s.core n).stores = [] →
      completes (.iterationRestore x slot) s fun t =>
        (t.core n).run = some (r.order, v.l) ∧ (t.core n).mode = .user ∧ (t.core n).s = v.core.s ∧ (t.core n).p = v.core.p ∧ (t.core n).iter = v.core.iter
        ∧ (s.mem.wf = true → ∀ k d, (k < 0x200000 ∧ d = k + 0x110000) ∨ (0x400000 ≤ k ∧ k < 0x4C0000 ∧ d = k - 0x400000 + 0x050000) ∨ (0x800000 ≤ k ∧ k < 0xC00000 ∧ d = k - 0x800000 + 0x310000) →
            t.mem.rd (winBase n + k) = if s.slotMarked (cx.slotBase slot) (d / 512) then s.mem.rd (cx.slotBase slot + d) else 0)
        ∧ (∃ cx', t.context x = some cx' ∧ tget none cx'.slots slot = none) ∧ ∀ k, k ≠ n → t.core k = s.core k)
    ∧ (s.records.find? (fun r => r.ctx = x && r.addr = v.recAddr) = none → completes (.iterationRestore x slot) s fun t =>
        t = { s with fatal := s.fatal ++ [⟨x, 4, cx.save + 8192 + 8388608 * slot, v0.from_⟩] })
    ∧ (∀ r, s.records.find? (fun r => r.ctx = x && r.addr = v.recAddr) = some r → s.restoreCore r v = none → completes (.iterationRestore x slot) s fun t => t = s))
  ∧ (∀ (x slot : Nat) (s : State) (cx : Context) (v0 : SavedCore), s.context x = some cx → tget none cx.slots slot = some v0 →
    leNat (s.mem.rdN (cx.slotBase slot + 36) 4) ≠ (crc32c (s.mem.rdN (cx.slotBase slot) 36)).toNat →
      completes (.iterationRestore x slot) s fun t => t = { s with fatal := s.fatal ++ [⟨x, 4, cx.save + 8192 + 8388608 * slot, v0.from_⟩] })
  ∧ (∀ (x : Nat) (s : State) (cx : Context), s.context x = some cx →
    (cx.onModule = true → (∀ c ∈ s.cores, c.2.ctx = some x → c.2.run = none) → completes (.contextSwitch x true) s fun t =>
      t.context x = some { cx with onModule := false } ∧ t.records = s.records)
    ∧ (cx.onModule = true → (∃ c ∈ s.cores, c.2.ctx = some x ∧ c.2.run ≠ none) → completes (.contextSwitch x true) s fun t => t = s)
    ∧ (cx.onModule = false → completes (.contextSwitch x false) s fun t =>
      t.context x = some { cx with onModule := true } ∧ t.cores = s.cores))

/-- Pre-emption and return (R343 to R356). -/
def Obligations.PreemptionAndReturn : Prop := Claim.StopsAndKills ∧ Claim.RestoresAndSwitches

namespace Sys2Proof.Claim

open Sys2Proof.Machine

/-- An address lies in the window of core `n` (R227). -/
def inWin (n a : Nat) : Prop := winBase n ≤ a ∧ a < winBase n + 0x1000000

end Sys2Proof.Claim

/-- PERSIST_IMAGE_SEALED (R381, R384, R387): the slot that the fence wrote has a valid seal with one more than the larger SEQ of the seals that pass, of the iteration that the core runs; the journal is empty, and the core may go on. -/
def Claim.ImageSealed : Prop :=
  (∀ (n bytes : Nat) (b : Bool) (s : State), (s.chillOf n).writing = some (b, bytes) →
    completes (.persistImageSealed n) s fun t =>
      let sl := ((t.chillOf n).slot b).sl
      sl.valid = true ∧ sl.crcOk = true ∧ sl.seq = (s.chillOf n).nextSeq ∧ sl.core = n ∧ sl.ctx = (s.core n).ctx.getD 0
      ∧ sl.fmt = 1 ∧ sl.pour = s.spe.pour ∧ sl.scrc = ((s.chillOf n).slot b).stateCrc
      ∧ (∀ o l, (s.core n).run = some (o, l) → sl.l = l) ∧ (∀ r, s.recordOf (s.core n) = some r → sl.record = r.addr)
      ∧ (t.chillOf n).slot (!b) = (s.chillOf n).slot (!b) ∧ (t.chillOf n).writing = none ∧ (t.chillOf n).journal = []
      ∧ t.core n = { s.core n with
          holds := (s.core n).holds.filter (fun h => h.kind != HoldKind.persist)
          snap := (s.core n).snap.map (fun sn => { sn with holds := sn.holds.filter (fun h => h.kind != HoldKind.persist) })
          epoch := (s.chillOf n).nextSeq, ordinal := 0, nbNew := 0
          tref := (t.core n).tref, tun := (t.core n).tun }
      ∧ t.mem = s.mem ∧ ∀ k, k ≠ n → t.core k = s.core k)
  ∧ (∀ (n : Nat) (s : State), (s.chillOf n).writing = none → completes (.persistImageSealed n) s fun t => t = s)
  ∧ (∀ ch : Chill, ch.a.sl.crcOk = true → ch.b.sl.crcOk = true →
    ch.nextSeq = (if ch.a.sl.seq.toNat < ch.b.sl.seq.toNat then ch.b.sl.seq else ch.a.sl.seq) + 1)

/-- CORE_POWER_LOSS (R5, R381, R388): a core that loses power holds nothing, and its window reads as zero; its images, and every other core, stand, and only the seal that it was writing may be torn; it keeps its place in its iteration. Of its stores that were not yet visible a free choice is performed (assumption 96), so that other windows and memory are the same where there is none. A cluster's loss is that of its 32 cores. -/
def Claim.PowerIsLost : Prop :=
  (∀ (n : Nat) (s : State), n < 4096 → (s.core n).powered = true →
    completes (.corePowerLoss false n) s fun t =>
      (t.core n).powered = false ∧ (t.core n).s = [] ∧ (t.core n).p = [] ∧ (t.core n).q = [] ∧ (t.core n).pend = [] ∧ (t.core n).copies = []
      ∧ (t.core n).run = (s.core n).run ∧ ((s.core n).run ≠ none → (t.core n).mode = .held)
      ∧ (∀ a, inWin n a → t.mem.rd a = 0)
      ∧ (t.chillOf n).writing = none
      ∧ ((s.chillOf n).writing = none → (t.chillOf n).a = (s.chillOf n).a ∧ (t.chillOf n).b = (s.chillOf n).b)
      ∧ (∀ b k, (s.chillOf n).writing = some (b, k) → (t.chillOf n).slot (!b) = (s.chillOf n).slot (!b)
          ∧ ∃ sl, (t.chillOf n).slot b = { (s.chillOf n).slot b with sl := sl } ∧ (sl = ((s.chillOf n).slot b).sl ∨ sl.crcOk = false))
      ∧ ((s.core n).stores = [] → (∀ k, k ≠ n → t.core k = s.core k) ∧ ∀ a, ¬inWin n a → t.mem.rd a = s.mem.rd a))
  ∧ (∀ (n : Nat) (s : State), (s.core n).powered = false → completes (.corePowerLoss false n) s fun t => t = s)
  ∧ (∀ (k : Nat) (s : State), completes (.corePowerLoss true k) s fun t =>
    (∀ n, n / 32 = k → (t.core n).powered = false) ∧ ((∀ n, n / 32 = k → (s.core n).stores = []) → ∀ n, n / 32 ≠ k → t.core n = s.core n))

/-- CHILL_RESUME (R386 to R389): of the images that are ok for the core's iteration the one with the larger SEQ is taken, and the core goes on from it in user mode with its registers, its window and the journal in replay, its copies having their pages pinned again (R363), for which it waits; without one the iteration is lost: killed if its record allows it, else a fatal context error. A core that ran no iteration only has power again. -/
def Claim.PowerReturns : Prop :=
  ∀ (n : Nat) (s : State), n < 4096 → (s.core n).powered = false → (s.cluster (n / 32)).powered = true →
    ((s.core n).run = none → completes (.chillResume n) s fun t => coreOnly s t n { s.core n with powered := true })
    ∧ ((s.core n).run ≠ none →
      (∀ b v, s.resumeSlot n = some b → ((s.chillOf n).slot b).core = some v → s.repin n ((s.core n).ctx.getD 64) v.copies = none → completes (.chillResume n) s fun t => t = s)
      ∧ (∀ b v s1 copies, s.resumeSlot n = some b → ((s.chillOf n).slot b).core = some v → s.repin n ((s.core n).ctx.getD 64) v.copies = some (s1, copies) →
        v.snap ≠ none → v.moved = none → v.heldArr = [] →
        completes (.chillResume n) s fun t =>
          (t.core n).powered = true ∧ (t.core n).chilled = true ∧ (t.core n).mode = .user ∧ (t.core n).s = v.s ∧ (t.core n).p = v.p ∧ (t.core n).cm = v.cm
          ∧ (t.core n).run = (s.core n).run ∧ (t.core n).epoch = (s.core n).epoch ∧ (t.core n).copies = copies ∧ (t.chillOf n).replay = some 0
          ∧ (v.copies = [] → (∀ k, k ≠ n → t.core k = s.core k) ∧ ∀ a, ¬inWin n a → t.mem.rd a = s.mem.rd a))
      ∧ (s.resumeSlot n = none → ∀ r, s.recordOf (s.core n) = some r → (r.fields.getLsbD 352 = false ∨ r.gang = true) →
        completes (.chillResume n) s fun t => t.fatal = s.fatal ++ [⟨r.ctx, 6, r.addr, n⟩] ∧ (t.core n).powered = true)
      ∧ (s.resumeSlot n = none → ∀ r o l, s.recordOf (s.core n) = some r → (s.core n).run = some (o, l) → r.fields.getLsbD 352 = true → r.gang = false →
        completes (.chillResume n) s fun t => (t.core n).run = none ∧ (t.core n).powered = true ∧ ∀ q ∈ t.records, q.order = r.order → q.handout = (l, l) :: r.handout))
    ∧ (s.slotOk n (s.chillOf n).a = true → s.slotOk n (s.chillOf n).b = true →
      s.resumeSlot n = some (decide ((s.chillOf n).a.sl.seq.toNat < (s.chillOf n).b.sl.seq.toNat)))

/-- BASE_TIER_LOSS and MODULE_POWER_LOSS (R390): a stack that loses its base tier holds nothing and every image is discarded; a module that loses power starts again from reset with its sealed configuration copies, of which only one that was being written may be torn (R392), and with seals that are not valid but keep what else they hold. -/
def Claim.StacksAndModulesLost : Prop :=
  (∀ (k : Nat) (s : State), completes (.baseTierLoss k) s fun t =>
    (∀ a, 0x2000000000 * k ≤ a → a < 0x2000000000 * (k + 1) → t.mem.rd a = 0)
    ∧ (∀ a, (a < 0x2000000000 * k ∨ 0x2000000000 * (k + 1) ≤ a) → t.mem.rd a = s.mem.rd a)
    ∧ (∀ n, (t.chillOf n).a.sl.valid = false ∧ (t.chillOf n).b.sl.valid = false ∧ (t.chillOf n).journal = [])
    ∧ t.cores = s.cores ∧ t.contexts = s.contexts)
  ∧ (∀ s : State, completes .modulePowerLoss s fun t =>
    t.mem = [] ∧ t.pz = [] ∧ t.cores = [] ∧ t.cps = [] ∧ t.contexts = [] ∧ t.records = [] ∧ t.cqs = [] ∧ t.barriers = [] ∧ t.spe = Spe.reset
    ∧ (s.boot.writing = false → t.boot.copyA = s.boot.copyA ∧ t.boot.copyB = s.boot.copyB)
    ∧ (∀ n, (t.chillOf n).a.sl.valid = false ∧ (t.chillOf n).b.sl.valid = false)
    ∧ (∀ n, (s.chillOf n).a.sl.crcOk = true → (t.chillOf n).a.sl.seq = (s.chillOf n).a.sl.seq)
    ∧ (∀ n, (t.chillOf n).a.sl.pour = (s.chillOf n).a.sl.pour ∧ (t.chillOf n).b.sl.pour = (s.chillOf n).b.sl.pour))

/-- Images, losses of power and resume (R5, R381, R384 to R390). -/
def Obligations.ImagesAndPower : Prop :=
  Claim.ImageSealed ∧ Claim.PowerIsLost ∧ Claim.PowerReturns ∧ Claim.StacksAndModulesLost

namespace Sys2Proof.Claim

open Sys2Proof.Machine

/-- A ladle's packet is performed (R333): from the state after its operation, the semaphore add, then RIDX rises by 1, and the next queue has the turn. -/
def packetDone (u t : State) (l x q : Nat) (b : LadleBind) (p : List Byte) : Prop :=
  let v := if pSen p then u.addSem (pSsem p) (BitVec.ofNat 64 (pSinc p)) else u
  v.lq x q = some b ∧ t = (v.poke (b.hdr + 8) (natLe 8 (v.ridx b + 1)) false).ladleDone l x q

/-- The ladle performs this packet of the queue of a context. -/
def performs (s : State) (l x q : Nat) (b : LadleBind) (p : List Byte) (op : Nat) : Prop :=
  (s.ladle l).busy = some (x, q) ∧ (s.ladle l).packet = p ∧ (s.ladle l).owed = false ∧ pOp p = op ∧ s.lq x q = some b

/-- A range is translated and pinned, to consecutive unprotected HBM addresses from `pa` on (R336, R361). -/
def pinsTo (s : State) (x va n : Nat) (wr : Bool) (s1 : State) (pins : Pins) (pa : Nat) : Prop :=
  s.submit x wr (rangeParts va n) [] = .ok s1 pins ∧ (∀ i < n, boundAddr pins (va + i) = some (pa + i)) ∧ pa + n ≤ 0x10000000000
  ∧ (wr = true → ∀ a ∈ rangePages va n, ∃ z, boundAddr pins a = some z) ∧ ∀ a, s1.unitAt a = none

/-- `n` bytes from `a` are unpoisoned. -/
def cleanBytes (s : State) (a n : Nat) : Prop := ∀ i < n, poisonedAt s.pz (a + i) = false

/-- The bytes from `a` on are `d`. -/
def holdsBytes (s : State) (a : Nat) (d : List Byte) : Prop := s.mem.rdN a d.length = d

/-- The 32 FP32 values of a block. -/
def blockAt (s : State) (a : Nat) : List Fv := (List.range 32).map (fun i => Fmt.f32.decode (leNat (s.mem.rdN (a + 4 * i) 4)))

/-- Two ranges are disjoint. -/
def apart (a n b k : Nat) : Prop := a + n ≤ b ∨ b + k ≤ a

end Sys2Proof.Claim

/-- NOPK, COPY and FILL (R333, R335): NOPK has no operation; COPY within the module leaves the destination's bytes equal to the source's when the two lie apart; FILL leaves every 8 bytes equal to its value; no other byte of memory changes, and the packet is done. A COPY whose writes to another device are on their way ends when they are visible there (R250), at an instant that the manual does not tell (a free choice). A range that misses fails the packet with ESTAT 0x01 (R336). -/
def Claim.MovingPackets : Prop :=
  (∀ (l x q : Nat) (b : LadleBind) (p : List Byte) (s : State), performs s l x q b p 0 → completes (.nopk l) s fun t => packetDone s t l x q b p)
  ∧ (∀ (l x q : Nat) (b : LadleBind) (p : List Byte) (s s1 s2 : State) (p1 p2 : Pins) (src dst : Nat), performs s l x q b p 1 → pPen p = false →
    pinsTo s x (pdw p 3) (pdw p 5) false s1 p1 src → pinsTo s1 x (pdw p 4) (pdw p 5) true s2 p2 dst → apart src (pdw p 5) dst (pdw p 5) →
    completes (.copy l) s fun t => ∃ u, packetDone u t l x q b p
      ∧ (∀ i < pdw p 5, u.mem.rd (dst + i) = s2.mem.rd (src + i)) ∧ (∀ a, (a < dst ∨ dst + pdw p 5 ≤ a) → u.mem.rd a = s2.mem.rd a))
  ∧ (∀ (l x q : Nat) (b : LadleBind) (p : List Byte) (s s1 : State) (p1 : Pins) (dst : Nat), performs s l x q b p 2 → pdw p 4 % 8 = 0 → pdw p 3 % 8 = 0 →
    pinsTo s x (pdw p 3) (pdw p 4) true s1 p1 dst →
    completes (.fill l) s fun t => ∃ u, packetDone u t l x q b p
      ∧ (∀ i < pdw p 4, u.mem.rd (dst + i) = (natLe 8 (pdw p 5)).getD (i % 8) 0) ∧ (∀ a, (a < dst ∨ dst + pdw p 4 ≤ a) → u.mem.rd a = s1.mem.rd a))
  ∧ (∀ (l x q : Nat) (s : State), (s.ladle l).busy = some (x, q) → pOp (s.ladle l).packet = 1 → (s.ladle l).owed = true →
    completes (.copy l) s fun t => t = if Config.freeVerdict s.fresh then s.bump.ladleEnd l x q (s.ladle l).packet else s.bump)
  ∧ (∀ (l x q va : Nat) (b : LadleBind) (p : List Byte) (s : State), performs s l x q b p 2 → s.submit x true (rangeParts (pdw p 3) (pdw p 4)) [] = .miss va →
    completes (.fill l) s fun t => t = (s.failPacket x q 1).ladleDone l x q)

/-- QMX, QCB4, INGOT and HIST (R17, R19, R193, R194, R335) on unpoisoned inputs: a block's scale and codes, the segment's header, scales and substreams, and the counts of the bytes, stand at their destinations, and the packet is done. -/
def Claim.CodingPackets : Prop :=
  (∀ (l x q : Nat) (b : LadleBind) (p : List Byte) (s s1 s2 s3 : State) (p1 p2 p3 : Pins) (src dst sca : Nat), performs s l x q b p 3 → pdw p 6 % 2 ^ 32 = 1 →
    let e := mxElem (pdw p 6 / 2 ^ 32 % 4)
    let sz := if e = .e2m1 then 16 else 32
    pinsTo s x (pdw p 3) 128 false s1 p1 src → pinsTo s1 x (pdw p 4) sz true s2 p2 dst → pinsTo s2 x (pdw p 5) 1 true s3 p3 sca → apart dst sz sca 1 → cleanBytes s3 src 128 →
    let r := mxQuantise (blockAt s3 src) e ((pdw p 6).testBit 34) (rmOf (pdw p 6 / 2 ^ 35 % 8)) (draws 32 (BitVec.ofNat 32 (pdw p 7)))
    completes (.qmx l) s fun t => ∃ u, packetDone u t l x q b p
      ∧ holdsBytes u dst (packCodes (decide (e = .e2m1)) r.2.1) ∧ holdsBytes u sca [BitVec.ofNat 8 r.1]
      ∧ ∀ a, (a < dst ∨ dst + sz ≤ a) → a ≠ sca → u.mem.rd a = s3.mem.rd a)
  ∧ (∀ (l x q : Nat) (b : LadleBind) (p : List Byte) (s s1 s2 s3 : State) (p1 p2 p3 : Pins) (src dst sca : Nat) (tb : List Byte), performs s l x q b p 4 → pdw p 6 % 2 ^ 32 = 1 →
    pinsTo s x (pdw p 3) 128 false s1 p1 src → pinsTo s1 x (pdw p 4) 16 true s2 p2 dst → pinsTo s2 x (pdw p 5) 2 true s3 p3 sca → apart dst 16 sca 2 → cleanBytes s3 src 128 →
    s3.ladleTable (l / 4) x (pdw p 6 / 2 ^ 32 % 16) = .ok tb →
    let r := cb4Encode (blockAt s3 src) ((List.range 16).map (fun i => Fmt.f16.decode (leNat ((tb.drop (128 + 2 * i)).take 2))))
    completes (.qcb4 l) s fun t => ∃ u, packetDone u t l x q b p
      ∧ holdsBytes u dst (packCodes true r.2) ∧ holdsBytes u sca (natLe 2 r.1)
      ∧ ∀ a, (a < dst ∨ dst + 16 ≤ a) → (a < sca ∨ sca + 2 ≤ a) → u.mem.rd a = s3.mem.rd a)
  ∧ (∀ (l x q : Nat) (b : LadleBind) (p : List Byte) (s s1 s2 s3 : State) (p1 p2 p3 : Pins) (src dst sca : Nat) (tb : List Byte) (ls : List (List Byte)),
    performs s l x q b p 5 → (pP2 p).testBit 5 = false →
    let n := 32 * (pdw p 6 % 512 + 1)
    let sb := scaleBytes (pdw p 6 / 2 ^ 17)
    pinsTo s x (pdw p 3) n false s1 p1 src → cleanBytes s1 src n → s1.ladleTable (l / 4) x (pdw p 6 / 2 ^ 13 % 16) = .ok tb →
    allStreams (codewords tb) ((List.range n).map (fun i => (s1.mem.rd (src + i), false))) (pdw p 6 % 512 + 1) (List.range 32) = .ok ls →
    pinsTo s1 x (pdw p 4) (64 + sb + (ls.map List.length).sum) true s2 p2 dst → pinsTo s2 x (pdw p 5) sb false s3 p3 sca → cleanBytes s3 sca sb →
    completes (.ingot l) s fun t => ∃ u, packetDone u t l x q b p
      ∧ holdsBytes u dst (ls.flatMap (fun z => natLe 2 z.length) ++ s3.mem.rdN sca sb ++ ls.flatten)
      ∧ ∀ a, (a < dst ∨ dst + (64 + sb + (ls.map List.length).sum) ≤ a) → u.mem.rd a = s3.mem.rd a)
  ∧ (∀ (l x q : Nat) (b : LadleBind) (p : List Byte) (s s1 s2 : State) (p1 p2 : Pins) (src dst : Nat), performs s l x q b p 6 → 0 < pdw p 5 → pP2 p = 0 →
    pinsTo s x (pdw p 3) (pdw p 5) false s1 p1 src → pinsTo s1 x (pdw p 4) 1024 true s2 p2 dst → cleanBytes s2 src (pdw p 5) →
    completes (.hist l) s fun t => ∃ u, packetDone u t l x q b p
      ∧ (∀ k < 256, leNat (u.mem.rdN (dst + 4 * k) 4) = ((s2.mem.rdN src (pdw p 5)).countP (fun z => decide (z.toNat = k))) % 2 ^ 32)
      ∧ ∀ a, (a < dst ∨ dst + 1024 ≤ a) → u.mem.rd a = s2.mem.rd a)

/-- LADLE_SLOT_TAKE and LADLE_WAKE (R328, R331, R333, R334): a ladle that performs nothing takes the head packet of the first queue in its turn, unless its fields are wrong (ESTAT 0x04) or its semaphore is not yet high enough; one that performs a packet takes none; a wake makes the queue's ladle look. -/
def Claim.SlotsTaken : Prop :=
  ∀ (l : Nat) (s : State), (s.checked = false → (s.ladle l).busy = none → ∀ x q b rest s1 p, s.turnOrder l = (x, q, b) :: rest → s.headOf x b = .packet s1 p →
      (packetOk p = false → completes (.ladleSlotTake l) s fun t => t = (s1.failPacket x q 4).ladleDone l x q)
      ∧ (packetOk p = true → s1.copyOverlap x p = false → (pWen p = false ∨ ((s1.sem (pWsem p)).2 = false ∧ pdw p 1 ≤ (s1.sem (pWsem p)).1.toNat)) →
        completes (.ladleSlotTake l) s fun t => (t.ladle l).busy = some (x, q) ∧ (t.ladle l).packet = p ∧ t.mem = s1.mem))
    ∧ ((s.ladle l).busy ≠ none ∨ s.checked = true → completes (.ladleSlotTake l) s fun t => t = s)
    ∧ (∀ x q b, s.lq x q = some b → b.ladle = l → completes (.ladleWake x q) s fun t => exec (.ladleSlotTake l) s = .next t)
    ∧ (∀ x q, s.lq x q = none → completes (.ladleWake x q) s fun t => t = s)

/-- Ladles (R327 to R336). -/
def Obligations.LadlePackets : Prop := Claim.SlotsTaken ∧ Claim.MovingPackets ∧ Claim.CodingPackets

namespace Sys2Proof.Claim

open Sys2Proof.Machine

/-- The mailbox runs a command with opcode `op`, and the request's zero field is zero (R368, R369). -/
def asks (s : State) (op : Nat) : Prop := s.mbox.mbst.getLsbD 0 = true ∧ s.opcode = op ∧ s.param 0 / 2 ^ 17 % 2 ^ 15 = 0

/-- From the state `u` that a command leaves, the command ends with a status and a response (R368, R369): the response repeats the tag, the status register holds tag and status with DONE and not BUSY and keeps LOST, and without IRQ nothing is sent. -/
def answered (u t : State) (status : Nat) (body : List Byte) : Prop :=
  t = { u with mbox := t.mbox, outbox := t.outbox, msixPend := t.msixPend }
  ∧ t.mbox = { u.mbox with rsp := t.mbox.rsp, mbst := t.mbox.mbst }
  ∧ t.mbox.rsp = natLe 4 status ++ natLe 4 (u.param 0 / 2 ^ 32) ++ body
  ∧ t.mbox.mbst.toNat = u.param 0 / 2 ^ 32 * 2 ^ 32 + status * 256 + 2 + (if u.mbox.mbst.getLsbD 2 then 4 else 0)
  ∧ (u.param 0 / 2 ^ 16 % 2 = 0 → t.outbox = u.outbox ∧ t.msixPend = u.msixPend)
  ∧ (u.param 0 / 2 ^ 16 % 2 = 1 → u.msixMask.getLsbD 0 = false → t.outbox = u.outbox ++ [.msix 0])

/-- The context of a command exists and has not ended. -/
def live (s : State) (x : Nat) : Prop := ∃ c, s.context x = some c ∧ c.dead = false

end Sys2Proof.Claim

/-- CTX_CREATE (R371): a parameter outside its limit, a context number in use, or a rank table that does not name this module exactly once ends it with status 2 and creates nothing; created, the context has the parameters' tables, its code tables and semaphores are zero where no ladle queue is bound, and a stream that is named stands at line 0 of its image in user mode. CTX_END (R292, R370): the context is gone, with its pins, holds, grants and stream; a context that is not there is status 5. -/
def Claim.ContextCommands : Prop :=
  (∀ s : State, Claim.asks s 1 →
    (s.createOk = false → completes .ctxCreate s fun t => Claim.answered s t 2 [])
    ∧ (∀ c, s.context (s.param 8) = some c → completes .ctxCreate s fun t => Claim.answered s t 2 [])
    ∧ ((s.param 8 ≥ 64 ∨ s.param 40 % 2 ^ 17 = 0 ∨ 65536 < s.param 40 % 2 ^ 17 ∨ s.param 40 / 2 ^ 32 < 20 ∨ 36 < s.param 40 / 2 ^ 32 ∨ 4096 < s.param 56 ∨ 2048 ≤ s.param 96 ∨ s.param 88 % 32 ≠ 0
        ∨ 1024 < s.param 64 % 1024 + s.param 64 / 2 ^ 16) →
      completes .ctxCreate s fun t => Claim.answered s t 2 [])
    ∧ (completes .ctxCreate s fun t => ∀ st, t.mbox.rsp.head? = some st → st = 0 → s.createOk = true →
        (∃ c, t.context (s.param 8) = some c ∧ c.dead = false ∧ c.ptbr = s.param 16 ∧ c.save = s.param 48 ∧ c.nslot = s.param 56 ∧ c.rcount = s.param 40 % 2 ^ 17
          ∧ c.wdt = 2 ^ (s.param 40 / 2 ^ 32) ∧ c.semFirst = s.param 64 % 1024 ∧ c.semCount = s.param 64 / 2 ^ 16 ∧ c.cqMask = s.param 72 % 65536
          ∧ c.lqTable = s.param 80 ∧ c.escVector = s.param 96)
        ∧ (s.param 88 ≠ 0 → tget 0 t.cpBase (s.param 8) = s.param 88 ∧ (t.agent (.cp (s.param 8))).mode = .user
            ∧ (t.agent (.cp (s.param 8))).fetch = Core.reset.fetch ∧ (t.agent (.cp (s.param 8))).s = [])
        ∧ ((∀ k < 256, ∃ e, s.lqRead (s.param 80) k = some e ∧ lqV e = false) → (s.agent (.cp (s.param 8))).stores = [] →
            (∀ i < 4096, t.mem.rd (tableBase + 4096 * s.param 8 + i) = 0)
            ∧ ∀ k, s.param 64 % 1024 ≤ k → k < s.param 64 % 1024 + s.param 64 / 2 ^ 16 → t.sem k = (0, false))))
  ∧ (∀ s : State, Claim.asks s 2 →
    (s.context (s.param 8) = none → completes .ctxEnd s fun t => Claim.answered s t 5 [])
    ∧ (∀ c, s.context (s.param 8) = some c → completes .ctxEnd s fun t =>
        t.context (s.param 8) = none ∧ (∀ n, (t.core n).ctx ≠ some (s.param 8)) ∧ (∀ h ∈ t.tlbHolds, h.1 ≠ s.param 8)
        ∧ (∀ k ∈ t.locks, k.1 / 2 ^ 52 ≠ s.param 8) ∧ t.agent (.cp (s.param 8)) = Core.reset
        ∧ t.mbox.mbst.toNat / 256 % 256 = 0))

/-- TLB_HOLD and TLB_RELEASE (R364): a range with a pinned page is status 3 and holds nothing; otherwise the hold is taken and no core of the context keeps a translation of the range; the release ends the hold. TWIN_SET (R365): a lower frame that is not aligned to twice its page size is status 2; a pair is registered with its TS, or taken out. -/
def Claim.TranslationCommands : Prop :=
  (∀ s : State, Claim.asks s 3 → s.param 16 + s.param 24 ≤ 2 ^ 52 →
    (Claim.live s (s.param 8) → s.pinnedIn (s.param 8) (s.param 16) (s.param 24) = true → completes .tlbHold s fun t => Claim.answered s t 3 [])
    ∧ (Claim.live s (s.param 8) → s.pinnedIn (s.param 8) (s.param 16) (s.param 24) = false → completes .tlbHold s fun t =>
        t.tlbHolds = s.tlbHolds ++ [(s.param 8, s.param 16, s.param 24)] ∧ t.mbox.mbst.toNat / 256 % 256 = 0
        ∧ ∀ n, (t.core n).ctx = some (s.param 8) → ∀ e ∈ (t.core n).tlb, e.va + e.size ≤ s.param 16 ∨ s.param 16 + s.param 24 ≤ e.va)
    ∧ (s.context (s.param 8) = none → completes .tlbHold s fun t => Claim.answered s t 5 []))
  ∧ (∀ s : State, Claim.asks s 4 → s.param 16 + s.param 24 ≤ 2 ^ 52 → Claim.live s (s.param 8) →
    completes .tlbRelease s fun t =>
      Claim.answered { s with tlbHolds := t.tlbHolds } t 0 [] ∧ ∀ h, h ∈ t.tlbHolds ↔ h ∈ s.tlbHolds ∧ h ≠ (s.param 8, s.param 16, s.param 24))
  ∧ (∀ s : State, Claim.asks s 5 →
    let size := if s.param 16 = 0 then 2 ^ 14 else if s.param 16 = 1 then 2 ^ 25 else 2 ^ 36
    (s.param 8 % (2 * size) ≠ 0 → completes .twinSet s fun t => Claim.answered s t 2 [])
    ∧ (s.param 16 ≤ 2 → s.param 24 ≤ 1 → s.param 32 = 0 → s.param 8 % (2 * size) = 0 → s.param 8 + 2 * size ≤ 0x10000000000 →
        (∀ w ∈ s.twins, w.lower + 2 * w.size ≤ s.param 8 ∨ s.param 8 + 2 * size ≤ w.lower) →
        completes .twinSet s fun t => Claim.answered { s with twins := s.twins ++ [⟨s.param 8, size, decide (s.param 24 = 1)⟩] } t 0 [])
    ∧ (s.param 16 ≤ 2 → s.param 24 ≤ 1 → s.param 32 = 1 → s.param 8 % (2 * size) = 0 → s.param 8 + 2 * size ≤ 0x10000000000 →
        (∃ w ∈ s.twins, w.lower = s.param 8 ∧ w.size = size) →
        completes .twinSet s fun t => Claim.answered { s with twins := t.twins } t 0 [] ∧ ∀ w, w ∈ t.twins ↔ w ∈ s.twins ∧ ¬(w.lower = s.param 8 ∧ w.size = size)))

/-- ESC_ANSWER (R291, R354): RESUME of a core that stopped with the named entry lets it resume as UHRET does; END raises the fatal context error; a sequence number that is not in the ring is status 2. CP_START (R320): a stream that runs is status 6; otherwise every register of the stream takes its reset value and it stands at line 0 of the named image. LQ_BIND (R329): an entry that is poisoned or has a wrong field is status 2, and a queue whose operation is being performed makes the command wait. -/
def Claim.StreamCommands : Prop :=
  (∀ s : State, Claim.asks s 6 → Claim.live s (s.param 8) →
    ((∀ e ∈ s.ringOf (s.param 8), e.seq ≠ s.param 16) → s.param 24 ≤ 1 → completes .escAnswer s fun t => Claim.answered s t 2 [])
    ∧ (∀ e, (s.ringOf (s.param 8)).find? (fun e => e.seq = s.param 16) = some e →
      (s.param 24 = 1 → completes .escAnswer s fun t =>
        Claim.answered { s with escs := s.escs.erase e, fatal := s.fatal ++ [⟨s.param 8, 2, 0, e.core⟩] } t 0 [])
      ∧ (s.param 24 = 0 → e.cp = true → (s.agent (.cp (s.param 8))).mode = .escalated → (tget 0 (s.agent (.cp (s.param 8))).tr 0).extractLsb' 0 8 ≠ 0x1B → (s.agent (.cp (s.param 8))).escSeq = some e.seq →
          (∀ w ∈ s.escs, w.ctx = s.param 8 → w.seq ≠ 0) →
          completes .escAnswer s fun t => t.agent (.cp (s.param 8)) = (s.agent (.cp (s.param 8))).resume ((s.agent (.cp (s.param 8))).now + 3))))
  ∧ (∀ s : State, Claim.asks s 8 →
    ((s.param 16 % 32 ≠ 0 ∨ 2 ^ 52 ≤ s.param 16) → completes .cpStart s fun t => Claim.answered s t 2 [])
    ∧ (s.param 16 % 32 = 0 → s.param 16 < 2 ^ 52 → Claim.live s (s.param 8) →
      let a := s.agent (.cp (s.param 8))
      (a.mode = .user → a.es.ended = false → a.fetch.stopped = false → completes .cpStart s fun t => Claim.answered s t 6 [])
      ∧ ((a.mode = .idle ∨ (a.mode = .user ∧ a.es.ended = true)) → completes .cpStart s fun t =>
          tget 0 t.cpBase (s.param 8) = s.param 16
          ∧ t.agent (.cp (s.param 8)) = { Core.reset with mode := .user, tref := (t.agent (.cp (s.param 8))).tref, tun := (t.agent (.cp (s.param 8))).tun }
          ∧ t.mbox.mbst.toNat / 256 % 256 = 0 ∧ (a.stores = [] → ∀ n, t.core n = s.core n))))
  ∧ (∀ s : State, Claim.asks s 7 →
    ((255 < s.param 16 ∨ 3 < s.param 24) → completes .lqBind s fun t => Claim.answered s t 2 [])
    ∧ (∀ x, s.context (s.param 8) = some x → x.dead = false → s.param 16 ≤ 255 → s.param 24 ≤ 3 →
      (s.lqRead x.lqTable (s.param 16) = none → completes .lqBind s fun t => Claim.answered s t 2 [])
      ∧ (∀ w, s.lqRead x.lqTable (s.param 16) = some w → w.getLsbD 63 = true →
          (w.extractLsb' 66 62 ≠ 0 ∨ w.extractLsb' 52 11 ≠ 0 ∨ (w.extractLsb' 0 52).toNat % 64 ≠ 0) → completes .lqBind s fun t => Claim.answered s t 2 [])
      ∧ (∀ w, s.lqRead x.lqTable (s.param 16) = some w → w.getLsbD 63 = false → tget none x.lqs (s.param 16) = none → s.param 24 / 2 % 2 = 0 →
          completes .lqBind s fun t => Claim.answered s t 0 [])
      ∧ (∀ w b, s.lqRead x.lqTable (s.param 16) = some w → w.getLsbD 63 = false → tget none x.lqs (s.param 16) = some b → s.param 24 / 2 % 2 = 0 →
          (∃ l ∈ s.ladles, l.2.busy = some (s.param 8, s.param 16)) → completes .lqBind s fun t => t = s)))

/-- OP_SET, OP_GET and LIMIT_GET (R426, R427): a mask of 0, a point above 7 or nonzero bytes elsewhere is status 2; otherwise each masked cluster takes the request: no effect for the point in force, a pending request during a ramp, else a ramp to the point. OP_GET answers the cluster's word; LIMIT_GET answers the events, and clears them when asked. The two measurements that LIMIT_GET answers are open. -/
def Claim.PowerCommands : Prop :=
  (∀ s : State, Claim.asks s 0x10 →
    let mask := s.param 8 + 2 ^ 64 * s.param 16
    ((mask = 0 ∨ 7 < s.param 24 ∨ (∃ i, 32 ≤ i ∧ i < 256 ∧ s.mbox.cmd.getD i 0 ≠ 0)) → completes .opSet s fun t => Claim.answered s t 2 [])
    ∧ (mask ≠ 0 → s.param 24 ≤ 7 → (∀ i, 32 ≤ i → i < 256 → s.mbox.cmd.getD i 0 = 0) → completes .opSet s fun t =>
        Claim.answered { s with clusters := t.clusters } t 0 []
        ∧ ∀ k < 128, let c := s.cluster k; let p := BitVec.ofNat 3 (s.param 24)
          (mask.testBit k = false → t.cluster k = c)
          ∧ (mask.testBit k = true → (c.ramp = true ∨ c.powered = false) → t.cluster k = { c with pv := true, pend := p })
          ∧ (mask.testBit k = true → c.ramp = false → c.powered = true → t.cluster k = (if c.cur = p then c else { c with ramp := true, tgt := p }))))
  ∧ (∀ s : State, Claim.asks s 0x11 →
    (127 < s.param 8 → completes .opGet s fun t => Claim.answered s t 2 [])
    ∧ (s.param 8 ≤ 127 → completes .opGet s fun t => ∃ w : Nat, Claim.answered s t 0 (natLe 8 w)
        ∧ (let c := s.cluster (s.param 8)
          w % 8 = c.cur.toNat ∧ w.testBit 3 = c.ramp ∧ w / 16 % 8 = c.tgt.toNat ∧ w.testBit 7 = c.pv ∧ w / 256 % 8 = c.pend.toNat
          ∧ w.testBit 24 = decide (0 < c.therm) ∧ w.testBit 25 = decide (0 < c.plim) ∧ w / 65536 % 32 = c.emin % 32)))
  ∧ (∀ s : State, Claim.asks s 0x12 →
    (1 < s.param 8 → completes .limitGet s fun t => Claim.answered s t 2 [])
    ∧ (s.param 8 ≤ 1 → completes .limitGet s fun t => t.mbox.rsp.take 16 = natLe 4 0 ++ natLe 4 (s.param 0 / 2 ^ 32) ++ natLe 8 s.events.toNat
        ∧ t.events = (if s.param 8 = 1 then 0 else s.events)))

/-- UNKNOWN_OPCODE and DOORBELL_WHILE_BUSY (R369, R370): every other opcode ends with status 1; a doorbell while a command runs is ignored and sets LOST. A command whose mailbox does not run it does nothing; one whose request has nonzero bits in its zero field ends with status 2 (the model's choice: R370 names no status for it). -/
def Claim.OtherCommands : Prop :=
  (∀ s : State, s.mbox.mbst.getLsbD 0 = true → (s.opcode = 0 ∨ (8 < s.opcode ∧ s.opcode < 16) ∨ 18 < s.opcode) →
    completes .unknownOpcode s fun t => Claim.answered s t 1 [])
  ∧ (∀ s : State, s.mbox.mbst.getLsbD 0 = true → completes .doorbellWhileBusy s fun t => t = { s with mbox := { s.mbox with mbst := s.mbox.mbst ||| 4 } })
  ∧ (∀ i ∈ [Instr.ctxCreate, .ctxEnd, .tlbHold, .tlbRelease, .twinSet, .escAnswer, .lqBind, .cpStart, .opSet, .opGet, .limitGet, .unknownOpcode, .doorbellWhileBusy],
    ∀ s : State, s.mbox.mbst.getLsbD 0 = false → completes i s fun t => t = s)
  ∧ (∀ x ∈ [(Instr.ctxCreate, 1), (.ctxEnd, 2), (.tlbHold, 3), (.tlbRelease, 4), (.twinSet, 5), (.escAnswer, 6), (.lqBind, 7), (.cpStart, 8), (.opSet, 0x10), (.opGet, 0x11), (.limitGet, 0x12)],
    ∀ s : State, s.mbox.mbst.getLsbD 0 = true → s.opcode = x.2 → s.param 0 / 2 ^ 17 % 2 ^ 15 ≠ 0 → completes x.1 s fun t => Claim.answered s t 2 [])

/-- Mailbox commands on contexts and translations (R292, R354, R364, R365, R370, R371). -/
def Obligations.MailboxContexts : Prop := Claim.ContextCommands ∧ Claim.TranslationCommands

/-- Mailbox commands on streams, ladle queues, operating points and limits, and what is no command (R320, R329, R354, R369, R370, R426, R427). -/
def Obligations.MailboxStreamsAndPower : Prop := Claim.StreamCommands ∧ Claim.PowerCommands ∧ Claim.OtherCommands

namespace Sys2Proof.Claim

open Sys2Proof.Machine

/-- From the state `u`, event `k` of R426 is raised: a set event stays; a clear one becomes set and, with vector 1 unmasked, the vector is sent. -/
def raised (u t : State) (k : Nat) : Prop :=
  t = { u with events := t.events, outbox := t.outbox, msixPend := t.msixPend } ∧ t.events = u.events ||| (1#64 <<< k)
  ∧ (u.events.getLsbD k = true → t = u)
  ∧ (u.events.getLsbD k = false → u.msixMask.getLsbD 1 = false → t.outbox = u.outbox ++ [.msix 1])

/-- Only cluster `k` differs, and it is `v`. -/
def clusterOnly (s t : State) (k : Nat) (v : Cluster) : Prop :=
  t = { s with clusters := t.clusters } ∧ t.cluster k = v ∧ ∀ j, j ≠ k → t.cluster j = s.cluster j

/-- Only link `l` differs, and it is `v`. -/
def linkOnly (s t : State) (l : Nat) (v : Link) : Prop :=
  t = { s with links := t.links } ∧ t.link l = v ∧ ∀ j, j ≠ l → t.link j = s.link j

/-- A record with a syndrome has been logged for link `l` (R415). -/
def linkLogged (s t : State) (syn : BitVec 16) : Prop :=
  t = { s with links := t.links, elog := t.elog, outbox := t.outbox, msixPend := t.msixPend, fresh := t.fresh }
  ∧ ((s.elog.widx - s.elog.ridx).toNat < 4096 →
      t.elog.widx = s.elog.widx + 1 ∧ (tget 0 t.elog.ring (s.elog.widx.toNat % 4096)).extractLsb' 120 16 = syn)

end Sys2Proof.Claim

/-- RAMP_COMPLETE (R427): the point becomes the ramp's target, and a pending request starts at once. The ticks of the protective limits (R428): a divisor rises by one up to 16 and falls by one down to inactive, for a cluster or, with the power limit, for every cluster; the droop stretch is at most two reference cycles. None changes the point. -/
def Claim.ClusterLimits : Prop :=
  (∀ (k : Nat) (s : State),
    let c := s.cluster k
    (c.ramp = false → completes (.rampComplete k) s fun t => t.cluster k = c ∧ ∀ j, t.cluster j = s.cluster j)
    ∧ (c.ramp = true → c.pv = false → completes (.rampComplete k) s fun t => Claim.clusterOnly s t k { c with cur := c.tgt, ramp := false })
    ∧ (c.ramp = true → c.pv = true → c.powered = true → completes (.rampComplete k) s fun t => Claim.clusterOnly s t k
        (if c.tgt = c.pend then { c with cur := c.tgt, ramp := false, pv := false, pend := 0 }
         else { c with cur := c.tgt, ramp := true, tgt := c.pend, pv := false, pend := 0 }))
    ∧ (completes (.thermalThrottleTick k) s fun t => ∃ u, Claim.clusterOnly s u k { c with therm := min 16 (c.therm + 1) } ∧ Claim.raised u t 0)
    ∧ (completes (.thermalReleaseTick k) s fun t => Claim.clusterOnly s t k { c with therm := c.therm - 1 })
    ∧ (∀ x, completes (.droopFire k x) s fun t => Claim.clusterOnly s t k { c with stretch := min 2 x.toNat })
    ∧ (completes (.droopClear k) s fun t => Claim.clusterOnly s t k { c with stretch := 0 }))
  ∧ (∀ s : State,
    (completes .powerLimitTick s fun t => (∀ k < 128, t.cluster k = { s.cluster k with plim := min 16 ((s.cluster k).plim + 1) })
      ∧ t.events = s.events ||| 4 ∧ t.cores = s.cores ∧ t.mem = s.mem)
    ∧ (completes .powerLimitReleaseTick s fun t => t = { s with clusters := t.clusters }
      ∧ ∀ k < 128, t.cluster k = { s.cluster k with plim := (s.cluster k).plim - 1 }))

/-- THERMAL_TRIP (R428): a cluster power loss of its 32 cores; the ramp is abandoned and its target kept. TRIP_RECOVERY: the cluster starts at its pending point, or else at that target, and every core has power again. -/
def Claim.ThermalTrips : Prop :=
  ∀ (k : Nat) (s : State),
    let c := s.cluster k
    (completes (.thermalTrip k) s fun t =>
      t.cluster k = (if c.powered then { c with powered := false, ramp := false, tgt := if c.ramp then c.tgt else c.cur } else c)
      ∧ (∀ n, n / 32 = k → (t.core n).powered = false)
      ∧ ((∀ n, n / 32 = k → (s.core n).stores = []) → ∀ n, n / 32 ≠ k → t.core n = s.core n) ∧ t.events = s.events ||| 2)
    ∧ (c.powered = true → completes (.tripRecovery k) s fun t => t = s)
    ∧ (c.powered = false → (∀ n, n / 32 = k → (s.core n).run = none) → completes (.tripRecovery k) s fun t =>
        (let p := if c.pv then c.pend else c.tgt
         t.cluster k = { c with powered := true, cur := p, tgt := p, pv := false, pend := 0 })
        ∧ (∀ n, n / 32 = k → t.core n = { s.core n with powered := true }) ∧ (∀ n, n / 32 ≠ k → t.core n = s.core n)
        ∧ t.events = s.events ||| 8)

/-- Operating points and the protective limits (R425 to R428). -/
def Obligations.OperatingPoints : Prop := Claim.ClusterLimits ∧ Claim.ThermalTrips

/-- SNAPSHOT_FIRE (R419): an armed trigger takes the cycle, the log's write index and the registers, and disarms; a disarmed one is counted, up to 0xFFFF. After a failed boot there is no such register (R429). -/
def Claim.SnapshotsFire : Prop :=
  ∀ s : State,
    (s.bootFailed = true → completes .snapshotFire s fun t => t = s)
    ∧ (s.bootFailed = false → s.trig.ctl.getLsbD 0 = true → completes .snapshotFire s fun t =>
      t = { s with trig := t.trig } ∧ t.trig.ctl = s.trig.ctl &&& ~~~1 ∧ t.trig.widx = s.elog.widx ∧ t.trig.miss = s.trig.miss
      ∧ (∀ n < 4096, tget 0 t.trig.regs (0x341000 + 64 * n + 24) = (s.core n).iter))
    ∧ (s.bootFailed = false → s.trig.ctl.getLsbD 0 = false → completes .snapshotFire s fun t =>
      t = { s with trig := { s.trig with miss := if s.trig.miss = 0xFFFF then 0xFFFF else s.trig.miss + 1 } })

/-- The data of `n` bytes from `base` is lost: the granule of `a` is poisoned, no other byte changes, and no core. -/
def Claim.lostIn (s t : State) (base n a : Nat) : Prop :=
  poisonedAt t.pz a = true ∧ (∀ x, (x < base ∨ base + n ≤ x) → t.mem.rd x = s.mem.rd x) ∧ t.cores = s.cores
def Claim.lost (s t : State) (a : Nat) : Prop := Claim.lostIn s t (granuleBase a) (granule a) a

/-- ERROR_DETECTED (R412, R414, R415): a record is written while the ring has room, else the drop counter rises; a corrected error changes nothing else that a program can see; an uncorrected one poisons what its array's row names, drops an L1 line, ends the context of a core whose control state failed, or, in module control state, is a module machine check that ends every context. A failed residue check of a lane is logged as poisoned with its lane, poisons the result word, and is a lane event (R416). -/
def Claim.ErrorsAndFates : Prop :=
  (∀ (e : ErrorReport) (s : State), (e.uncorrected = false ∨ ∀ k, e.site ≠ .moduleControl k) → (∀ c l ws, e.site ≠ .residue c l ws) →
    completes (.errorDetected e) s fun t =>
      (4096 ≤ (s.elog.widx - s.elog.ridx).toNat → t.elog = { s.elog with drop := s.elog.drop + 1 })
      ∧ ((s.elog.widx - s.elog.ridx).toNat < 4096 →
          t.elog.widx = s.elog.widx + 1
          ∧ (let r := tget 0 t.elog.ring (s.elog.widx.toNat % 4096)
            r.extractLsb' 120 16 = e.syn ∧ r.getLsbD 90 = e.lane.isSome ∧ (r.extractLsb' 0 2 = 0 ↔ (e.uncorrected = false ∨ e.site = .pcie ∨ ∃ c a, e.site = .l1 c a)))
          ∧ ∀ k, k ≠ s.elog.widx.toNat % 4096 → tget 0 t.elog.ring k = tget 0 s.elog.ring k)
      ∧ (e.uncorrected = false → t = { s with elog := t.elog, outbox := t.outbox, msixPend := t.msixPend, laneErrs := t.laneErrs, agenda := t.agenda }))
  ∧ (∀ (syn : BitVec 16) (lane : Option (BitVec 5)) (s : State),
    (∀ c o, completes (.errorDetected ⟨.scratchpad c o, true, syn, lane⟩) s fun t => Claim.lost s t (winBase c + o))
    ∧ (∀ c o, completes (.errorDetected ⟨.matrix c o, true, syn, lane⟩) s fun t => Claim.lost s t (winBase c + 0x400000 + o))
    ∧ (∀ c o, completes (.errorDetected ⟨.accumulator c o, true, syn, lane⟩) s fun t => Claim.lost s t (winBase c + 0x800000 + o))
    ∧ (∀ a, isHbm a = true → completes (.errorDetected ⟨.hbm a, true, syn, lane⟩) s fun t => ∀ i < 64, Claim.lostIn s t (a - a % 64) 64 (a - a % 64 + i))
    ∧ (∀ n, completes (.errorDetected ⟨.semaphore n, true, syn, lane⟩) s fun t => Claim.lostIn s t (semAddr n) 8 (semAddr n))
    ∧ (∀ c n, n ≠ 0 → completes (.errorDetected ⟨.scalar c n, true, syn, lane⟩) s fun t =>
        ((t.core c).rs n).pz = some ⟨1, 0⟩ ∧ (∀ m, m ≠ n → (t.core c).rs m = (s.core c).rs m) ∧ ∀ d, d ≠ c → t.core d = s.core d)
    ∧ (∀ c a, completes (.errorDetected ⟨.l1 c a, true, syn, lane⟩) s fun t => t.pz = s.pz ∧ t.mem = s.mem ∧ t.core c = { s.core c with l1 := (t.core c).l1 })
    ∧ (∀ c x, (s.core c).ctx = some x →
        (completes (.errorDetected ⟨.instructionStore c, true, syn, lane⟩) s fun t => ∃ k, t.fatal = s.fatal ++ [⟨x, k, 0, c⟩])
        ∧ (completes (.errorDetected ⟨.coreControl c, true, syn, lane⟩) s fun t => ∃ k, t.fatal = s.fatal ++ [⟨x, k, 0, c⟩]))
    ∧ (∀ k, completes (.errorDetected ⟨.moduleControl k, true, syn, lane⟩) s fun t => t.checked = true ∧ ∀ x c, t.context x = some c → c.dead = true))
  ∧ (∀ (c o : Nat) (l : BitVec 5) (b : Bool) (syn : BitVec 16) (lane : Option (BitVec 5)) (s : State), (s.core c).pend = [] →
    completes (.errorDetected ⟨.residue c l [o], b, syn, lane⟩) s fun t =>
      Claim.lost s t (winBase c + 0x400000 + o) ∧ t.agenda = s.agenda ++ [.event (.laneEvent c l)]
      ∧ ((s.elog.widx - s.elog.ridx).toNat < 4096 →
          let r := tget 0 t.elog.ring (s.elog.widx.toNat % 4096)
          r.getLsbD 90 = true ∧ r.extractLsb' 91 5 = l ∧ r.extractLsb' 0 2 = 1 ∧ r.extractLsb' 112 8 = 4))

/-- PATROL_SCRUB, of HBM and of the memory-side cache, and CHILL_SCRUB (R391, R413): a clean find changes no memory, no poison and no core; what a scrub corrects is logged; what it cannot correct is poisoned and logged, with no trap. -/
def Claim.Scrubs : Prop :=
  (∀ (a : Nat) (cache : Bool) (s : State),
    (completes (.patrolScrub (if cache then .cache a else .hbm a) .clean) s fun t => t = { s with laneErrs := t.laneErrs })
    ∧ (∀ f ∈ [ScrubResult.corrected, .uncorrectable], (s.elog.widx - s.elog.ridx).toNat < 4096 → completes (.patrolScrub (if cache then .cache a else .hbm a) f) s fun t =>
        (tget 0 t.elog.ring (s.elog.widx.toNat % 4096)).extractLsb' 112 8 = if cache then 9 else 10)
    ∧ (completes (.patrolScrub (if cache then .cache a else .hbm a) .corrected) s fun t => t = { s with laneErrs := t.laneErrs, elog := t.elog, outbox := t.outbox, msixPend := t.msixPend })
    ∧ (completes (.patrolScrub (if cache then .cache a else .hbm a) .uncorrectable) s fun t => (∀ i < 64, Claim.lostIn s t (a - a % 64) 64 (a - a % 64 + i)) ∧ t.cps = s.cps))
  ∧ (∀ (n g : Nat) (b : Bool) (s : State),
    (completes (.chillScrub n b g .clean) s fun t => t = s)
    ∧ (completes (.chillScrub n b g .corrected) s fun t => t = { s with elog := t.elog, outbox := t.outbox, msixPend := t.msixPend })
    ∧ (completes (.chillScrub n b g .uncorrectable) s fun t => t.mem = s.mem ∧ t.cores = s.cores ∧ t.pz = s.pz
        ∧ ((t.chillOf n).slot b).sl = ((s.chillOf n).slot b).sl ∧ (t.chillOf n).slot (!b) = (s.chillOf n).slot (!b)))

/-- A lane event cannot be taken yet: nothing changes, and it comes again. -/
def Claim.eventWaits (s t : State) (n : Nat) (lane : BitVec 5) : Prop := t = { s with agenda := s.agenda ++ [.event (.laneEvent n lane)] }

/-- LANE_EVENT (R416): with the spare free, the map names the lane and is active, and the core keeps all it holds: only its time passes and its L1 is empty. One that runs an iteration is stopped as a checkpoint does (R346), and its image is kept in its recovery slot. With the spare in use the core goes offline. Until the core can be stopped the event waits. -/
def Claim.LanesFail : Prop :=
  ∀ (n : Nat) (lane : BitVec 5) (s : State),
    ((s.core n).turn ≠ 0 → (s.core n).frozen = false → completes (.laneEvent n lane) s fun t => Claim.eventWaits s t n lane)
    ∧ (((s.core n).turn = 0 ∨ (s.core n).frozen = true) → (s.core n).spmap.getLsbD 5 = false → (s.core n).run = none → completes (.laneEvent n lane) s fun t =>
      t.core n = { s.core n with spmap := (1#1 ++ lane).zeroExtend 32, l1 := [], tref := (t.core n).tref, tun := (t.core n).tun }
      ∧ (∀ m, m ≠ n → t.core m = s.core m) ∧ t.mem = s.mem ∧ t.pz = s.pz ∧ t.outbox = s.outbox ++ [.supervisor n lane.toNat])
    ∧ (((s.core n).turn = 0 ∨ (s.core n).frozen = true) → (s.core n).spmap.getLsbD 5 = false → (s.core n).run ≠ none →
      (s.settled n = none → completes (.laneEvent n lane) s fun t => Claim.eventWaits s t n lane)
      ∧ ∀ s1, s.settled n = some s1 → completes (.laneEvent n lane) s fun t =>
          t.core n = { s1.core n with spmap := (1#1 ++ lane).zeroExtend 32, l1 := [], tref := (t.core n).tref, tun := (t.core n).tun }
          ∧ (∀ m, m ≠ n → t.core m = s1.core m) ∧ t.mem = s1.mem ∧ t.pz = s1.pz ∧ t.outbox = s1.outbox ++ [.supervisor n lane.toNat]
          ∧ ∃ o, tget none t.recovery n = some o ∧ o.core.s = (s1.core n).s ∧ o.core.run = (s1.core n).run ∧ o.cells = s1.windowCells n (fun _ => true))
    ∧ (((s.core n).turn = 0 ∨ (s.core n).frozen = true) → (s.core n).copies = [] → (s.core n).spmap.getLsbD 5 = true → completes (.laneEvent n lane) s fun t => (t.core n).offline = true)

/-- Errors, scrubs, spare lanes and the snapshot trigger (R391, R412 to R416, R419). -/
def Obligations.ErrorsAndSnapshots : Prop := Claim.SnapshotsFire ∧ Claim.ErrorsAndFates ∧ Claim.Scrubs ∧ Claim.LanesFail

/-- LINK_TRAINING_STEP and LINK_STATE_TIMEOUT (R421, R423): the states follow one another as R421 lists them, a UCIe link without IDENT and KEYX; a partner whose ENC or CMP differs is a failure; a failure returns the link to DOWN, and the third keeps it there and is logged; a link that a failure had taken down and that comes up again is logged. -/
def Claim.LinksTrain : Prop :=
  ∀ (l : Nat) (p : W32) (s : State), l < 44 →
    let k := s.link l
    (k.st = .down → k.tries < 3 → completes (.linkTrainingStep l true p) s fun t => Claim.linkOnly s t l { k with st := .detect })
    ∧ (k.st = .detect → completes (.linkTrainingStep l true p) s fun t => Claim.linkOnly s t l { k with st := .equalise })
    ∧ (k.st = .equalise → completes (.linkTrainingStep l true p) s fun t => Claim.linkOnly s t l { k with st := .feclock })
    ∧ (k.st = .feclock → completes (.linkTrainingStep l true p) s fun t => (t.link l).st = (if l < 28 then .up else .ident) ∧ (l < 28 → k.wasDown = true → Claim.linkLogged s t 4))
    ∧ (k.st = .ident → 28 ≤ l → (s.policy l).extractLsb' 0 2 = p.extractLsb' 0 2 → completes (.linkTrainingStep l true p) s fun t =>
        (t.link l).st = (if (s.policy l).getLsbD 0 then .keyx else .up) ∧ ((s.policy l).getLsbD 0 = false → k.wasDown = true → Claim.linkLogged s t 4))
    ∧ (k.st = .ident → 28 ≤ l → (s.policy l).extractLsb' 0 2 ≠ p.extractLsb' 0 2 → completes (.linkTrainingStep l true p) s fun t => (t.link l).st = .down)
    ∧ (k.st = .keyx → 28 ≤ l → completes (.linkTrainingStep l true p) s fun t => (t.link l).st = .up ∧ (t.link l).wasDown = false ∧ (k.wasDown = true → Claim.linkLogged s t 4) ∧ (k.wasDown = false → t = { s with links := t.links }))
    ∧ (k.st = .up → completes (.linkTrainingStep l true p) s fun t => t = s)
    ∧ (k.st ≠ .down → k.st ≠ .up →
        (∀ i ∈ [Instr.linkTrainingStep l false p, .linkStateTimeout l],
          (k.tries < 2 → completes i s fun t => Claim.linkOnly s t l { k with st := .down, tries := k.tries + 1, wasDown := true, retraining := false })
          ∧ (2 ≤ k.tries → completes i s fun t => (t.link l).st = .down ∧ (t.link l).tries = 3 ∧ Claim.linkLogged s t 3)))
    ∧ ((k.st = .down ∨ k.st = .up) → completes (.linkStateTimeout l) s fun t => t = s)

/-- FLIT_CHECK_FAILURE and KEYX_REKEY (R417, R424): a failed check on a link that is up is a replay, counted and logged; after a flit has failed at first and in eight consecutive replays the link retrains; the PCI Express link replays as it specifies, and AER reports it. A rekey that fails takes an encrypted port down; one that succeeds changes nothing. Whether a failure is of the same flit as the one before is open. -/
def Claim.LinksRetry : Prop :=
  (∀ (l : Nat) (s : State), l < 44 →
    let k := s.link l
    (k.st = .up → k.fails < 8 → completes (.flitCheckFailure l) s fun t =>
      (t.link l).st = .up ∧ (t.link l).replays = k.replays + 1 ∧ ((t.link l).fails = 1 ∨ (k.fails ≠ 0 ∧ (t.link l).fails = k.fails + 1)) ∧ Claim.linkLogged s t 1 ∧ ∀ j, j ≠ l → t.link j = s.link j)
    ∧ (k.st = .up → k.fails = 8 → completes (.flitCheckFailure l) s fun t =>
      (t.link l).replays = k.replays + 1 ∧ (((t.link l).st = .up ∧ (t.link l).fails = 1) ∨ ((t.link l).st = .detect ∧ (t.link l).retraining = true ∧ (t.link l).fails = 0)))
    ∧ (k.st ≠ .up → completes (.flitCheckFailure l) s fun t => t = s))
  ∧ (∀ (l : Nat) (s : State), 44 ≤ l → completes (.flitCheckFailure l) s fun t =>
      (t.link l) = { s.link l with replays := (s.link l).replays + 1 } ∧ t.outbox.getLast? = some (.aer l) ∧ t.cores = s.cores ∧ t.mem = s.mem)
  ∧ (∀ (p : Nat) (s : State), p < 16 →
    let k := s.link (28 + p)
    (completes (.keyxRekey p true) s fun t => t = s)
    ∧ (k.st = .up → (s.policy (28 + p)).getLsbD 0 = true → completes (.keyxRekey p false) s fun t =>
        (t.link (28 + p)).st = .down ∧ (t.link (28 + p)).tries = 3 ∧ Claim.linkLogged s t 3)
    ∧ ((k.st ≠ .up ∨ (s.policy (28 + p)).getLsbD 0 = false) → completes (.keyxRekey p false) s fun t => t = s))

/-- Link training, retry and rekeying (R417, R421, R423, R424). -/
def Obligations.LinksTrainAndRetry : Prop := Claim.LinksTrain ∧ Claim.LinksRetry

/-- MODULE_RESET (R5, R415, R429): every core and context takes its reset value, HBM and host memory stand; BOOTST reports the outcome: a failed self-test 4, no configuration copy 1, a stage whose signature fails 2, a stage below the stored version 3, with the number of the last verified stage, and 0 when all three pass. A stage is the one that a firmware image has written, or else the one that the module was made with. Of a good boot the measurements name the ROM, the stages and the policy words (R423, R431), and the alias key follows from the keys and the measurements (R430). -/
def Claim.ModuleResets : Prop :=
  ∀ (b : BootInput) (s : State),
    (completes (.moduleReset b) s fun t =>
      t.contexts = [] ∧ t.records = [] ∧ t.checked = false ∧ t.cps = [] ∧ (∀ a, isHbm a = true → t.mem.rd a = s.mem.rd a) ∧ t.chill = s.chill
      ∧ (∀ n, t.core n = { Core.reset with spmap := (t.core n).spmap }))
    ∧ (b.selfTestOk = false → completes (.moduleReset b) s fun t => t.boot.bootst = 4 ∧ t.cores = [] ∧ t.links = [])
    ∧ (b.selfTestOk = true → s.boot.config = none → completes (.moduleReset b) s fun t => t.boot.bootst = 1 ∧ t.cores = [] ∧ t.links = [])
    ∧ (∀ (c : ConfigImage) (x0 x1 x2 : BootStage), b.selfTestOk = true → s.boot.config = some c → s.boot.found b = [x0, x1, x2] →
        (x0.signatureOk = false → completes (.moduleReset b) s fun t => t.boot.bootst = (c.svn.zeroExtend 64 <<< 32) ||| 2)
        ∧ (x0.signatureOk = true → x0.svn < c.svn → completes (.moduleReset b) s fun t => t.boot.bootst = (c.svn.zeroExtend 64 <<< 32) ||| 3)
        ∧ (x0.signatureOk = true → ¬x0.svn < c.svn → x1.signatureOk = false →
            completes (.moduleReset b) s fun t => t.boot.bootst = (c.svn.zeroExtend 64 <<< 32) ||| 0x102)
        ∧ ((∀ x ∈ [x0, x1, x2], x.signatureOk = true ∧ ¬x.svn < c.svn) → completes (.moduleReset b) s fun t =>
            t.boot.bootst = (c.svn.zeroExtend 64 <<< 32) ||| 0x300 ∧ (∀ l < 44, (t.link l).st = .detect)
            ∧ t.boot.measurements.take 4 = [b.romDigest, x0.digest, x1.digest, x2.digest] ∧ t.boot.measurements[5]? = some (policyBytes c)
            ∧ t.boot.key = Config.aliasKey c.keys t.boot.measurements
            ∧ ∀ n m, c.spares = [(n, m)] → (t.core n).spmap = m.zeroExtend 32))

/-- FIRMWARE_IMAGE (R392, R429): an image whose signature fails changes nothing; a verified one becomes the contents that the next boot reads, with the keys that the module was made with (R430), while the newer of the old copies stands, its stages are those that the next boot finds, and the stored version does not fall (the last is the model's choice for an image that directs a lower one). No SEQ stands at its end. -/
def Claim.FirmwareIsWritten : Prop :=
  ∀ (f : FirmwareImage) (s : State),
    (f.signatureOk = false → completes (.firmwareImage f) s fun t => t = s)
    ∧ (f.signatureOk = true → (∀ x, s.boot.copyA = some x ∨ s.boot.copyB = some x → x.1.seq.toNat + 1 < 2 ^ 64) → completes (.firmwareImage f) s fun t =>
      t = { s with boot := t.boot }
      ∧ (∀ old, s.boot.config = some old →
          t.boot.config = some { f.config with svn := if f.config.svn < old.svn then old.svn else f.config.svn, keys := old.keys }
          ∧ (((t.boot.copyA).map (·.2) = some old ∧ t.boot.copyA = s.boot.copyA) ∨ ((t.boot.copyB).map (·.2) = some old ∧ t.boot.copyB = s.boot.copyB)))
      ∧ (s.boot.config = none → t.boot.config = some f.config)
      ∧ (∀ k x, k < 3 → f.stages = [(k, x)] → ∀ b, (t.boot.found b)[k]? = some x ∧ ∀ j, j ≠ k → (t.boot.found b)[j]? = (s.boot.found b)[j]?))

/-- The SPDM responder (R431): GET_VERSION answers version 1.3 and begins a connection; a request that comes before its turn gets an error and changes nothing; in order, GET_CAPABILITIES and NEGOTIATE_ALGORITHMS lead on, and digests, certificates, challenges and measurements are answered with their codes; any other request is UnsupportedRequest. The codes and the order are those of SPDM 1.3, which the manual names (the model's log says so). -/
def Claim.SpdmAnswers : Prop :=
  ∀ (r : List Byte) (s : State),
    let answers (i : Instr) (code : Byte) (next : Nat) : Prop := completes i s fun t => ∃ body : List Byte,
      t.outbox = s.outbox ++ [.doe ([0x13, code, 0, 0] ++ body)] ∧ t.boot.spdm = next ∧ t.boot.transcript = s.boot.transcript ++ r ++ ([0x13, code, 0, 0] ++ body)
      ∧ t = { s with boot := t.boot, outbox := t.outbox, fresh := t.fresh }
    (completes (.getVersion r) s fun t => t.boot.spdm = 1 ∧ t.outbox = s.outbox ++ [.doe [0x10, 0x04, 0, 0, 0, 1, 0, 0x13]]
      ∧ t.boot.transcript = r ++ [0x10, 0x04, 0, 0, 0, 1, 0, 0x13])
    ∧ (s.boot.spdm = 1 → answers (.getCapabilities r) 0x61 2)
    ∧ (s.boot.spdm = 2 → answers (.negotiateAlgorithms r) 0x63 3)
    ∧ (s.boot.spdm = 3 → answers (.getDigests r) 0x01 3 ∧ answers (.getCertificate r) 0x02 3 ∧ answers (.challenge r) 0x03 3 ∧ answers (.getMeasurements r) 0x60 3)
    ∧ (∀ x ∈ [(Instr.getCapabilities r, 1), (.negotiateAlgorithms r, 2), (.getDigests r, 3), (.getCertificate r, 3), (.challenge r, 3), (.getMeasurements r, 3)],
        s.boot.spdm < x.2 → completes x.1 s fun t => t = { s with outbox := s.outbox ++ [.doe [0x13, 0x7F, 0x04, 0]] })
    ∧ (completes (.spdmUnsupportedRequest r) s fun t => t = { s with outbox := s.outbox ++ [.doe [0x13, 0x7F, 0x07, r.getD 1 0]] })

/-- Boot, firmware and identity (R392, R429 to R431). -/
def Obligations.BootAndIdentity : Prop := Claim.ModuleResets ∧ Claim.FirmwareIsWritten ∧ Claim.SpdmAnswers

/-- The state after reset (R23, R38, R39, R117): every core's registers, predicates, queues, tokens, descriptors, maps and tags stand as the table of R38 gives them, lane i's generator state is i + 1, the divisor is 2, and scratchpad, matrix registers and tiles are zero and unpoisoned. The model's own choice: a core after reset runs nothing and belongs to no context. -/
def Claim.CoresAtReset : Prop :=
  ∀ n < 4096, let c := State.reset.core n
    (∀ r, c.rs r = ⟨0, none⟩) ∧ c.rp 0 = ⟨0xFFFFFFFF, none⟩ ∧ (∀ r, r ≠ 0 → c.rp r = ⟨0, none⟩) ∧ (∀ r, c.queue r = [])
    ∧ (∀ k, (c.tok k).count = 0 ∧ (c.tok k).ceiling = 0xFFFF) ∧ (∀ k, c.odOf k = (0, false)) ∧ (∀ k, c.cdOf k = (0, false)) ∧ (∀ k, c.map k = 0)
    ∧ (∀ k, c.tag k = TagEntry.reset) ∧ c.fpflags = 0 ∧ c.iter = 0 ∧ (∀ i < 32, c.srseed.getD i 0 = BitVec.ofNat 32 (i + 1)) ∧ c.div = 2
    ∧ (∀ off < 0x1000000, State.reset.mem.rd (winBase n + off) = 0 ∧ poisonedAt State.reset.pz (winBase n + off) = false)
    ∧ c.mode = .idle ∧ c.ctx = none ∧ c.run = none

/-- The rest of the module after reset: code tables and semaphores read as zero, no context exists, the mailbox, the error log and the trigger hold zero (R196, R325, R368, R369, R414, R419), every cluster is at point 0 without a protective divisor (R425, R428), and the erasure-coded group is not enabled (R393). What HBM and host memory read as is the model's choice (0, assumption 4), and so is the mask of the interrupt vectors. -/
def Claim.ModuleAtReset : Prop :=
  (∀ a, State.reset.mem.rd a = 0) ∧ (∀ x, State.reset.context x = none) ∧ State.reset.mbox.mbst = 0
  ∧ State.reset.elog.widx = 0 ∧ State.reset.elog.ridx = 0 ∧ State.reset.elog.drop = 0 ∧ State.reset.elog.ctl = 0 ∧ State.reset.trig.ctl = 0
  ∧ (∀ k, (State.reset.cluster k).cur = 0 ∧ (State.reset.cluster k).ramp = false ∧ (State.reset.cluster k).therm = 0 ∧ (State.reset.cluster k).plim = 0)
  ∧ State.reset.spe.st = .notEnabled ∧ State.reset.events = 0 ∧ State.reset.checked = false

/-- The machine after reset. -/
def Obligations.ResetState : Prop := Claim.CoresAtReset ∧ Claim.ModuleAtReset

/-- An engine's turn (R40, R47, R73, R206): when the issuing agent runs and stands within a cycle at the turn of engine `e`, which is free and has a group, and no token step of N comes first, the step executes what the group decodes to, with the step word of R64 applied inside a loop body; a group that decodes to nothing executes the illegal instruction; turns 5 to 8 are those of the WAITs that R47 puts at the end of the cycle. The step adds nothing else. -/
def Claim.GroupsAreExecuted : Prop :=
  ∀ (e : Engine) (g : Group) (s : State), s.checked = false → s.cur.moves = true → s.cur.frozen = false → s.cur.free e = true → (s.cur.seqOf e).nextGroup = some g →
    s.nTurn = none →
    let first : Nat := match e with | .s => 1 | .l => 2 | .x => 3 | .w => 4
    let runs (i : Instr) : Prop := step s = exec i (s.modCur fun c => { c with frozen := false })
    let waits (i : Instr) : Prop := ∃ (en : Engine) (f : TokWord), i = .wait en f ∧ f.n.toNat ≤ (s.cur.tok f.tok.toNat).ceiling.toNat
    let issues (i : Instr) : Prop := (¬waits i → s.cur.turn = first → runs i) ∧ (waits i → s.cur.turn = first + 4 → runs i)
    (decode (spaceOf s.isCp e) g.code = none → s.cur.turn = first → runs (.illegalInstruction e g.code.word))
    ∧ (∀ i, decode (spaceOf s.isCp e) g.code = some i →
      ((g.code.st = none ∨ (s.cur.seqOf e).inLoop = false) → issues i)
      ∧ (∀ w, g.code.st = some w → (s.cur.seqOf e).inLoop = true →
          (∀ j, stepInstr (s.cur.seqOf e).passNo w i = some j → issues j)
          ∧ (stepInstr (s.cur.seqOf e).passNo w i = none → s.cur.turn = first → runs (.illegalInstruction e g.code.word))))

/-- An event that is due at a cycle boundary with no error to carry out is executed by the next step and leaves the agenda. After a module machine check with nothing due the machine stands still (R415). -/
def Claim.EventsAreExecuted : Prop :=
  (∀ (i : Instr) (rest : List AgendaItem) (s : State), s.agenda = .event i :: rest → s.cur.turn = 0 → s.fatal = [] → step s = exec i { s with agenda := rest })
  ∧ (∀ s : State, s.checked = true → s.agenda = [] → step s = .fault .machineChecked)

/-- From the instruction store to the instruction: a word in lane 1 of line 0, under the header that names its engine, is fetched, decoded and executed by the one next step, for every word that a core's engine decodes (R53 to R57, R73). -/
def Claim.StoredWordsRun : Prop :=
  ∀ (nbits w : Nat) (sp : Space) (i : Instr), w < 2 ^ 32 → decodeTableIn tableSpaces w = some (sp, i) → sp ≠ .cp →
    ∃ t, step (State.reset.withFetchWord nbits w) = exec i t ∧ t.here = .core 0 ∧ t.mem = [] ∧ (t.core 0).mode = .user ∧ (t.core 0).now = 0

/-- A step of N that evaluates a token has its place within the core's cycle (R47, R271): a SIGS or an END after W's SIG, before the WAITs, and a WAITS after W's WAIT, once its count is reached or exceeds the ceiling. -/
def Claim.TokenStepsAreExecuted : Prop :=
  ∀ (n : Nat) (r : NRun) (w : W64) (s : State), s.checked = false → s.here = .core n → s.cur.moves = true → s.cur.frozen = false →
    s.cur.nrun = some r → r.faulted = false → r.step = none → r.word = some w →
    (s.cur.turn = 5 → stepSigs w = true → step s = exec (stepInstrOf n w) (s.modCur fun c => { c with frozen := false }))
    ∧ (s.cur.turn = 9 → stepWaits w = true →
        ((s.cur.tok (w.extractLsb' 55 5).toNat).ceiling.toNat < (w.extractLsb' 0 16).toNat ∨ (w.extractLsb' 0 16).toNat ≤ (s.cur.tok (w.extractLsb' 55 5).toNat).count.toNat) →
        step s = exec (stepInstrOf n w) (s.modCur fun c => { c with frozen := false }))

/-- A step runs the decoded instruction. -/
def Obligations.StepRunsTheDecodedInstruction : Prop := Claim.GroupsAreExecuted ∧ Claim.TokenStepsAreExecuted ∧ Claim.EventsAreExecuted ∧ Claim.StoredWordsRun

/-- Words of the spec's own examples decode to the instructions, with the operands, that the spec writes beside them: one or more of every space and of every form (the worked examples of the chapters on vectors, matrices, ingots, sequencers, traps, the command processor and erasure-coded groups). -/
def Obligations.SpecWordsDecode : Prop :=
  let one (w : W32) : Code := ⟨w, none, none, none⟩
  let two (w x : W32) : Code := ⟨w, some x, none, none⟩
  decode .x ⟨0x0C291AA8, some 0x7FFFFFC7, none, some 0x34000000⟩ = some (.vfma ⟨10, 1, 3, 2, 5, 8, none, some 0x34000000⟩ 0x7FFFFFC7)
  ∧ decode .x (two 0x880C0000 0x3010) = some (.vcvt ⟨3, 0, 0, 0, 0, 0, none, none⟩ 0x3010)
  ∧ decode .x (one 0x28040000) = some (.vrcp ⟨1, 0, 0, 0, 0, 0, none, none⟩)
  ∧ decode .x (one 0x00080020) = some (.vadd ⟨2, 0, 0, 0, 1, 0, none, none⟩)
  ∧ decode .x (one 0xC0050100) = some (.mma ⟨5, 0, 1, 0, 0, none⟩)
  ∧ decode .x (one 0xC42823A2) = some (.mmac ⟨40, 2, 3, 10, 2, none⟩)
  ∧ decode .x (one 0xC4002320) = some (.mmac ⟨0, 2, 3, 2, 0, none⟩)
  ∧ decode .x (two 0xD8050000 20) = some (.accrd ⟨5, 0, 0, 0, 0, none⟩ 20)
  ∧ decode .x (two 0xE0070000 0x24000003) = some (.accarm ⟨7, 0, 0, 0, 0, none⟩ 0x24000003)
  ∧ decode .l (one 0x00000000) = some (.vrd ⟨0, 0, 0, 0, none⟩)
  ∧ decode .l ⟨0x00040100, none, some 0x100, none⟩ = some (.vrd ⟨1, 0, 0, 1, some 0x100⟩)
  ∧ decode .l (one 0xF0200008) = some (.loopImm .l ⟨1, 8, none⟩)
  ∧ decode .x (one 0xF0000006) = some (.loopImm .x ⟨0, 6, none⟩)
  ∧ decode .x (one 0xFC000000) = some (.nop .x none)
  ∧ decode .s (one 0x8C000002) = some (.halt ⟨0, 0, 0, none⟩)
  ∧ decode .s (one 0x5C510000) = some (.ldSpec 3 ⟨5, 4, 0, none⟩)
  ∧ decode .s (one 0x3C550000) = some (.ld 3 ⟨5, 20, 0, none⟩)
  ∧ decode .s (one 0x60504220) = some (.amo 1 0 ⟨5, 1, 2, none⟩)
  ∧ decode .s (one 0x6D400041) = some (.sysrd ⟨20, 0, 0x41, none⟩)
  ∧ decode .s (one 0x64051580) = some (.probe ⟨0, 20, 21, none⟩)
  ∧ decode .s (one 0x68000001) = some (.uhret ⟨0, 0, 0, none⟩)
  ∧ decode .s (one 0x68018004) = some (.chk ⟨0, 6, 0, none⟩)
  ∧ decode .s (one 0x68504207) = some (.lpost ⟨5, 1, 2, none⟩)
  ∧ decode .s (one 0xA0108300) = some (.ecprot ⟨1, 2, 3, none⟩)
  ∧ decode .s (one 0xA0518003) = some (.ecclose ⟨5, 6, 0, none⟩)
  ∧ decode .cp (one 0xA4310050) = some (.semwge ⟨3, 4, 5, none⟩)
  ∧ decode .cp (one 0xA401C051) = some (.semadd ⟨0, 7, 5, none⟩)
  ∧ decode .cp (one 0xA8204380) = some (.qsub ⟨2, 1, 3, 1, none⟩)
  ∧ decode .cp (one 0xA8024001) = some (.intr ⟨0, 9, 0, 0, none⟩)

/-- Encoding and decoding agree, for every well-formed instruction of every row that has an encoding, with every operand (R53, R59 to R65, R73). -/
def Obligations.EncodeThenDecode : Prop := ∀ (i : Instr) (sp : Space) (c : Code), i.wf = true → encode i = some (sp, c) → decode sp c = some i

/-- Every word has one meaning: what a group decodes to is well formed, and it encodes to that group's words and no others, so that no bit of a decoded group is dropped (R6, R73). -/
def Obligations.DecodeThenEncode : Prop :=
  ∀ (i : Instr) (sp : Space) (c : Code), decode sp c = some i → i.wf = true ∧ ∃ sp', encode i = some (sp', c) ∧ (sp' = sp ∨ (sp = .cp ∧ sp' = .s))

/-- Memory answers what was last written, and writes nothing else: a run of bytes reads back, every other byte reads as before, and the canonical form is kept; equal contents are equal data. -/
def Obligations.MemoryKeepsWhatIsWritten : Prop :=
  ∀ (m : Memory) (a : Nat) (d : List Byte),
    (m.wrN a d).rdN a d.length = d
    ∧ (∀ x, (x < a ∨ a + d.length ≤ x) → (m.wrN a d).rd x = m.rd x)
    ∧ (m.wf = true → (m.wrN a d).wf = true)
    ∧ (∀ n : Memory, m.wf = true → n.wf = true → (∀ x, m.rd x = n.rd x) → m = n)
    ∧ (∀ src n, (m.wf = true → ∀ x, a ≤ x → x < a + n → (m.copyRange src a n).rd x = m.rd (src + (x - a))) ∧ ∀ x, (x < a ∨ a + n ≤ x) → (m.copyRange src a n).rd x = m.rd x)

/-- The canonical form of memory holds after reset. -/
def Obligations.ResetMemoryIsCanonical : Prop := State.reset.mem.wf = true

/-- Every step keeps the canonical form of memory. -/
def Obligations.StepsKeepMemoryCanonical : Prop := ∀ s t : State, s.mem.wf = true → step s = .next t → t.mem.wf = true

/-- Only a module reset, or the loss of the module's power, clears a module machine check (R415). -/
def Obligations.MachineChecksStay : Prop :=
  ∀ (i : Instr) (s t : State), s.checked = true → exec i s = .next t → (∀ b, i ≠ .moduleReset b) → i ≠ .modulePowerLoss → t.checked = true

/-- The operating point of a cluster changes only by the end of a ramp, the return of power, a module reset or the loss of the module's power: no other instruction or event, and no protective limit, changes it (R427, R428). -/
def Obligations.OnlyRampsChangePoints : Prop :=
  ∀ (i : Instr) (s t : State) (k : Nat), exec i s = .next t → (∀ n, i ≠ .rampComplete n) → (∀ n, i ≠ .tripRecovery n) → (∀ b, i ≠ .moduleReset b) → i ≠ .modulePowerLoss →
    (t.cluster k).cur = (s.cluster k).cur

/-- The forms of the opcode table that are events of the machine, steps of N, ladle operations and mailbox commands. -/
def Claim.event : Instr → Bool
  | .fetchLine _ | .memoryDataArrival _ | .matrixTileWrite _ | .ingotFault _ | .remoteOperandFault _ | .trapTaken _ => true
  | .copyChunkComplete _ _ | .copyArrivalPosted _ _ | .neighbourArrival _ _ | .windowAccess _ _ _ _ | .peerAccess _ _ _ => true
  | .stbSummaryReply _ _ _ _ _ | .barrierArrival _ | .riserBlockArrival _ _ | .creditReturn _ _ _ | .collectiveWatchdog _ _ _ _ _ => true
  | .send _ _ | .recv _ _ | .rrs _ _ | .rra _ _ | .copyStep _ _ | .halo _ _ | .waits _ _ | .sigs _ _ | .lbeg _ _ | .lend _ _ | .endStep _ _ | .reservedStep _ _ => true
  | .persistImageSealed _ | .corePowerLoss _ _ | .chillResume _ | .modulePowerLoss | .baseTierLoss _ => true
  | .recordAccept | .iterationHandout _ | .iterationRetire _ | .recordComplete _ | .loaderFill _ _ | .planeFlip _ => true
  | .preemption _ | .checkpointStop _ | .kill _ | .iterationRestore _ _ | .contextSwitch _ _ => true
  | .ladleWake _ _ | .ladleSlotTake _ | .nopk _ | .copy _ | .fill _ | .qmx _ | .qcb4 _ | .ingot _ | .hist _ => true
  | .ctxCreate | .ctxEnd | .tlbHold | .tlbRelease | .twinSet | .escAnswer | .lqBind | .cpStart | .opSet | .opGet | .limitGet | .unknownOpcode | .doorbellWhileBusy => true
  | .translationWalk _ _ _ | .hostBar2Access _ _ | .hostAtomicop _ _ _ _ _ | .registerWrite _ _ | .msixVectorUnmask _ | .storeVisible _ _ => true
  | .gcfgEnable _ | .rebuildStart _ _ | .rebuildComplete | .sweepComplete | .close _ _ | .delta _ _ _ _ _ | .ack _ _ _ _ | .prepared _ _ | .refuse _ _ => true
  | .commit _ _ | .abort _ _ | .dead _ _ | .query _ _ | .answer _ _ _ | .memberUnreachableTimeout _ | .memberDeclaredDead _ | .enableCheckCrc _ _ => true
  | .errorDetected _ | .patrolScrub _ _ | .chillScrub _ _ _ _ | .laneEvent _ _ | .flitCheckFailure _ | .linkTrainingStep _ _ _ | .linkStateTimeout _ | .keyxRekey _ _ => true
  | .rampComplete _ | .thermalThrottleTick _ | .thermalReleaseTick _ | .thermalTrip _ | .tripRecovery _ | .powerLimitTick | .powerLimitReleaseTick => true
  | .droopFire _ _ | .droopClear _ | .snapshotFire | .moduleReset _ | .firmwareImage _ => true
  | .getVersion _ | .getCapabilities _ | .negotiateAlgorithms _ | .getDigests _ | .getCertificate _ | .challenge _ | .getMeasurements _ | .spdmUnsupportedRequest _ => true
  | _ => false

/-- No event stops: for all its operands and in EVERY state it completes with a next state (R1 to R439 give none of them an undefined effect). The forms: FETCH_LINE to MEMBER_DECLARED_DEAD of the opcode table but ILLEGAL_INSTRUCTION, which is an instruction of an engine. -/
def Claim.EventsNeverStop : Prop := ∀ (i : Instr) (s : Sys2Proof.Machine.State), event i = true → completes i s fun _ => True

namespace Sys2Proof.Claim

open Sys2Proof.Machine

/-- A step of N starts, or stops N with its step fault (R272). -/
def startsOr (s t : State) (n : Nat) (r : NRun) (w : W64) (x : Except Nat State) : Prop :=
  match x with
  | .ok s1 => t = s1
  | .error sub => faultsAt s t n r w sub

/-- A mailbox command has ended (R369): DONE is set and BUSY is clear. -/
def commandEnded (t : State) : Prop :=
  t.mbox.mbst.getLsbD 0 = false ∧ t.mbox.mbst.getLsbD 1 = true

/-- The SPDM responder has answered a request with a message of this code and stands at this step of its connection (R431). -/
def spdmAnswered (s t : State) (code : Byte) (step : Nat) : Prop :=
  t.boot.spdm = step ∧ ∃ body : List Byte, t.outbox = s.outbox ++ [.doe ([0x13, code, 0, 0] ++ body)]

end Sys2Proof.Claim

/-- The forms at a core and at N that rest on a look at memory or at a group complete in every state (R57, R84, R115, R156, R237, R259 to R266, R291): DECLINE in handler mode; FETCH_LINE of a line that may be read; MEMORY_DATA_ARRIVAL; REMOTE_OPERAND_FAULT, as its group arrives, fails or is not there yet; STORE_VISIBLE of the oldest store; SEND, RECV, RRS, RRA, COPY and HALO steps, which start or stop N with their step fault. -/
def Claim.CoreFormsComplete : Prop :=
  (∀ (f : SReg) (s : State), s.cur.mode = .handler → completes (.decline f) s fun t =>
    t.cur.mode = .escalated ∧ t.cur.snap = s.cur.snap ∧ t.cur.tr = s.cur.tr ∧ t.cur.s = s.cur.s ∧ t.cur.turn = 0)
  ∧ (∀ (n : Nat) (s : State) (gs : List (Engine × Group)), let c := s.core n
    (c.mode = .user ∨ c.mode = .handler) → c.fetch.stopped = false → c.fetch.illegal = none → c.fetch.pastEnd = false → c.fetchBlocked = false →
    c.fetch.ready ≤ c.now → c.fetch.next < 2048 → parseLine false c.fetch.next (c.lineWords c.fetch.next) = .ok gs → c.canRead false (s.wordsOf (.core n)) gs = true →
    completes (.fetchLine n) s fun t => (t.core n).fetch.next = c.fetch.next + 1 ∧ t = s.setCore n (t.core n))
  ∧ (∀ (n : Nat) (s : State), completes (.memoryDataArrival n) s fun t =>
    (∀ h ∈ (t.agent (named n)).holds, h.kind = .data → (t.agent (named n)).now < h.due) ∧ t.mem = s.mem)
  ∧ (∀ (n : Nat) (s : State) (o : MatOp) (u : Seq), (s.core n).mats = [o] → o.undo = some u → o.g < o.groups → o.start + o.g ≤ (s.core n).now →
    completes (.remoteOperandFault n) s fun t =>
      match s.growOp n o with
      | .ok s1 o' => t = s1.modCore n (fun c => { c with mats := c.mats.map (fun x => if x = o then o' else x) })
      | .wait => t = s
      | .dead e => t = s.raiseFatal (.core n) fatalTable e
      | .fail _ _ => ∀ m, m ≠ n → t.core m = s.core m)
  ∧ (∀ (n : Nat) (s : State) (st : PendStore) (rest : List PendStore), (s.agent (named n)).stores = st :: rest → st.seen = true → st.done = false → isWin st.addr = false →
    completes (.storeVisible n 0) s fun t => t = s.perform (named n) st)
  ∧ (∀ (n : Nat) (w : W64) (s : State) (r : NRun), atStep s n r →
    (completes (.send n w) s fun t => startsOr s t n r w (s.startTransfer n r w))
    ∧ (completes (.recv n w) s fun t => startsOr s t n r w (s.startTransfer n r w))
    ∧ (completes (.rrs n w) s fun t => startsOr s t n r w (s.startTransfer n r w))
    ∧ (completes (.halo n w) s fun t => startsOr s t n r w (s.startTransfer n r w))
    ∧ (completes (.rra n w) s fun t => startsOr s t n r w (s.startRra n w))
    ∧ (completes (.copyStep n w) s fun t => startsOr s t n r w (s.startCopy n w)))

/-- The forms outside the cores that rest on a look at memory complete in every state (R309 to R311, R331 to R336, R339, R340, R351, R355, R358, R361, R362, R368 to R371, R386, R431): RECORD_ACCEPT of a queue's head, ITERATION_HANDOUT at a free core, ITERATION_RESTORE of a full slot, CHILL_RESUME; PEER_ACCESS and TRANSLATION_WALK; each mailbox command, which ends or, where it waits, changes nothing; the SPDM requests, each at its step of a connection. -/
def Claim.ModuleFormsComplete : Prop :=
  (∀ (s : State) (q p x : Nat) (cx : Context) (e : CqEntry), let z := s.flushDead
    z.records.length < 64 → z.checked = false → bestHead z.eligible = some (q, p, x, cx, e) →
    let popped (s1 : State) (last : Option Nat) : State := { s1 with cqs := tset [] s1.cqs q (tget [] s1.cqs q).tail, cqLast := tset none s1.cqLast q last }
    completes .recordAccept s fun t =>
      match z.acceptRead cx x q e.addr with
      | .wait => t = z
      | .dead a => t = { z with fatal := z.fatal ++ [⟨x, 3, a, 0⟩] }
      | .refuse s1 none _ => t = (popped s1 none).logError (runnerRec e.addr x)
      | .refuse s1 (some r) k => t = (popped s1 none).finishRecord x e.addr r 2 k 0
      | .take s1 r => r.n ≠ 0 → t = { popped s1 (some r.order) with records := s1.records ++ [r], accepted := s1.accepted + 1 })
  ∧ (∀ (n : Nat) (s : State), (s.core n).vacant = true → s.checked = false → s.lowerUndecided n = false →
    completes (.iterationHandout n) s fun t =>
      match s.decideRecord n with
      | (none, _) => t = s
      | (some w, rs) => w.gang = false →
        if (s.core n).plane = some w.order ∧ s.hasSaved w = false ∧ s.lowerReady w n = false then
          ∀ r, rs.find? (fun r => r.order = w.order) = some r → t = ({ s with records := rs } : State).handOut n r
        else t = ({ s with records := rs } : State).modCore n (fun c => { c with goes := some w.order }))
  ∧ (∀ (x slot : Nat) (s : State) (cx : Context) (v0 : SavedCore), s.context x = some cx → tget none cx.slots slot = some v0 →
    completes (.iterationRestore x slot) s fun t =>
      match s.readHeader (cx.slotBase slot) v0 with
      | none => t = { s with fatal := s.fatal ++ [⟨x, 4, cx.slotBase slot, v0.from_⟩] }
      | some v =>
        match s.records.find? (fun r => r.ctx = x && r.addr = v.recAddr) with
        | none => t = { s with fatal := s.fatal ++ [⟨x, 4, cx.slotBase slot, v0.from_⟩] }
        | some r => (s.restoreCore r { v with core := { v.core with riser := s.readRiser (cx.slotBase slot) v.core.riser } } = none ∧ t = s)
            ∨ ∃ c', t.context x = some c' ∧ tget none c'.slots slot = none)
  ∧ (∀ (n : Nat) (s : State), (s.core n).powered = false → (s.cluster (n / 32)).powered = true →
    completes (.chillResume n) s fun t => (t.core n).powered = true ∨ (t = s ∧ ∃ b v, s.resumeSlot n = some b ∧ ((s.chillOf n).slot b).core = some v ∧ s.repin n ((s.core n).ctx.getD 64) v.copies = none))
  ∧ (∀ (x va src : Nat) (acc : Access) (s : State), completes (.peerAccess x va ⟨src, acc⟩) s fun t =>
      match s.peerDo x va acc with
      | .ok (s1, d) => t = { s1 with outbox := s1.outbox ++ [.reply (some src) 0 (d.map (·.1)) (d.any (·.2))] }
      | .fail st => t = { s with outbox := s.outbox ++ [.reply (some src) st [] false] }
      | .wait => t = s
      | .dead a => t = { s with outbox := s.outbox ++ [.reply (some src) 3 [] false], fatal := s.fatal ++ [⟨x, 3, a, 0⟩] })
  ∧ (∀ (x va : Nat) (wr : Bool) (s : State), completes (.translationWalk x va wr) s fun t =>
      match s.translate x none (va % 2 ^ 52) 1 wr false with
      | .ok s1 _ => t = s1
      | .bad a => t = { s with fatal := s.fatal ++ [⟨x, 3, a, 0⟩] }
      | _ => t = s)
  ∧ (∀ s : State,
    (asks s 1 → completes .ctxCreate s fun t => t = s ∨ commandEnded t) ∧ (asks s 2 → completes .ctxEnd s fun t => t = s ∨ commandEnded t)
    ∧ (asks s 3 → completes .tlbHold s fun t => t = s ∨ commandEnded t) ∧ (asks s 4 → completes .tlbRelease s commandEnded)
    ∧ (asks s 5 → completes .twinSet s commandEnded) ∧ (asks s 6 → completes .escAnswer s (fun t => t = s ∨ commandEnded t))
    ∧ (asks s 7 → completes .lqBind s fun t => t = s ∨ commandEnded t) ∧ (asks s 8 → completes .cpStart s (fun t => t = s ∨ commandEnded t))
    ∧ (asks s 0x10 → completes .opSet s commandEnded) ∧ (asks s 0x11 → completes .opGet s commandEnded) ∧ (asks s 0x12 → completes .limitGet s commandEnded)
    ∧ (s.mbox.mbst.getLsbD 0 = true → knownOpcode s.opcode = false → completes .unknownOpcode s commandEnded))
  ∧ (∀ (r : List Byte) (s : State),
    (s.boot.spdm = 1 → completes (.getCapabilities r) s fun t => spdmAnswered s t 0x61 2)
    ∧ (s.boot.spdm = 2 → completes (.negotiateAlgorithms r) s fun t => spdmAnswered s t 0x63 3)
    ∧ (s.boot.spdm = 3 → completes (.getDigests r) s fun t => spdmAnswered s t 0x01 3)
    ∧ (s.boot.spdm = 3 → completes (.getCertificate r) s fun t => spdmAnswered s t 0x02 3)
    ∧ (s.boot.spdm = 3 → completes (.challenge r) s fun t => spdmAnswered s t 0x03 3)
    ∧ (s.boot.spdm = 3 → completes (.getMeasurements r) s fun t => spdmAnswered s t 0x60 3))

/-- The operations of a ladle complete (R333, R335, R336): whatever it is, a packet ends, waits with nothing changed, ends its context, or is owed its writes on another device; COPY and FILL of no bytes, QMX and QCB4 of no blocks and HIST of no bytes are performed with nothing written. -/
def Claim.LadleFormsComplete : Prop :=
  (∀ (i : Instr) (l : Nat) (s : State), i ∈ [Instr.nopk l, .copy l, .fill l, .qmx l, .qcb4 l, .ingot l, .hist l] → (s.ladle l).owed = false →
    completes i s fun t => t = s ∨ (∃ x a, t = { s with fatal := s.fatal ++ [⟨x, 3, a, 0⟩] }) ∨ (t.ladle l).busy = none ∨ (t.ladle l).owed = true)
  ∧ (∀ (l x q : Nat) (b : LadleBind) (p : List Byte) (s : State),
    (performs s l x q b p 0 → completes (.nopk l) s fun t => packetDone s t l x q b p)
    ∧ (performs s l x q b p 1 → pdw p 5 = 0 → completes (.copy l) s fun t => packetDone s t l x q b p)
    ∧ (performs s l x q b p 2 → pdw p 4 = 0 → completes (.fill l) s fun t => packetDone s t l x q b p)
    ∧ (performs s l x q b p 3 → pdw p 6 % 2 ^ 32 = 0 → completes (.qmx l) s fun t => packetDone s t l x q b p)
    ∧ (performs s l x q b p 4 → pdw p 6 % 2 ^ 32 = 0 → completes (.qcb4 l) s fun t => packetDone s t l x q b p)
    ∧ (performs s l x q b p 6 → pdw p 5 = 0 → completes (.hist l) s fun t => packetDone s t l x q b p))

/-- The forms at a core and at N, and the events: each completes. -/
def Obligations.CoreFormsAndEventsComplete : Prop := Claim.EventsNeverStop ∧ Claim.CoreFormsComplete

/-- The forms of the module outside its cores complete. -/
def Obligations.ModuleFormsComplete : Prop := Claim.ModuleFormsComplete ∧ Claim.LadleFormsComplete
end

