-- ==== Sys2Proof/Laws/Tab.lean ====
section
/-! SUPPORT. Laws of the canonical tables: reading after a write, and that a write keeps the canonical form. -/

namespace Sys2Proof.Machine

variable {α : Type}

/-! Reading. -/

@[simp] theorem tget_nil (d : α) (k : Nat) : tget d [] k = d := rfl

theorem tget_cons (d : α) (a : Nat) (v : α) (t : Tab α) (k : Nat) :
    tget d ((a, v) :: t) k = if a = k then v else tget d t k := rfl

@[simp] theorem tget_tput_same (d : α) (t : Tab α) (k : Nat) (v : α) : tget d (tput t k v) k = v := by
  induction t with
  | nil => simp [tput, tget]
  | cons c rest ih =>
    obtain ⟨a, x⟩ := c
    simp only [tput]
    split
    · rename_i h; rw [tget_cons, if_neg (by omega), ih]
    · split <;> simp [tget_cons]

theorem tget_tput_other (d : α) (t : Tab α) (k j : Nat) (v : α) (h : j ≠ k) : tget d (tput t k v) j = tget d t j := by
  induction t with
  | nil => simp [tput, tget_cons, Ne.symm h]
  | cons c rest ih =>
    obtain ⟨a, x⟩ := c
    simp only [tput]
    split
    · simp only [tget_cons, ih]
    · split
      · rename_i e; subst e; simp [tget_cons, Ne.symm h]
      · simp [tget_cons, Ne.symm h]

@[simp] theorem tget_tdel_same (d : α) (t : Tab α) (k : Nat) : tget d (tdel t k) k = d := by
  induction t with
  | nil => rfl
  | cons c rest ih =>
    obtain ⟨a, x⟩ := c
    simp only [tdel]
    split
    · exact ih
    · rename_i h; rw [tget_cons, if_neg h, ih]

theorem tget_tdel_other (d : α) (t : Tab α) (k j : Nat) (h : j ≠ k) : tget d (tdel t k) j = tget d t j := by
  induction t with
  | nil => rfl
  | cons c rest ih =>
    obtain ⟨a, x⟩ := c
    simp only [tdel]
    split
    · rename_i e; subst e; rw [ih, tget_cons, if_neg (Ne.symm h)]
    · simp only [tget_cons, ih]

/-- Reading the entry that was set. -/
@[simp] theorem tget_tset_same [DecidableEq α] (d : α) (t : Tab α) (k : Nat) (v : α) : tget d (tset d t k v) k = v := by
  unfold tset
  split
  · rename_i h; rw [tget_tdel_same, h]
  · exact tget_tput_same d t k v

/-- Setting an entry leaves every other one. -/
theorem tget_tset_other [DecidableEq α] (d : α) (t : Tab α) (k j : Nat) (v : α) (h : j ≠ k) :
    tget d (tset d t k v) j = tget d t j := by
  unfold tset
  split
  · exact tget_tdel_other d t k j h
  · exact tget_tput_other d t k j v h

/-- Reading any entry after one was set. -/
theorem tget_tset [DecidableEq α] (d : α) (t : Tab α) (k j : Nat) (v : α) :
    tget d (tset d t k v) j = if j = k then v else tget d t j := by
  split
  · rename_i h; subst h; exact tget_tset_same d t j v
  · rename_i h; exact tget_tset_other d t k j v h

/-! The canonical form. -/

/-- Every key of a table is above `k`. -/
def tabove (k : Nat) (t : Tab α) : Prop := ∀ c ∈ t, k < c.1

theorem twf_cons_iff [DecidableEq α] (d : α) (a : Nat) (v : α) (t : Tab α) :
    twf d ((a, v) :: t) = true ↔ v ≠ d ∧ tabove a t ∧ twf d t = true := by
  induction t generalizing a v with
  | nil => simp [twf, tabove]
  | cons c rest ih =>
    obtain ⟨b, w⟩ := c
    have hb := ih b w
    simp only [twf, Bool.and_eq_true, decide_eq_true_eq]
    constructor
    · rintro ⟨⟨h1, h2⟩, h3⟩
      refine ⟨h2, ?_, h3⟩
      intro c hc
      rcases List.mem_cons.1 hc with rfl | hc
      · exact h1
      · exact lt_trans h1 ((hb.1 h3).2.1 c hc)
    · rintro ⟨h1, h2, h3⟩
      exact ⟨⟨h2 (b, w) (List.mem_cons_self), h1⟩, h3⟩

@[simp] theorem twf_nil [DecidableEq α] (d : α) : twf d [] = true := rfl

theorem above_tput (t : Tab α) (a k : Nat) (v : α) (h : a < k) (ht : tabove a t) : tabove a (tput t k v) := by
  induction t with
  | nil => intro c hc; simp only [tput, List.mem_singleton] at hc; subst hc; exact h
  | cons c rest ih =>
    obtain ⟨b, x⟩ := c
    have hb : a < b := ht (b, x) List.mem_cons_self
    have hr : tabove a rest := fun c hc => ht c (List.mem_cons_of_mem _ hc)
    simp only [tput]
    intro c hc
    split at hc
    · rcases List.mem_cons.1 hc with rfl | hc
      · exact hb
      · exact ih hr c hc
    · split at hc
      · rcases List.mem_cons.1 hc with rfl | hc
        · exact h
        · exact hr c hc
      · rcases List.mem_cons.1 hc with rfl | hc
        · exact h
        · exact ht c hc

theorem above_mono {a b : Nat} {t : Tab α} (h : a < b) (ht : tabove b t) : tabove a t := fun c hc => lt_trans h (ht c hc)

theorem twf_tput [DecidableEq α] (d : α) (t : Tab α) (k : Nat) (v : α) (hv : v ≠ d) (ht : twf d t = true) : twf d (tput t k v) = true := by
  induction t with
  | nil => simp [tput, twf, hv]
  | cons c rest ih =>
    obtain ⟨a, x⟩ := c
    obtain ⟨h1, h2, h3⟩ := (twf_cons_iff d a x rest).1 ht
    simp only [tput]
    split
    · rename_i h
      exact (twf_cons_iff _ _ _ _).2 ⟨h1, above_tput rest a k v h h2, ih h3⟩
    · split
      · rename_i _ h; subst h
        exact (twf_cons_iff _ _ _ _).2 ⟨hv, h2, h3⟩
      · rename_i h h'
        have hk : k < a := by omega
        refine (twf_cons_iff _ _ _ _).2 ⟨hv, ?_, ht⟩
        intro c hc
        rcases List.mem_cons.1 hc with rfl | hc
        · exact hk
        · exact lt_trans hk (h2 c hc)

theorem mem_tdel {t : Tab α} {k : Nat} {c : Nat × α} (h : c ∈ tdel t k) : c ∈ t := by
  induction t with
  | nil => exact h
  | cons c' rest ih =>
    obtain ⟨a, x⟩ := c'
    simp only [tdel] at h
    split at h
    · exact List.mem_cons_of_mem _ (ih h)
    · rcases List.mem_cons.1 h with rfl | h
      · exact List.mem_cons_self
      · exact List.mem_cons_of_mem _ (ih h)

theorem twf_tdel [DecidableEq α] (d : α) (t : Tab α) (k : Nat) (ht : twf d t = true) : twf d (tdel t k) = true := by
  induction t with
  | nil => rfl
  | cons c rest ih =>
    obtain ⟨a, x⟩ := c
    obtain ⟨h1, h2, h3⟩ := (twf_cons_iff d a x rest).1 ht
    simp only [tdel]
    split
    · exact ih h3
    · exact (twf_cons_iff _ _ _ _).2 ⟨h1, fun c hc => h2 c (mem_tdel hc), ih h3⟩

/-- Setting an entry keeps a table canonical. -/
theorem twf_tset [DecidableEq α] (d : α) (t : Tab α) (k : Nat) (v : α) (ht : twf d t = true) : twf d (tset d t k v) = true := by
  unfold tset
  split
  · exact twf_tdel d t k ht
  · rename_i h; exact twf_tput d t k v h ht

/-- Leaving entries out keeps a table canonical. -/
theorem twf_filter [DecidableEq α] (d : α) (p : Nat × α → Bool) (t : Tab α) (ht : twf d t = true) : twf d (t.filter p) = true := by
  induction t with
  | nil => rfl
  | cons c rest ih =>
    obtain ⟨a, x⟩ := c
    obtain ⟨h1, h2, h3⟩ := (twf_cons_iff d a x rest).1 ht
    rw [List.filter_cons]
    split
    · exact (twf_cons_iff _ _ _ _).2 ⟨h1, fun c hc => h2 c (List.mem_of_mem_filter hc), ih h3⟩
    · exact ih h3

theorem tget_eq_default_of_above (d : α) (t : Tab α) (a k : Nat) (h : tabove a t) (hk : k ≤ a) : tget d t k = d := by
  induction t with
  | nil => rfl
  | cons c rest ih =>
    obtain ⟨b, x⟩ := c
    have hb : a < b := h (b, x) List.mem_cons_self
    rw [tget_cons, if_neg (by omega)]
    exact ih (fun c hc => h c (List.mem_cons_of_mem _ hc))

/-- Canonical tables that read alike are equal: equal contents are equal data. -/
theorem twf_ext [DecidableEq α] (d : α) (t u : Tab α) (ht : twf d t = true) (hu : twf d u = true) (h : ∀ k, tget d t k = tget d u k) : t = u := by
  induction t generalizing u with
  | nil =>
    cases u with
    | nil => rfl
    | cons c rest =>
      obtain ⟨b, y⟩ := c
      have := h b
      rw [tget_nil, tget_cons, if_pos rfl] at this
      exact absurd this.symm ((twf_cons_iff d b y rest).1 hu).1
  | cons c rest ih =>
    obtain ⟨a, x⟩ := c
    obtain ⟨h1, h2, h3⟩ := (twf_cons_iff d a x rest).1 ht
    cases u with
    | nil =>
      have := h a
      rw [tget_nil, tget_cons, if_pos rfl] at this
      exact absurd this h1
    | cons c' rest' =>
      obtain ⟨b, y⟩ := c'
      obtain ⟨g1, g2, g3⟩ := (twf_cons_iff d b y rest').1 hu
      have hab : a = b := by
        rcases Nat.lt_trichotomy a b with hl | he | hl
        · have := h a
          rw [tget_cons, if_pos rfl, tget_cons, if_neg (by omega), tget_eq_default_of_above d rest' b a g2 (by omega)] at this
          exact absurd this h1
        · exact he
        · have := h b
          rw [tget_cons, if_neg (by omega), tget_cons, if_pos rfl, tget_eq_default_of_above d rest a b h2 (by omega)] at this
          exact absurd this.symm g1
      subst hab
      have hx : x = y := by have := h a; simpa [tget_cons] using this
      subst hx
      congr 1
      apply ih rest' h3 g3
      intro k
      by_cases hk : k = a
      · subst hk
        rw [tget_eq_default_of_above d rest k k h2 (le_refl _), tget_eq_default_of_above d rest' k k g2 (le_refl _)]
      · have := h k
        simpa [tget_cons, Ne.symm hk] using this

end Sys2Proof.Machine
end

