-- ==== Sys2Proof/Laws/Mem.lean ====
section
/-! SUPPORT. Laws of the byte memory: reading after a write, every memory operation keeps the canonical form, and the little-endian values. -/

namespace Sys2Proof.Machine

/-! One byte. -/

@[simp] theorem Memory.rd_nil (a : Nat) : Memory.rd [] a = memDefault := rfl

/-- Reading the byte that was written. -/
@[simp] theorem Memory.rd_wr_same (m : Memory) (a : Nat) (b : Byte) : (m.wr a b).rd a = b := tget_tset_same _ _ _ _

/-- A write leaves every other byte. -/
theorem Memory.rd_wr_other (m : Memory) (a x : Nat) (b : Byte) (h : x ≠ a) : (m.wr a b).rd x = m.rd x :=
  tget_tset_other _ _ _ _ _ h

theorem Memory.rd_wr (m : Memory) (a x : Nat) (b : Byte) : (m.wr a b).rd x = if x = a then b else m.rd x :=
  tget_tset _ _ _ _ _

/-! Runs of bytes. -/

@[simp] theorem Memory.rdN_length (m : Memory) (a n : Nat) : (m.rdN a n).length = n := by
  induction n generalizing a with
  | zero => rfl
  | succ n ih => simp [Memory.rdN, ih]

theorem Memory.rd_wrN_before (m : Memory) (a x : Nat) (d : List Byte) (h : x < a) : (m.wrN a d).rd x = m.rd x := by
  induction d generalizing m a with
  | nil => rfl
  | cons b rest ih => rw [Memory.wrN, ih _ _ (by omega), Memory.rd_wr_other _ _ _ _ (by omega)]

/-- A write of bytes leaves every byte outside its range. -/
theorem Memory.rd_wrN_other (m : Memory) (a x : Nat) (d : List Byte) (h : x < a ∨ a + d.length ≤ x) :
    (m.wrN a d).rd x = m.rd x := by
  induction d generalizing m a with
  | nil => rfl
  | cons b rest ih =>
    simp only [List.length_cons] at h
    rw [Memory.wrN, ih _ _ (by omega), Memory.rd_wr_other _ _ _ _ (by omega)]

/-- Each byte of the range holds what was written. -/
theorem Memory.rd_wrN_at (m : Memory) (a i : Nat) (d : List Byte) (h : i < d.length) :
    (m.wrN a d).rd (a + i) = d[i] := by
  induction d generalizing m a i with
  | nil => simp at h
  | cons b rest ih =>
    cases i with
    | zero => rw [Memory.wrN, Memory.rd_wrN_before _ _ _ _ (by omega)]; simp
    | succ i =>
      simp only [List.length_cons, Nat.add_lt_add_iff_right] at h
      have := ih (m.wr a b) (a + 1) i h
      rw [Memory.wrN, show a + (i + 1) = a + 1 + i by omega, this]
      rfl

/-- Reading back the bytes that were written. -/
@[simp] theorem Memory.rdN_wrN_same (m : Memory) (a : Nat) (d : List Byte) : (m.wrN a d).rdN a d.length = d := by
  have key : ∀ (n : Nat) (d : List Byte) (m : Memory) (b : Nat), n ≤ d.length →
      (m.wrN a d).rdN (a + (d.length - n)) n = d.drop (d.length - n) := by
    intro n
    induction n with
    | zero => intro d m _ _; simp [Memory.rdN]
    | succ n ih =>
      intro d m b hn
      rw [Memory.rdN, Memory.rd_wrN_at m a (d.length - (n + 1)) d (by omega)]
      have h2 := ih d m b (by omega)
      rw [show a + (d.length - (n + 1)) + 1 = a + (d.length - n) by omega, h2]
      rw [show d.length - n = d.length - (n + 1) + 1 by omega]
      exact (List.drop_eq_getElem_cons (by omega)).symm
  simpa using key d.length d m 0 (le_refl _)

/-! The canonical form. -/

/-- Nothing listed is canonical. -/
@[simp] theorem Memory.wf_nil : Memory.wf [] = true := rfl

/-- A write of a byte keeps the canonical form. -/
theorem Memory.wr_wf (m : Memory) (a : Nat) (b : Byte) (h : m.wf = true) : (m.wr a b).wf = true := twf_tset _ _ _ _ h

/-- A write of bytes keeps it. -/
theorem Memory.wrN_wf (m : Memory) (a : Nat) (d : List Byte) (h : m.wf = true) : (m.wrN a d).wf = true := by
  induction d generalizing m a with
  | nil => exact h
  | cons b rest ih => exact ih _ _ (m.wr_wf a b h)

/-- Leaving out a range keeps it. -/
theorem Memory.without_wf (m : Memory) (a n : Nat) (h : m.wf = true) : (m.without a n).wf = true := twf_filter _ _ _ h

/-- Putting cells in keeps it, whatever the cells are. -/
theorem Memory.putCells_wf (m : Memory) (a n : Nat) (cells : Memory) (h : m.wf = true) : (m.putCells a n cells).wf = true := by
  induction cells generalizing m with
  | nil => exact h
  | cons c rest ih =>
    apply ih
    split
    · exact m.wr_wf _ _ h
    · exact h

/-- Replacing a range keeps it. -/
theorem Memory.paste_wf (m : Memory) (a n : Nat) (cells : Memory) (h : m.wf = true) : (m.paste a n cells).wf = true :=
  Memory.putCells_wf _ _ _ _ (m.without_wf a n h)

/-- Copying a range keeps it. -/
theorem Memory.copyRange_wf (m : Memory) (src dst n : Nat) (h : m.wf = true) : (m.copyRange src dst n).wf = true :=
  m.paste_wf _ _ _ h

/-- Two canonical memories that read alike at every address are equal. -/
theorem Memory.ext_of_rd (m n : Memory) (hm : m.wf = true) (hn : n.wf = true) (h : ∀ a, m.rd a = n.rd a) : m = n :=
  twf_ext _ _ _ hm hn h

/-! Replaced ranges. -/

theorem Memory.rd_filter (p : Nat → Bool) (m : Memory) (x : Nat) :
    Memory.rd (m.filter (fun c => p c.1)) x = if p x then m.rd x else memDefault := by
  induction m with
  | nil => simp
  | cons c rest ih =>
    obtain ⟨b, v⟩ := c
    simp only [Memory.rd] at ih ⊢
    rw [List.filter_cons]
    by_cases hb : b = x
    · subst hb
      by_cases hp : p b = true
      · simp [hp, tget_cons]
      · simp only [hp, Bool.false_eq_true, ↓reduceIte] at ih ⊢
        exact ih
    · split
      · rw [tget_cons, if_neg hb, tget_cons, if_neg hb, ih]
      · rw [tget_cons, if_neg hb, ih]

theorem Memory.rd_putCells_other (m : Memory) (a n x : Nat) (cells : Memory) (h : x < a ∨ a + n ≤ x) :
    (m.putCells a n cells).rd x = m.rd x := by
  induction cells generalizing m with
  | nil => rfl
  | cons c rest ih =>
    rw [Memory.putCells, ih]
    split
    · exact Memory.rd_wr_other _ _ _ _ (by omega)
    · rfl

/-- Replacing a range leaves every byte outside it. -/
theorem Memory.rd_paste_other (m : Memory) (a n x : Nat) (cells : Memory) (h : x < a ∨ a + n ≤ x) :
    (m.paste a n cells).rd x = m.rd x := by
  have hw := Memory.rd_filter (fun y => !(decide (a ≤ y) && decide (y < a + n))) m x
  rw [Memory.paste, Memory.rd_putCells_other _ _ _ _ _ h, Memory.without, hw]
  have : (!(decide (a ≤ x) && decide (x < a + n))) = true := by
    rcases h with h | h
    · simp only [Bool.not_eq_true', Bool.and_eq_false_iff, decide_eq_false_iff_not]; left; omega
    · simp only [Bool.not_eq_true', Bool.and_eq_false_iff, decide_eq_false_iff_not]; right; omega
  simp [this]

/-- A range replaced by no cells reads as an unlisted range. -/
theorem Memory.rd_paste_nil (m : Memory) (a n x : Nat) (h : a ≤ x) (h' : x < a + n) : (m.paste a n []).rd x = memDefault := by
  have hw := Memory.rd_filter (fun y => !(decide (a ≤ y) && decide (y < a + n))) m x
  rw [Memory.paste, Memory.putCells, Memory.without, hw]
  simp [h, h']

/-! Little-endian values (R6). -/

@[simp] theorem natLe_length (n v : Nat) : (natLe n v).length = n := by
  induction n generalizing v with
  | zero => rfl
  | succ n ih => simp [natLe, ih]

/-- The value of the little-endian bytes of a number. -/
@[simp] theorem leNat_natLe (n v : Nat) : leNat (natLe n v) = v % 256 ^ n := by
  induction n generalizing v with
  | zero => simp [natLe, leNat, Nat.mod_one]
  | succ n ih =>
    simp only [natLe, leNat, ih, BitVec.toNat_ofNat]
    rw [show (2 : Nat) ^ 8 = 256 from rfl, show 256 ^ (n + 1) = 256 * 256 ^ n by rw [pow_succ, Nat.mul_comm], Nat.mod_mul]

end Sys2Proof.Machine
end

