-- ==== Sys2Proof/Laws/State.lean ====
section
/-! SUPPORT. The small lemmas of the state: what each basic update leaves and what it sets, field by field, so that no later proof unfolds a record update. -/

namespace Sys2Proof.Machine

/-! Agents read after an agent was replaced. -/

@[simp] theorem State.core_setCore_same (s : State) (n : Nat) (c : Core) : (s.setCore n c).core n = c :=
  tget_tset_same _ _ _ _

theorem State.core_setCore_other (s : State) (n j : Nat) (c : Core) (h : j ≠ n) : (s.setCore n c).core j = s.core j :=
  tget_tset_other _ _ _ _ _ h

@[simp] theorem State.agent_setAgent_same (s : State) (m : Mover) (c : Core) : (s.setAgent m c).agent m = c := by
  cases m
  · exact State.core_setCore_same _ _ _
  · exact tget_tset_same _ _ _ _

theorem State.agent_setAgent_other (s : State) (m j : Mover) (c : Core) (h : j ≠ m) : (s.setAgent m c).agent j = s.agent j := by
  cases m <;> cases j
  · exact State.core_setCore_other _ _ _ _ (fun e => h (by rw [e]))
  · rfl
  · rfl
  · exact tget_tset_other _ _ _ _ _ (fun e => h (by rw [e]))

@[simp] theorem State.agent_core (s : State) (n : Nat) : s.agent (.core n) = s.core n := rfl

theorem State.cur_eq (s : State) : s.cur = s.agent s.here := rfl

/-! Updates of the state. -/

section StateUpdates
variable (s : State) (m : Mover) (c : Core) (n a b k u x : Nat) (f : Core → Core) (msg : Message) (cx : Context) (v : Cluster)
variable (d : List Byte) (p : Bool) (um : UnitMap)

@[simp] theorem State.setCore_mem : (s.setCore n c).mem = s.mem := rfl
@[simp] theorem State.setCore_pz : (s.setCore n c).pz = s.pz := rfl
@[simp] theorem State.setCore_tablePz : (s.setCore n c).tablePz = s.tablePz := rfl
@[simp] theorem State.setCore_dirtyA : (s.setCore n c).dirtyA = s.dirtyA := rfl
@[simp] theorem State.setCore_dirtyB : (s.setCore n c).dirtyB = s.dirtyB := rfl
@[simp] theorem State.setCore_cps : (s.setCore n c).cps = s.cps := rfl
@[simp] theorem State.setCore_cpBase : (s.setCore n c).cpBase = s.cpBase := rfl
@[simp] theorem State.setCore_cpLast : (s.setCore n c).cpLast = s.cpLast := rfl
@[simp] theorem State.setCore_cpFree : (s.setCore n c).cpFree = s.cpFree := rfl
@[simp] theorem State.setCore_here : (s.setCore n c).here = s.here := rfl
@[simp] theorem State.setCore_agenda : (s.setCore n c).agenda = s.agenda := rfl
@[simp] theorem State.setCore_fresh : (s.setCore n c).fresh = s.fresh := rfl
@[simp] theorem State.setCore_fatal : (s.setCore n c).fatal = s.fatal := rfl
@[simp] theorem State.setCore_outbox : (s.setCore n c).outbox = s.outbox := rfl
@[simp] theorem State.setCore_ref : (s.setCore n c).ref = s.ref := rfl
@[simp] theorem State.setCore_contexts : (s.setCore n c).contexts = s.contexts := rfl
@[simp] theorem State.setCore_records : (s.setCore n c).records = s.records := rfl
@[simp] theorem State.setCore_accepted : (s.setCore n c).accepted = s.accepted := rfl
@[simp] theorem State.setCore_reserving : (s.setCore n c).reserving = s.reserving := rfl
@[simp] theorem State.setCore_cqs : (s.setCore n c).cqs = s.cqs := rfl
@[simp] theorem State.setCore_cqLast : (s.setCore n c).cqLast = s.cqLast := rfl
@[simp] theorem State.setCore_barriers : (s.setCore n c).barriers = s.barriers := rfl
@[simp] theorem State.setCore_ladles : (s.setCore n c).ladles = s.ladles := rfl
@[simp] theorem State.setCore_escs : (s.setCore n c).escs = s.escs := rfl
@[simp] theorem State.setCore_locks : (s.setCore n c).locks = s.locks := rfl
@[simp] theorem State.setCore_twins : (s.setCore n c).twins = s.twins := rfl
@[simp] theorem State.setCore_tlbHolds : (s.setCore n c).tlbHolds = s.tlbHolds := rfl
@[simp] theorem State.setCore_mbox : (s.setCore n c).mbox = s.mbox := rfl
@[simp] theorem State.setCore_msixMask : (s.setCore n c).msixMask = s.msixMask := rfl
@[simp] theorem State.setCore_msixPend : (s.setCore n c).msixPend = s.msixPend := rfl
@[simp] theorem State.setCore_msixTable : (s.setCore n c).msixTable = s.msixTable := rfl
@[simp] theorem State.setCore_chill : (s.setCore n c).chill = s.chill := rfl
@[simp] theorem State.setCore_starts : (s.setCore n c).starts = s.starts := rfl
@[simp] theorem State.setCore_recovery : (s.setCore n c).recovery = s.recovery := rfl
@[simp] theorem State.setCore_spe : (s.setCore n c).spe = s.spe := rfl
@[simp] theorem State.setCore_elog : (s.setCore n c).elog = s.elog := rfl
@[simp] theorem State.setCore_laneErrs : (s.setCore n c).laneErrs = s.laneErrs := rfl
@[simp] theorem State.setCore_trig : (s.setCore n c).trig = s.trig := rfl
@[simp] theorem State.setCore_links : (s.setCore n c).links = s.links := rfl
@[simp] theorem State.setCore_clusters : (s.setCore n c).clusters = s.clusters := rfl
@[simp] theorem State.setCore_events : (s.setCore n c).events = s.events := rfl
@[simp] theorem State.setCore_checked : (s.setCore n c).checked = s.checked := rfl
@[simp] theorem State.setCore_boot : (s.setCore n c).boot = s.boot := rfl
@[simp] theorem State.setCore_peerMem : (s.setCore n c).peerMem = s.peerMem := rfl
@[simp] theorem State.setCore_peerPz : (s.setCore n c).peerPz = s.peerPz := rfl
@[simp] theorem State.setCore_peerFail : (s.setCore n c).peerFail = s.peerFail := rfl
@[simp] theorem State.setAgent_mem : (s.setAgent m c).mem = s.mem := by cases m <;> rfl
@[simp] theorem State.setAgent_pz : (s.setAgent m c).pz = s.pz := by cases m <;> rfl
@[simp] theorem State.setAgent_tablePz : (s.setAgent m c).tablePz = s.tablePz := by cases m <;> rfl
@[simp] theorem State.setAgent_dirtyA : (s.setAgent m c).dirtyA = s.dirtyA := by cases m <;> rfl
@[simp] theorem State.setAgent_dirtyB : (s.setAgent m c).dirtyB = s.dirtyB := by cases m <;> rfl
@[simp] theorem State.setAgent_cpBase : (s.setAgent m c).cpBase = s.cpBase := by cases m <;> rfl
@[simp] theorem State.setAgent_cpLast : (s.setAgent m c).cpLast = s.cpLast := by cases m <;> rfl
@[simp] theorem State.setAgent_cpFree : (s.setAgent m c).cpFree = s.cpFree := by cases m <;> rfl
@[simp] theorem State.setAgent_here : (s.setAgent m c).here = s.here := by cases m <;> rfl
@[simp] theorem State.setAgent_agenda : (s.setAgent m c).agenda = s.agenda := by cases m <;> rfl
@[simp] theorem State.setAgent_fresh : (s.setAgent m c).fresh = s.fresh := by cases m <;> rfl
@[simp] theorem State.setAgent_fatal : (s.setAgent m c).fatal = s.fatal := by cases m <;> rfl
@[simp] theorem State.setAgent_outbox : (s.setAgent m c).outbox = s.outbox := by cases m <;> rfl
@[simp] theorem State.setAgent_ref : (s.setAgent m c).ref = s.ref := by cases m <;> rfl
@[simp] theorem State.setAgent_contexts : (s.setAgent m c).contexts = s.contexts := by cases m <;> rfl
@[simp] theorem State.setAgent_records : (s.setAgent m c).records = s.records := by cases m <;> rfl
@[simp] theorem State.setAgent_accepted : (s.setAgent m c).accepted = s.accepted := by cases m <;> rfl
@[simp] theorem State.setAgent_reserving : (s.setAgent m c).reserving = s.reserving := by cases m <;> rfl
@[simp] theorem State.setAgent_cqs : (s.setAgent m c).cqs = s.cqs := by cases m <;> rfl
@[simp] theorem State.setAgent_cqLast : (s.setAgent m c).cqLast = s.cqLast := by cases m <;> rfl
@[simp] theorem State.setAgent_barriers : (s.setAgent m c).barriers = s.barriers := by cases m <;> rfl
@[simp] theorem State.setAgent_ladles : (s.setAgent m c).ladles = s.ladles := by cases m <;> rfl
@[simp] theorem State.setAgent_escs : (s.setAgent m c).escs = s.escs := by cases m <;> rfl
@[simp] theorem State.setAgent_locks : (s.setAgent m c).locks = s.locks := by cases m <;> rfl
@[simp] theorem State.setAgent_twins : (s.setAgent m c).twins = s.twins := by cases m <;> rfl
@[simp] theorem State.setAgent_tlbHolds : (s.setAgent m c).tlbHolds = s.tlbHolds := by cases m <;> rfl
@[simp] theorem State.setAgent_mbox : (s.setAgent m c).mbox = s.mbox := by cases m <;> rfl
@[simp] theorem State.setAgent_msixMask : (s.setAgent m c).msixMask = s.msixMask := by cases m <;> rfl
@[simp] theorem State.setAgent_msixPend : (s.setAgent m c).msixPend = s.msixPend := by cases m <;> rfl
@[simp] theorem State.setAgent_msixTable : (s.setAgent m c).msixTable = s.msixTable := by cases m <;> rfl
@[simp] theorem State.setAgent_chill : (s.setAgent m c).chill = s.chill := by cases m <;> rfl
@[simp] theorem State.setAgent_starts : (s.setAgent m c).starts = s.starts := by cases m <;> rfl
@[simp] theorem State.setAgent_recovery : (s.setAgent m c).recovery = s.recovery := by cases m <;> rfl
@[simp] theorem State.setAgent_spe : (s.setAgent m c).spe = s.spe := by cases m <;> rfl
@[simp] theorem State.setAgent_elog : (s.setAgent m c).elog = s.elog := by cases m <;> rfl
@[simp] theorem State.setAgent_laneErrs : (s.setAgent m c).laneErrs = s.laneErrs := by cases m <;> rfl
@[simp] theorem State.setAgent_trig : (s.setAgent m c).trig = s.trig := by cases m <;> rfl
@[simp] theorem State.setAgent_links : (s.setAgent m c).links = s.links := by cases m <;> rfl
@[simp] theorem State.setAgent_clusters : (s.setAgent m c).clusters = s.clusters := by cases m <;> rfl
@[simp] theorem State.setAgent_events : (s.setAgent m c).events = s.events := by cases m <;> rfl
@[simp] theorem State.setAgent_checked : (s.setAgent m c).checked = s.checked := by cases m <;> rfl
@[simp] theorem State.setAgent_boot : (s.setAgent m c).boot = s.boot := by cases m <;> rfl
@[simp] theorem State.setAgent_peerMem : (s.setAgent m c).peerMem = s.peerMem := by cases m <;> rfl
@[simp] theorem State.setAgent_peerPz : (s.setAgent m c).peerPz = s.peerPz := by cases m <;> rfl
@[simp] theorem State.setAgent_peerFail : (s.setAgent m c).peerFail = s.peerFail := by cases m <;> rfl
@[simp] theorem State.setCur_mem : (s.setCur c).mem = s.mem := State.setAgent_mem _ _ _
@[simp] theorem State.setCur_pz : (s.setCur c).pz = s.pz := State.setAgent_pz _ _ _
@[simp] theorem State.setCur_tablePz : (s.setCur c).tablePz = s.tablePz := State.setAgent_tablePz _ _ _
@[simp] theorem State.setCur_dirtyA : (s.setCur c).dirtyA = s.dirtyA := State.setAgent_dirtyA _ _ _
@[simp] theorem State.setCur_dirtyB : (s.setCur c).dirtyB = s.dirtyB := State.setAgent_dirtyB _ _ _
@[simp] theorem State.setCur_cpBase : (s.setCur c).cpBase = s.cpBase := State.setAgent_cpBase _ _ _
@[simp] theorem State.setCur_cpLast : (s.setCur c).cpLast = s.cpLast := State.setAgent_cpLast _ _ _
@[simp] theorem State.setCur_cpFree : (s.setCur c).cpFree = s.cpFree := State.setAgent_cpFree _ _ _
@[simp] theorem State.setCur_here : (s.setCur c).here = s.here := State.setAgent_here _ _ _
@[simp] theorem State.setCur_agenda : (s.setCur c).agenda = s.agenda := State.setAgent_agenda _ _ _
@[simp] theorem State.setCur_fresh : (s.setCur c).fresh = s.fresh := State.setAgent_fresh _ _ _
@[simp] theorem State.setCur_fatal : (s.setCur c).fatal = s.fatal := State.setAgent_fatal _ _ _
@[simp] theorem State.setCur_outbox : (s.setCur c).outbox = s.outbox := State.setAgent_outbox _ _ _
@[simp] theorem State.setCur_ref : (s.setCur c).ref = s.ref := State.setAgent_ref _ _ _
@[simp] theorem State.setCur_contexts : (s.setCur c).contexts = s.contexts := State.setAgent_contexts _ _ _
@[simp] theorem State.setCur_records : (s.setCur c).records = s.records := State.setAgent_records _ _ _
@[simp] theorem State.setCur_accepted : (s.setCur c).accepted = s.accepted := State.setAgent_accepted _ _ _
@[simp] theorem State.setCur_reserving : (s.setCur c).reserving = s.reserving := State.setAgent_reserving _ _ _
@[simp] theorem State.setCur_cqs : (s.setCur c).cqs = s.cqs := State.setAgent_cqs _ _ _
@[simp] theorem State.setCur_cqLast : (s.setCur c).cqLast = s.cqLast := State.setAgent_cqLast _ _ _
@[simp] theorem State.setCur_barriers : (s.setCur c).barriers = s.barriers := State.setAgent_barriers _ _ _
@[simp] theorem State.setCur_ladles : (s.setCur c).ladles = s.ladles := State.setAgent_ladles _ _ _
@[simp] theorem State.setCur_escs : (s.setCur c).escs = s.escs := State.setAgent_escs _ _ _
@[simp] theorem State.setCur_locks : (s.setCur c).locks = s.locks := State.setAgent_locks _ _ _
@[simp] theorem State.setCur_twins : (s.setCur c).twins = s.twins := State.setAgent_twins _ _ _
@[simp] theorem State.setCur_tlbHolds : (s.setCur c).tlbHolds = s.tlbHolds := State.setAgent_tlbHolds _ _ _
@[simp] theorem State.setCur_mbox : (s.setCur c).mbox = s.mbox := State.setAgent_mbox _ _ _
@[simp] theorem State.setCur_msixMask : (s.setCur c).msixMask = s.msixMask := State.setAgent_msixMask _ _ _
@[simp] theorem State.setCur_msixPend : (s.setCur c).msixPend = s.msixPend := State.setAgent_msixPend _ _ _
@[simp] theorem State.setCur_msixTable : (s.setCur c).msixTable = s.msixTable := State.setAgent_msixTable _ _ _
@[simp] theorem State.setCur_chill : (s.setCur c).chill = s.chill := State.setAgent_chill _ _ _
@[simp] theorem State.setCur_starts : (s.setCur c).starts = s.starts := State.setAgent_starts _ _ _
@[simp] theorem State.setCur_recovery : (s.setCur c).recovery = s.recovery := State.setAgent_recovery _ _ _
@[simp] theorem State.setCur_spe : (s.setCur c).spe = s.spe := State.setAgent_spe _ _ _
@[simp] theorem State.setCur_elog : (s.setCur c).elog = s.elog := State.setAgent_elog _ _ _
@[simp] theorem State.setCur_laneErrs : (s.setCur c).laneErrs = s.laneErrs := State.setAgent_laneErrs _ _ _
@[simp] theorem State.setCur_trig : (s.setCur c).trig = s.trig := State.setAgent_trig _ _ _
@[simp] theorem State.setCur_links : (s.setCur c).links = s.links := State.setAgent_links _ _ _
@[simp] theorem State.setCur_clusters : (s.setCur c).clusters = s.clusters := State.setAgent_clusters _ _ _
@[simp] theorem State.setCur_events : (s.setCur c).events = s.events := State.setAgent_events _ _ _
@[simp] theorem State.setCur_checked : (s.setCur c).checked = s.checked := State.setAgent_checked _ _ _
@[simp] theorem State.setCur_boot : (s.setCur c).boot = s.boot := State.setAgent_boot _ _ _
@[simp] theorem State.setCur_peerMem : (s.setCur c).peerMem = s.peerMem := State.setAgent_peerMem _ _ _
@[simp] theorem State.setCur_peerPz : (s.setCur c).peerPz = s.peerPz := State.setAgent_peerPz _ _ _
@[simp] theorem State.setCur_peerFail : (s.setCur c).peerFail = s.peerFail := State.setAgent_peerFail _ _ _
@[simp] theorem State.modCur_mem : (s.modCur f).mem = s.mem := State.setAgent_mem _ _ _
@[simp] theorem State.modCur_pz : (s.modCur f).pz = s.pz := State.setAgent_pz _ _ _
@[simp] theorem State.modCur_tablePz : (s.modCur f).tablePz = s.tablePz := State.setAgent_tablePz _ _ _
@[simp] theorem State.modCur_dirtyA : (s.modCur f).dirtyA = s.dirtyA := State.setAgent_dirtyA _ _ _
@[simp] theorem State.modCur_dirtyB : (s.modCur f).dirtyB = s.dirtyB := State.setAgent_dirtyB _ _ _
@[simp] theorem State.modCur_cpBase : (s.modCur f).cpBase = s.cpBase := State.setAgent_cpBase _ _ _
@[simp] theorem State.modCur_cpLast : (s.modCur f).cpLast = s.cpLast := State.setAgent_cpLast _ _ _
@[simp] theorem State.modCur_cpFree : (s.modCur f).cpFree = s.cpFree := State.setAgent_cpFree _ _ _
@[simp] theorem State.modCur_here : (s.modCur f).here = s.here := State.setAgent_here _ _ _
@[simp] theorem State.modCur_agenda : (s.modCur f).agenda = s.agenda := State.setAgent_agenda _ _ _
@[simp] theorem State.modCur_fresh : (s.modCur f).fresh = s.fresh := State.setAgent_fresh _ _ _
@[simp] theorem State.modCur_fatal : (s.modCur f).fatal = s.fatal := State.setAgent_fatal _ _ _
@[simp] theorem State.modCur_outbox : (s.modCur f).outbox = s.outbox := State.setAgent_outbox _ _ _
@[simp] theorem State.modCur_ref : (s.modCur f).ref = s.ref := State.setAgent_ref _ _ _
@[simp] theorem State.modCur_contexts : (s.modCur f).contexts = s.contexts := State.setAgent_contexts _ _ _
@[simp] theorem State.modCur_records : (s.modCur f).records = s.records := State.setAgent_records _ _ _
@[simp] theorem State.modCur_accepted : (s.modCur f).accepted = s.accepted := State.setAgent_accepted _ _ _
@[simp] theorem State.modCur_reserving : (s.modCur f).reserving = s.reserving := State.setAgent_reserving _ _ _
@[simp] theorem State.modCur_cqs : (s.modCur f).cqs = s.cqs := State.setAgent_cqs _ _ _
@[simp] theorem State.modCur_cqLast : (s.modCur f).cqLast = s.cqLast := State.setAgent_cqLast _ _ _
@[simp] theorem State.modCur_barriers : (s.modCur f).barriers = s.barriers := State.setAgent_barriers _ _ _
@[simp] theorem State.modCur_ladles : (s.modCur f).ladles = s.ladles := State.setAgent_ladles _ _ _
@[simp] theorem State.modCur_escs : (s.modCur f).escs = s.escs := State.setAgent_escs _ _ _
@[simp] theorem State.modCur_locks : (s.modCur f).locks = s.locks := State.setAgent_locks _ _ _
@[simp] theorem State.modCur_twins : (s.modCur f).twins = s.twins := State.setAgent_twins _ _ _
@[simp] theorem State.modCur_tlbHolds : (s.modCur f).tlbHolds = s.tlbHolds := State.setAgent_tlbHolds _ _ _
@[simp] theorem State.modCur_mbox : (s.modCur f).mbox = s.mbox := State.setAgent_mbox _ _ _
@[simp] theorem State.modCur_msixMask : (s.modCur f).msixMask = s.msixMask := State.setAgent_msixMask _ _ _
@[simp] theorem State.modCur_msixPend : (s.modCur f).msixPend = s.msixPend := State.setAgent_msixPend _ _ _
@[simp] theorem State.modCur_msixTable : (s.modCur f).msixTable = s.msixTable := State.setAgent_msixTable _ _ _
@[simp] theorem State.modCur_chill : (s.modCur f).chill = s.chill := State.setAgent_chill _ _ _
@[simp] theorem State.modCur_starts : (s.modCur f).starts = s.starts := State.setAgent_starts _ _ _
@[simp] theorem State.modCur_recovery : (s.modCur f).recovery = s.recovery := State.setAgent_recovery _ _ _
@[simp] theorem State.modCur_spe : (s.modCur f).spe = s.spe := State.setAgent_spe _ _ _
@[simp] theorem State.modCur_elog : (s.modCur f).elog = s.elog := State.setAgent_elog _ _ _
@[simp] theorem State.modCur_laneErrs : (s.modCur f).laneErrs = s.laneErrs := State.setAgent_laneErrs _ _ _
@[simp] theorem State.modCur_trig : (s.modCur f).trig = s.trig := State.setAgent_trig _ _ _
@[simp] theorem State.modCur_links : (s.modCur f).links = s.links := State.setAgent_links _ _ _
@[simp] theorem State.modCur_clusters : (s.modCur f).clusters = s.clusters := State.setAgent_clusters _ _ _
@[simp] theorem State.modCur_events : (s.modCur f).events = s.events := State.setAgent_events _ _ _
@[simp] theorem State.modCur_checked : (s.modCur f).checked = s.checked := State.setAgent_checked _ _ _
@[simp] theorem State.modCur_boot : (s.modCur f).boot = s.boot := State.setAgent_boot _ _ _
@[simp] theorem State.modCur_peerMem : (s.modCur f).peerMem = s.peerMem := State.setAgent_peerMem _ _ _
@[simp] theorem State.modCur_peerPz : (s.modCur f).peerPz = s.peerPz := State.setAgent_peerPz _ _ _
@[simp] theorem State.modCur_peerFail : (s.modCur f).peerFail = s.peerFail := State.setAgent_peerFail _ _ _
@[simp] theorem State.modCore_mem : (s.modCore n f).mem = s.mem := rfl
@[simp] theorem State.modCore_pz : (s.modCore n f).pz = s.pz := rfl
@[simp] theorem State.modCore_tablePz : (s.modCore n f).tablePz = s.tablePz := rfl
@[simp] theorem State.modCore_dirtyA : (s.modCore n f).dirtyA = s.dirtyA := rfl
@[simp] theorem State.modCore_dirtyB : (s.modCore n f).dirtyB = s.dirtyB := rfl
@[simp] theorem State.modCore_cps : (s.modCore n f).cps = s.cps := rfl
@[simp] theorem State.modCore_cpBase : (s.modCore n f).cpBase = s.cpBase := rfl
@[simp] theorem State.modCore_cpLast : (s.modCore n f).cpLast = s.cpLast := rfl
@[simp] theorem State.modCore_cpFree : (s.modCore n f).cpFree = s.cpFree := rfl
@[simp] theorem State.modCore_here : (s.modCore n f).here = s.here := rfl
@[simp] theorem State.modCore_agenda : (s.modCore n f).agenda = s.agenda := rfl
@[simp] theorem State.modCore_fresh : (s.modCore n f).fresh = s.fresh := rfl
@[simp] theorem State.modCore_fatal : (s.modCore n f).fatal = s.fatal := rfl
@[simp] theorem State.modCore_outbox : (s.modCore n f).outbox = s.outbox := rfl
@[simp] theorem State.modCore_ref : (s.modCore n f).ref = s.ref := rfl
@[simp] theorem State.modCore_contexts : (s.modCore n f).contexts = s.contexts := rfl
@[simp] theorem State.modCore_records : (s.modCore n f).records = s.records := rfl
@[simp] theorem State.modCore_accepted : (s.modCore n f).accepted = s.accepted := rfl
@[simp] theorem State.modCore_reserving : (s.modCore n f).reserving = s.reserving := rfl
@[simp] theorem State.modCore_cqs : (s.modCore n f).cqs = s.cqs := rfl
@[simp] theorem State.modCore_cqLast : (s.modCore n f).cqLast = s.cqLast := rfl
@[simp] theorem State.modCore_barriers : (s.modCore n f).barriers = s.barriers := rfl
@[simp] theorem State.modCore_ladles : (s.modCore n f).ladles = s.ladles := rfl
@[simp] theorem State.modCore_escs : (s.modCore n f).escs = s.escs := rfl
@[simp] theorem State.modCore_locks : (s.modCore n f).locks = s.locks := rfl
@[simp] theorem State.modCore_twins : (s.modCore n f).twins = s.twins := rfl
@[simp] theorem State.modCore_tlbHolds : (s.modCore n f).tlbHolds = s.tlbHolds := rfl
@[simp] theorem State.modCore_mbox : (s.modCore n f).mbox = s.mbox := rfl
@[simp] theorem State.modCore_msixMask : (s.modCore n f).msixMask = s.msixMask := rfl
@[simp] theorem State.modCore_msixPend : (s.modCore n f).msixPend = s.msixPend := rfl
@[simp] theorem State.modCore_msixTable : (s.modCore n f).msixTable = s.msixTable := rfl
@[simp] theorem State.modCore_chill : (s.modCore n f).chill = s.chill := rfl
@[simp] theorem State.modCore_starts : (s.modCore n f).starts = s.starts := rfl
@[simp] theorem State.modCore_recovery : (s.modCore n f).recovery = s.recovery := rfl
@[simp] theorem State.modCore_spe : (s.modCore n f).spe = s.spe := rfl
@[simp] theorem State.modCore_elog : (s.modCore n f).elog = s.elog := rfl
@[simp] theorem State.modCore_laneErrs : (s.modCore n f).laneErrs = s.laneErrs := rfl
@[simp] theorem State.modCore_trig : (s.modCore n f).trig = s.trig := rfl
@[simp] theorem State.modCore_links : (s.modCore n f).links = s.links := rfl
@[simp] theorem State.modCore_clusters : (s.modCore n f).clusters = s.clusters := rfl
@[simp] theorem State.modCore_events : (s.modCore n f).events = s.events := rfl
@[simp] theorem State.modCore_checked : (s.modCore n f).checked = s.checked := rfl
@[simp] theorem State.modCore_boot : (s.modCore n f).boot = s.boot := rfl
@[simp] theorem State.modCore_peerMem : (s.modCore n f).peerMem = s.peerMem := rfl
@[simp] theorem State.modCore_peerPz : (s.modCore n f).peerPz = s.peerPz := rfl
@[simp] theorem State.modCore_peerFail : (s.modCore n f).peerFail = s.peerFail := rfl
@[simp] theorem State.bump_mem : (s.bump).mem = s.mem := rfl
@[simp] theorem State.bump_pz : (s.bump).pz = s.pz := rfl
@[simp] theorem State.bump_tablePz : (s.bump).tablePz = s.tablePz := rfl
@[simp] theorem State.bump_dirtyA : (s.bump).dirtyA = s.dirtyA := rfl
@[simp] theorem State.bump_dirtyB : (s.bump).dirtyB = s.dirtyB := rfl
@[simp] theorem State.bump_cores : (s.bump).cores = s.cores := rfl
@[simp] theorem State.bump_cps : (s.bump).cps = s.cps := rfl
@[simp] theorem State.bump_cpBase : (s.bump).cpBase = s.cpBase := rfl
@[simp] theorem State.bump_cpLast : (s.bump).cpLast = s.cpLast := rfl
@[simp] theorem State.bump_cpFree : (s.bump).cpFree = s.cpFree := rfl
@[simp] theorem State.bump_here : (s.bump).here = s.here := rfl
@[simp] theorem State.bump_agenda : (s.bump).agenda = s.agenda := rfl
@[simp] theorem State.bump_fatal : (s.bump).fatal = s.fatal := rfl
@[simp] theorem State.bump_outbox : (s.bump).outbox = s.outbox := rfl
@[simp] theorem State.bump_ref : (s.bump).ref = s.ref := rfl
@[simp] theorem State.bump_contexts : (s.bump).contexts = s.contexts := rfl
@[simp] theorem State.bump_records : (s.bump).records = s.records := rfl
@[simp] theorem State.bump_accepted : (s.bump).accepted = s.accepted := rfl
@[simp] theorem State.bump_reserving : (s.bump).reserving = s.reserving := rfl
@[simp] theorem State.bump_cqs : (s.bump).cqs = s.cqs := rfl
@[simp] theorem State.bump_cqLast : (s.bump).cqLast = s.cqLast := rfl
@[simp] theorem State.bump_barriers : (s.bump).barriers = s.barriers := rfl
@[simp] theorem State.bump_ladles : (s.bump).ladles = s.ladles := rfl
@[simp] theorem State.bump_escs : (s.bump).escs = s.escs := rfl
@[simp] theorem State.bump_locks : (s.bump).locks = s.locks := rfl
@[simp] theorem State.bump_twins : (s.bump).twins = s.twins := rfl
@[simp] theorem State.bump_tlbHolds : (s.bump).tlbHolds = s.tlbHolds := rfl
@[simp] theorem State.bump_mbox : (s.bump).mbox = s.mbox := rfl
@[simp] theorem State.bump_msixMask : (s.bump).msixMask = s.msixMask := rfl
@[simp] theorem State.bump_msixPend : (s.bump).msixPend = s.msixPend := rfl
@[simp] theorem State.bump_msixTable : (s.bump).msixTable = s.msixTable := rfl
@[simp] theorem State.bump_chill : (s.bump).chill = s.chill := rfl
@[simp] theorem State.bump_starts : (s.bump).starts = s.starts := rfl
@[simp] theorem State.bump_recovery : (s.bump).recovery = s.recovery := rfl
@[simp] theorem State.bump_spe : (s.bump).spe = s.spe := rfl
@[simp] theorem State.bump_elog : (s.bump).elog = s.elog := rfl
@[simp] theorem State.bump_laneErrs : (s.bump).laneErrs = s.laneErrs := rfl
@[simp] theorem State.bump_trig : (s.bump).trig = s.trig := rfl
@[simp] theorem State.bump_links : (s.bump).links = s.links := rfl
@[simp] theorem State.bump_clusters : (s.bump).clusters = s.clusters := rfl
@[simp] theorem State.bump_events : (s.bump).events = s.events := rfl
@[simp] theorem State.bump_checked : (s.bump).checked = s.checked := rfl
@[simp] theorem State.bump_boot : (s.bump).boot = s.boot := rfl
@[simp] theorem State.bump_peerMem : (s.bump).peerMem = s.peerMem := rfl
@[simp] theorem State.bump_peerPz : (s.bump).peerPz = s.peerPz := rfl
@[simp] theorem State.bump_peerFail : (s.bump).peerFail = s.peerFail := rfl
@[simp] theorem State.send_mem : (s.send msg).mem = s.mem := rfl
@[simp] theorem State.send_pz : (s.send msg).pz = s.pz := rfl
@[simp] theorem State.send_tablePz : (s.send msg).tablePz = s.tablePz := rfl
@[simp] theorem State.send_dirtyA : (s.send msg).dirtyA = s.dirtyA := rfl
@[simp] theorem State.send_dirtyB : (s.send msg).dirtyB = s.dirtyB := rfl
@[simp] theorem State.send_cores : (s.send msg).cores = s.cores := rfl
@[simp] theorem State.send_cps : (s.send msg).cps = s.cps := rfl
@[simp] theorem State.send_cpBase : (s.send msg).cpBase = s.cpBase := rfl
@[simp] theorem State.send_cpLast : (s.send msg).cpLast = s.cpLast := rfl
@[simp] theorem State.send_cpFree : (s.send msg).cpFree = s.cpFree := rfl
@[simp] theorem State.send_here : (s.send msg).here = s.here := rfl
@[simp] theorem State.send_agenda : (s.send msg).agenda = s.agenda := rfl
@[simp] theorem State.send_fresh : (s.send msg).fresh = s.fresh := rfl
@[simp] theorem State.send_fatal : (s.send msg).fatal = s.fatal := rfl
@[simp] theorem State.send_ref : (s.send msg).ref = s.ref := rfl
@[simp] theorem State.send_contexts : (s.send msg).contexts = s.contexts := rfl
@[simp] theorem State.send_records : (s.send msg).records = s.records := rfl
@[simp] theorem State.send_accepted : (s.send msg).accepted = s.accepted := rfl
@[simp] theorem State.send_reserving : (s.send msg).reserving = s.reserving := rfl
@[simp] theorem State.send_cqs : (s.send msg).cqs = s.cqs := rfl
@[simp] theorem State.send_cqLast : (s.send msg).cqLast = s.cqLast := rfl
@[simp] theorem State.send_barriers : (s.send msg).barriers = s.barriers := rfl
@[simp] theorem State.send_ladles : (s.send msg).ladles = s.ladles := rfl
@[simp] theorem State.send_escs : (s.send msg).escs = s.escs := rfl
@[simp] theorem State.send_locks : (s.send msg).locks = s.locks := rfl
@[simp] theorem State.send_twins : (s.send msg).twins = s.twins := rfl
@[simp] theorem State.send_tlbHolds : (s.send msg).tlbHolds = s.tlbHolds := rfl
@[simp] theorem State.send_mbox : (s.send msg).mbox = s.mbox := rfl
@[simp] theorem State.send_msixMask : (s.send msg).msixMask = s.msixMask := rfl
@[simp] theorem State.send_msixPend : (s.send msg).msixPend = s.msixPend := rfl
@[simp] theorem State.send_msixTable : (s.send msg).msixTable = s.msixTable := rfl
@[simp] theorem State.send_chill : (s.send msg).chill = s.chill := rfl
@[simp] theorem State.send_starts : (s.send msg).starts = s.starts := rfl
@[simp] theorem State.send_recovery : (s.send msg).recovery = s.recovery := rfl
@[simp] theorem State.send_spe : (s.send msg).spe = s.spe := rfl
@[simp] theorem State.send_elog : (s.send msg).elog = s.elog := rfl
@[simp] theorem State.send_laneErrs : (s.send msg).laneErrs = s.laneErrs := rfl
@[simp] theorem State.send_trig : (s.send msg).trig = s.trig := rfl
@[simp] theorem State.send_links : (s.send msg).links = s.links := rfl
@[simp] theorem State.send_clusters : (s.send msg).clusters = s.clusters := rfl
@[simp] theorem State.send_events : (s.send msg).events = s.events := rfl
@[simp] theorem State.send_checked : (s.send msg).checked = s.checked := rfl
@[simp] theorem State.send_boot : (s.send msg).boot = s.boot := rfl
@[simp] theorem State.send_peerMem : (s.send msg).peerMem = s.peerMem := rfl
@[simp] theorem State.send_peerPz : (s.send msg).peerPz = s.peerPz := rfl
@[simp] theorem State.send_peerFail : (s.send msg).peerFail = s.peerFail := rfl
@[simp] theorem State.setContext_mem : (s.setContext x cx).mem = s.mem := rfl
@[simp] theorem State.setContext_pz : (s.setContext x cx).pz = s.pz := rfl
@[simp] theorem State.setContext_tablePz : (s.setContext x cx).tablePz = s.tablePz := rfl
@[simp] theorem State.setContext_dirtyA : (s.setContext x cx).dirtyA = s.dirtyA := rfl
@[simp] theorem State.setContext_dirtyB : (s.setContext x cx).dirtyB = s.dirtyB := rfl
@[simp] theorem State.setContext_cores : (s.setContext x cx).cores = s.cores := rfl
@[simp] theorem State.setContext_cps : (s.setContext x cx).cps = s.cps := rfl
@[simp] theorem State.setContext_cpBase : (s.setContext x cx).cpBase = s.cpBase := rfl
@[simp] theorem State.setContext_cpLast : (s.setContext x cx).cpLast = s.cpLast := rfl
@[simp] theorem State.setContext_cpFree : (s.setContext x cx).cpFree = s.cpFree := rfl
@[simp] theorem State.setContext_here : (s.setContext x cx).here = s.here := rfl
@[simp] theorem State.setContext_agenda : (s.setContext x cx).agenda = s.agenda := rfl
@[simp] theorem State.setContext_fresh : (s.setContext x cx).fresh = s.fresh := rfl
@[simp] theorem State.setContext_fatal : (s.setContext x cx).fatal = s.fatal := rfl
@[simp] theorem State.setContext_outbox : (s.setContext x cx).outbox = s.outbox := rfl
@[simp] theorem State.setContext_ref : (s.setContext x cx).ref = s.ref := rfl
@[simp] theorem State.setContext_records : (s.setContext x cx).records = s.records := rfl
@[simp] theorem State.setContext_accepted : (s.setContext x cx).accepted = s.accepted := rfl
@[simp] theorem State.setContext_reserving : (s.setContext x cx).reserving = s.reserving := rfl
@[simp] theorem State.setContext_cqs : (s.setContext x cx).cqs = s.cqs := rfl
@[simp] theorem State.setContext_cqLast : (s.setContext x cx).cqLast = s.cqLast := rfl
@[simp] theorem State.setContext_barriers : (s.setContext x cx).barriers = s.barriers := rfl
@[simp] theorem State.setContext_ladles : (s.setContext x cx).ladles = s.ladles := rfl
@[simp] theorem State.setContext_escs : (s.setContext x cx).escs = s.escs := rfl
@[simp] theorem State.setContext_locks : (s.setContext x cx).locks = s.locks := rfl
@[simp] theorem State.setContext_twins : (s.setContext x cx).twins = s.twins := rfl
@[simp] theorem State.setContext_tlbHolds : (s.setContext x cx).tlbHolds = s.tlbHolds := rfl
@[simp] theorem State.setContext_mbox : (s.setContext x cx).mbox = s.mbox := rfl
@[simp] theorem State.setContext_msixMask : (s.setContext x cx).msixMask = s.msixMask := rfl
@[simp] theorem State.setContext_msixPend : (s.setContext x cx).msixPend = s.msixPend := rfl
@[simp] theorem State.setContext_msixTable : (s.setContext x cx).msixTable = s.msixTable := rfl
@[simp] theorem State.setContext_chill : (s.setContext x cx).chill = s.chill := rfl
@[simp] theorem State.setContext_starts : (s.setContext x cx).starts = s.starts := rfl
@[simp] theorem State.setContext_recovery : (s.setContext x cx).recovery = s.recovery := rfl
@[simp] theorem State.setContext_spe : (s.setContext x cx).spe = s.spe := rfl
@[simp] theorem State.setContext_elog : (s.setContext x cx).elog = s.elog := rfl
@[simp] theorem State.setContext_laneErrs : (s.setContext x cx).laneErrs = s.laneErrs := rfl
@[simp] theorem State.setContext_trig : (s.setContext x cx).trig = s.trig := rfl
@[simp] theorem State.setContext_links : (s.setContext x cx).links = s.links := rfl
@[simp] theorem State.setContext_clusters : (s.setContext x cx).clusters = s.clusters := rfl
@[simp] theorem State.setContext_events : (s.setContext x cx).events = s.events := rfl
@[simp] theorem State.setContext_checked : (s.setContext x cx).checked = s.checked := rfl
@[simp] theorem State.setContext_boot : (s.setContext x cx).boot = s.boot := rfl
@[simp] theorem State.setContext_peerMem : (s.setContext x cx).peerMem = s.peerMem := rfl
@[simp] theorem State.setContext_peerPz : (s.setContext x cx).peerPz = s.peerPz := rfl
@[simp] theorem State.setContext_peerFail : (s.setContext x cx).peerFail = s.peerFail := rfl
@[simp] theorem State.setCluster_mem : (s.setCluster k v).mem = s.mem := rfl
@[simp] theorem State.setCluster_pz : (s.setCluster k v).pz = s.pz := rfl
@[simp] theorem State.setCluster_tablePz : (s.setCluster k v).tablePz = s.tablePz := rfl
@[simp] theorem State.setCluster_dirtyA : (s.setCluster k v).dirtyA = s.dirtyA := rfl
@[simp] theorem State.setCluster_dirtyB : (s.setCluster k v).dirtyB = s.dirtyB := rfl
@[simp] theorem State.setCluster_cores : (s.setCluster k v).cores = s.cores := rfl
@[simp] theorem State.setCluster_cps : (s.setCluster k v).cps = s.cps := rfl
@[simp] theorem State.setCluster_cpBase : (s.setCluster k v).cpBase = s.cpBase := rfl
@[simp] theorem State.setCluster_cpLast : (s.setCluster k v).cpLast = s.cpLast := rfl
@[simp] theorem State.setCluster_cpFree : (s.setCluster k v).cpFree = s.cpFree := rfl
@[simp] theorem State.setCluster_here : (s.setCluster k v).here = s.here := rfl
@[simp] theorem State.setCluster_agenda : (s.setCluster k v).agenda = s.agenda := rfl
@[simp] theorem State.setCluster_fresh : (s.setCluster k v).fresh = s.fresh := rfl
@[simp] theorem State.setCluster_fatal : (s.setCluster k v).fatal = s.fatal := rfl
@[simp] theorem State.setCluster_outbox : (s.setCluster k v).outbox = s.outbox := rfl
@[simp] theorem State.setCluster_ref : (s.setCluster k v).ref = s.ref := rfl
@[simp] theorem State.setCluster_contexts : (s.setCluster k v).contexts = s.contexts := rfl
@[simp] theorem State.setCluster_records : (s.setCluster k v).records = s.records := rfl
@[simp] theorem State.setCluster_accepted : (s.setCluster k v).accepted = s.accepted := rfl
@[simp] theorem State.setCluster_reserving : (s.setCluster k v).reserving = s.reserving := rfl
@[simp] theorem State.setCluster_cqs : (s.setCluster k v).cqs = s.cqs := rfl
@[simp] theorem State.setCluster_cqLast : (s.setCluster k v).cqLast = s.cqLast := rfl
@[simp] theorem State.setCluster_barriers : (s.setCluster k v).barriers = s.barriers := rfl
@[simp] theorem State.setCluster_ladles : (s.setCluster k v).ladles = s.ladles := rfl
@[simp] theorem State.setCluster_escs : (s.setCluster k v).escs = s.escs := rfl
@[simp] theorem State.setCluster_locks : (s.setCluster k v).locks = s.locks := rfl
@[simp] theorem State.setCluster_twins : (s.setCluster k v).twins = s.twins := rfl
@[simp] theorem State.setCluster_tlbHolds : (s.setCluster k v).tlbHolds = s.tlbHolds := rfl
@[simp] theorem State.setCluster_mbox : (s.setCluster k v).mbox = s.mbox := rfl
@[simp] theorem State.setCluster_msixMask : (s.setCluster k v).msixMask = s.msixMask := rfl
@[simp] theorem State.setCluster_msixPend : (s.setCluster k v).msixPend = s.msixPend := rfl
@[simp] theorem State.setCluster_msixTable : (s.setCluster k v).msixTable = s.msixTable := rfl
@[simp] theorem State.setCluster_chill : (s.setCluster k v).chill = s.chill := rfl
@[simp] theorem State.setCluster_starts : (s.setCluster k v).starts = s.starts := rfl
@[simp] theorem State.setCluster_recovery : (s.setCluster k v).recovery = s.recovery := rfl
@[simp] theorem State.setCluster_spe : (s.setCluster k v).spe = s.spe := rfl
@[simp] theorem State.setCluster_elog : (s.setCluster k v).elog = s.elog := rfl
@[simp] theorem State.setCluster_laneErrs : (s.setCluster k v).laneErrs = s.laneErrs := rfl
@[simp] theorem State.setCluster_trig : (s.setCluster k v).trig = s.trig := rfl
@[simp] theorem State.setCluster_links : (s.setCluster k v).links = s.links := rfl
@[simp] theorem State.setCluster_events : (s.setCluster k v).events = s.events := rfl
@[simp] theorem State.setCluster_checked : (s.setCluster k v).checked = s.checked := rfl
@[simp] theorem State.setCluster_boot : (s.setCluster k v).boot = s.boot := rfl
@[simp] theorem State.setCluster_peerMem : (s.setCluster k v).peerMem = s.peerMem := rfl
@[simp] theorem State.setCluster_peerPz : (s.setCluster k v).peerPz = s.peerPz := rfl
@[simp] theorem State.setCluster_peerFail : (s.setCluster k v).peerFail = s.peerFail := rfl
@[simp] theorem State.wrB_tablePz : (s.wrB a d p).tablePz = s.tablePz := rfl
@[simp] theorem State.wrB_cores : (s.wrB a d p).cores = s.cores := rfl
@[simp] theorem State.wrB_cps : (s.wrB a d p).cps = s.cps := rfl
@[simp] theorem State.wrB_cpBase : (s.wrB a d p).cpBase = s.cpBase := rfl
@[simp] theorem State.wrB_cpLast : (s.wrB a d p).cpLast = s.cpLast := rfl
@[simp] theorem State.wrB_cpFree : (s.wrB a d p).cpFree = s.cpFree := rfl
@[simp] theorem State.wrB_here : (s.wrB a d p).here = s.here := rfl
@[simp] theorem State.wrB_agenda : (s.wrB a d p).agenda = s.agenda := rfl
@[simp] theorem State.wrB_fresh : (s.wrB a d p).fresh = s.fresh := rfl
@[simp] theorem State.wrB_fatal : (s.wrB a d p).fatal = s.fatal := rfl
@[simp] theorem State.wrB_outbox : (s.wrB a d p).outbox = s.outbox := rfl
@[simp] theorem State.wrB_ref : (s.wrB a d p).ref = s.ref := rfl
@[simp] theorem State.wrB_contexts : (s.wrB a d p).contexts = s.contexts := rfl
@[simp] theorem State.wrB_records : (s.wrB a d p).records = s.records := rfl
@[simp] theorem State.wrB_accepted : (s.wrB a d p).accepted = s.accepted := rfl
@[simp] theorem State.wrB_reserving : (s.wrB a d p).reserving = s.reserving := rfl
@[simp] theorem State.wrB_cqs : (s.wrB a d p).cqs = s.cqs := rfl
@[simp] theorem State.wrB_cqLast : (s.wrB a d p).cqLast = s.cqLast := rfl
@[simp] theorem State.wrB_barriers : (s.wrB a d p).barriers = s.barriers := rfl
@[simp] theorem State.wrB_ladles : (s.wrB a d p).ladles = s.ladles := rfl
@[simp] theorem State.wrB_escs : (s.wrB a d p).escs = s.escs := rfl
@[simp] theorem State.wrB_locks : (s.wrB a d p).locks = s.locks := rfl
@[simp] theorem State.wrB_twins : (s.wrB a d p).twins = s.twins := rfl
@[simp] theorem State.wrB_tlbHolds : (s.wrB a d p).tlbHolds = s.tlbHolds := rfl
@[simp] theorem State.wrB_mbox : (s.wrB a d p).mbox = s.mbox := rfl
@[simp] theorem State.wrB_msixMask : (s.wrB a d p).msixMask = s.msixMask := rfl
@[simp] theorem State.wrB_msixPend : (s.wrB a d p).msixPend = s.msixPend := rfl
@[simp] theorem State.wrB_msixTable : (s.wrB a d p).msixTable = s.msixTable := rfl
@[simp] theorem State.wrB_chill : (s.wrB a d p).chill = s.chill := rfl
@[simp] theorem State.wrB_starts : (s.wrB a d p).starts = s.starts := rfl
@[simp] theorem State.wrB_recovery : (s.wrB a d p).recovery = s.recovery := rfl
@[simp] theorem State.wrB_spe : (s.wrB a d p).spe = s.spe := rfl
@[simp] theorem State.wrB_elog : (s.wrB a d p).elog = s.elog := rfl
@[simp] theorem State.wrB_laneErrs : (s.wrB a d p).laneErrs = s.laneErrs := rfl
@[simp] theorem State.wrB_trig : (s.wrB a d p).trig = s.trig := rfl
@[simp] theorem State.wrB_links : (s.wrB a d p).links = s.links := rfl
@[simp] theorem State.wrB_clusters : (s.wrB a d p).clusters = s.clusters := rfl
@[simp] theorem State.wrB_events : (s.wrB a d p).events = s.events := rfl
@[simp] theorem State.wrB_checked : (s.wrB a d p).checked = s.checked := rfl
@[simp] theorem State.wrB_boot : (s.wrB a d p).boot = s.boot := rfl
@[simp] theorem State.wrB_peerMem : (s.wrB a d p).peerMem = s.peerMem := rfl
@[simp] theorem State.wrB_peerPz : (s.wrB a d p).peerPz = s.peerPz := rfl
@[simp] theorem State.wrB_peerFail : (s.wrB a d p).peerFail = s.peerFail := rfl
@[simp] theorem State.copyBytes_tablePz : (s.copyBytes a b n).tablePz = s.tablePz := rfl
@[simp] theorem State.copyBytes_dirtyA : (s.copyBytes a b n).dirtyA = s.dirtyA := rfl
@[simp] theorem State.copyBytes_dirtyB : (s.copyBytes a b n).dirtyB = s.dirtyB := rfl
@[simp] theorem State.copyBytes_cores : (s.copyBytes a b n).cores = s.cores := rfl
@[simp] theorem State.copyBytes_cps : (s.copyBytes a b n).cps = s.cps := rfl
@[simp] theorem State.copyBytes_cpBase : (s.copyBytes a b n).cpBase = s.cpBase := rfl
@[simp] theorem State.copyBytes_cpLast : (s.copyBytes a b n).cpLast = s.cpLast := rfl
@[simp] theorem State.copyBytes_cpFree : (s.copyBytes a b n).cpFree = s.cpFree := rfl
@[simp] theorem State.copyBytes_here : (s.copyBytes a b n).here = s.here := rfl
@[simp] theorem State.copyBytes_agenda : (s.copyBytes a b n).agenda = s.agenda := rfl
@[simp] theorem State.copyBytes_fresh : (s.copyBytes a b n).fresh = s.fresh := rfl
@[simp] theorem State.copyBytes_fatal : (s.copyBytes a b n).fatal = s.fatal := rfl
@[simp] theorem State.copyBytes_outbox : (s.copyBytes a b n).outbox = s.outbox := rfl
@[simp] theorem State.copyBytes_ref : (s.copyBytes a b n).ref = s.ref := rfl
@[simp] theorem State.copyBytes_contexts : (s.copyBytes a b n).contexts = s.contexts := rfl
@[simp] theorem State.copyBytes_records : (s.copyBytes a b n).records = s.records := rfl
@[simp] theorem State.copyBytes_accepted : (s.copyBytes a b n).accepted = s.accepted := rfl
@[simp] theorem State.copyBytes_reserving : (s.copyBytes a b n).reserving = s.reserving := rfl
@[simp] theorem State.copyBytes_cqs : (s.copyBytes a b n).cqs = s.cqs := rfl
@[simp] theorem State.copyBytes_cqLast : (s.copyBytes a b n).cqLast = s.cqLast := rfl
@[simp] theorem State.copyBytes_barriers : (s.copyBytes a b n).barriers = s.barriers := rfl
@[simp] theorem State.copyBytes_ladles : (s.copyBytes a b n).ladles = s.ladles := rfl
@[simp] theorem State.copyBytes_escs : (s.copyBytes a b n).escs = s.escs := rfl
@[simp] theorem State.copyBytes_locks : (s.copyBytes a b n).locks = s.locks := rfl
@[simp] theorem State.copyBytes_twins : (s.copyBytes a b n).twins = s.twins := rfl
@[simp] theorem State.copyBytes_tlbHolds : (s.copyBytes a b n).tlbHolds = s.tlbHolds := rfl
@[simp] theorem State.copyBytes_mbox : (s.copyBytes a b n).mbox = s.mbox := rfl
@[simp] theorem State.copyBytes_msixMask : (s.copyBytes a b n).msixMask = s.msixMask := rfl
@[simp] theorem State.copyBytes_msixPend : (s.copyBytes a b n).msixPend = s.msixPend := rfl
@[simp] theorem State.copyBytes_msixTable : (s.copyBytes a b n).msixTable = s.msixTable := rfl
@[simp] theorem State.copyBytes_chill : (s.copyBytes a b n).chill = s.chill := rfl
@[simp] theorem State.copyBytes_starts : (s.copyBytes a b n).starts = s.starts := rfl
@[simp] theorem State.copyBytes_recovery : (s.copyBytes a b n).recovery = s.recovery := rfl
@[simp] theorem State.copyBytes_spe : (s.copyBytes a b n).spe = s.spe := rfl
@[simp] theorem State.copyBytes_elog : (s.copyBytes a b n).elog = s.elog := rfl
@[simp] theorem State.copyBytes_laneErrs : (s.copyBytes a b n).laneErrs = s.laneErrs := rfl
@[simp] theorem State.copyBytes_trig : (s.copyBytes a b n).trig = s.trig := rfl
@[simp] theorem State.copyBytes_links : (s.copyBytes a b n).links = s.links := rfl
@[simp] theorem State.copyBytes_clusters : (s.copyBytes a b n).clusters = s.clusters := rfl
@[simp] theorem State.copyBytes_events : (s.copyBytes a b n).events = s.events := rfl
@[simp] theorem State.copyBytes_checked : (s.copyBytes a b n).checked = s.checked := rfl
@[simp] theorem State.copyBytes_boot : (s.copyBytes a b n).boot = s.boot := rfl
@[simp] theorem State.copyBytes_peerMem : (s.copyBytes a b n).peerMem = s.peerMem := rfl
@[simp] theorem State.copyBytes_peerPz : (s.copyBytes a b n).peerPz = s.peerPz := rfl
@[simp] theorem State.copyBytes_peerFail : (s.copyBytes a b n).peerFail = s.peerFail := rfl
@[simp] theorem State.zeroBytes_tablePz : (s.zeroBytes a n).tablePz = s.tablePz := rfl
@[simp] theorem State.zeroBytes_dirtyA : (s.zeroBytes a n).dirtyA = s.dirtyA := rfl
@[simp] theorem State.zeroBytes_dirtyB : (s.zeroBytes a n).dirtyB = s.dirtyB := rfl
@[simp] theorem State.zeroBytes_cores : (s.zeroBytes a n).cores = s.cores := rfl
@[simp] theorem State.zeroBytes_cps : (s.zeroBytes a n).cps = s.cps := rfl
@[simp] theorem State.zeroBytes_cpBase : (s.zeroBytes a n).cpBase = s.cpBase := rfl
@[simp] theorem State.zeroBytes_cpLast : (s.zeroBytes a n).cpLast = s.cpLast := rfl
@[simp] theorem State.zeroBytes_cpFree : (s.zeroBytes a n).cpFree = s.cpFree := rfl
@[simp] theorem State.zeroBytes_here : (s.zeroBytes a n).here = s.here := rfl
@[simp] theorem State.zeroBytes_agenda : (s.zeroBytes a n).agenda = s.agenda := rfl
@[simp] theorem State.zeroBytes_fresh : (s.zeroBytes a n).fresh = s.fresh := rfl
@[simp] theorem State.zeroBytes_fatal : (s.zeroBytes a n).fatal = s.fatal := rfl
@[simp] theorem State.zeroBytes_outbox : (s.zeroBytes a n).outbox = s.outbox := rfl
@[simp] theorem State.zeroBytes_ref : (s.zeroBytes a n).ref = s.ref := rfl
@[simp] theorem State.zeroBytes_contexts : (s.zeroBytes a n).contexts = s.contexts := rfl
@[simp] theorem State.zeroBytes_records : (s.zeroBytes a n).records = s.records := rfl
@[simp] theorem State.zeroBytes_accepted : (s.zeroBytes a n).accepted = s.accepted := rfl
@[simp] theorem State.zeroBytes_reserving : (s.zeroBytes a n).reserving = s.reserving := rfl
@[simp] theorem State.zeroBytes_cqs : (s.zeroBytes a n).cqs = s.cqs := rfl
@[simp] theorem State.zeroBytes_cqLast : (s.zeroBytes a n).cqLast = s.cqLast := rfl
@[simp] theorem State.zeroBytes_barriers : (s.zeroBytes a n).barriers = s.barriers := rfl
@[simp] theorem State.zeroBytes_ladles : (s.zeroBytes a n).ladles = s.ladles := rfl
@[simp] theorem State.zeroBytes_escs : (s.zeroBytes a n).escs = s.escs := rfl
@[simp] theorem State.zeroBytes_locks : (s.zeroBytes a n).locks = s.locks := rfl
@[simp] theorem State.zeroBytes_twins : (s.zeroBytes a n).twins = s.twins := rfl
@[simp] theorem State.zeroBytes_tlbHolds : (s.zeroBytes a n).tlbHolds = s.tlbHolds := rfl
@[simp] theorem State.zeroBytes_mbox : (s.zeroBytes a n).mbox = s.mbox := rfl
@[simp] theorem State.zeroBytes_msixMask : (s.zeroBytes a n).msixMask = s.msixMask := rfl
@[simp] theorem State.zeroBytes_msixPend : (s.zeroBytes a n).msixPend = s.msixPend := rfl
@[simp] theorem State.zeroBytes_msixTable : (s.zeroBytes a n).msixTable = s.msixTable := rfl
@[simp] theorem State.zeroBytes_chill : (s.zeroBytes a n).chill = s.chill := rfl
@[simp] theorem State.zeroBytes_starts : (s.zeroBytes a n).starts = s.starts := rfl
@[simp] theorem State.zeroBytes_recovery : (s.zeroBytes a n).recovery = s.recovery := rfl
@[simp] theorem State.zeroBytes_spe : (s.zeroBytes a n).spe = s.spe := rfl
@[simp] theorem State.zeroBytes_elog : (s.zeroBytes a n).elog = s.elog := rfl
@[simp] theorem State.zeroBytes_laneErrs : (s.zeroBytes a n).laneErrs = s.laneErrs := rfl
@[simp] theorem State.zeroBytes_trig : (s.zeroBytes a n).trig = s.trig := rfl
@[simp] theorem State.zeroBytes_links : (s.zeroBytes a n).links = s.links := rfl
@[simp] theorem State.zeroBytes_clusters : (s.zeroBytes a n).clusters = s.clusters := rfl
@[simp] theorem State.zeroBytes_events : (s.zeroBytes a n).events = s.events := rfl
@[simp] theorem State.zeroBytes_checked : (s.zeroBytes a n).checked = s.checked := rfl
@[simp] theorem State.zeroBytes_boot : (s.zeroBytes a n).boot = s.boot := rfl
@[simp] theorem State.zeroBytes_peerMem : (s.zeroBytes a n).peerMem = s.peerMem := rfl
@[simp] theorem State.zeroBytes_peerPz : (s.zeroBytes a n).peerPz = s.peerPz := rfl
@[simp] theorem State.zeroBytes_peerFail : (s.zeroBytes a n).peerFail = s.peerFail := rfl
@[simp] theorem State.setUnit_mem : (s.setUnit u um).mem = s.mem := rfl
@[simp] theorem State.setUnit_pz : (s.setUnit u um).pz = s.pz := rfl
@[simp] theorem State.setUnit_tablePz : (s.setUnit u um).tablePz = s.tablePz := rfl
@[simp] theorem State.setUnit_dirtyA : (s.setUnit u um).dirtyA = s.dirtyA := rfl
@[simp] theorem State.setUnit_dirtyB : (s.setUnit u um).dirtyB = s.dirtyB := rfl
@[simp] theorem State.setUnit_cores : (s.setUnit u um).cores = s.cores := rfl
@[simp] theorem State.setUnit_cps : (s.setUnit u um).cps = s.cps := rfl
@[simp] theorem State.setUnit_cpBase : (s.setUnit u um).cpBase = s.cpBase := rfl
@[simp] theorem State.setUnit_cpLast : (s.setUnit u um).cpLast = s.cpLast := rfl
@[simp] theorem State.setUnit_cpFree : (s.setUnit u um).cpFree = s.cpFree := rfl
@[simp] theorem State.setUnit_here : (s.setUnit u um).here = s.here := rfl
@[simp] theorem State.setUnit_agenda : (s.setUnit u um).agenda = s.agenda := rfl
@[simp] theorem State.setUnit_fresh : (s.setUnit u um).fresh = s.fresh := rfl
@[simp] theorem State.setUnit_fatal : (s.setUnit u um).fatal = s.fatal := rfl
@[simp] theorem State.setUnit_outbox : (s.setUnit u um).outbox = s.outbox := rfl
@[simp] theorem State.setUnit_ref : (s.setUnit u um).ref = s.ref := rfl
@[simp] theorem State.setUnit_contexts : (s.setUnit u um).contexts = s.contexts := rfl
@[simp] theorem State.setUnit_records : (s.setUnit u um).records = s.records := rfl
@[simp] theorem State.setUnit_accepted : (s.setUnit u um).accepted = s.accepted := rfl
@[simp] theorem State.setUnit_reserving : (s.setUnit u um).reserving = s.reserving := rfl
@[simp] theorem State.setUnit_cqs : (s.setUnit u um).cqs = s.cqs := rfl
@[simp] theorem State.setUnit_cqLast : (s.setUnit u um).cqLast = s.cqLast := rfl
@[simp] theorem State.setUnit_barriers : (s.setUnit u um).barriers = s.barriers := rfl
@[simp] theorem State.setUnit_ladles : (s.setUnit u um).ladles = s.ladles := rfl
@[simp] theorem State.setUnit_escs : (s.setUnit u um).escs = s.escs := rfl
@[simp] theorem State.setUnit_locks : (s.setUnit u um).locks = s.locks := rfl
@[simp] theorem State.setUnit_twins : (s.setUnit u um).twins = s.twins := rfl
@[simp] theorem State.setUnit_tlbHolds : (s.setUnit u um).tlbHolds = s.tlbHolds := rfl
@[simp] theorem State.setUnit_mbox : (s.setUnit u um).mbox = s.mbox := rfl
@[simp] theorem State.setUnit_msixMask : (s.setUnit u um).msixMask = s.msixMask := rfl
@[simp] theorem State.setUnit_msixPend : (s.setUnit u um).msixPend = s.msixPend := rfl
@[simp] theorem State.setUnit_msixTable : (s.setUnit u um).msixTable = s.msixTable := rfl
@[simp] theorem State.setUnit_chill : (s.setUnit u um).chill = s.chill := rfl
@[simp] theorem State.setUnit_starts : (s.setUnit u um).starts = s.starts := rfl
@[simp] theorem State.setUnit_recovery : (s.setUnit u um).recovery = s.recovery := rfl
@[simp] theorem State.setUnit_elog : (s.setUnit u um).elog = s.elog := rfl
@[simp] theorem State.setUnit_laneErrs : (s.setUnit u um).laneErrs = s.laneErrs := rfl
@[simp] theorem State.setUnit_trig : (s.setUnit u um).trig = s.trig := rfl
@[simp] theorem State.setUnit_links : (s.setUnit u um).links = s.links := rfl
@[simp] theorem State.setUnit_clusters : (s.setUnit u um).clusters = s.clusters := rfl
@[simp] theorem State.setUnit_events : (s.setUnit u um).events = s.events := rfl
@[simp] theorem State.setUnit_checked : (s.setUnit u um).checked = s.checked := rfl
@[simp] theorem State.setUnit_boot : (s.setUnit u um).boot = s.boot := rfl
@[simp] theorem State.setUnit_peerMem : (s.setUnit u um).peerMem = s.peerMem := rfl
@[simp] theorem State.setUnit_peerPz : (s.setUnit u um).peerPz = s.peerPz := rfl
@[simp] theorem State.setUnit_peerFail : (s.setUnit u um).peerFail = s.peerFail := rfl
@[simp] theorem State.pass_mem : (s.pass m k).mem = s.mem := State.setAgent_mem _ _ _
@[simp] theorem State.pass_pz : (s.pass m k).pz = s.pz := State.setAgent_pz _ _ _
@[simp] theorem State.pass_tablePz : (s.pass m k).tablePz = s.tablePz := State.setAgent_tablePz _ _ _
@[simp] theorem State.pass_dirtyA : (s.pass m k).dirtyA = s.dirtyA := State.setAgent_dirtyA _ _ _
@[simp] theorem State.pass_dirtyB : (s.pass m k).dirtyB = s.dirtyB := State.setAgent_dirtyB _ _ _
@[simp] theorem State.pass_cpBase : (s.pass m k).cpBase = s.cpBase := State.setAgent_cpBase _ _ _
@[simp] theorem State.pass_cpLast : (s.pass m k).cpLast = s.cpLast := State.setAgent_cpLast _ _ _
@[simp] theorem State.pass_cpFree : (s.pass m k).cpFree = s.cpFree := State.setAgent_cpFree _ _ _
@[simp] theorem State.pass_here : (s.pass m k).here = s.here := State.setAgent_here _ _ _
@[simp] theorem State.pass_agenda : (s.pass m k).agenda = s.agenda := State.setAgent_agenda _ _ _
@[simp] theorem State.pass_fresh : (s.pass m k).fresh = s.fresh := State.setAgent_fresh _ _ _
@[simp] theorem State.pass_fatal : (s.pass m k).fatal = s.fatal := State.setAgent_fatal _ _ _
@[simp] theorem State.pass_outbox : (s.pass m k).outbox = s.outbox := State.setAgent_outbox _ _ _
@[simp] theorem State.pass_contexts : (s.pass m k).contexts = s.contexts := State.setAgent_contexts _ _ _
@[simp] theorem State.pass_records : (s.pass m k).records = s.records := State.setAgent_records _ _ _
@[simp] theorem State.pass_accepted : (s.pass m k).accepted = s.accepted := State.setAgent_accepted _ _ _
@[simp] theorem State.pass_reserving : (s.pass m k).reserving = s.reserving := State.setAgent_reserving _ _ _
@[simp] theorem State.pass_cqs : (s.pass m k).cqs = s.cqs := State.setAgent_cqs _ _ _
@[simp] theorem State.pass_cqLast : (s.pass m k).cqLast = s.cqLast := State.setAgent_cqLast _ _ _
@[simp] theorem State.pass_barriers : (s.pass m k).barriers = s.barriers := State.setAgent_barriers _ _ _
@[simp] theorem State.pass_ladles : (s.pass m k).ladles = s.ladles := State.setAgent_ladles _ _ _
@[simp] theorem State.pass_escs : (s.pass m k).escs = s.escs := State.setAgent_escs _ _ _
@[simp] theorem State.pass_locks : (s.pass m k).locks = s.locks := State.setAgent_locks _ _ _
@[simp] theorem State.pass_twins : (s.pass m k).twins = s.twins := State.setAgent_twins _ _ _
@[simp] theorem State.pass_tlbHolds : (s.pass m k).tlbHolds = s.tlbHolds := State.setAgent_tlbHolds _ _ _
@[simp] theorem State.pass_mbox : (s.pass m k).mbox = s.mbox := State.setAgent_mbox _ _ _
@[simp] theorem State.pass_msixMask : (s.pass m k).msixMask = s.msixMask := State.setAgent_msixMask _ _ _
@[simp] theorem State.pass_msixPend : (s.pass m k).msixPend = s.msixPend := State.setAgent_msixPend _ _ _
@[simp] theorem State.pass_msixTable : (s.pass m k).msixTable = s.msixTable := State.setAgent_msixTable _ _ _
@[simp] theorem State.pass_chill : (s.pass m k).chill = s.chill := State.setAgent_chill _ _ _
@[simp] theorem State.pass_starts : (s.pass m k).starts = s.starts := State.setAgent_starts _ _ _
@[simp] theorem State.pass_recovery : (s.pass m k).recovery = s.recovery := State.setAgent_recovery _ _ _
@[simp] theorem State.pass_spe : (s.pass m k).spe = s.spe := State.setAgent_spe _ _ _
@[simp] theorem State.pass_elog : (s.pass m k).elog = s.elog := State.setAgent_elog _ _ _
@[simp] theorem State.pass_laneErrs : (s.pass m k).laneErrs = s.laneErrs := State.setAgent_laneErrs _ _ _
@[simp] theorem State.pass_trig : (s.pass m k).trig = s.trig := State.setAgent_trig _ _ _
@[simp] theorem State.pass_links : (s.pass m k).links = s.links := State.setAgent_links _ _ _
@[simp] theorem State.pass_clusters : (s.pass m k).clusters = s.clusters := State.setAgent_clusters _ _ _
@[simp] theorem State.pass_events : (s.pass m k).events = s.events := State.setAgent_events _ _ _
@[simp] theorem State.pass_checked : (s.pass m k).checked = s.checked := State.setAgent_checked _ _ _
@[simp] theorem State.pass_boot : (s.pass m k).boot = s.boot := State.setAgent_boot _ _ _
@[simp] theorem State.pass_peerMem : (s.pass m k).peerMem = s.peerMem := State.setAgent_peerMem _ _ _
@[simp] theorem State.pass_peerPz : (s.pass m k).peerPz = s.peerPz := State.setAgent_peerPz _ _ _
@[simp] theorem State.pass_peerFail : (s.pass m k).peerFail = s.peerFail := State.setAgent_peerFail _ _ _

end StateUpdates

@[simp] theorem State.wrB_mem (s : State) (a : Nat) (d : List Byte) (p : Bool) : (s.wrB a d p).mem = s.mem.wrN a d := rfl
@[simp] theorem State.copyBytes_mem (s : State) (a b n : Nat) : (s.copyBytes a b n).mem = s.mem.copyRange a b n := rfl
@[simp] theorem State.zeroBytes_mem (s : State) (a n : Nat) : (s.zeroBytes a n).mem = s.mem.paste a n [] := rfl
@[simp] theorem State.bump_fresh (s : State) : s.bump.fresh = s.fresh + 1 := rfl
@[simp] theorem State.send_outbox (s : State) (m : Message) : (s.send m).outbox = s.outbox ++ [m] := rfl

/-- The agent that issues after it was replaced. -/
@[simp] theorem State.cur_setCur (s : State) (c : Core) : (s.setCur c).cur = c := by
  rw [State.cur_eq, State.setCur_here]; exact State.agent_setAgent_same _ _ _

@[simp] theorem State.cur_modCur (s : State) (f : Core → Core) : (s.modCur f).cur = f s.cur := State.cur_setCur _ _

@[simp] theorem State.cur_bump (s : State) : s.bump.cur = s.cur := rfl

@[simp] theorem State.agent_modCur_same (s : State) (f : Core → Core) : (s.modCur f).agent s.here = f s.cur :=
  State.agent_setAgent_same _ _ _

theorem State.agent_modCur_other (s : State) (f : Core → Core) (m : Mover) (h : m ≠ s.here) : (s.modCur f).agent m = s.agent m :=
  State.agent_setAgent_other _ _ _ _ h

@[simp] theorem State.core_modCore_same (s : State) (n : Nat) (f : Core → Core) : (s.modCore n f).core n = f (s.core n) :=
  State.core_setCore_same _ _ _

theorem State.core_modCore_other (s : State) (n j : Nat) (f : Core → Core) (h : j ≠ n) : (s.modCore n f).core j = s.core j :=
  State.core_setCore_other _ _ _ _ h

@[simp] theorem State.context_setContext_same (s : State) (x : Nat) (c : Context) : (s.setContext x c).context x = some c := by
  simp [State.context, State.setContext]

theorem State.context_setContext_other (s : State) (x y : Nat) (c : Context) (h : y ≠ x) :
    (s.setContext x c).context y = s.context y := by
  simp only [State.context, State.setContext]; exact tget_tset_other _ _ _ _ _ h

/-! Updates of an agent. -/

section CoreUpdates
variable (c : Core) (e : Engine) (n m lat occ : Nat) (t : Tok) (l : List QEntry) (bits : BitVec 4096) (pl : List Place) (te : TagEntry)
variable (q : Seq) (w : Write) (k : HoldKind) (v : W64) (pv pm : W32) (pz : Option PRec)

@[simp] theorem Core.setTok_s : (c.setTok n t).s = c.s := rfl
@[simp] theorem Core.setTok_p : (c.setTok n t).p = c.p := rfl
@[simp] theorem Core.setTok_q : (c.setTok n t).q = c.q := rfl
@[simp] theorem Core.setTok_k0 : (c.setTok n t).k0 = c.k0 := rfl
@[simp] theorem Core.setTok_od : (c.setTok n t).od = c.od := rfl
@[simp] theorem Core.setTok_cd : (c.setTok n t).cd = c.cd := rfl
@[simp] theorem Core.setTok_cm : (c.setTok n t).cm = c.cm := rfl
@[simp] theorem Core.setTok_post : (c.setTok n t).post = c.post := rfl
@[simp] theorem Core.setTok_tg : (c.setTok n t).tg = c.tg := rfl
@[simp] theorem Core.setTok_fpflags : (c.setTok n t).fpflags = c.fpflags := rfl
@[simp] theorem Core.setTok_fpctl : (c.setTok n t).fpctl = c.fpctl := rfl
@[simp] theorem Core.setTok_acclive : (c.setTok n t).acclive = c.acclive := rfl
@[simp] theorem Core.setTok_srseed : (c.setTok n t).srseed = c.srseed := rfl
@[simp] theorem Core.setTok_spmap : (c.setTok n t).spmap = c.spmap := rfl
@[simp] theorem Core.setTok_shape : (c.setTok n t).shape = c.shape := rfl
@[simp] theorem Core.setTok_shapePz : (c.setTok n t).shapePz = c.shapePz := rfl
@[simp] theorem Core.setTok_exc : (c.setTok n t).exc = c.exc := rfl
@[simp] theorem Core.setTok_mprog : (c.setTok n t).mprog = c.mprog := rfl
@[simp] theorem Core.setTok_batches : (c.setTok n t).batches = c.batches := rfl
@[simp] theorem Core.setTok_slots : (c.setTok n t).slots = c.slots := rfl
@[simp] theorem Core.setTok_es : (c.setTok n t).es = c.es := rfl
@[simp] theorem Core.setTok_el : (c.setTok n t).el = c.el := rfl
@[simp] theorem Core.setTok_ex : (c.setTok n t).ex = c.ex := rfl
@[simp] theorem Core.setTok_ew : (c.setTok n t).ew = c.ew := rfl
@[simp] theorem Core.setTok_fetch : (c.setTok n t).fetch = c.fetch := rfl
@[simp] theorem Core.setTok_plane0 : (c.setTok n t).plane0 = c.plane0 := rfl
@[simp] theorem Core.setTok_plane1 : (c.setTok n t).plane1 = c.plane1 := rfl
@[simp] theorem Core.setTok_active : (c.setTok n t).active = c.active := rfl
@[simp] theorem Core.setTok_shadow : (c.setTok n t).shadow = c.shadow := rfl
@[simp] theorem Core.setTok_now : (c.setTok n t).now = c.now := rfl
@[simp] theorem Core.setTok_turn : (c.setTok n t).turn = c.turn := rfl
@[simp] theorem Core.setTok_frozen : (c.setTok n t).frozen = c.frozen := rfl
@[simp] theorem Core.setTok_blockedBy : (c.setTok n t).blockedBy = c.blockedBy := rfl
@[simp] theorem Core.setTok_tref : (c.setTok n t).tref = c.tref := rfl
@[simp] theorem Core.setTok_tun : (c.setTok n t).tun = c.tun := rfl
@[simp] theorem Core.setTok_div : (c.setTok n t).div = c.div := rfl
@[simp] theorem Core.setTok_pend : (c.setTok n t).pend = c.pend := rfl
@[simp] theorem Core.setTok_holds : (c.setTok n t).holds = c.holds := rfl
@[simp] theorem Core.setTok_mats : (c.setTok n t).mats = c.mats := rfl
@[simp] theorem Core.setTok_arms : (c.setTok n t).arms = c.arms := rfl
@[simp] theorem Core.setTok_copies : (c.setTok n t).copies = c.copies := rfl
@[simp] theorem Core.setTok_copySeq : (c.setTok n t).copySeq = c.copySeq := rfl
@[simp] theorem Core.setTok_banks : (c.setTok n t).banks = c.banks := rfl
@[simp] theorem Core.setTok_stores : (c.setTok n t).stores = c.stores := rfl
@[simp] theorem Core.setTok_lates : (c.setTok n t).lates = c.lates := rfl
@[simp] theorem Core.setTok_shown : (c.setTok n t).shown = c.shown := rfl
@[simp] theorem Core.setTok_fences : (c.setTok n t).fences = c.fences := rfl
@[simp] theorem Core.setTok_stuck : (c.setTok n t).stuck = c.stuck := rfl
@[simp] theorem Core.setTok_inbox : (c.setTok n t).inbox = c.inbox := rfl
@[simp] theorem Core.setTok_l1 : (c.setTok n t).l1 = c.l1 := rfl
@[simp] theorem Core.setTok_tlb : (c.setTok n t).tlb = c.tlb := rfl
@[simp] theorem Core.setTok_ncmds : (c.setTok n t).ncmds = c.ncmds := rfl
@[simp] theorem Core.setTok_nrun : (c.setTok n t).nrun = c.nrun := rfl
@[simp] theorem Core.setTok_riser : (c.setTok n t).riser = c.riser := rfl
@[simp] theorem Core.setTok_voided : (c.setTok n t).voided = c.voided := rfl
@[simp] theorem Core.setTok_nbWaits : (c.setTok n t).nbWaits = c.nbWaits := rfl
@[simp] theorem Core.setTok_nbNew : (c.setTok n t).nbNew = c.nbNew := rfl
@[simp] theorem Core.setTok_heldArr : (c.setTok n t).heldArr = c.heldArr := rfl
@[simp] theorem Core.setTok_credits : (c.setTok n t).credits = c.credits := rfl
@[simp] theorem Core.setTok_refusals : (c.setTok n t).refusals = c.refusals := rfl
@[simp] theorem Core.setTok_nrec : (c.setTok n t).nrec = c.nrec := rfl
@[simp] theorem Core.setTok_mode : (c.setTok n t).mode = c.mode := rfl
@[simp] theorem Core.setTok_tr : (c.setTok n t).tr = c.tr := rfl
@[simp] theorem Core.setTok_snap : (c.setTok n t).snap = c.snap := rfl
@[simp] theorem Core.setTok_asyncs : (c.setTok n t).asyncs = c.asyncs := rfl
@[simp] theorem Core.setTok_escSeq : (c.setTok n t).escSeq = c.escSeq := rfl
@[simp] theorem Core.setTok_ctx : (c.setTok n t).ctx = c.ctx := rfl
@[simp] theorem Core.setTok_run : (c.setTok n t).run = c.run := rfl
@[simp] theorem Core.setTok_iter : (c.setTok n t).iter = c.iter := rfl
@[simp] theorem Core.setTok_began : (c.setTok n t).began = c.began := rfl
@[simp] theorem Core.setTok_powered : (c.setTok n t).powered = c.powered := rfl
@[simp] theorem Core.setTok_offline : (c.setTok n t).offline = c.offline := rfl
@[simp] theorem Core.setTok_chilled : (c.setTok n t).chilled = c.chilled := rfl
@[simp] theorem Core.setTok_pre : (c.setTok n t).pre = c.pre := rfl
@[simp] theorem Core.setTok_goes : (c.setTok n t).goes = c.goes := rfl
@[simp] theorem Core.setTok_plane : (c.setTok n t).plane = c.plane := rfl
@[simp] theorem Core.setTok_spent : (c.setTok n t).spent = c.spent := rfl
@[simp] theorem Core.setTok_epoch : (c.setTok n t).epoch = c.epoch := rfl
@[simp] theorem Core.setTok_ordinal : (c.setTok n t).ordinal = c.ordinal := rfl
@[simp] theorem Core.setTok_back : (c.setTok n t).back = c.back := rfl
@[simp] theorem Core.setTok_moved : (c.setTok n t).moved = c.moved := rfl
@[simp] theorem Core.setQueue_s : (c.setQueue n l).s = c.s := rfl
@[simp] theorem Core.setQueue_p : (c.setQueue n l).p = c.p := rfl
@[simp] theorem Core.setQueue_k : (c.setQueue n l).k = c.k := rfl
@[simp] theorem Core.setQueue_k0 : (c.setQueue n l).k0 = c.k0 := rfl
@[simp] theorem Core.setQueue_od : (c.setQueue n l).od = c.od := rfl
@[simp] theorem Core.setQueue_cd : (c.setQueue n l).cd = c.cd := rfl
@[simp] theorem Core.setQueue_cm : (c.setQueue n l).cm = c.cm := rfl
@[simp] theorem Core.setQueue_post : (c.setQueue n l).post = c.post := rfl
@[simp] theorem Core.setQueue_tg : (c.setQueue n l).tg = c.tg := rfl
@[simp] theorem Core.setQueue_fpflags : (c.setQueue n l).fpflags = c.fpflags := rfl
@[simp] theorem Core.setQueue_fpctl : (c.setQueue n l).fpctl = c.fpctl := rfl
@[simp] theorem Core.setQueue_acclive : (c.setQueue n l).acclive = c.acclive := rfl
@[simp] theorem Core.setQueue_srseed : (c.setQueue n l).srseed = c.srseed := rfl
@[simp] theorem Core.setQueue_spmap : (c.setQueue n l).spmap = c.spmap := rfl
@[simp] theorem Core.setQueue_shape : (c.setQueue n l).shape = c.shape := rfl
@[simp] theorem Core.setQueue_shapePz : (c.setQueue n l).shapePz = c.shapePz := rfl
@[simp] theorem Core.setQueue_exc : (c.setQueue n l).exc = c.exc := rfl
@[simp] theorem Core.setQueue_mprog : (c.setQueue n l).mprog = c.mprog := rfl
@[simp] theorem Core.setQueue_batches : (c.setQueue n l).batches = c.batches := rfl
@[simp] theorem Core.setQueue_slots : (c.setQueue n l).slots = c.slots := rfl
@[simp] theorem Core.setQueue_es : (c.setQueue n l).es = c.es := rfl
@[simp] theorem Core.setQueue_el : (c.setQueue n l).el = c.el := rfl
@[simp] theorem Core.setQueue_ex : (c.setQueue n l).ex = c.ex := rfl
@[simp] theorem Core.setQueue_ew : (c.setQueue n l).ew = c.ew := rfl
@[simp] theorem Core.setQueue_fetch : (c.setQueue n l).fetch = c.fetch := rfl
@[simp] theorem Core.setQueue_plane0 : (c.setQueue n l).plane0 = c.plane0 := rfl
@[simp] theorem Core.setQueue_plane1 : (c.setQueue n l).plane1 = c.plane1 := rfl
@[simp] theorem Core.setQueue_active : (c.setQueue n l).active = c.active := rfl
@[simp] theorem Core.setQueue_shadow : (c.setQueue n l).shadow = c.shadow := rfl
@[simp] theorem Core.setQueue_now : (c.setQueue n l).now = c.now := rfl
@[simp] theorem Core.setQueue_turn : (c.setQueue n l).turn = c.turn := rfl
@[simp] theorem Core.setQueue_frozen : (c.setQueue n l).frozen = c.frozen := rfl
@[simp] theorem Core.setQueue_blockedBy : (c.setQueue n l).blockedBy = c.blockedBy := rfl
@[simp] theorem Core.setQueue_tref : (c.setQueue n l).tref = c.tref := rfl
@[simp] theorem Core.setQueue_tun : (c.setQueue n l).tun = c.tun := rfl
@[simp] theorem Core.setQueue_div : (c.setQueue n l).div = c.div := rfl
@[simp] theorem Core.setQueue_pend : (c.setQueue n l).pend = c.pend := rfl
@[simp] theorem Core.setQueue_holds : (c.setQueue n l).holds = c.holds := rfl
@[simp] theorem Core.setQueue_mats : (c.setQueue n l).mats = c.mats := rfl
@[simp] theorem Core.setQueue_arms : (c.setQueue n l).arms = c.arms := rfl
@[simp] theorem Core.setQueue_copies : (c.setQueue n l).copies = c.copies := rfl
@[simp] theorem Core.setQueue_copySeq : (c.setQueue n l).copySeq = c.copySeq := rfl
@[simp] theorem Core.setQueue_banks : (c.setQueue n l).banks = c.banks := rfl
@[simp] theorem Core.setQueue_stores : (c.setQueue n l).stores = c.stores := rfl
@[simp] theorem Core.setQueue_lates : (c.setQueue n l).lates = c.lates := rfl
@[simp] theorem Core.setQueue_shown : (c.setQueue n l).shown = c.shown := rfl
@[simp] theorem Core.setQueue_fences : (c.setQueue n l).fences = c.fences := rfl
@[simp] theorem Core.setQueue_stuck : (c.setQueue n l).stuck = c.stuck := rfl
@[simp] theorem Core.setQueue_inbox : (c.setQueue n l).inbox = c.inbox := rfl
@[simp] theorem Core.setQueue_l1 : (c.setQueue n l).l1 = c.l1 := rfl
@[simp] theorem Core.setQueue_tlb : (c.setQueue n l).tlb = c.tlb := rfl
@[simp] theorem Core.setQueue_ncmds : (c.setQueue n l).ncmds = c.ncmds := rfl
@[simp] theorem Core.setQueue_nrun : (c.setQueue n l).nrun = c.nrun := rfl
@[simp] theorem Core.setQueue_riser : (c.setQueue n l).riser = c.riser := rfl
@[simp] theorem Core.setQueue_voided : (c.setQueue n l).voided = c.voided := rfl
@[simp] theorem Core.setQueue_nbWaits : (c.setQueue n l).nbWaits = c.nbWaits := rfl
@[simp] theorem Core.setQueue_nbNew : (c.setQueue n l).nbNew = c.nbNew := rfl
@[simp] theorem Core.setQueue_heldArr : (c.setQueue n l).heldArr = c.heldArr := rfl
@[simp] theorem Core.setQueue_credits : (c.setQueue n l).credits = c.credits := rfl
@[simp] theorem Core.setQueue_refusals : (c.setQueue n l).refusals = c.refusals := rfl
@[simp] theorem Core.setQueue_nrec : (c.setQueue n l).nrec = c.nrec := rfl
@[simp] theorem Core.setQueue_mode : (c.setQueue n l).mode = c.mode := rfl
@[simp] theorem Core.setQueue_tr : (c.setQueue n l).tr = c.tr := rfl
@[simp] theorem Core.setQueue_snap : (c.setQueue n l).snap = c.snap := rfl
@[simp] theorem Core.setQueue_asyncs : (c.setQueue n l).asyncs = c.asyncs := rfl
@[simp] theorem Core.setQueue_escSeq : (c.setQueue n l).escSeq = c.escSeq := rfl
@[simp] theorem Core.setQueue_ctx : (c.setQueue n l).ctx = c.ctx := rfl
@[simp] theorem Core.setQueue_run : (c.setQueue n l).run = c.run := rfl
@[simp] theorem Core.setQueue_iter : (c.setQueue n l).iter = c.iter := rfl
@[simp] theorem Core.setQueue_began : (c.setQueue n l).began = c.began := rfl
@[simp] theorem Core.setQueue_powered : (c.setQueue n l).powered = c.powered := rfl
@[simp] theorem Core.setQueue_offline : (c.setQueue n l).offline = c.offline := rfl
@[simp] theorem Core.setQueue_chilled : (c.setQueue n l).chilled = c.chilled := rfl
@[simp] theorem Core.setQueue_pre : (c.setQueue n l).pre = c.pre := rfl
@[simp] theorem Core.setQueue_goes : (c.setQueue n l).goes = c.goes := rfl
@[simp] theorem Core.setQueue_plane : (c.setQueue n l).plane = c.plane := rfl
@[simp] theorem Core.setQueue_spent : (c.setQueue n l).spent = c.spent := rfl
@[simp] theorem Core.setQueue_epoch : (c.setQueue n l).epoch = c.epoch := rfl
@[simp] theorem Core.setQueue_ordinal : (c.setQueue n l).ordinal = c.ordinal := rfl
@[simp] theorem Core.setQueue_back : (c.setQueue n l).back = c.back := rfl
@[simp] theorem Core.setQueue_moved : (c.setQueue n l).moved = c.moved := rfl
@[simp] theorem Core.setMap_s : (c.setMap m bits).s = c.s := rfl
@[simp] theorem Core.setMap_p : (c.setMap m bits).p = c.p := rfl
@[simp] theorem Core.setMap_q : (c.setMap m bits).q = c.q := rfl
@[simp] theorem Core.setMap_k : (c.setMap m bits).k = c.k := rfl
@[simp] theorem Core.setMap_k0 : (c.setMap m bits).k0 = c.k0 := rfl
@[simp] theorem Core.setMap_od : (c.setMap m bits).od = c.od := rfl
@[simp] theorem Core.setMap_cd : (c.setMap m bits).cd = c.cd := rfl
@[simp] theorem Core.setMap_post : (c.setMap m bits).post = c.post := rfl
@[simp] theorem Core.setMap_tg : (c.setMap m bits).tg = c.tg := rfl
@[simp] theorem Core.setMap_fpflags : (c.setMap m bits).fpflags = c.fpflags := rfl
@[simp] theorem Core.setMap_fpctl : (c.setMap m bits).fpctl = c.fpctl := rfl
@[simp] theorem Core.setMap_acclive : (c.setMap m bits).acclive = c.acclive := rfl
@[simp] theorem Core.setMap_srseed : (c.setMap m bits).srseed = c.srseed := rfl
@[simp] theorem Core.setMap_spmap : (c.setMap m bits).spmap = c.spmap := rfl
@[simp] theorem Core.setMap_shape : (c.setMap m bits).shape = c.shape := rfl
@[simp] theorem Core.setMap_shapePz : (c.setMap m bits).shapePz = c.shapePz := rfl
@[simp] theorem Core.setMap_exc : (c.setMap m bits).exc = c.exc := rfl
@[simp] theorem Core.setMap_mprog : (c.setMap m bits).mprog = c.mprog := rfl
@[simp] theorem Core.setMap_batches : (c.setMap m bits).batches = c.batches := rfl
@[simp] theorem Core.setMap_slots : (c.setMap m bits).slots = c.slots := rfl
@[simp] theorem Core.setMap_es : (c.setMap m bits).es = c.es := rfl
@[simp] theorem Core.setMap_el : (c.setMap m bits).el = c.el := rfl
@[simp] theorem Core.setMap_ex : (c.setMap m bits).ex = c.ex := rfl
@[simp] theorem Core.setMap_ew : (c.setMap m bits).ew = c.ew := rfl
@[simp] theorem Core.setMap_fetch : (c.setMap m bits).fetch = c.fetch := rfl
@[simp] theorem Core.setMap_plane0 : (c.setMap m bits).plane0 = c.plane0 := rfl
@[simp] theorem Core.setMap_plane1 : (c.setMap m bits).plane1 = c.plane1 := rfl
@[simp] theorem Core.setMap_active : (c.setMap m bits).active = c.active := rfl
@[simp] theorem Core.setMap_shadow : (c.setMap m bits).shadow = c.shadow := rfl
@[simp] theorem Core.setMap_now : (c.setMap m bits).now = c.now := rfl
@[simp] theorem Core.setMap_turn : (c.setMap m bits).turn = c.turn := rfl
@[simp] theorem Core.setMap_frozen : (c.setMap m bits).frozen = c.frozen := rfl
@[simp] theorem Core.setMap_blockedBy : (c.setMap m bits).blockedBy = c.blockedBy := rfl
@[simp] theorem Core.setMap_tref : (c.setMap m bits).tref = c.tref := rfl
@[simp] theorem Core.setMap_tun : (c.setMap m bits).tun = c.tun := rfl
@[simp] theorem Core.setMap_div : (c.setMap m bits).div = c.div := rfl
@[simp] theorem Core.setMap_pend : (c.setMap m bits).pend = c.pend := rfl
@[simp] theorem Core.setMap_holds : (c.setMap m bits).holds = c.holds := rfl
@[simp] theorem Core.setMap_mats : (c.setMap m bits).mats = c.mats := rfl
@[simp] theorem Core.setMap_arms : (c.setMap m bits).arms = c.arms := rfl
@[simp] theorem Core.setMap_copies : (c.setMap m bits).copies = c.copies := rfl
@[simp] theorem Core.setMap_copySeq : (c.setMap m bits).copySeq = c.copySeq := rfl
@[simp] theorem Core.setMap_banks : (c.setMap m bits).banks = c.banks := rfl
@[simp] theorem Core.setMap_stores : (c.setMap m bits).stores = c.stores := rfl
@[simp] theorem Core.setMap_lates : (c.setMap m bits).lates = c.lates := rfl
@[simp] theorem Core.setMap_shown : (c.setMap m bits).shown = c.shown := rfl
@[simp] theorem Core.setMap_fences : (c.setMap m bits).fences = c.fences := rfl
@[simp] theorem Core.setMap_stuck : (c.setMap m bits).stuck = c.stuck := rfl
@[simp] theorem Core.setMap_inbox : (c.setMap m bits).inbox = c.inbox := rfl
@[simp] theorem Core.setMap_l1 : (c.setMap m bits).l1 = c.l1 := rfl
@[simp] theorem Core.setMap_tlb : (c.setMap m bits).tlb = c.tlb := rfl
@[simp] theorem Core.setMap_ncmds : (c.setMap m bits).ncmds = c.ncmds := rfl
@[simp] theorem Core.setMap_nrun : (c.setMap m bits).nrun = c.nrun := rfl
@[simp] theorem Core.setMap_riser : (c.setMap m bits).riser = c.riser := rfl
@[simp] theorem Core.setMap_voided : (c.setMap m bits).voided = c.voided := rfl
@[simp] theorem Core.setMap_nbWaits : (c.setMap m bits).nbWaits = c.nbWaits := rfl
@[simp] theorem Core.setMap_nbNew : (c.setMap m bits).nbNew = c.nbNew := rfl
@[simp] theorem Core.setMap_heldArr : (c.setMap m bits).heldArr = c.heldArr := rfl
@[simp] theorem Core.setMap_credits : (c.setMap m bits).credits = c.credits := rfl
@[simp] theorem Core.setMap_refusals : (c.setMap m bits).refusals = c.refusals := rfl
@[simp] theorem Core.setMap_nrec : (c.setMap m bits).nrec = c.nrec := rfl
@[simp] theorem Core.setMap_mode : (c.setMap m bits).mode = c.mode := rfl
@[simp] theorem Core.setMap_tr : (c.setMap m bits).tr = c.tr := rfl
@[simp] theorem Core.setMap_snap : (c.setMap m bits).snap = c.snap := rfl
@[simp] theorem Core.setMap_asyncs : (c.setMap m bits).asyncs = c.asyncs := rfl
@[simp] theorem Core.setMap_escSeq : (c.setMap m bits).escSeq = c.escSeq := rfl
@[simp] theorem Core.setMap_ctx : (c.setMap m bits).ctx = c.ctx := rfl
@[simp] theorem Core.setMap_run : (c.setMap m bits).run = c.run := rfl
@[simp] theorem Core.setMap_iter : (c.setMap m bits).iter = c.iter := rfl
@[simp] theorem Core.setMap_began : (c.setMap m bits).began = c.began := rfl
@[simp] theorem Core.setMap_powered : (c.setMap m bits).powered = c.powered := rfl
@[simp] theorem Core.setMap_offline : (c.setMap m bits).offline = c.offline := rfl
@[simp] theorem Core.setMap_chilled : (c.setMap m bits).chilled = c.chilled := rfl
@[simp] theorem Core.setMap_pre : (c.setMap m bits).pre = c.pre := rfl
@[simp] theorem Core.setMap_goes : (c.setMap m bits).goes = c.goes := rfl
@[simp] theorem Core.setMap_plane : (c.setMap m bits).plane = c.plane := rfl
@[simp] theorem Core.setMap_spent : (c.setMap m bits).spent = c.spent := rfl
@[simp] theorem Core.setMap_epoch : (c.setMap m bits).epoch = c.epoch := rfl
@[simp] theorem Core.setMap_ordinal : (c.setMap m bits).ordinal = c.ordinal := rfl
@[simp] theorem Core.setMap_back : (c.setMap m bits).back = c.back := rfl
@[simp] theorem Core.setMap_moved : (c.setMap m bits).moved = c.moved := rfl
@[simp] theorem Core.setPosts_s : (c.setPosts m pl).s = c.s := rfl
@[simp] theorem Core.setPosts_p : (c.setPosts m pl).p = c.p := rfl
@[simp] theorem Core.setPosts_q : (c.setPosts m pl).q = c.q := rfl
@[simp] theorem Core.setPosts_k : (c.setPosts m pl).k = c.k := rfl
@[simp] theorem Core.setPosts_k0 : (c.setPosts m pl).k0 = c.k0 := rfl
@[simp] theorem Core.setPosts_od : (c.setPosts m pl).od = c.od := rfl
@[simp] theorem Core.setPosts_cd : (c.setPosts m pl).cd = c.cd := rfl
@[simp] theorem Core.setPosts_cm : (c.setPosts m pl).cm = c.cm := rfl
@[simp] theorem Core.setPosts_tg : (c.setPosts m pl).tg = c.tg := rfl
@[simp] theorem Core.setPosts_fpflags : (c.setPosts m pl).fpflags = c.fpflags := rfl
@[simp] theorem Core.setPosts_fpctl : (c.setPosts m pl).fpctl = c.fpctl := rfl
@[simp] theorem Core.setPosts_acclive : (c.setPosts m pl).acclive = c.acclive := rfl
@[simp] theorem Core.setPosts_srseed : (c.setPosts m pl).srseed = c.srseed := rfl
@[simp] theorem Core.setPosts_spmap : (c.setPosts m pl).spmap = c.spmap := rfl
@[simp] theorem Core.setPosts_shape : (c.setPosts m pl).shape = c.shape := rfl
@[simp] theorem Core.setPosts_shapePz : (c.setPosts m pl).shapePz = c.shapePz := rfl
@[simp] theorem Core.setPosts_exc : (c.setPosts m pl).exc = c.exc := rfl
@[simp] theorem Core.setPosts_mprog : (c.setPosts m pl).mprog = c.mprog := rfl
@[simp] theorem Core.setPosts_batches : (c.setPosts m pl).batches = c.batches := rfl
@[simp] theorem Core.setPosts_slots : (c.setPosts m pl).slots = c.slots := rfl
@[simp] theorem Core.setPosts_es : (c.setPosts m pl).es = c.es := rfl
@[simp] theorem Core.setPosts_el : (c.setPosts m pl).el = c.el := rfl
@[simp] theorem Core.setPosts_ex : (c.setPosts m pl).ex = c.ex := rfl
@[simp] theorem Core.setPosts_ew : (c.setPosts m pl).ew = c.ew := rfl
@[simp] theorem Core.setPosts_fetch : (c.setPosts m pl).fetch = c.fetch := rfl
@[simp] theorem Core.setPosts_plane0 : (c.setPosts m pl).plane0 = c.plane0 := rfl
@[simp] theorem Core.setPosts_plane1 : (c.setPosts m pl).plane1 = c.plane1 := rfl
@[simp] theorem Core.setPosts_active : (c.setPosts m pl).active = c.active := rfl
@[simp] theorem Core.setPosts_shadow : (c.setPosts m pl).shadow = c.shadow := rfl
@[simp] theorem Core.setPosts_now : (c.setPosts m pl).now = c.now := rfl
@[simp] theorem Core.setPosts_turn : (c.setPosts m pl).turn = c.turn := rfl
@[simp] theorem Core.setPosts_frozen : (c.setPosts m pl).frozen = c.frozen := rfl
@[simp] theorem Core.setPosts_blockedBy : (c.setPosts m pl).blockedBy = c.blockedBy := rfl
@[simp] theorem Core.setPosts_tref : (c.setPosts m pl).tref = c.tref := rfl
@[simp] theorem Core.setPosts_tun : (c.setPosts m pl).tun = c.tun := rfl
@[simp] theorem Core.setPosts_div : (c.setPosts m pl).div = c.div := rfl
@[simp] theorem Core.setPosts_pend : (c.setPosts m pl).pend = c.pend := rfl
@[simp] theorem Core.setPosts_holds : (c.setPosts m pl).holds = c.holds := rfl
@[simp] theorem Core.setPosts_mats : (c.setPosts m pl).mats = c.mats := rfl
@[simp] theorem Core.setPosts_arms : (c.setPosts m pl).arms = c.arms := rfl
@[simp] theorem Core.setPosts_copies : (c.setPosts m pl).copies = c.copies := rfl
@[simp] theorem Core.setPosts_copySeq : (c.setPosts m pl).copySeq = c.copySeq := rfl
@[simp] theorem Core.setPosts_banks : (c.setPosts m pl).banks = c.banks := rfl
@[simp] theorem Core.setPosts_stores : (c.setPosts m pl).stores = c.stores := rfl
@[simp] theorem Core.setPosts_lates : (c.setPosts m pl).lates = c.lates := rfl
@[simp] theorem Core.setPosts_shown : (c.setPosts m pl).shown = c.shown := rfl
@[simp] theorem Core.setPosts_fences : (c.setPosts m pl).fences = c.fences := rfl
@[simp] theorem Core.setPosts_stuck : (c.setPosts m pl).stuck = c.stuck := rfl
@[simp] theorem Core.setPosts_inbox : (c.setPosts m pl).inbox = c.inbox := rfl
@[simp] theorem Core.setPosts_l1 : (c.setPosts m pl).l1 = c.l1 := rfl
@[simp] theorem Core.setPosts_tlb : (c.setPosts m pl).tlb = c.tlb := rfl
@[simp] theorem Core.setPosts_ncmds : (c.setPosts m pl).ncmds = c.ncmds := rfl
@[simp] theorem Core.setPosts_nrun : (c.setPosts m pl).nrun = c.nrun := rfl
@[simp] theorem Core.setPosts_riser : (c.setPosts m pl).riser = c.riser := rfl
@[simp] theorem Core.setPosts_voided : (c.setPosts m pl).voided = c.voided := rfl
@[simp] theorem Core.setPosts_nbWaits : (c.setPosts m pl).nbWaits = c.nbWaits := rfl
@[simp] theorem Core.setPosts_nbNew : (c.setPosts m pl).nbNew = c.nbNew := rfl
@[simp] theorem Core.setPosts_heldArr : (c.setPosts m pl).heldArr = c.heldArr := rfl
@[simp] theorem Core.setPosts_credits : (c.setPosts m pl).credits = c.credits := rfl
@[simp] theorem Core.setPosts_refusals : (c.setPosts m pl).refusals = c.refusals := rfl
@[simp] theorem Core.setPosts_nrec : (c.setPosts m pl).nrec = c.nrec := rfl
@[simp] theorem Core.setPosts_mode : (c.setPosts m pl).mode = c.mode := rfl
@[simp] theorem Core.setPosts_tr : (c.setPosts m pl).tr = c.tr := rfl
@[simp] theorem Core.setPosts_snap : (c.setPosts m pl).snap = c.snap := rfl
@[simp] theorem Core.setPosts_asyncs : (c.setPosts m pl).asyncs = c.asyncs := rfl
@[simp] theorem Core.setPosts_escSeq : (c.setPosts m pl).escSeq = c.escSeq := rfl
@[simp] theorem Core.setPosts_ctx : (c.setPosts m pl).ctx = c.ctx := rfl
@[simp] theorem Core.setPosts_run : (c.setPosts m pl).run = c.run := rfl
@[simp] theorem Core.setPosts_iter : (c.setPosts m pl).iter = c.iter := rfl
@[simp] theorem Core.setPosts_began : (c.setPosts m pl).began = c.began := rfl
@[simp] theorem Core.setPosts_powered : (c.setPosts m pl).powered = c.powered := rfl
@[simp] theorem Core.setPosts_offline : (c.setPosts m pl).offline = c.offline := rfl
@[simp] theorem Core.setPosts_chilled : (c.setPosts m pl).chilled = c.chilled := rfl
@[simp] theorem Core.setPosts_pre : (c.setPosts m pl).pre = c.pre := rfl
@[simp] theorem Core.setPosts_goes : (c.setPosts m pl).goes = c.goes := rfl
@[simp] theorem Core.setPosts_plane : (c.setPosts m pl).plane = c.plane := rfl
@[simp] theorem Core.setPosts_spent : (c.setPosts m pl).spent = c.spent := rfl
@[simp] theorem Core.setPosts_epoch : (c.setPosts m pl).epoch = c.epoch := rfl
@[simp] theorem Core.setPosts_ordinal : (c.setPosts m pl).ordinal = c.ordinal := rfl
@[simp] theorem Core.setPosts_back : (c.setPosts m pl).back = c.back := rfl
@[simp] theorem Core.setPosts_moved : (c.setPosts m pl).moved = c.moved := rfl
@[simp] theorem Core.setTag_s : (c.setTag m te).s = c.s := rfl
@[simp] theorem Core.setTag_p : (c.setTag m te).p = c.p := rfl
@[simp] theorem Core.setTag_q : (c.setTag m te).q = c.q := rfl
@[simp] theorem Core.setTag_k : (c.setTag m te).k = c.k := rfl
@[simp] theorem Core.setTag_k0 : (c.setTag m te).k0 = c.k0 := rfl
@[simp] theorem Core.setTag_od : (c.setTag m te).od = c.od := rfl
@[simp] theorem Core.setTag_cd : (c.setTag m te).cd = c.cd := rfl
@[simp] theorem Core.setTag_cm : (c.setTag m te).cm = c.cm := rfl
@[simp] theorem Core.setTag_post : (c.setTag m te).post = c.post := rfl
@[simp] theorem Core.setTag_fpflags : (c.setTag m te).fpflags = c.fpflags := rfl
@[simp] theorem Core.setTag_fpctl : (c.setTag m te).fpctl = c.fpctl := rfl
@[simp] theorem Core.setTag_acclive : (c.setTag m te).acclive = c.acclive := rfl
@[simp] theorem Core.setTag_srseed : (c.setTag m te).srseed = c.srseed := rfl
@[simp] theorem Core.setTag_spmap : (c.setTag m te).spmap = c.spmap := rfl
@[simp] theorem Core.setTag_shape : (c.setTag m te).shape = c.shape := rfl
@[simp] theorem Core.setTag_shapePz : (c.setTag m te).shapePz = c.shapePz := rfl
@[simp] theorem Core.setTag_exc : (c.setTag m te).exc = c.exc := rfl
@[simp] theorem Core.setTag_mprog : (c.setTag m te).mprog = c.mprog := rfl
@[simp] theorem Core.setTag_batches : (c.setTag m te).batches = c.batches := rfl
@[simp] theorem Core.setTag_slots : (c.setTag m te).slots = c.slots := rfl
@[simp] theorem Core.setTag_es : (c.setTag m te).es = c.es := rfl
@[simp] theorem Core.setTag_el : (c.setTag m te).el = c.el := rfl
@[simp] theorem Core.setTag_ex : (c.setTag m te).ex = c.ex := rfl
@[simp] theorem Core.setTag_ew : (c.setTag m te).ew = c.ew := rfl
@[simp] theorem Core.setTag_fetch : (c.setTag m te).fetch = c.fetch := rfl
@[simp] theorem Core.setTag_plane0 : (c.setTag m te).plane0 = c.plane0 := rfl
@[simp] theorem Core.setTag_plane1 : (c.setTag m te).plane1 = c.plane1 := rfl
@[simp] theorem Core.setTag_active : (c.setTag m te).active = c.active := rfl
@[simp] theorem Core.setTag_shadow : (c.setTag m te).shadow = c.shadow := rfl
@[simp] theorem Core.setTag_now : (c.setTag m te).now = c.now := rfl
@[simp] theorem Core.setTag_turn : (c.setTag m te).turn = c.turn := rfl
@[simp] theorem Core.setTag_frozen : (c.setTag m te).frozen = c.frozen := rfl
@[simp] theorem Core.setTag_blockedBy : (c.setTag m te).blockedBy = c.blockedBy := rfl
@[simp] theorem Core.setTag_tref : (c.setTag m te).tref = c.tref := rfl
@[simp] theorem Core.setTag_tun : (c.setTag m te).tun = c.tun := rfl
@[simp] theorem Core.setTag_div : (c.setTag m te).div = c.div := rfl
@[simp] theorem Core.setTag_pend : (c.setTag m te).pend = c.pend := rfl
@[simp] theorem Core.setTag_holds : (c.setTag m te).holds = c.holds := rfl
@[simp] theorem Core.setTag_mats : (c.setTag m te).mats = c.mats := rfl
@[simp] theorem Core.setTag_arms : (c.setTag m te).arms = c.arms := rfl
@[simp] theorem Core.setTag_copies : (c.setTag m te).copies = c.copies := rfl
@[simp] theorem Core.setTag_copySeq : (c.setTag m te).copySeq = c.copySeq := rfl
@[simp] theorem Core.setTag_banks : (c.setTag m te).banks = c.banks := rfl
@[simp] theorem Core.setTag_stores : (c.setTag m te).stores = c.stores := rfl
@[simp] theorem Core.setTag_lates : (c.setTag m te).lates = c.lates := rfl
@[simp] theorem Core.setTag_shown : (c.setTag m te).shown = c.shown := rfl
@[simp] theorem Core.setTag_fences : (c.setTag m te).fences = c.fences := rfl
@[simp] theorem Core.setTag_stuck : (c.setTag m te).stuck = c.stuck := rfl
@[simp] theorem Core.setTag_inbox : (c.setTag m te).inbox = c.inbox := rfl
@[simp] theorem Core.setTag_l1 : (c.setTag m te).l1 = c.l1 := rfl
@[simp] theorem Core.setTag_tlb : (c.setTag m te).tlb = c.tlb := rfl
@[simp] theorem Core.setTag_ncmds : (c.setTag m te).ncmds = c.ncmds := rfl
@[simp] theorem Core.setTag_nrun : (c.setTag m te).nrun = c.nrun := rfl
@[simp] theorem Core.setTag_riser : (c.setTag m te).riser = c.riser := rfl
@[simp] theorem Core.setTag_voided : (c.setTag m te).voided = c.voided := rfl
@[simp] theorem Core.setTag_nbWaits : (c.setTag m te).nbWaits = c.nbWaits := rfl
@[simp] theorem Core.setTag_nbNew : (c.setTag m te).nbNew = c.nbNew := rfl
@[simp] theorem Core.setTag_heldArr : (c.setTag m te).heldArr = c.heldArr := rfl
@[simp] theorem Core.setTag_credits : (c.setTag m te).credits = c.credits := rfl
@[simp] theorem Core.setTag_refusals : (c.setTag m te).refusals = c.refusals := rfl
@[simp] theorem Core.setTag_nrec : (c.setTag m te).nrec = c.nrec := rfl
@[simp] theorem Core.setTag_mode : (c.setTag m te).mode = c.mode := rfl
@[simp] theorem Core.setTag_tr : (c.setTag m te).tr = c.tr := rfl
@[simp] theorem Core.setTag_snap : (c.setTag m te).snap = c.snap := rfl
@[simp] theorem Core.setTag_asyncs : (c.setTag m te).asyncs = c.asyncs := rfl
@[simp] theorem Core.setTag_escSeq : (c.setTag m te).escSeq = c.escSeq := rfl
@[simp] theorem Core.setTag_ctx : (c.setTag m te).ctx = c.ctx := rfl
@[simp] theorem Core.setTag_run : (c.setTag m te).run = c.run := rfl
@[simp] theorem Core.setTag_iter : (c.setTag m te).iter = c.iter := rfl
@[simp] theorem Core.setTag_began : (c.setTag m te).began = c.began := rfl
@[simp] theorem Core.setTag_powered : (c.setTag m te).powered = c.powered := rfl
@[simp] theorem Core.setTag_offline : (c.setTag m te).offline = c.offline := rfl
@[simp] theorem Core.setTag_chilled : (c.setTag m te).chilled = c.chilled := rfl
@[simp] theorem Core.setTag_pre : (c.setTag m te).pre = c.pre := rfl
@[simp] theorem Core.setTag_goes : (c.setTag m te).goes = c.goes := rfl
@[simp] theorem Core.setTag_plane : (c.setTag m te).plane = c.plane := rfl
@[simp] theorem Core.setTag_spent : (c.setTag m te).spent = c.spent := rfl
@[simp] theorem Core.setTag_epoch : (c.setTag m te).epoch = c.epoch := rfl
@[simp] theorem Core.setTag_ordinal : (c.setTag m te).ordinal = c.ordinal := rfl
@[simp] theorem Core.setTag_back : (c.setTag m te).back = c.back := rfl
@[simp] theorem Core.setTag_moved : (c.setTag m te).moved = c.moved := rfl
@[simp] theorem Core.setSeq_s : (c.setSeq e q).s = c.s := by cases e <;> rfl
@[simp] theorem Core.setSeq_p : (c.setSeq e q).p = c.p := by cases e <;> rfl
@[simp] theorem Core.setSeq_q : (c.setSeq e q).q = c.q := by cases e <;> rfl
@[simp] theorem Core.setSeq_k : (c.setSeq e q).k = c.k := by cases e <;> rfl
@[simp] theorem Core.setSeq_k0 : (c.setSeq e q).k0 = c.k0 := by cases e <;> rfl
@[simp] theorem Core.setSeq_od : (c.setSeq e q).od = c.od := by cases e <;> rfl
@[simp] theorem Core.setSeq_cd : (c.setSeq e q).cd = c.cd := by cases e <;> rfl
@[simp] theorem Core.setSeq_cm : (c.setSeq e q).cm = c.cm := by cases e <;> rfl
@[simp] theorem Core.setSeq_post : (c.setSeq e q).post = c.post := by cases e <;> rfl
@[simp] theorem Core.setSeq_tg : (c.setSeq e q).tg = c.tg := by cases e <;> rfl
@[simp] theorem Core.setSeq_fpflags : (c.setSeq e q).fpflags = c.fpflags := by cases e <;> rfl
@[simp] theorem Core.setSeq_fpctl : (c.setSeq e q).fpctl = c.fpctl := by cases e <;> rfl
@[simp] theorem Core.setSeq_acclive : (c.setSeq e q).acclive = c.acclive := by cases e <;> rfl
@[simp] theorem Core.setSeq_srseed : (c.setSeq e q).srseed = c.srseed := by cases e <;> rfl
@[simp] theorem Core.setSeq_spmap : (c.setSeq e q).spmap = c.spmap := by cases e <;> rfl
@[simp] theorem Core.setSeq_shape : (c.setSeq e q).shape = c.shape := by cases e <;> rfl
@[simp] theorem Core.setSeq_shapePz : (c.setSeq e q).shapePz = c.shapePz := by cases e <;> rfl
@[simp] theorem Core.setSeq_exc : (c.setSeq e q).exc = c.exc := by cases e <;> rfl
@[simp] theorem Core.setSeq_mprog : (c.setSeq e q).mprog = c.mprog := by cases e <;> rfl
@[simp] theorem Core.setSeq_batches : (c.setSeq e q).batches = c.batches := by cases e <;> rfl
@[simp] theorem Core.setSeq_slots : (c.setSeq e q).slots = c.slots := by cases e <;> rfl
@[simp] theorem Core.setSeq_fetch : (c.setSeq e q).fetch = c.fetch := by cases e <;> rfl
@[simp] theorem Core.setSeq_plane0 : (c.setSeq e q).plane0 = c.plane0 := by cases e <;> rfl
@[simp] theorem Core.setSeq_plane1 : (c.setSeq e q).plane1 = c.plane1 := by cases e <;> rfl
@[simp] theorem Core.setSeq_active : (c.setSeq e q).active = c.active := by cases e <;> rfl
@[simp] theorem Core.setSeq_shadow : (c.setSeq e q).shadow = c.shadow := by cases e <;> rfl
@[simp] theorem Core.setSeq_now : (c.setSeq e q).now = c.now := by cases e <;> rfl
@[simp] theorem Core.setSeq_turn : (c.setSeq e q).turn = c.turn := by cases e <;> rfl
@[simp] theorem Core.setSeq_frozen : (c.setSeq e q).frozen = c.frozen := by cases e <;> rfl
@[simp] theorem Core.setSeq_blockedBy : (c.setSeq e q).blockedBy = c.blockedBy := by cases e <;> rfl
@[simp] theorem Core.setSeq_tref : (c.setSeq e q).tref = c.tref := by cases e <;> rfl
@[simp] theorem Core.setSeq_tun : (c.setSeq e q).tun = c.tun := by cases e <;> rfl
@[simp] theorem Core.setSeq_div : (c.setSeq e q).div = c.div := by cases e <;> rfl
@[simp] theorem Core.setSeq_pend : (c.setSeq e q).pend = c.pend := by cases e <;> rfl
@[simp] theorem Core.setSeq_holds : (c.setSeq e q).holds = c.holds := by cases e <;> rfl
@[simp] theorem Core.setSeq_mats : (c.setSeq e q).mats = c.mats := by cases e <;> rfl
@[simp] theorem Core.setSeq_arms : (c.setSeq e q).arms = c.arms := by cases e <;> rfl
@[simp] theorem Core.setSeq_copies : (c.setSeq e q).copies = c.copies := by cases e <;> rfl
@[simp] theorem Core.setSeq_copySeq : (c.setSeq e q).copySeq = c.copySeq := by cases e <;> rfl
@[simp] theorem Core.setSeq_banks : (c.setSeq e q).banks = c.banks := by cases e <;> rfl
@[simp] theorem Core.setSeq_stores : (c.setSeq e q).stores = c.stores := by cases e <;> rfl
@[simp] theorem Core.setSeq_lates : (c.setSeq e q).lates = c.lates := by cases e <;> rfl
@[simp] theorem Core.setSeq_shown : (c.setSeq e q).shown = c.shown := by cases e <;> rfl
@[simp] theorem Core.setSeq_fences : (c.setSeq e q).fences = c.fences := by cases e <;> rfl
@[simp] theorem Core.setSeq_stuck : (c.setSeq e q).stuck = c.stuck := by cases e <;> rfl
@[simp] theorem Core.setSeq_inbox : (c.setSeq e q).inbox = c.inbox := by cases e <;> rfl
@[simp] theorem Core.setSeq_l1 : (c.setSeq e q).l1 = c.l1 := by cases e <;> rfl
@[simp] theorem Core.setSeq_tlb : (c.setSeq e q).tlb = c.tlb := by cases e <;> rfl
@[simp] theorem Core.setSeq_ncmds : (c.setSeq e q).ncmds = c.ncmds := by cases e <;> rfl
@[simp] theorem Core.setSeq_nrun : (c.setSeq e q).nrun = c.nrun := by cases e <;> rfl
@[simp] theorem Core.setSeq_riser : (c.setSeq e q).riser = c.riser := by cases e <;> rfl
@[simp] theorem Core.setSeq_voided : (c.setSeq e q).voided = c.voided := by cases e <;> rfl
@[simp] theorem Core.setSeq_nbWaits : (c.setSeq e q).nbWaits = c.nbWaits := by cases e <;> rfl
@[simp] theorem Core.setSeq_nbNew : (c.setSeq e q).nbNew = c.nbNew := by cases e <;> rfl
@[simp] theorem Core.setSeq_heldArr : (c.setSeq e q).heldArr = c.heldArr := by cases e <;> rfl
@[simp] theorem Core.setSeq_credits : (c.setSeq e q).credits = c.credits := by cases e <;> rfl
@[simp] theorem Core.setSeq_refusals : (c.setSeq e q).refusals = c.refusals := by cases e <;> rfl
@[simp] theorem Core.setSeq_nrec : (c.setSeq e q).nrec = c.nrec := by cases e <;> rfl
@[simp] theorem Core.setSeq_mode : (c.setSeq e q).mode = c.mode := by cases e <;> rfl
@[simp] theorem Core.setSeq_tr : (c.setSeq e q).tr = c.tr := by cases e <;> rfl
@[simp] theorem Core.setSeq_snap : (c.setSeq e q).snap = c.snap := by cases e <;> rfl
@[simp] theorem Core.setSeq_asyncs : (c.setSeq e q).asyncs = c.asyncs := by cases e <;> rfl
@[simp] theorem Core.setSeq_escSeq : (c.setSeq e q).escSeq = c.escSeq := by cases e <;> rfl
@[simp] theorem Core.setSeq_ctx : (c.setSeq e q).ctx = c.ctx := by cases e <;> rfl
@[simp] theorem Core.setSeq_run : (c.setSeq e q).run = c.run := by cases e <;> rfl
@[simp] theorem Core.setSeq_iter : (c.setSeq e q).iter = c.iter := by cases e <;> rfl
@[simp] theorem Core.setSeq_began : (c.setSeq e q).began = c.began := by cases e <;> rfl
@[simp] theorem Core.setSeq_powered : (c.setSeq e q).powered = c.powered := by cases e <;> rfl
@[simp] theorem Core.setSeq_offline : (c.setSeq e q).offline = c.offline := by cases e <;> rfl
@[simp] theorem Core.setSeq_chilled : (c.setSeq e q).chilled = c.chilled := by cases e <;> rfl
@[simp] theorem Core.setSeq_pre : (c.setSeq e q).pre = c.pre := by cases e <;> rfl
@[simp] theorem Core.setSeq_goes : (c.setSeq e q).goes = c.goes := by cases e <;> rfl
@[simp] theorem Core.setSeq_plane : (c.setSeq e q).plane = c.plane := by cases e <;> rfl
@[simp] theorem Core.setSeq_spent : (c.setSeq e q).spent = c.spent := by cases e <;> rfl
@[simp] theorem Core.setSeq_epoch : (c.setSeq e q).epoch = c.epoch := by cases e <;> rfl
@[simp] theorem Core.setSeq_ordinal : (c.setSeq e q).ordinal = c.ordinal := by cases e <;> rfl
@[simp] theorem Core.setSeq_back : (c.setSeq e q).back = c.back := by cases e <;> rfl
@[simp] theorem Core.setSeq_moved : (c.setSeq e q).moved = c.moved := by cases e <;> rfl
@[simp] theorem Core.emit_s : (c.emit e lat w).s = c.s := rfl
@[simp] theorem Core.emit_p : (c.emit e lat w).p = c.p := rfl
@[simp] theorem Core.emit_q : (c.emit e lat w).q = c.q := rfl
@[simp] theorem Core.emit_k : (c.emit e lat w).k = c.k := rfl
@[simp] theorem Core.emit_k0 : (c.emit e lat w).k0 = c.k0 := rfl
@[simp] theorem Core.emit_od : (c.emit e lat w).od = c.od := rfl
@[simp] theorem Core.emit_cd : (c.emit e lat w).cd = c.cd := rfl
@[simp] theorem Core.emit_cm : (c.emit e lat w).cm = c.cm := rfl
@[simp] theorem Core.emit_post : (c.emit e lat w).post = c.post := rfl
@[simp] theorem Core.emit_tg : (c.emit e lat w).tg = c.tg := rfl
@[simp] theorem Core.emit_fpflags : (c.emit e lat w).fpflags = c.fpflags := rfl
@[simp] theorem Core.emit_fpctl : (c.emit e lat w).fpctl = c.fpctl := rfl
@[simp] theorem Core.emit_acclive : (c.emit e lat w).acclive = c.acclive := rfl
@[simp] theorem Core.emit_srseed : (c.emit e lat w).srseed = c.srseed := rfl
@[simp] theorem Core.emit_spmap : (c.emit e lat w).spmap = c.spmap := rfl
@[simp] theorem Core.emit_shape : (c.emit e lat w).shape = c.shape := rfl
@[simp] theorem Core.emit_shapePz : (c.emit e lat w).shapePz = c.shapePz := rfl
@[simp] theorem Core.emit_exc : (c.emit e lat w).exc = c.exc := rfl
@[simp] theorem Core.emit_mprog : (c.emit e lat w).mprog = c.mprog := rfl
@[simp] theorem Core.emit_batches : (c.emit e lat w).batches = c.batches := rfl
@[simp] theorem Core.emit_slots : (c.emit e lat w).slots = c.slots := rfl
@[simp] theorem Core.emit_es : (c.emit e lat w).es = c.es := rfl
@[simp] theorem Core.emit_el : (c.emit e lat w).el = c.el := rfl
@[simp] theorem Core.emit_ex : (c.emit e lat w).ex = c.ex := rfl
@[simp] theorem Core.emit_ew : (c.emit e lat w).ew = c.ew := rfl
@[simp] theorem Core.emit_fetch : (c.emit e lat w).fetch = c.fetch := rfl
@[simp] theorem Core.emit_plane0 : (c.emit e lat w).plane0 = c.plane0 := rfl
@[simp] theorem Core.emit_plane1 : (c.emit e lat w).plane1 = c.plane1 := rfl
@[simp] theorem Core.emit_active : (c.emit e lat w).active = c.active := rfl
@[simp] theorem Core.emit_shadow : (c.emit e lat w).shadow = c.shadow := rfl
@[simp] theorem Core.emit_now : (c.emit e lat w).now = c.now := rfl
@[simp] theorem Core.emit_turn : (c.emit e lat w).turn = c.turn := rfl
@[simp] theorem Core.emit_frozen : (c.emit e lat w).frozen = c.frozen := rfl
@[simp] theorem Core.emit_blockedBy : (c.emit e lat w).blockedBy = c.blockedBy := rfl
@[simp] theorem Core.emit_tref : (c.emit e lat w).tref = c.tref := rfl
@[simp] theorem Core.emit_tun : (c.emit e lat w).tun = c.tun := rfl
@[simp] theorem Core.emit_div : (c.emit e lat w).div = c.div := rfl
@[simp] theorem Core.emit_holds : (c.emit e lat w).holds = c.holds := rfl
@[simp] theorem Core.emit_mats : (c.emit e lat w).mats = c.mats := rfl
@[simp] theorem Core.emit_arms : (c.emit e lat w).arms = c.arms := rfl
@[simp] theorem Core.emit_copies : (c.emit e lat w).copies = c.copies := rfl
@[simp] theorem Core.emit_copySeq : (c.emit e lat w).copySeq = c.copySeq := rfl
@[simp] theorem Core.emit_banks : (c.emit e lat w).banks = c.banks := rfl
@[simp] theorem Core.emit_stores : (c.emit e lat w).stores = c.stores := rfl
@[simp] theorem Core.emit_lates : (c.emit e lat w).lates = c.lates := rfl
@[simp] theorem Core.emit_shown : (c.emit e lat w).shown = c.shown := rfl
@[simp] theorem Core.emit_fences : (c.emit e lat w).fences = c.fences := rfl
@[simp] theorem Core.emit_stuck : (c.emit e lat w).stuck = c.stuck := rfl
@[simp] theorem Core.emit_inbox : (c.emit e lat w).inbox = c.inbox := rfl
@[simp] theorem Core.emit_l1 : (c.emit e lat w).l1 = c.l1 := rfl
@[simp] theorem Core.emit_tlb : (c.emit e lat w).tlb = c.tlb := rfl
@[simp] theorem Core.emit_ncmds : (c.emit e lat w).ncmds = c.ncmds := rfl
@[simp] theorem Core.emit_nrun : (c.emit e lat w).nrun = c.nrun := rfl
@[simp] theorem Core.emit_riser : (c.emit e lat w).riser = c.riser := rfl
@[simp] theorem Core.emit_voided : (c.emit e lat w).voided = c.voided := rfl
@[simp] theorem Core.emit_nbWaits : (c.emit e lat w).nbWaits = c.nbWaits := rfl
@[simp] theorem Core.emit_nbNew : (c.emit e lat w).nbNew = c.nbNew := rfl
@[simp] theorem Core.emit_heldArr : (c.emit e lat w).heldArr = c.heldArr := rfl
@[simp] theorem Core.emit_credits : (c.emit e lat w).credits = c.credits := rfl
@[simp] theorem Core.emit_refusals : (c.emit e lat w).refusals = c.refusals := rfl
@[simp] theorem Core.emit_nrec : (c.emit e lat w).nrec = c.nrec := rfl
@[simp] theorem Core.emit_mode : (c.emit e lat w).mode = c.mode := rfl
@[simp] theorem Core.emit_tr : (c.emit e lat w).tr = c.tr := rfl
@[simp] theorem Core.emit_snap : (c.emit e lat w).snap = c.snap := rfl
@[simp] theorem Core.emit_asyncs : (c.emit e lat w).asyncs = c.asyncs := rfl
@[simp] theorem Core.emit_escSeq : (c.emit e lat w).escSeq = c.escSeq := rfl
@[simp] theorem Core.emit_ctx : (c.emit e lat w).ctx = c.ctx := rfl
@[simp] theorem Core.emit_run : (c.emit e lat w).run = c.run := rfl
@[simp] theorem Core.emit_iter : (c.emit e lat w).iter = c.iter := rfl
@[simp] theorem Core.emit_began : (c.emit e lat w).began = c.began := rfl
@[simp] theorem Core.emit_powered : (c.emit e lat w).powered = c.powered := rfl
@[simp] theorem Core.emit_offline : (c.emit e lat w).offline = c.offline := rfl
@[simp] theorem Core.emit_chilled : (c.emit e lat w).chilled = c.chilled := rfl
@[simp] theorem Core.emit_pre : (c.emit e lat w).pre = c.pre := rfl
@[simp] theorem Core.emit_goes : (c.emit e lat w).goes = c.goes := rfl
@[simp] theorem Core.emit_plane : (c.emit e lat w).plane = c.plane := rfl
@[simp] theorem Core.emit_spent : (c.emit e lat w).spent = c.spent := rfl
@[simp] theorem Core.emit_epoch : (c.emit e lat w).epoch = c.epoch := rfl
@[simp] theorem Core.emit_ordinal : (c.emit e lat w).ordinal = c.ordinal := rfl
@[simp] theorem Core.emit_back : (c.emit e lat w).back = c.back := rfl
@[simp] theorem Core.emit_moved : (c.emit e lat w).moved = c.moved := rfl
@[simp] theorem Core.hold_s : (c.hold lat k).s = c.s := rfl
@[simp] theorem Core.hold_p : (c.hold lat k).p = c.p := rfl
@[simp] theorem Core.hold_q : (c.hold lat k).q = c.q := rfl
@[simp] theorem Core.hold_k : (c.hold lat k).k = c.k := rfl
@[simp] theorem Core.hold_k0 : (c.hold lat k).k0 = c.k0 := rfl
@[simp] theorem Core.hold_od : (c.hold lat k).od = c.od := rfl
@[simp] theorem Core.hold_cd : (c.hold lat k).cd = c.cd := rfl
@[simp] theorem Core.hold_cm : (c.hold lat k).cm = c.cm := rfl
@[simp] theorem Core.hold_post : (c.hold lat k).post = c.post := rfl
@[simp] theorem Core.hold_tg : (c.hold lat k).tg = c.tg := rfl
@[simp] theorem Core.hold_fpflags : (c.hold lat k).fpflags = c.fpflags := rfl
@[simp] theorem Core.hold_fpctl : (c.hold lat k).fpctl = c.fpctl := rfl
@[simp] theorem Core.hold_acclive : (c.hold lat k).acclive = c.acclive := rfl
@[simp] theorem Core.hold_srseed : (c.hold lat k).srseed = c.srseed := rfl
@[simp] theorem Core.hold_spmap : (c.hold lat k).spmap = c.spmap := rfl
@[simp] theorem Core.hold_shape : (c.hold lat k).shape = c.shape := rfl
@[simp] theorem Core.hold_shapePz : (c.hold lat k).shapePz = c.shapePz := rfl
@[simp] theorem Core.hold_exc : (c.hold lat k).exc = c.exc := rfl
@[simp] theorem Core.hold_mprog : (c.hold lat k).mprog = c.mprog := rfl
@[simp] theorem Core.hold_batches : (c.hold lat k).batches = c.batches := rfl
@[simp] theorem Core.hold_slots : (c.hold lat k).slots = c.slots := rfl
@[simp] theorem Core.hold_es : (c.hold lat k).es = c.es := rfl
@[simp] theorem Core.hold_el : (c.hold lat k).el = c.el := rfl
@[simp] theorem Core.hold_ex : (c.hold lat k).ex = c.ex := rfl
@[simp] theorem Core.hold_ew : (c.hold lat k).ew = c.ew := rfl
@[simp] theorem Core.hold_fetch : (c.hold lat k).fetch = c.fetch := rfl
@[simp] theorem Core.hold_plane0 : (c.hold lat k).plane0 = c.plane0 := rfl
@[simp] theorem Core.hold_plane1 : (c.hold lat k).plane1 = c.plane1 := rfl
@[simp] theorem Core.hold_active : (c.hold lat k).active = c.active := rfl
@[simp] theorem Core.hold_shadow : (c.hold lat k).shadow = c.shadow := rfl
@[simp] theorem Core.hold_now : (c.hold lat k).now = c.now := rfl
@[simp] theorem Core.hold_turn : (c.hold lat k).turn = c.turn := rfl
@[simp] theorem Core.hold_frozen : (c.hold lat k).frozen = c.frozen := rfl
@[simp] theorem Core.hold_blockedBy : (c.hold lat k).blockedBy = c.blockedBy := rfl
@[simp] theorem Core.hold_tref : (c.hold lat k).tref = c.tref := rfl
@[simp] theorem Core.hold_tun : (c.hold lat k).tun = c.tun := rfl
@[simp] theorem Core.hold_div : (c.hold lat k).div = c.div := rfl
@[simp] theorem Core.hold_pend : (c.hold lat k).pend = c.pend := rfl
@[simp] theorem Core.hold_mats : (c.hold lat k).mats = c.mats := rfl
@[simp] theorem Core.hold_arms : (c.hold lat k).arms = c.arms := rfl
@[simp] theorem Core.hold_copies : (c.hold lat k).copies = c.copies := rfl
@[simp] theorem Core.hold_copySeq : (c.hold lat k).copySeq = c.copySeq := rfl
@[simp] theorem Core.hold_banks : (c.hold lat k).banks = c.banks := rfl
@[simp] theorem Core.hold_stores : (c.hold lat k).stores = c.stores := rfl
@[simp] theorem Core.hold_lates : (c.hold lat k).lates = c.lates := rfl
@[simp] theorem Core.hold_shown : (c.hold lat k).shown = c.shown := rfl
@[simp] theorem Core.hold_fences : (c.hold lat k).fences = c.fences := rfl
@[simp] theorem Core.hold_stuck : (c.hold lat k).stuck = c.stuck := rfl
@[simp] theorem Core.hold_inbox : (c.hold lat k).inbox = c.inbox := rfl
@[simp] theorem Core.hold_l1 : (c.hold lat k).l1 = c.l1 := rfl
@[simp] theorem Core.hold_tlb : (c.hold lat k).tlb = c.tlb := rfl
@[simp] theorem Core.hold_ncmds : (c.hold lat k).ncmds = c.ncmds := rfl
@[simp] theorem Core.hold_nrun : (c.hold lat k).nrun = c.nrun := rfl
@[simp] theorem Core.hold_riser : (c.hold lat k).riser = c.riser := rfl
@[simp] theorem Core.hold_voided : (c.hold lat k).voided = c.voided := rfl
@[simp] theorem Core.hold_nbWaits : (c.hold lat k).nbWaits = c.nbWaits := rfl
@[simp] theorem Core.hold_nbNew : (c.hold lat k).nbNew = c.nbNew := rfl
@[simp] theorem Core.hold_heldArr : (c.hold lat k).heldArr = c.heldArr := rfl
@[simp] theorem Core.hold_credits : (c.hold lat k).credits = c.credits := rfl
@[simp] theorem Core.hold_refusals : (c.hold lat k).refusals = c.refusals := rfl
@[simp] theorem Core.hold_nrec : (c.hold lat k).nrec = c.nrec := rfl
@[simp] theorem Core.hold_mode : (c.hold lat k).mode = c.mode := rfl
@[simp] theorem Core.hold_tr : (c.hold lat k).tr = c.tr := rfl
@[simp] theorem Core.hold_snap : (c.hold lat k).snap = c.snap := rfl
@[simp] theorem Core.hold_asyncs : (c.hold lat k).asyncs = c.asyncs := rfl
@[simp] theorem Core.hold_escSeq : (c.hold lat k).escSeq = c.escSeq := rfl
@[simp] theorem Core.hold_ctx : (c.hold lat k).ctx = c.ctx := rfl
@[simp] theorem Core.hold_run : (c.hold lat k).run = c.run := rfl
@[simp] theorem Core.hold_iter : (c.hold lat k).iter = c.iter := rfl
@[simp] theorem Core.hold_began : (c.hold lat k).began = c.began := rfl
@[simp] theorem Core.hold_powered : (c.hold lat k).powered = c.powered := rfl
@[simp] theorem Core.hold_offline : (c.hold lat k).offline = c.offline := rfl
@[simp] theorem Core.hold_chilled : (c.hold lat k).chilled = c.chilled := rfl
@[simp] theorem Core.hold_pre : (c.hold lat k).pre = c.pre := rfl
@[simp] theorem Core.hold_goes : (c.hold lat k).goes = c.goes := rfl
@[simp] theorem Core.hold_plane : (c.hold lat k).plane = c.plane := rfl
@[simp] theorem Core.hold_spent : (c.hold lat k).spent = c.spent := rfl
@[simp] theorem Core.hold_epoch : (c.hold lat k).epoch = c.epoch := rfl
@[simp] theorem Core.hold_ordinal : (c.hold lat k).ordinal = c.ordinal := rfl
@[simp] theorem Core.hold_back : (c.hold lat k).back = c.back := rfl
@[simp] theorem Core.hold_moved : (c.hold lat k).moved = c.moved := rfl
@[simp] theorem Core.ws_p : (c.ws n v pz).p = c.p := by unfold Core.ws; split <;> rfl
@[simp] theorem Core.ws_q : (c.ws n v pz).q = c.q := by unfold Core.ws; split <;> rfl
@[simp] theorem Core.ws_k : (c.ws n v pz).k = c.k := by unfold Core.ws; split <;> rfl
@[simp] theorem Core.ws_k0 : (c.ws n v pz).k0 = c.k0 := by unfold Core.ws; split <;> rfl
@[simp] theorem Core.ws_od : (c.ws n v pz).od = c.od := by unfold Core.ws; split <;> rfl
@[simp] theorem Core.ws_cd : (c.ws n v pz).cd = c.cd := by unfold Core.ws; split <;> rfl
@[simp] theorem Core.ws_cm : (c.ws n v pz).cm = c.cm := by unfold Core.ws; split <;> rfl
@[simp] theorem Core.ws_post : (c.ws n v pz).post = c.post := by unfold Core.ws; split <;> rfl
@[simp] theorem Core.ws_tg : (c.ws n v pz).tg = c.tg := by unfold Core.ws; split <;> rfl
@[simp] theorem Core.ws_fpflags : (c.ws n v pz).fpflags = c.fpflags := by unfold Core.ws; split <;> rfl
@[simp] theorem Core.ws_fpctl : (c.ws n v pz).fpctl = c.fpctl := by unfold Core.ws; split <;> rfl
@[simp] theorem Core.ws_acclive : (c.ws n v pz).acclive = c.acclive := by unfold Core.ws; split <;> rfl
@[simp] theorem Core.ws_srseed : (c.ws n v pz).srseed = c.srseed := by unfold Core.ws; split <;> rfl
@[simp] theorem Core.ws_spmap : (c.ws n v pz).spmap = c.spmap := by unfold Core.ws; split <;> rfl
@[simp] theorem Core.ws_shape : (c.ws n v pz).shape = c.shape := by unfold Core.ws; split <;> rfl
@[simp] theorem Core.ws_shapePz : (c.ws n v pz).shapePz = c.shapePz := by unfold Core.ws; split <;> rfl
@[simp] theorem Core.ws_exc : (c.ws n v pz).exc = c.exc := by unfold Core.ws; split <;> rfl
@[simp] theorem Core.ws_mprog : (c.ws n v pz).mprog = c.mprog := by unfold Core.ws; split <;> rfl
@[simp] theorem Core.ws_batches : (c.ws n v pz).batches = c.batches := by unfold Core.ws; split <;> rfl
@[simp] theorem Core.ws_slots : (c.ws n v pz).slots = c.slots := by unfold Core.ws; split <;> rfl
@[simp] theorem Core.ws_es : (c.ws n v pz).es = c.es := by unfold Core.ws; split <;> rfl
@[simp] theorem Core.ws_el : (c.ws n v pz).el = c.el := by unfold Core.ws; split <;> rfl
@[simp] theorem Core.ws_ex : (c.ws n v pz).ex = c.ex := by unfold Core.ws; split <;> rfl
@[simp] theorem Core.ws_ew : (c.ws n v pz).ew = c.ew := by unfold Core.ws; split <;> rfl
@[simp] theorem Core.ws_fetch : (c.ws n v pz).fetch = c.fetch := by unfold Core.ws; split <;> rfl
@[simp] theorem Core.ws_plane0 : (c.ws n v pz).plane0 = c.plane0 := by unfold Core.ws; split <;> rfl
@[simp] theorem Core.ws_plane1 : (c.ws n v pz).plane1 = c.plane1 := by unfold Core.ws; split <;> rfl
@[simp] theorem Core.ws_active : (c.ws n v pz).active = c.active := by unfold Core.ws; split <;> rfl
@[simp] theorem Core.ws_shadow : (c.ws n v pz).shadow = c.shadow := by unfold Core.ws; split <;> rfl
@[simp] theorem Core.ws_now : (c.ws n v pz).now = c.now := by unfold Core.ws; split <;> rfl
@[simp] theorem Core.ws_turn : (c.ws n v pz).turn = c.turn := by unfold Core.ws; split <;> rfl
@[simp] theorem Core.ws_frozen : (c.ws n v pz).frozen = c.frozen := by unfold Core.ws; split <;> rfl
@[simp] theorem Core.ws_blockedBy : (c.ws n v pz).blockedBy = c.blockedBy := by unfold Core.ws; split <;> rfl
@[simp] theorem Core.ws_tref : (c.ws n v pz).tref = c.tref := by unfold Core.ws; split <;> rfl
@[simp] theorem Core.ws_tun : (c.ws n v pz).tun = c.tun := by unfold Core.ws; split <;> rfl
@[simp] theorem Core.ws_div : (c.ws n v pz).div = c.div := by unfold Core.ws; split <;> rfl
@[simp] theorem Core.ws_pend : (c.ws n v pz).pend = c.pend := by unfold Core.ws; split <;> rfl
@[simp] theorem Core.ws_holds : (c.ws n v pz).holds = c.holds := by unfold Core.ws; split <;> rfl
@[simp] theorem Core.ws_mats : (c.ws n v pz).mats = c.mats := by unfold Core.ws; split <;> rfl
@[simp] theorem Core.ws_arms : (c.ws n v pz).arms = c.arms := by unfold Core.ws; split <;> rfl
@[simp] theorem Core.ws_copies : (c.ws n v pz).copies = c.copies := by unfold Core.ws; split <;> rfl
@[simp] theorem Core.ws_copySeq : (c.ws n v pz).copySeq = c.copySeq := by unfold Core.ws; split <;> rfl
@[simp] theorem Core.ws_banks : (c.ws n v pz).banks = c.banks := by unfold Core.ws; split <;> rfl
@[simp] theorem Core.ws_stores : (c.ws n v pz).stores = c.stores := by unfold Core.ws; split <;> rfl
@[simp] theorem Core.ws_lates : (c.ws n v pz).lates = c.lates := by unfold Core.ws; split <;> rfl
@[simp] theorem Core.ws_shown : (c.ws n v pz).shown = c.shown := by unfold Core.ws; split <;> rfl
@[simp] theorem Core.ws_fences : (c.ws n v pz).fences = c.fences := by unfold Core.ws; split <;> rfl
@[simp] theorem Core.ws_stuck : (c.ws n v pz).stuck = c.stuck := by unfold Core.ws; split <;> rfl
@[simp] theorem Core.ws_inbox : (c.ws n v pz).inbox = c.inbox := by unfold Core.ws; split <;> rfl
@[simp] theorem Core.ws_l1 : (c.ws n v pz).l1 = c.l1 := by unfold Core.ws; split <;> rfl
@[simp] theorem Core.ws_tlb : (c.ws n v pz).tlb = c.tlb := by unfold Core.ws; split <;> rfl
@[simp] theorem Core.ws_ncmds : (c.ws n v pz).ncmds = c.ncmds := by unfold Core.ws; split <;> rfl
@[simp] theorem Core.ws_nrun : (c.ws n v pz).nrun = c.nrun := by unfold Core.ws; split <;> rfl
@[simp] theorem Core.ws_riser : (c.ws n v pz).riser = c.riser := by unfold Core.ws; split <;> rfl
@[simp] theorem Core.ws_voided : (c.ws n v pz).voided = c.voided := by unfold Core.ws; split <;> rfl
@[simp] theorem Core.ws_nbWaits : (c.ws n v pz).nbWaits = c.nbWaits := by unfold Core.ws; split <;> rfl
@[simp] theorem Core.ws_nbNew : (c.ws n v pz).nbNew = c.nbNew := by unfold Core.ws; split <;> rfl
@[simp] theorem Core.ws_heldArr : (c.ws n v pz).heldArr = c.heldArr := by unfold Core.ws; split <;> rfl
@[simp] theorem Core.ws_credits : (c.ws n v pz).credits = c.credits := by unfold Core.ws; split <;> rfl
@[simp] theorem Core.ws_refusals : (c.ws n v pz).refusals = c.refusals := by unfold Core.ws; split <;> rfl
@[simp] theorem Core.ws_nrec : (c.ws n v pz).nrec = c.nrec := by unfold Core.ws; split <;> rfl
@[simp] theorem Core.ws_mode : (c.ws n v pz).mode = c.mode := by unfold Core.ws; split <;> rfl
@[simp] theorem Core.ws_tr : (c.ws n v pz).tr = c.tr := by unfold Core.ws; split <;> rfl
@[simp] theorem Core.ws_snap : (c.ws n v pz).snap = c.snap := by unfold Core.ws; split <;> rfl
@[simp] theorem Core.ws_asyncs : (c.ws n v pz).asyncs = c.asyncs := by unfold Core.ws; split <;> rfl
@[simp] theorem Core.ws_escSeq : (c.ws n v pz).escSeq = c.escSeq := by unfold Core.ws; split <;> rfl
@[simp] theorem Core.ws_ctx : (c.ws n v pz).ctx = c.ctx := by unfold Core.ws; split <;> rfl
@[simp] theorem Core.ws_run : (c.ws n v pz).run = c.run := by unfold Core.ws; split <;> rfl
@[simp] theorem Core.ws_iter : (c.ws n v pz).iter = c.iter := by unfold Core.ws; split <;> rfl
@[simp] theorem Core.ws_began : (c.ws n v pz).began = c.began := by unfold Core.ws; split <;> rfl
@[simp] theorem Core.ws_powered : (c.ws n v pz).powered = c.powered := by unfold Core.ws; split <;> rfl
@[simp] theorem Core.ws_offline : (c.ws n v pz).offline = c.offline := by unfold Core.ws; split <;> rfl
@[simp] theorem Core.ws_chilled : (c.ws n v pz).chilled = c.chilled := by unfold Core.ws; split <;> rfl
@[simp] theorem Core.ws_pre : (c.ws n v pz).pre = c.pre := by unfold Core.ws; split <;> rfl
@[simp] theorem Core.ws_goes : (c.ws n v pz).goes = c.goes := by unfold Core.ws; split <;> rfl
@[simp] theorem Core.ws_plane : (c.ws n v pz).plane = c.plane := by unfold Core.ws; split <;> rfl
@[simp] theorem Core.ws_spent : (c.ws n v pz).spent = c.spent := by unfold Core.ws; split <;> rfl
@[simp] theorem Core.ws_epoch : (c.ws n v pz).epoch = c.epoch := by unfold Core.ws; split <;> rfl
@[simp] theorem Core.ws_ordinal : (c.ws n v pz).ordinal = c.ordinal := by unfold Core.ws; split <;> rfl
@[simp] theorem Core.ws_back : (c.ws n v pz).back = c.back := by unfold Core.ws; split <;> rfl
@[simp] theorem Core.ws_moved : (c.ws n v pz).moved = c.moved := by unfold Core.ws; split <;> rfl
@[simp] theorem Core.wp_s : (c.wp n pv pm pz).s = c.s := by unfold Core.wp; split <;> rfl
@[simp] theorem Core.wp_q : (c.wp n pv pm pz).q = c.q := by unfold Core.wp; split <;> rfl
@[simp] theorem Core.wp_k : (c.wp n pv pm pz).k = c.k := by unfold Core.wp; split <;> rfl
@[simp] theorem Core.wp_k0 : (c.wp n pv pm pz).k0 = c.k0 := by unfold Core.wp; split <;> rfl
@[simp] theorem Core.wp_od : (c.wp n pv pm pz).od = c.od := by unfold Core.wp; split <;> rfl
@[simp] theorem Core.wp_cd : (c.wp n pv pm pz).cd = c.cd := by unfold Core.wp; split <;> rfl
@[simp] theorem Core.wp_cm : (c.wp n pv pm pz).cm = c.cm := by unfold Core.wp; split <;> rfl
@[simp] theorem Core.wp_post : (c.wp n pv pm pz).post = c.post := by unfold Core.wp; split <;> rfl
@[simp] theorem Core.wp_tg : (c.wp n pv pm pz).tg = c.tg := by unfold Core.wp; split <;> rfl
@[simp] theorem Core.wp_fpflags : (c.wp n pv pm pz).fpflags = c.fpflags := by unfold Core.wp; split <;> rfl
@[simp] theorem Core.wp_fpctl : (c.wp n pv pm pz).fpctl = c.fpctl := by unfold Core.wp; split <;> rfl
@[simp] theorem Core.wp_acclive : (c.wp n pv pm pz).acclive = c.acclive := by unfold Core.wp; split <;> rfl
@[simp] theorem Core.wp_srseed : (c.wp n pv pm pz).srseed = c.srseed := by unfold Core.wp; split <;> rfl
@[simp] theorem Core.wp_spmap : (c.wp n pv pm pz).spmap = c.spmap := by unfold Core.wp; split <;> rfl
@[simp] theorem Core.wp_shape : (c.wp n pv pm pz).shape = c.shape := by unfold Core.wp; split <;> rfl
@[simp] theorem Core.wp_shapePz : (c.wp n pv pm pz).shapePz = c.shapePz := by unfold Core.wp; split <;> rfl
@[simp] theorem Core.wp_exc : (c.wp n pv pm pz).exc = c.exc := by unfold Core.wp; split <;> rfl
@[simp] theorem Core.wp_mprog : (c.wp n pv pm pz).mprog = c.mprog := by unfold Core.wp; split <;> rfl
@[simp] theorem Core.wp_batches : (c.wp n pv pm pz).batches = c.batches := by unfold Core.wp; split <;> rfl
@[simp] theorem Core.wp_slots : (c.wp n pv pm pz).slots = c.slots := by unfold Core.wp; split <;> rfl
@[simp] theorem Core.wp_es : (c.wp n pv pm pz).es = c.es := by unfold Core.wp; split <;> rfl
@[simp] theorem Core.wp_el : (c.wp n pv pm pz).el = c.el := by unfold Core.wp; split <;> rfl
@[simp] theorem Core.wp_ex : (c.wp n pv pm pz).ex = c.ex := by unfold Core.wp; split <;> rfl
@[simp] theorem Core.wp_ew : (c.wp n pv pm pz).ew = c.ew := by unfold Core.wp; split <;> rfl
@[simp] theorem Core.wp_fetch : (c.wp n pv pm pz).fetch = c.fetch := by unfold Core.wp; split <;> rfl
@[simp] theorem Core.wp_plane0 : (c.wp n pv pm pz).plane0 = c.plane0 := by unfold Core.wp; split <;> rfl
@[simp] theorem Core.wp_plane1 : (c.wp n pv pm pz).plane1 = c.plane1 := by unfold Core.wp; split <;> rfl
@[simp] theorem Core.wp_active : (c.wp n pv pm pz).active = c.active := by unfold Core.wp; split <;> rfl
@[simp] theorem Core.wp_shadow : (c.wp n pv pm pz).shadow = c.shadow := by unfold Core.wp; split <;> rfl
@[simp] theorem Core.wp_now : (c.wp n pv pm pz).now = c.now := by unfold Core.wp; split <;> rfl
@[simp] theorem Core.wp_turn : (c.wp n pv pm pz).turn = c.turn := by unfold Core.wp; split <;> rfl
@[simp] theorem Core.wp_frozen : (c.wp n pv pm pz).frozen = c.frozen := by unfold Core.wp; split <;> rfl
@[simp] theorem Core.wp_blockedBy : (c.wp n pv pm pz).blockedBy = c.blockedBy := by unfold Core.wp; split <;> rfl
@[simp] theorem Core.wp_tref : (c.wp n pv pm pz).tref = c.tref := by unfold Core.wp; split <;> rfl
@[simp] theorem Core.wp_tun : (c.wp n pv pm pz).tun = c.tun := by unfold Core.wp; split <;> rfl
@[simp] theorem Core.wp_div : (c.wp n pv pm pz).div = c.div := by unfold Core.wp; split <;> rfl
@[simp] theorem Core.wp_pend : (c.wp n pv pm pz).pend = c.pend := by unfold Core.wp; split <;> rfl
@[simp] theorem Core.wp_holds : (c.wp n pv pm pz).holds = c.holds := by unfold Core.wp; split <;> rfl
@[simp] theorem Core.wp_mats : (c.wp n pv pm pz).mats = c.mats := by unfold Core.wp; split <;> rfl
@[simp] theorem Core.wp_arms : (c.wp n pv pm pz).arms = c.arms := by unfold Core.wp; split <;> rfl
@[simp] theorem Core.wp_copies : (c.wp n pv pm pz).copies = c.copies := by unfold Core.wp; split <;> rfl
@[simp] theorem Core.wp_copySeq : (c.wp n pv pm pz).copySeq = c.copySeq := by unfold Core.wp; split <;> rfl
@[simp] theorem Core.wp_banks : (c.wp n pv pm pz).banks = c.banks := by unfold Core.wp; split <;> rfl
@[simp] theorem Core.wp_stores : (c.wp n pv pm pz).stores = c.stores := by unfold Core.wp; split <;> rfl
@[simp] theorem Core.wp_lates : (c.wp n pv pm pz).lates = c.lates := by unfold Core.wp; split <;> rfl
@[simp] theorem Core.wp_shown : (c.wp n pv pm pz).shown = c.shown := by unfold Core.wp; split <;> rfl
@[simp] theorem Core.wp_fences : (c.wp n pv pm pz).fences = c.fences := by unfold Core.wp; split <;> rfl
@[simp] theorem Core.wp_stuck : (c.wp n pv pm pz).stuck = c.stuck := by unfold Core.wp; split <;> rfl
@[simp] theorem Core.wp_inbox : (c.wp n pv pm pz).inbox = c.inbox := by unfold Core.wp; split <;> rfl
@[simp] theorem Core.wp_l1 : (c.wp n pv pm pz).l1 = c.l1 := by unfold Core.wp; split <;> rfl
@[simp] theorem Core.wp_tlb : (c.wp n pv pm pz).tlb = c.tlb := by unfold Core.wp; split <;> rfl
@[simp] theorem Core.wp_ncmds : (c.wp n pv pm pz).ncmds = c.ncmds := by unfold Core.wp; split <;> rfl
@[simp] theorem Core.wp_nrun : (c.wp n pv pm pz).nrun = c.nrun := by unfold Core.wp; split <;> rfl
@[simp] theorem Core.wp_riser : (c.wp n pv pm pz).riser = c.riser := by unfold Core.wp; split <;> rfl
@[simp] theorem Core.wp_voided : (c.wp n pv pm pz).voided = c.voided := by unfold Core.wp; split <;> rfl
@[simp] theorem Core.wp_nbWaits : (c.wp n pv pm pz).nbWaits = c.nbWaits := by unfold Core.wp; split <;> rfl
@[simp] theorem Core.wp_nbNew : (c.wp n pv pm pz).nbNew = c.nbNew := by unfold Core.wp; split <;> rfl
@[simp] theorem Core.wp_heldArr : (c.wp n pv pm pz).heldArr = c.heldArr := by unfold Core.wp; split <;> rfl
@[simp] theorem Core.wp_credits : (c.wp n pv pm pz).credits = c.credits := by unfold Core.wp; split <;> rfl
@[simp] theorem Core.wp_refusals : (c.wp n pv pm pz).refusals = c.refusals := by unfold Core.wp; split <;> rfl
@[simp] theorem Core.wp_nrec : (c.wp n pv pm pz).nrec = c.nrec := by unfold Core.wp; split <;> rfl
@[simp] theorem Core.wp_mode : (c.wp n pv pm pz).mode = c.mode := by unfold Core.wp; split <;> rfl
@[simp] theorem Core.wp_tr : (c.wp n pv pm pz).tr = c.tr := by unfold Core.wp; split <;> rfl
@[simp] theorem Core.wp_snap : (c.wp n pv pm pz).snap = c.snap := by unfold Core.wp; split <;> rfl
@[simp] theorem Core.wp_asyncs : (c.wp n pv pm pz).asyncs = c.asyncs := by unfold Core.wp; split <;> rfl
@[simp] theorem Core.wp_escSeq : (c.wp n pv pm pz).escSeq = c.escSeq := by unfold Core.wp; split <;> rfl
@[simp] theorem Core.wp_ctx : (c.wp n pv pm pz).ctx = c.ctx := by unfold Core.wp; split <;> rfl
@[simp] theorem Core.wp_run : (c.wp n pv pm pz).run = c.run := by unfold Core.wp; split <;> rfl
@[simp] theorem Core.wp_iter : (c.wp n pv pm pz).iter = c.iter := by unfold Core.wp; split <;> rfl
@[simp] theorem Core.wp_began : (c.wp n pv pm pz).began = c.began := by unfold Core.wp; split <;> rfl
@[simp] theorem Core.wp_powered : (c.wp n pv pm pz).powered = c.powered := by unfold Core.wp; split <;> rfl
@[simp] theorem Core.wp_offline : (c.wp n pv pm pz).offline = c.offline := by unfold Core.wp; split <;> rfl
@[simp] theorem Core.wp_chilled : (c.wp n pv pm pz).chilled = c.chilled := by unfold Core.wp; split <;> rfl
@[simp] theorem Core.wp_pre : (c.wp n pv pm pz).pre = c.pre := by unfold Core.wp; split <;> rfl
@[simp] theorem Core.wp_goes : (c.wp n pv pm pz).goes = c.goes := by unfold Core.wp; split <;> rfl
@[simp] theorem Core.wp_plane : (c.wp n pv pm pz).plane = c.plane := by unfold Core.wp; split <;> rfl
@[simp] theorem Core.wp_spent : (c.wp n pv pm pz).spent = c.spent := by unfold Core.wp; split <;> rfl
@[simp] theorem Core.wp_epoch : (c.wp n pv pm pz).epoch = c.epoch := by unfold Core.wp; split <;> rfl
@[simp] theorem Core.wp_ordinal : (c.wp n pv pm pz).ordinal = c.ordinal := by unfold Core.wp; split <;> rfl
@[simp] theorem Core.wp_back : (c.wp n pv pm pz).back = c.back := by unfold Core.wp; split <;> rfl
@[simp] theorem Core.wp_moved : (c.wp n pv pm pz).moved = c.moved := by unfold Core.wp; split <;> rfl
@[simp] theorem Core.issued_s : (c.issued e occ).s = c.s := Core.setSeq_s _ _ _
@[simp] theorem Core.issued_p : (c.issued e occ).p = c.p := Core.setSeq_p _ _ _
@[simp] theorem Core.issued_q : (c.issued e occ).q = c.q := Core.setSeq_q _ _ _
@[simp] theorem Core.issued_k : (c.issued e occ).k = c.k := Core.setSeq_k _ _ _
@[simp] theorem Core.issued_k0 : (c.issued e occ).k0 = c.k0 := Core.setSeq_k0 _ _ _
@[simp] theorem Core.issued_od : (c.issued e occ).od = c.od := Core.setSeq_od _ _ _
@[simp] theorem Core.issued_cd : (c.issued e occ).cd = c.cd := Core.setSeq_cd _ _ _
@[simp] theorem Core.issued_cm : (c.issued e occ).cm = c.cm := Core.setSeq_cm _ _ _
@[simp] theorem Core.issued_post : (c.issued e occ).post = c.post := Core.setSeq_post _ _ _
@[simp] theorem Core.issued_tg : (c.issued e occ).tg = c.tg := Core.setSeq_tg _ _ _
@[simp] theorem Core.issued_fpflags : (c.issued e occ).fpflags = c.fpflags := Core.setSeq_fpflags _ _ _
@[simp] theorem Core.issued_fpctl : (c.issued e occ).fpctl = c.fpctl := Core.setSeq_fpctl _ _ _
@[simp] theorem Core.issued_acclive : (c.issued e occ).acclive = c.acclive := Core.setSeq_acclive _ _ _
@[simp] theorem Core.issued_srseed : (c.issued e occ).srseed = c.srseed := Core.setSeq_srseed _ _ _
@[simp] theorem Core.issued_spmap : (c.issued e occ).spmap = c.spmap := Core.setSeq_spmap _ _ _
@[simp] theorem Core.issued_shape : (c.issued e occ).shape = c.shape := Core.setSeq_shape _ _ _
@[simp] theorem Core.issued_shapePz : (c.issued e occ).shapePz = c.shapePz := Core.setSeq_shapePz _ _ _
@[simp] theorem Core.issued_exc : (c.issued e occ).exc = c.exc := Core.setSeq_exc _ _ _
@[simp] theorem Core.issued_mprog : (c.issued e occ).mprog = c.mprog := Core.setSeq_mprog _ _ _
@[simp] theorem Core.issued_batches : (c.issued e occ).batches = c.batches := Core.setSeq_batches _ _ _
@[simp] theorem Core.issued_slots : (c.issued e occ).slots = c.slots := Core.setSeq_slots _ _ _
@[simp] theorem Core.issued_fetch : (c.issued e occ).fetch = c.fetch := Core.setSeq_fetch _ _ _
@[simp] theorem Core.issued_plane0 : (c.issued e occ).plane0 = c.plane0 := Core.setSeq_plane0 _ _ _
@[simp] theorem Core.issued_plane1 : (c.issued e occ).plane1 = c.plane1 := Core.setSeq_plane1 _ _ _
@[simp] theorem Core.issued_active : (c.issued e occ).active = c.active := Core.setSeq_active _ _ _
@[simp] theorem Core.issued_shadow : (c.issued e occ).shadow = c.shadow := Core.setSeq_shadow _ _ _
@[simp] theorem Core.issued_now : (c.issued e occ).now = c.now := Core.setSeq_now _ _ _
@[simp] theorem Core.issued_frozen : (c.issued e occ).frozen = c.frozen := Core.setSeq_frozen _ _ _
@[simp] theorem Core.issued_blockedBy : (c.issued e occ).blockedBy = c.blockedBy := Core.setSeq_blockedBy _ _ _
@[simp] theorem Core.issued_tref : (c.issued e occ).tref = c.tref := Core.setSeq_tref _ _ _
@[simp] theorem Core.issued_tun : (c.issued e occ).tun = c.tun := Core.setSeq_tun _ _ _
@[simp] theorem Core.issued_div : (c.issued e occ).div = c.div := Core.setSeq_div _ _ _
@[simp] theorem Core.issued_pend : (c.issued e occ).pend = c.pend := Core.setSeq_pend _ _ _
@[simp] theorem Core.issued_holds : (c.issued e occ).holds = c.holds := Core.setSeq_holds _ _ _
@[simp] theorem Core.issued_mats : (c.issued e occ).mats = c.mats := Core.setSeq_mats _ _ _
@[simp] theorem Core.issued_arms : (c.issued e occ).arms = c.arms := Core.setSeq_arms _ _ _
@[simp] theorem Core.issued_copies : (c.issued e occ).copies = c.copies := Core.setSeq_copies _ _ _
@[simp] theorem Core.issued_copySeq : (c.issued e occ).copySeq = c.copySeq := Core.setSeq_copySeq _ _ _
@[simp] theorem Core.issued_banks : (c.issued e occ).banks = c.banks := Core.setSeq_banks _ _ _
@[simp] theorem Core.issued_stores : (c.issued e occ).stores = c.stores := Core.setSeq_stores _ _ _
@[simp] theorem Core.issued_lates : (c.issued e occ).lates = c.lates := Core.setSeq_lates _ _ _
@[simp] theorem Core.issued_shown : (c.issued e occ).shown = c.shown := Core.setSeq_shown _ _ _
@[simp] theorem Core.issued_fences : (c.issued e occ).fences = c.fences := Core.setSeq_fences _ _ _
@[simp] theorem Core.issued_stuck : (c.issued e occ).stuck = c.stuck := Core.setSeq_stuck _ _ _
@[simp] theorem Core.issued_inbox : (c.issued e occ).inbox = c.inbox := Core.setSeq_inbox _ _ _
@[simp] theorem Core.issued_l1 : (c.issued e occ).l1 = c.l1 := Core.setSeq_l1 _ _ _
@[simp] theorem Core.issued_tlb : (c.issued e occ).tlb = c.tlb := Core.setSeq_tlb _ _ _
@[simp] theorem Core.issued_ncmds : (c.issued e occ).ncmds = c.ncmds := Core.setSeq_ncmds _ _ _
@[simp] theorem Core.issued_nrun : (c.issued e occ).nrun = c.nrun := Core.setSeq_nrun _ _ _
@[simp] theorem Core.issued_riser : (c.issued e occ).riser = c.riser := Core.setSeq_riser _ _ _
@[simp] theorem Core.issued_voided : (c.issued e occ).voided = c.voided := Core.setSeq_voided _ _ _
@[simp] theorem Core.issued_nbWaits : (c.issued e occ).nbWaits = c.nbWaits := Core.setSeq_nbWaits _ _ _
@[simp] theorem Core.issued_nbNew : (c.issued e occ).nbNew = c.nbNew := Core.setSeq_nbNew _ _ _
@[simp] theorem Core.issued_heldArr : (c.issued e occ).heldArr = c.heldArr := Core.setSeq_heldArr _ _ _
@[simp] theorem Core.issued_credits : (c.issued e occ).credits = c.credits := Core.setSeq_credits _ _ _
@[simp] theorem Core.issued_refusals : (c.issued e occ).refusals = c.refusals := Core.setSeq_refusals _ _ _
@[simp] theorem Core.issued_nrec : (c.issued e occ).nrec = c.nrec := Core.setSeq_nrec _ _ _
@[simp] theorem Core.issued_mode : (c.issued e occ).mode = c.mode := Core.setSeq_mode _ _ _
@[simp] theorem Core.issued_tr : (c.issued e occ).tr = c.tr := Core.setSeq_tr _ _ _
@[simp] theorem Core.issued_snap : (c.issued e occ).snap = c.snap := Core.setSeq_snap _ _ _
@[simp] theorem Core.issued_asyncs : (c.issued e occ).asyncs = c.asyncs := Core.setSeq_asyncs _ _ _
@[simp] theorem Core.issued_escSeq : (c.issued e occ).escSeq = c.escSeq := Core.setSeq_escSeq _ _ _
@[simp] theorem Core.issued_ctx : (c.issued e occ).ctx = c.ctx := Core.setSeq_ctx _ _ _
@[simp] theorem Core.issued_run : (c.issued e occ).run = c.run := Core.setSeq_run _ _ _
@[simp] theorem Core.issued_iter : (c.issued e occ).iter = c.iter := Core.setSeq_iter _ _ _
@[simp] theorem Core.issued_began : (c.issued e occ).began = c.began := Core.setSeq_began _ _ _
@[simp] theorem Core.issued_powered : (c.issued e occ).powered = c.powered := Core.setSeq_powered _ _ _
@[simp] theorem Core.issued_offline : (c.issued e occ).offline = c.offline := Core.setSeq_offline _ _ _
@[simp] theorem Core.issued_chilled : (c.issued e occ).chilled = c.chilled := Core.setSeq_chilled _ _ _
@[simp] theorem Core.issued_pre : (c.issued e occ).pre = c.pre := Core.setSeq_pre _ _ _
@[simp] theorem Core.issued_goes : (c.issued e occ).goes = c.goes := Core.setSeq_goes _ _ _
@[simp] theorem Core.issued_plane : (c.issued e occ).plane = c.plane := Core.setSeq_plane _ _ _
@[simp] theorem Core.issued_spent : (c.issued e occ).spent = c.spent := Core.setSeq_spent _ _ _
@[simp] theorem Core.issued_epoch : (c.issued e occ).epoch = c.epoch := Core.setSeq_epoch _ _ _
@[simp] theorem Core.issued_ordinal : (c.issued e occ).ordinal = c.ordinal := Core.setSeq_ordinal _ _ _
@[simp] theorem Core.issued_back : (c.issued e occ).back = c.back := Core.setSeq_back _ _ _
@[simp] theorem Core.issued_moved : (c.issued e occ).moved = c.moved := Core.setSeq_moved _ _ _

end CoreUpdates

@[simp] theorem Core.seqOf_setSeq_same (c : Core) (e : Engine) (q : Seq) : (c.setSeq e q).seqOf e = q := by cases e <;> rfl

theorem Core.seqOf_setSeq_other (c : Core) (e f : Engine) (q : Seq) (h : f ≠ e) : (c.setSeq e q).seqOf f = c.seqOf f := by
  cases e <;> cases f <;> first | rfl | exact absurd rfl h

@[simp] theorem Core.emit_seqOf (c : Core) (e f : Engine) (lat : Nat) (w : Write) : (c.emit e lat w).seqOf f = c.seqOf f := by
  cases f <;> rfl

@[simp] theorem Core.issued_turn (c : Core) (e : Engine) (occ : Nat) : (c.issued e occ).turn = c.turn + 1 := rfl

@[simp] theorem Core.issued_seqOf_same (c : Core) (e : Engine) (occ : Nat) :
    (c.issued e occ).seqOf e = (c.seqOf e).issued c.now occ := by cases e <;> rfl

theorem Core.issued_seqOf_other (c : Core) (e f : Engine) (occ : Nat) (h : f ≠ e) : (c.issued e occ).seqOf f = c.seqOf f := by
  cases e <;> cases f <;> first | rfl | exact absurd rfl h

@[simp] theorem Core.tok_setTok_same (c : Core) (n : Nat) (t : Tok) : (c.setTok n t).tok n = t := tget_tset_same _ _ _ _

theorem Core.tok_setTok_other (c : Core) (n j : Nat) (t : Tok) (h : j ≠ n) : (c.setTok n t).tok j = c.tok j :=
  tget_tset_other _ _ _ _ _ h

@[simp] theorem Core.queue_setQueue_same (c : Core) (n : Nat) (l : List QEntry) : (c.setQueue n l).queue n = l :=
  tget_tset_same _ _ _ _

theorem Core.queue_setQueue_other (c : Core) (n j : Nat) (l : List QEntry) (h : j ≠ n) : (c.setQueue n l).queue j = c.queue j :=
  tget_tset_other _ _ _ _ _ h

@[simp] theorem Core.map_setMap_same (c : Core) (m : Nat) (v : BitVec 4096) : (c.setMap m v).map m = v := tget_tset_same _ _ _ _

@[simp] theorem Core.posts_setPosts_same (c : Core) (m : Nat) (l : List Place) : (c.setPosts m l).posts m = l :=
  tget_tset_same _ _ _ _

@[simp] theorem Core.tag_setTag_same (c : Core) (m : Nat) (t : TagEntry) : (c.setTag m t).tag m = t := tget_tset_same _ _ _ _

/-! s0 and p0 (R38). -/

@[simp] theorem Core.rs_zero (c : Core) : c.rs 0 = Scalar.zero := rfl
@[simp] theorem Core.rp_zero (c : Core) : c.rp 0 = ⟨0xFFFFFFFF, none⟩ := rfl
@[simp] theorem Core.ws_zero (c : Core) (v : W64) (pz : Option PRec) : c.ws 0 v pz = c := rfl
@[simp] theorem Core.wp_zero (c : Core) (v m : W32) (pz : Option PRec) : c.wp 0 v m pz = c := rfl

/-- A write of s[n] is what the next read gives, unless n is 0. -/
theorem Core.rs_ws_same (c : Core) (n : Nat) (v : W64) (pz : Option PRec) (h : n ≠ 0) : (c.ws n v pz).rs n = ⟨v, pz⟩ := by
  rw [Core.rs, if_neg h, Core.ws, if_neg h]; exact tget_tset_same _ _ _ _

/-- A write of s[n] leaves every other scalar. -/
theorem Core.rs_ws_other (c : Core) (n j : Nat) (v : W64) (pz : Option PRec) (h : j ≠ n) : (c.ws n v pz).rs j = c.rs j := by
  by_cases hn : n = 0
  · subst hn; rfl
  · rw [Core.ws, if_neg hn]
    by_cases hj : j = 0
    · subst hj; rfl
    · rw [Core.rs, Core.rs, if_neg hj, if_neg hj]; exact tget_tset_other _ _ _ _ _ h

theorem Core.rs_setFields (c d : Core) (h : c.s = d.s) (n : Nat) : c.rs n = d.rs n := by unfold Core.rs; rw [h]

end Sys2Proof.Machine
end

