-- ==== Sys2Proof/Laws/Ops.lean ====
section
/-! SUPPORT. One lemma for each shared operation: what the end of an instruction, an operand check, a result and the operand forms come to. -/

namespace Sys2Proof.Machine

/-! Replacing the issuing agent. -/

/-- Replacing an agent changes the cores and the command streams only. -/
theorem State.setAgent_eq (s : State) (m : Mover) (c : Core) :
    s.setAgent m c = { s with cores := (s.setAgent m c).cores, cps := (s.setAgent m c).cps } := by
  cases m <;> rfl

theorem State.modCur_eq (s : State) (f : Core → Core) :
    s.modCur f = { s with cores := (s.modCur f).cores, cps := (s.modCur f).cps } := State.setAgent_eq _ _ _

/-! The end of an instruction. -/

@[simp] theorem State.issueOcc_done (s s' : State) (e : Engine) (occ : Nat) :
    s.issueOcc e occ (.done s') = .next (s'.modCur (fun c => c.issued e occ)) := rfl
@[simp] theorem State.issueOcc_trap (s : State) (e : Engine) (occ : Nat) (t : TrapInfo) :
    s.issueOcc e occ (.trap t) = .next (s.syncTrap e t) := rfl
@[simp] theorem State.issueOcc_fatal (s : State) (e : Engine) (occ k a : Nat) :
    s.issueOcc e occ (.fatal k a) = .next (s.raiseFatal s.here k a) := rfl
@[simp] theorem State.issueOcc_block (s : State) (e : Engine) (occ : Nat) :
    s.issueOcc e occ .block = .next (s.modCur (fun c => { c with turn := c.turn + 1 })) := rfl
@[simp] theorem State.issueOcc_wait (s : State) (e : Engine) (occ : Nat) : s.issueOcc e occ .wait = .next s.frozen := rfl
@[simp] theorem State.issueOcc_later (s s' : State) (e : Engine) (occ : Nat) :
    s.issueOcc e occ (.later s') = .next (s'.modCur (fun c => Core.hold { c with turn := c.turn + 1 } 1 .retry)) := rfl

theorem State.issue_eq (s : State) (e : Engine) (x : Effect) : s.issue e x = s.issueOcc e 1 x := rfl

/-- An instruction always answers a next state. -/
theorem State.issueOcc_next (s : State) (e : Engine) (occ : Nat) (x : Effect) : ∃ t, s.issueOcc e occ x = .next t := by
  cases x <;> exact ⟨_, rfl⟩

/-- What the end of an instruction can answer: its effect and the move of its sequencer, a trap, a fatal error, the end of the turn, a freeze, or a completing instruction that waits. -/
theorem State.issueOcc_cases (s t : State) (e : Engine) (occ : Nat) (x : Effect) (h : s.issueOcc e occ x = .next t) :
    (∃ s', x = .done s' ∧ t = s'.modCur (fun c => c.issued e occ))
    ∨ (∃ i, x = .trap i ∧ t = s.syncTrap e i)
    ∨ (∃ k a, x = .fatal k a ∧ t = s.raiseFatal s.here k a)
    ∨ (x = .block ∧ t = s.modCur (fun c => { c with turn := c.turn + 1 }))
    ∨ (x = .wait ∧ t = s.frozen)
    ∨ (∃ s', x = .later s' ∧ t = s'.modCur (fun c => Core.hold { c with turn := c.turn + 1 } 1 .retry)) := by
  cases x <;> simp only [State.issueOcc, Host.Outcome.next.injEq] at h <;> subst h
  · exact .inl ⟨_, rfl, rfl⟩
  · exact .inr (.inl ⟨_, rfl, rfl⟩)
  · exact .inr (.inr (.inl ⟨_, _, rfl, rfl⟩))
  · exact .inr (.inr (.inr (.inl ⟨rfl, rfl⟩)))
  · exact .inr (.inr (.inr (.inr (.inl ⟨rfl, rfl⟩))))
  · exact .inr (.inr (.inr (.inr (.inr ⟨_, rfl, rfl⟩))))

/-! Operand checks (R87, R278). -/

@[simp] theorem firstPz_nil : firstPz [] = none := rfl
@[simp] theorem firstPz_none (l : List (Option PRec)) : firstPz (none :: l) = firstPz l := rfl
@[simp] theorem firstPz_some (r : PRec) (l : List (Option PRec)) : firstPz (some r :: l) = some r := rfl

/-- The first record of a list of sources, as a search. -/
theorem firstPz_eq (l : List (Option PRec)) : firstPz l = l.findSome? id := by
  induction l with
  | nil => rfl
  | cons x rest ih => cases x <;> simp [ih]

/-- An instruction whose operands are clean goes on; otherwise it raises the poison-consumed trap with the first record. -/
theorem needClean_eq (e : Engine) (rs : List (Option PRec)) (k : Effect) :
    needClean e rs k = (match rs.findSome? id with | some r => poisonTrap e r | none => k) := by
  unfold needClean
  cases h : rs.findSome? id <;> simp only [firstPz_eq, h]

@[simp] theorem needClean_nil (e : Engine) (k : Effect) : needClean e [] k = k := rfl
@[simp] theorem needClean_none (e : Engine) (l : List (Option PRec)) (k : Effect) :
    needClean e (none :: l) k = needClean e l k := rfl
@[simp] theorem needClean_some (e : Engine) (r : PRec) (l : List (Option PRec)) (k : Effect) :
    needClean e (some r :: l) k = poisonTrap e r := rfl

/-! Results. -/

@[simp] theorem State.putS_none (s : State) (e : Engine) (lat : Nat) (sd : BitVec 6) (v : W64) :
    s.putS e lat sd v none = s.modCur (fun c => c.emitS e lat sd v none) := rfl
@[simp] theorem State.putS_some (s : State) (e : Engine) (lat : Nat) (sd : BitVec 6) (v : W64) (r : PRec) :
    s.putS e lat sd v (some r) = (s.modCur (fun c => c.emitS e lat sd s.freeW (some r))).bump := rfl
@[simp] theorem State.putP_none (s : State) (e : Engine) (lat n : Nat) (v m : W32) :
    s.putP e lat n v m none = s.modCur (fun c => c.emit e lat (.predicate n v m none)) := rfl
@[simp] theorem State.putP_some (s : State) (e : Engine) (lat n : Nat) (v m : W32) (r : PRec) :
    s.putP e lat n v m (some r) = (s.modCur (fun c => c.emit e lat (.predicate n (fld s.freeW 0 32) m (some r)))).bump := rfl

/-- A result in flight is one more entry of the list, and every other entry stays. -/
theorem mem_insertBy {α : Type} (before : α → α → Bool) (x y : α) (l : List α) :
    y ∈ insertBy before x l ↔ y = x ∨ y ∈ l := by
  induction l with
  | nil => simp [insertBy]
  | cons z rest ih =>
    simp only [insertBy]
    split
    · simp
    · simp only [List.mem_cons, ih]; tauto

theorem Core.mem_emit (c : Core) (e : Engine) (lat : Nat) (w : Write) (p : Pend) :
    p ∈ (c.emit e lat w).pend ↔ p = ⟨c.now + lat, c.now, e.rank, w⟩ ∨ p ∈ c.pend := mem_insertBy _ _ _ _

/-! Operand forms (R87). -/

/-- A register-register operation on clean sources. -/
theorem alu2_clean (s : State) (f : SReg) (lat : Nat) (op : W64 → W64 → W64)
    (ha : (s.cur.rs f.sa.toNat).pz = none) (hb : (s.cur.rs f.sb.toNat).pz = none) :
    alu2 s f lat op = .done (s.modCur (fun c => c.emitS .s lat f.sd (op (s.cur.rs f.sa.toNat).v (s.cur.rs f.sb.toNat).v) none)) := by
  simp [alu2, ha, hb]

/-- A one-source operation on a clean source. -/
theorem alu1_clean (s : State) (f : SReg) (lat : Nat) (op : W64 → W64) (ha : (s.cur.rs f.sa.toNat).pz = none) :
    alu1 s f lat op = .done (s.modCur (fun c => c.emitS .s lat f.sd (op (s.cur.rs f.sa.toNat).v) none)) := by
  simp [alu1, ha]

/-- A register-immediate operation on a clean source. -/
theorem aluImm_clean (s : State) (f : SImm) (op : W64 → W64 → W64) (ha : (s.cur.rs f.sa.toNat).pz = none) :
    aluImm s f op = .done (s.modCur (fun c => c.emitS .s 1 f.sd (op (s.cur.rs f.sa.toNat).v (f.imm.signExtend 64)) none)) := by
  simp [aluImm, ha, imm64]

/-- A three-source operation on clean sources. -/
theorem alu3_clean (s : State) (f : SReg) (lat : Nat) (op : W64 → W64 → W64 → W64)
    (ha : (s.cur.rs f.sa.toNat).pz = none) (hb : (s.cur.rs f.sb.toNat).pz = none) (hd : (s.cur.rs f.sd.toNat).pz = none) :
    alu3 s f lat op = .done (s.modCur (fun c => c.emitS .s lat f.sd
      (op (s.cur.rs f.sa.toNat).v (s.cur.rs f.sb.toNat).v (s.cur.rs f.sd.toNat).v) none)) := by
  simp [alu3, ha, hb, hd]

/-- A compare of clean sources. -/
theorem cmpTo_clean (s : State) (cc : BitVec 3) (sd sa : BitVec 6) (b : Tagged 64)
    (ha : (s.cur.rs sa.toNat).pz = none) (hb : b.pz = none) :
    cmpTo s cc sd sa b = .done (s.modCur (fun c => c.emit .s 1
      (.predicate (fld sd 2 4).toNat (condMask (condHolds cc (s.cur.rs sa.toNat).v b.v)) 0xFFFFFFFF none))) := by
  simp [cmpTo, ha, hb]

/-! Taking a trap (R216, R284 to R291). -/

/-- In handler mode a trap escalates with the handler's own fault. -/
theorem State.takeTrap_handler (s : State) (m : Mover) (t : TrapInfo) (h : ((s.atStop m).agent m).mode = .handler) :
    s.takeTrap m t = (s.atStop m).escalate m (causeWord t) ((s.atStop m).posWord m .s) := by
  unfold State.takeTrap
  simp only [h]

/-- A core whose record has a handler enters it, from the state in which it has stopped. -/
theorem State.takeTrap_enters (s d : State) (n line last : Nat) (t : TrapInfo) (hd : s.atStop (.core n) = d)
    (h : (d.core n).mode ≠ .handler) (hh : d.handler (d.core n) = some (line, last)) :
    s.takeTrap (.core n) t = State.pass (d.setAgent (.core n) { (d.core n).stopped (d.trapRegs (.core n) t) with
      mode := .handler
      now := (d.core n).now + 1
      es := { Seq.reset with free := (d.core n).now + 3, line := line, lane := 0 }
      fetch := { FetchUnit.reset with next := line, ready := (d.core n).now + 1 } }) (.core n) (d.cycleLen (.core n)) := by
  unfold State.takeTrap
  simp only [hd, State.agent_core, hh]

/-- A core whose record has no handler escalates. -/
theorem State.takeTrap_escalates (s d : State) (n : Nat) (t : TrapInfo) (hd : s.atStop (.core n) = d)
    (h : (d.core n).mode ≠ .handler) (hh : d.handler (d.core n) = none) :
    s.takeTrap (.core n) t = (d.setAgent (.core n) ((d.core n).stopped (d.trapRegs (.core n) t))).escalate (.core n) 0 0 := by
  unfold State.takeTrap
  simp only [hd, State.agent_core, hh]

/-- A command stream has no handler: its traps escalate. -/
theorem State.takeTrap_cp (s d : State) (x : Nat) (t : TrapInfo) (hd : s.atStop (.cp x) = d) (h : (d.agent (.cp x)).mode ≠ .handler) :
    s.takeTrap (.cp x) t = (d.setAgent (.cp x) ((d.agent (.cp x)).stopped (d.trapRegs (.cp x) t))).escalate (.cp x) 0 0 := by
  unfold State.takeTrap
  simp only [hd]

/-- With nothing on its way into the core's window, the stop only begins the copies that the core has issued. -/
theorem State.atStop_core (s : State) (n : Nat) (h : (s.core n).inbox = []) :
    s.atStop (.core n) = s.setCore n ((s.core n).beginCopies (s.copyStatus n)) := by
  simp [State.atStop, State.landInbox, h, State.begun, State.setAgent]

/-! Memory operations of the state. -/

/-- A write of bytes leaves every byte outside its range, and keeps the canonical form. -/
theorem State.wrB_rd_other (s : State) (a x : Nat) (d : List Byte) (p : Bool) (h : x < a ∨ a + d.length ≤ x) :
    (s.wrB a d p).mem.rd x = s.mem.rd x := Memory.rd_wrN_other _ _ _ _ h

theorem State.wrB_rd_at (s : State) (a i : Nat) (d : List Byte) (p : Bool) (h : i < d.length) :
    (s.wrB a d p).mem.rd (a + i) = d[i] := Memory.rd_wrN_at _ _ _ _ h

theorem State.wrB_wf (s : State) (a : Nat) (d : List Byte) (p : Bool) (h : s.mem.wf = true) : (s.wrB a d p).mem.wf = true :=
  Memory.wrN_wf _ _ _ h

theorem State.copyBytes_wf (s : State) (a b n : Nat) (h : s.mem.wf = true) : (s.copyBytes a b n).mem.wf = true :=
  Memory.copyRange_wf _ _ _ _ h

theorem State.zeroBytes_wf (s : State) (a n : Nat) (h : s.mem.wf = true) : (s.zeroBytes a n).mem.wf = true :=
  Memory.paste_wf _ _ _ _ h

end Sys2Proof.Machine
end

