-- ==== Sys2Proof/Tests/Slice0.lean ====
section
/-! SUPPORT. Tests of the model by its author: the words of the opcode table, the well-formedness checks, the worked examples of the spec, and for every statement with hypotheses a state and operands that meet them. -/

namespace Sys2Proof.Tests

set_option maxRecDepth 100000
set_option Elab.async false

open Sys2Proof Sys2Proof.Machine Sys2Proof.Claim

/-! One word of every encoded row, written from the masks, the matches and the fields of the opcode table and the forms of R59 to R65. -/

theorem test_decode_scalar_1 :
    decode .s ⟨0x02556A00, none, none, none⟩ = some (.add ⟨37, 21, 42, none⟩)
    ∧ decode .s ⟨0x02556A01, none, none, none⟩ = some (.sub ⟨37, 21, 42, none⟩)
    ∧ decode .s ⟨0x02556A02, none, none, none⟩ = some (.mul ⟨37, 21, 42, none⟩)
    ∧ decode .s ⟨0x02556A03, none, none, none⟩ = some (.mulh ⟨37, 21, 42, none⟩)
    ∧ decode .s ⟨0x02556A04, none, none, none⟩ = some (.mulhu ⟨37, 21, 42, none⟩)
    ∧ decode .s ⟨0x02556A05, none, none, none⟩ = some (.div ⟨37, 21, 42, none⟩)
    ∧ decode .s ⟨0x02556A06, none, none, none⟩ = some (.divu ⟨37, 21, 42, none⟩)
    ∧ decode .s ⟨0x02556A07, none, none, none⟩ = some (.rem ⟨37, 21, 42, none⟩)
    ∧ decode .s ⟨0x02556A08, none, none, none⟩ = some (.remu ⟨37, 21, 42, none⟩)
    ∧ decode .s ⟨0x02556A09, none, none, none⟩ = some (.min ⟨37, 21, 42, none⟩)
    ∧ decode .s ⟨0x02556A0A, none, none, none⟩ = some (.max ⟨37, 21, 42, none⟩)
    ∧ decode .s ⟨0x02556A0B, none, none, none⟩ = some (.minu ⟨37, 21, 42, none⟩) := by
  decide +kernel

theorem test_decode_scalar_2 :
    decode .s ⟨0x02556A0C, none, none, none⟩ = some (.maxu ⟨37, 21, 42, none⟩)
    ∧ decode .s ⟨0x02556A10, none, none, none⟩ = some (.and ⟨37, 21, 42, none⟩)
    ∧ decode .s ⟨0x02556A11, none, none, none⟩ = some (.or ⟨37, 21, 42, none⟩)
    ∧ decode .s ⟨0x02556A12, none, none, none⟩ = some (.xor ⟨37, 21, 42, none⟩)
    ∧ decode .s ⟨0x02556A13, none, none, none⟩ = some (.andn ⟨37, 21, 42, none⟩)
    ∧ decode .s ⟨0x02556A14, none, none, none⟩ = some (.shl ⟨37, 21, 42, none⟩)
    ∧ decode .s ⟨0x02556A15, none, none, none⟩ = some (.shr ⟨37, 21, 42, none⟩)
    ∧ decode .s ⟨0x02556A16, none, none, none⟩ = some (.sra ⟨37, 21, 42, none⟩)
    ∧ decode .s ⟨0x02554018, none, none, none⟩ = some (.clz ⟨37, 21, 0, none⟩)
    ∧ decode .s ⟨0x02554019, none, none, none⟩ = some (.ctz ⟨37, 21, 0, none⟩)
    ∧ decode .s ⟨0x0255401A, none, none, none⟩ = some (.popc ⟨37, 21, 0, none⟩)
    ∧ decode .s ⟨0x0255651B, none, none, none⟩ = some (.sext ⟨37, 21, 37, none⟩) := by
  decide +kernel

theorem test_decode_scalar_3 :
    decode .s ⟨0x0255651C, none, none, none⟩ = some (.zext ⟨37, 21, 37, none⟩)
    ∧ decode .s ⟨0x02556A1D, none, none, none⟩ = some (.bext ⟨37, 21, 42, none⟩)
    ∧ decode .s ⟨0x02556A1E, none, none, none⟩ = some (.bins ⟨37, 21, 42, none⟩)
    ∧ decode .s ⟨0x02554020, none, none, none⟩ = some (.mov ⟨37, 21, 0, none⟩)
    ∧ decode .s ⟨0x02556A21, none, none, none⟩ = some (.sel ⟨37, 21, 42, none⟩)
    ∧ decode .s ⟨0x02456A2D, none, none, none⟩ = some (.cmp 5 ⟨36, 21, 42, none⟩)
    ∧ decode .s ⟨0x065565A7, none, none, none⟩ = some (.addi ⟨37, 21, 9639, none⟩)
    ∧ decode .s ⟨0x0A5565A7, none, none, none⟩ = some (.andi ⟨37, 21, 9639, none⟩)
    ∧ decode .s ⟨0x0E5565A7, none, none, none⟩ = some (.ori ⟨37, 21, 9639, none⟩)
    ∧ decode .s ⟨0x125565A7, none, none, none⟩ = some (.xori ⟨37, 21, 9639, none⟩)
    ∧ decode .s ⟨0x16554025, none, none, none⟩ = some (.shli ⟨37, 21, 37, none⟩)
    ∧ decode .s ⟨0x1A554025, none, none, none⟩ = some (.shri ⟨37, 21, 37, none⟩) := by
  decide +kernel

theorem test_decode_scalar_4 :
    decode .s ⟨0x1E554025, none, none, none⟩ = some (.srai ⟨37, 21, 37, none⟩)
    ∧ decode .s ⟨0x22500000, some 0x89ABCDEF, none, none⟩ = some (.li ⟨37, 0, 0, none⟩ 0x89ABCDEF)
    ∧ decode .s ⟨0x26500000, some 0x12345678, none, none⟩ = some (.lih ⟨37, 0, 0, none⟩ 0x12345678)
    ∧ decode .s ⟨0x2A5565A7, none, none, none⟩ = some (.cmpiLo ⟨37, 21, 9639, none⟩)
    ∧ decode .s ⟨0x2E5565A7, none, none, none⟩ = some (.cmpiHi ⟨37, 21, 9639, none⟩)
    ∧ decode .s ⟨0x365565A7, none, none, none⟩ = some (.ld 1 ⟨37, 21, 9639, none⟩)
    ∧ decode .s ⟨0x465565A7, none, none, none⟩ = some (.st 1 ⟨37, 21, 9639, none⟩)
    ∧ decode .s ⟨0x565565A7, none, none, none⟩ = some (.ldSpec 1 ⟨37, 21, 9639, none⟩)
    ∧ decode .s ⟨0x62555801, none, none, none⟩ = some (.lda 1 ⟨37, 21, 24, none⟩)
    ∧ decode .s ⟨0x62555003, none, none, none⟩ = some (.stl 1 ⟨37, 21, 16, none⟩)
    ∧ decode .s ⟨0x62556A05, none, none, none⟩ = some (.cas 1 ⟨37, 21, 42, none⟩)
    ∧ decode .s ⟨0x62556A25, none, none, none⟩ = some (.amo 1 5 ⟨37, 21, 42, none⟩) := by
  decide +kernel

theorem test_decode_scalar_5 :
    decode .s ⟨0x6400001A, none, none, none⟩ = some (.fence 3 2 ⟨0, 0, 0, none⟩)
    ∧ decode .s ⟨0x64000040, none, none, none⟩ = some (.pfen ⟨0, 0, 0, none⟩)
    ∧ decode .s ⟨0x64256A80, none, none, none⟩ = some (.probe ⟨2, 21, 42, none⟩)
    ∧ decode .s ⟨0x64056A81, none, none, none⟩ = some (.unpin ⟨0, 21, 42, none⟩)
    ∧ decode .s ⟨0x6A694000, none, none, none⟩ = some (.trap ⟨38, 37, 0, none⟩)
    ∧ decode .s ⟨0x68000001, none, none, none⟩ = some (.uhret ⟨0, 0, 0, none⟩)
    ∧ decode .s ⟨0x68000002, none, none, none⟩ = some (.decline ⟨0, 0, 0, none⟩)
    ∧ decode .s ⟨0x68054003, none, none, none⟩ = some (.clkdiv ⟨0, 21, 0, none⟩)
    ∧ decode .s ⟨0x6AA94004, none, none, none⟩ = some (.chk ⟨42, 37, 0, none⟩)
    ∧ decode .s ⟨0x68000005, none, none, none⟩ = some (.yield ⟨0, 0, 0, none⟩)
    ∧ decode .s ⟨0x68056A06, none, none, none⟩ = some (.npost ⟨0, 21, 42, none⟩)
    ∧ decode .s ⟨0x6A556A07, none, none, none⟩ = some (.lpost ⟨37, 21, 42, none⟩) := by
  decide +kernel

theorem test_decode_scalar_6 :
    decode .s ⟨0x69354008, none, none, none⟩ = some (.tkset ⟨19, 21, 0, none⟩)
    ∧ decode .s ⟨0x6A54C009, none, none, none⟩ = some (.tkrd ⟨37, 19, 0, none⟩)
    ∧ decode .s ⟨0x6E5025A7, none, none, none⟩ = some (.sysrd ⟨37, 0, 9639, none⟩)
    ∧ decode .s ⟨0x700565A7, none, none, none⟩ = some (.syswr ⟨0, 21, 9639, none⟩)
    ∧ decode .s ⟨0x8272A5B3, none, none, none⟩ = some (.br ⟨9, 1, 1222067, none⟩)
    ∧ decode .s ⟨0x8672A5B3, none, none, none⟩ = some (.call ⟨9, 1, 1222067, none⟩)
    ∧ decode .s ⟨0x8A72A5B3, none, none, none⟩ = some (.jmpi ⟨9, 1, 1222067, none⟩)
    ∧ decode .s ⟨0x8C054000, none, none, none⟩ = some (.jmp ⟨0, 21, 0, none⟩)
    ∧ decode .s ⟨0x8C054001, none, none, none⟩ = some (.ret ⟨0, 21, 0, none⟩)
    ∧ decode .s ⟨0x8C000002, none, none, none⟩ = some (.halt ⟨0, 0, 0, none⟩)
    ∧ decode .s ⟨0x925000A5, none, none, none⟩ = some (.barv ⟨37, 0, 165, none⟩)
    ∧ decode .s ⟨0x965540A5, none, none, none⟩ = some (.barw ⟨37, 21, 165, none⟩) := by
  decide +kernel

theorem test_decode_scalar_7 :
    decode .s ⟨0x9A5558A5, none, none, none⟩ = some (.barred ⟨37, 21, 6309, none⟩)
    ∧ decode .s ⟨0x9C924901, none, none, none⟩ = some (.plog 1 ⟨9, 9, 9, none⟩)
    ∧ decode .s ⟨0x9C956A08, none, none, none⟩ = some (.pset ⟨9, 21, 42, none⟩)
    ∧ decode .s ⟨0x9E524009, none, none, none⟩ = some (.movpToScalar ⟨37, 9, 0, none⟩)
    ∧ decode .s ⟨0x9C95400A, none, none, none⟩ = some (.movpToPredicate ⟨9, 21, 0, none⟩)
    ∧ decode .s ⟨0xA2556A00, none, none, none⟩ = some (.ecprot ⟨37, 21, 42, none⟩)
    ∧ decode .s ⟨0xA2554001, none, none, none⟩ = some (.ecunprot ⟨37, 21, 0, none⟩)
    ∧ decode .s ⟨0xA2556A02, none, none, none⟩ = some (.ecseal ⟨37, 21, 42, none⟩)
    ∧ decode .s ⟨0xA2554003, none, none, none⟩ = some (.ecclose ⟨37, 21, 0, none⟩)
    ∧ decode .s ⟨0xA2500004, none, none, none⟩ = some (.ecstat ⟨37, 0, 0, none⟩)
    ∧ decode .s ⟨0xFC000000, none, none, none⟩ = some (.nop .s none) := by
  decide +kernel

theorem test_decode_command_processor_1 :
    decode .cp ⟨0xA6556A50, none, none, none⟩ = some (.semwge ⟨37, 21, 677, none⟩)
    ∧ decode .cp ⟨0xA6556A51, none, none, none⟩ = some (.semadd ⟨37, 21, 677, none⟩)
    ∧ decode .cp ⟨0xA4056A52, none, none, none⟩ = some (.semset ⟨0, 21, 677, none⟩)
    ∧ decode .cp ⟨0xAA554980, none, none, none⟩ = some (.qsub ⟨37, 21, 9, 1, none⟩)
    ∧ decode .cp ⟨0xA8054001, none, none, none⟩ = some (.intr ⟨0, 21, 0, 0, none⟩) := by
  decide +kernel

theorem test_decode_load_1 :
    decode .l ⟨0xF26025A7, none, none, none⟩ = some (.loopImm .l ⟨19, 9639, none⟩)
    ∧ decode .l ⟨0xF660A5C3, none, none, none⟩ = some (.sig .l ⟨19, 42435, none⟩)
    ∧ decode .l ⟨0x02969D00, none, none, none⟩ = some (.vrd ⟨165, 2, 19, 5, none⟩)
    ∧ decode .l ⟨0x06A96CD3, none, none, none⟩ = some (.vld ⟨42, 37, 11475, none⟩)
    ∧ decode .l ⟨0x0AA96800, none, none, none⟩ = some (.gath ⟨42, 37, 10240, none⟩)
    ∧ decode .l ⟨0x0EA96960, none, none, none⟩ = some (.mldH ⟨42, 37, 10592, none⟩)
    ∧ decode .l ⟨0x12A96950, none, none, none⟩ = some (.mldV ⟨42, 37, 10576, none⟩)
    ∧ decode .l ⟨0x16959D00, none, none, none⟩ = some (.sprd ⟨165, 1, 19, 5, none⟩)
    ∧ decode .l ⟨0x22594009, none, none, none⟩ = some (.xld ⟨37, 37, 9, none⟩)
    ∧ decode .l ⟨0x26594009, none, none, none⟩ = some (.xldT ⟨37, 37, 9, none⟩)
    ∧ decode .l ⟨0x2A594009, none, none, none⟩ = some (.xldn ⟨37, 37, 9, none⟩)
    ∧ decode .l ⟨0x2E594009, none, none, none⟩ = some (.xldf ⟨37, 37, 9, none⟩) := by
  decide +kernel

theorem test_decode_load_2 :
    decode .l ⟨0x42594009, none, none, none⟩ = some (.odset ⟨37, 37, 9, none⟩)
    ∧ decode .l ⟨0x46A94009, none, none, none⟩ = some (.cdset ⟨42, 37, 9, none⟩)
    ∧ decode .l ⟨0x4A5025D5, none, none, none⟩ = some (.waitcPosting .l ⟨37, 0, 9685, none⟩)
    ∧ decode .l ⟨0x4D502500, none, none, none⟩ = some (.seqset ⟨21, 0, 9472, none⟩) := by
  decide +kernel

theorem test_decode_store_1 :
    decode .w ⟨0xFD000000, none, none, none⟩ = some (.pfenMark .w none)
    ∧ decode .w ⟨0x4A596500, none, none, none⟩ = some (.waitcChunk .w ⟨37, 37, 9472, none⟩)
    ∧ decode .w ⟨0x02AA5A73, none, none, none⟩ = some (.mst ⟨42, 165, 2, 19, 19, none⟩)
    ∧ decode .w ⟨0x06AA5673, none, none, none⟩ = some (.spwr ⟨42, 165, 1, 19, 19, none⟩)
    ∧ decode .w ⟨0x0AA94000, none, none, none⟩ = some (.scat ⟨42, 37, 0, none⟩)
    ∧ decode .w ⟨0x22594009, none, none, none⟩ = some (.xst ⟨37, 37, 9, none⟩)
    ∧ decode .w ⟨0x26594009, none, none, none⟩ = some (.xstn ⟨37, 37, 9, none⟩)
    ∧ decode .w ⟨0x2A594009, none, none, none⟩ = some (.xstf ⟨37, 37, 9, none⟩)
    ∧ decode .w ⟨0x2D596550, none, none, none⟩ = some (.stb ⟨21, 37, 9552, none⟩)
    ∧ decode .w ⟨0x32554001, none, none, none⟩ = some (.bclose ⟨37, 21, 1, none⟩)
    ∧ decode .w ⟨0x42A94000, none, none, none⟩ = some (.pub ⟨42, 37, 0, none⟩) := by
  decide +kernel

theorem test_decode_execute_1 :
    decode .x ⟨0xF2794000, none, none, none⟩ = some (.loopReg .x ⟨19, 37, none⟩)
    ∧ decode .x ⟨0xFA60A5C3, none, none, none⟩ = some (.wait .x ⟨19, 42435, none⟩)
    ∧ decode .x ⟨0x02959DAA, none, none, none⟩ = some (.vadd ⟨165, 1, 19, 5, 5, 10, none, none⟩)
    ∧ decode .x ⟨0x06959DAA, none, none, none⟩ = some (.vsub ⟨165, 1, 19, 5, 5, 10, none, none⟩)
    ∧ decode .x ⟨0x0A959DAA, none, none, none⟩ = some (.vmul ⟨165, 1, 19, 5, 5, 10, none, none⟩)
    ∧ decode .x ⟨0x0E959DAA, some 0x3F800000, none, none⟩ = some (.vfma ⟨165, 1, 19, 5, 5, 10, none, none⟩ 0x3F800000)
    ∧ decode .x ⟨0x12959DAA, some 0xFFFFFFC7, none, none⟩ = some (.vfms ⟨165, 1, 19, 5, 5, 10, none, none⟩ 0xFFFFFFC7)
    ∧ decode .x ⟨0x16959DAA, some 0x40000000, none, none⟩ = some (.vfnma ⟨165, 1, 19, 5, 5, 10, none, none⟩ 0x40000000)
    ∧ decode .x ⟨0x1A959DAA, none, none, none⟩ = some (.vmin ⟨165, 1, 19, 5, 5, 10, none, none⟩)
    ∧ decode .x ⟨0x1E959DAA, none, none, none⟩ = some (.vmax ⟨165, 1, 19, 5, 5, 10, none, none⟩)
    ∧ decode .x ⟨0x22959DAA, none, none, none⟩ = some (.vminnum ⟨165, 1, 19, 5, 5, 10, none, none⟩)
    ∧ decode .x ⟨0x26959DAA, none, none, none⟩ = some (.vmaxnum ⟨165, 1, 19, 5, 5, 10, none, none⟩) := by
  decide +kernel

theorem test_decode_execute_2 :
    decode .x ⟨0x2A959D0A, none, none, none⟩ = some (.vrcp ⟨165, 1, 19, 5, 0, 10, none, none⟩)
    ∧ decode .x ⟨0x2E959D0A, none, none, none⟩ = some (.vrsq ⟨165, 1, 19, 5, 0, 10, none, none⟩)
    ∧ decode .x ⟨0x32959D0A, none, none, none⟩ = some (.vsqrt ⟨165, 1, 19, 5, 0, 10, none, none⟩)
    ∧ decode .x ⟨0x36959D0A, none, none, none⟩ = some (.vexp2 ⟨165, 1, 19, 5, 0, 10, none, none⟩)
    ∧ decode .x ⟨0x3A959D0A, none, none, none⟩ = some (.vlog2 ⟨165, 1, 19, 5, 0, 10, none, none⟩)
    ∧ decode .x ⟨0x3C249DB4, none, none, none⟩ = some (.vcmp ⟨9, 0, 19, 5, 5, 20, none, none⟩)
    ∧ decode .x ⟨0x42959D08, none, none, none⟩ = some (.vclass ⟨165, 1, 19, 5, 0, 8, none, none⟩)
    ∧ decode .x ⟨0x46959DB4, none, none, none⟩ = some (.viadd ⟨165, 1, 19, 5, 5, 20, none, none⟩)
    ∧ decode .x ⟨0x4A959DB4, none, none, none⟩ = some (.visub ⟨165, 1, 19, 5, 5, 20, none, none⟩)
    ∧ decode .x ⟨0x4E959DB4, none, none, none⟩ = some (.vimul ⟨165, 1, 19, 5, 5, 20, none, none⟩)
    ∧ decode .x ⟨0x52959DB4, none, none, none⟩ = some (.vimulh ⟨165, 1, 19, 5, 5, 20, none, none⟩)
    ∧ decode .x ⟨0x56959DB4, some 0x7, none, none⟩ = some (.vimad ⟨165, 1, 19, 5, 5, 20, none, none⟩ 0x7) := by
  decide +kernel

theorem test_decode_execute_3 :
    decode .x ⟨0x5A959DA4, none, none, none⟩ = some (.viaddw ⟨165, 1, 19, 5, 5, 4, none, none⟩)
    ∧ decode .x ⟨0x5E959DA4, some 0x9, none, none⟩ = some (.vimadw ⟨165, 1, 19, 5, 5, 4, none, none⟩ 0x9)
    ∧ decode .x ⟨0x62959DB4, none, none, none⟩ = some (.vand ⟨165, 1, 19, 5, 5, 20, none, none⟩)
    ∧ decode .x ⟨0x66959DB4, none, none, none⟩ = some (.vor ⟨165, 1, 19, 5, 5, 20, none, none⟩)
    ∧ decode .x ⟨0x6A959DB4, none, none, none⟩ = some (.vxor ⟨165, 1, 19, 5, 5, 20, none, none⟩)
    ∧ decode .x ⟨0x6E959DB4, none, none, none⟩ = some (.vshl ⟨165, 1, 19, 5, 5, 20, none, none⟩)
    ∧ decode .x ⟨0x72959DB4, none, none, none⟩ = some (.vshr ⟨165, 1, 19, 5, 5, 20, none, none⟩)
    ∧ decode .x ⟨0x76959DB4, none, none, none⟩ = some (.vsra ⟨165, 1, 19, 5, 5, 20, none, none⟩)
    ∧ decode .x ⟨0x7A959DB4, none, none, none⟩ = some (.vimin ⟨165, 1, 19, 5, 5, 20, none, none⟩)
    ∧ decode .x ⟨0x7E959DB4, none, none, none⟩ = some (.vimax ⟨165, 1, 19, 5, 5, 20, none, none⟩)
    ∧ decode .x ⟨0x82959D14, none, none, none⟩ = some (.vclz ⟨165, 1, 19, 5, 0, 20, none, none⟩)
    ∧ decode .x ⟨0x86959D14, none, none, none⟩ = some (.vpopc ⟨165, 1, 19, 5, 0, 20, none, none⟩) := by
  decide +kernel

theorem test_decode_execute_4 :
    decode .x ⟨0x8A959D02, some 0x3010, none, none⟩ = some (.vcvt ⟨165, 1, 19, 5, 0, 2, none, none⟩ 0x3010)
    ∧ decode .x ⟨0x8E959D02, some 0x10002, none, none⟩ = some (.vqmx ⟨165, 1, 19, 5, 0, 2, none, none⟩ 0x10002)
    ∧ decode .x ⟨0x92959D02, some 0x10002, none, none⟩ = some (.vdqmx ⟨165, 1, 19, 5, 0, 2, none, none⟩ 0x10002)
    ∧ decode .x ⟨0x96959DAA, none, none, none⟩ = some (.vscan ⟨165, 1, 19, 5, 5, 10, none, none⟩)
    ∧ decode .x ⟨0x9A959D04, none, none, none⟩ = some (.vscanWide ⟨165, 1, 19, 5, 0, 4, none, none⟩)
    ∧ decode .x ⟨0x9E959D34, none, none, none⟩ = some (.vred ⟨165, 1, 19, 5, 1, 20, none, none⟩)
    ∧ decode .x ⟨0xA2959DA0, none, none, none⟩ = some (.vperm ⟨165, 1, 19, 5, 5, 0, none, none⟩)
    ∧ decode .x ⟨0xA6959D00, some 0x5, none, none⟩ = some (.vrot ⟨165, 1, 19, 5, 0, 0, none, none⟩ 0x5)
    ∧ decode .x ⟨0xAA959814, some 0xFFFFFFC3, none, none⟩ = some (.vbcast ⟨165, 1, 19, 0, 0, 20, none, none⟩ 0xFFFFFFC3)
    ∧ decode .x ⟨0xAE959DA0, some 0x13, none, none⟩ = some (.vsel ⟨165, 1, 19, 5, 5, 0, none, none⟩ 0x13)
    ∧ decode .x ⟨0xB0940514, some 0x11, none, none⟩ = some (.vext ⟨37, 0, 0, 5, 0, 20, none, none⟩ 0x11)
    ∧ decode .x ⟨0xB6959814, some 0x511, none, none⟩ = some (.vins ⟨165, 1, 19, 0, 0, 20, none, none⟩ 0x511) := by
  decide +kernel

theorem test_decode_execute_5 :
    decode .x ⟨0xBA959D00, none, none, none⟩ = some (.vmov ⟨165, 1, 19, 5, 0, 0, none, none⟩)
    ∧ decode .x ⟨0xBE959814, none, none, none⟩ = some (.vlane ⟨165, 1, 19, 0, 0, 20, none, none⟩)
    ∧ decode .x ⟨0xC2A5999E, none, none, none⟩ = some (.mma ⟨677, 9, 9, 9, 14, none⟩)
    ∧ decode .x ⟨0xC6A5999E, none, none, none⟩ = some (.mmac ⟨677, 9, 9, 9, 14, none⟩)
    ∧ decode .x ⟨0xCAA5999E, none, none, none⟩ = some (.mmar ⟨677, 9, 9, 9, 14, none⟩)
    ∧ decode .x ⟨0xCEA5999E, none, none, none⟩ = some (.mconv ⟨677, 9, 9, 9, 14, none⟩)
    ∧ decode .x ⟨0xD0000000, some 0x1000, none, none⟩ = some (.mshape ⟨0, 0, 0, 0, 0, none⟩ 0x1000)
    ∧ decode .x ⟨0xD6A5A500, none, none, none⟩ = some (.accz ⟨677, 10, 5, 0, 0, none⟩)
    ∧ decode .x ⟨0xDAA50000, some 0x114, none, none⟩ = some (.accrd ⟨677, 0, 0, 0, 0, none⟩ 0x114)
    ∧ decode .x ⟨0xDEA50000, some 0x14, none, none⟩ = some (.accwr ⟨677, 0, 0, 0, 0, none⟩ 0x14)
    ∧ decode .x ⟨0xE2A50000, some 0x24000003, none, none⟩ = some (.accarm ⟨677, 0, 0, 0, 0, none⟩ 0x24000003)
    ∧ decode .x ⟨0xE6590000, none, none, none⟩ = some (.mexc ⟨601, 0, 0, 0, 0, none⟩) := by
  decide +kernel

/-! The well-formedness checks: for each of them a term that it refuses (R8, R60, R65, R73, R74), and the well-formed neighbour that differs in that one field. -/

/-- Register words with one field set. -/
def wfD : SReg := ⟨1, 0, 0, none⟩
def wfA : SReg := ⟨0, 1, 0, none⟩
def wfB : SReg := ⟨0, 0, 1, none⟩
def wfI (i : BitVec 14) : SImm := ⟨3, 4, i, none⟩

theorem test_wf_scalar_group :
    ([Instr.clz wfB, .ctz wfB, .popc wfB, .mov wfB, .cmp 0 wfD, .shli (wfI 64), .shri (wfI 0x2000), .srai (wfI 65),
      .li ⟨1, 2, 0, none⟩ 0, .li ⟨1, 0, 2, none⟩ 0, .lih ⟨1, 2, 0, none⟩ 0, .lih ⟨1, 0, 2, none⟩ 0].any Instr.wf = false)
    ∧ ([Instr.clz wfD, .ctz wfA, .popc wfD, .mov wfA, .cmp 7 wfA, .shli (wfI 63), .shri (wfI 63), .srai (wfI 0),
      .li ⟨1, 0, 0, none⟩ 5, .lih ⟨1, 0, 0, none⟩ 5].all Instr.wf = true) := by
  decide +kernel

theorem test_wf_memory_group :
    ([Instr.lda 0 ⟨1, 2, 0x28, none⟩, .lda 0 wfB, .stl 1 ⟨1, 2, 0x30, none⟩, .stl 1 wfB, .amo 0 9 wfA, .fence 5 0 ⟨0, 0, 0, none⟩,
      .fence 0 5 ⟨0, 0, 0, none⟩, .fence 0 0 wfD, .fence 0 0 wfA, .fence 0 0 wfB, .pfen wfD, .pfen wfA, .pfen wfB, .probe ⟨3, 1, 1, none⟩, .probe ⟨4, 1, 1, none⟩,
      .unpin wfD].any Instr.wf = false)
    ∧ ([Instr.lda 0 ⟨1, 2, 0x20, none⟩, .stl 1 ⟨1, 2, 8, none⟩, .amo 0 8 wfA, .fence 4 4 ⟨0, 0, 0, none⟩, .pfen ⟨0, 0, 0, none⟩, .probe ⟨2, 1, 1, none⟩, .unpin wfA].all Instr.wf = true) := by
  decide +kernel

theorem test_wf_system_group :
    ([Instr.trap wfB, .uhret wfD, .uhret wfA, .uhret wfB, .decline wfA, .clkdiv wfD, .clkdiv wfB, .chk ⟨0x30, 0, 0, none⟩, .chk wfB, .yield wfD, .npost wfD,
      .tkset ⟨0x20, 0, 0, none⟩, .tkset wfB, .tkrd ⟨0, 0x20, 0, none⟩, .tkrd wfB, .sysrd (wfI 0), .syswr (wfI 0)].any Instr.wf = false)
    ∧ ([Instr.trap wfD, .uhret ⟨0, 0, 0, none⟩, .clkdiv wfA, .chk ⟨0x2F, 0x3F, 0, none⟩, .npost wfB, .tkset ⟨0x1F, 1, 0, none⟩, .tkrd ⟨0x3F, 0x1F, 0, none⟩,
      .sysrd ⟨3, 0, 0x46, none⟩, .syswr ⟨0, 3, 9, none⟩].all Instr.wf = true) := by
  decide +kernel

theorem test_wf_control_barrier_predicate_groups :
    ([Instr.jmp wfD, .jmp wfB, .ret wfD, .halt wfA, .barv ⟨1, 1, 0, none⟩, .barv ⟨1, 0, 0x100, none⟩, .barw ⟨1, 1, 0x100, none⟩, .barred ⟨1, 1, 0x2800, none⟩,
      .barred ⟨1, 1, 0x100, none⟩, .plog 0 ⟨16, 0, 0, none⟩, .plog 0 ⟨0, 16, 0, none⟩, .plog 0 ⟨0, 0, 16, none⟩, .pset ⟨16, 0, 0, none⟩, .movpToScalar ⟨0, 16, 0, none⟩,
      .movpToScalar wfB, .movpToPredicate ⟨16, 0, 0, none⟩, .movpToPredicate wfB, .ecunprot wfB, .ecclose wfB, .ecstat wfA, .ecstat wfB, .semset ⟨1, 0, 0, none⟩,
      .intr ⟨1, 0, 0, 0, none⟩, .intr ⟨0, 0, 1, 0, none⟩, .intr ⟨0, 0, 0, 1, none⟩, .loopImm .s ⟨0, 1, some 5⟩, .loopReg .l ⟨0, 1, some 5⟩].any Instr.wf = false)
    ∧ ([Instr.jmp wfA, .halt ⟨0, 0, 0, none⟩, .barv ⟨1, 0, 0xFF, none⟩, .barred ⟨1, 1, 0x20FF, none⟩, .plog 3 ⟨15, 15, 15, none⟩, .movpToScalar ⟨63, 15, 0, none⟩,
      .movpToPredicate ⟨15, 63, 0, none⟩, .ecstat wfD, .semset ⟨0, 1, 5, none⟩, .intr ⟨0, 1, 0, 0, none⟩, .loopImm .s ⟨31, 0x3FFF, none⟩].all Instr.wf = true) := by
  decide +kernel

theorem test_wf_load_and_store_words :
    ([Instr.vrd ⟨1, 3, 0, 0, none⟩, .sprd ⟨1, 3, 0, 0, none⟩, .mst ⟨1, 1, 3, 0, 0, none⟩, .spwr ⟨1, 1, 3, 0, 0, none⟩, .gath ⟨1, 2, 1, none⟩, .mldH ⟨1, 2, 1, none⟩,
      .mldH ⟨1, 2, 0x30, none⟩, .mldV ⟨1, 2, 8, none⟩, .mldV ⟨1, 2, 0x30, none⟩, .xld ⟨1, 2, 16, none⟩, .xldT ⟨1, 2, 16, none⟩, .xldn ⟨1, 2, 16, none⟩, .xldf ⟨1, 2, 16, none⟩,
      .odset ⟨1, 2, 16, none⟩, .cdset ⟨1, 2, 16, none⟩, .waitcChunk .l ⟨1, 2, 1, none⟩, .waitcChunk .s ⟨1, 2, 0, none⟩, .waitcPosting .w ⟨1, 2, 0x81, none⟩,
      .waitcPosting .w ⟨1, 0, 0x01, none⟩, .waitcPosting .x ⟨1, 0, 0x81, none⟩, .seqset ⟨1, 2, 0, none⟩, .seqset ⟨1, 0, 1, none⟩, .scat ⟨1, 2, 1, none⟩, .xst ⟨1, 2, 16, none⟩,
      .xstn ⟨1, 2, 16, none⟩, .xstf ⟨1, 2, 16, none⟩, .stb ⟨1, 2, 1, none⟩, .bclose ⟨1, 2, 4, none⟩, .pub ⟨1, 2, 1, none⟩].any Instr.wf = false)
    ∧ ([Instr.vrd ⟨255, 2, 31, 7, none⟩, .mst ⟨1, 1, 2, 31, 31, none⟩, .gath ⟨1, 2, 0x3800, none⟩, .mldH ⟨1, 2, 0x3FE0, none⟩, .xld ⟨1, 2, 15, none⟩, .waitcChunk .w ⟨1, 2, 0x3F00, none⟩,
      .waitcPosting .l ⟨1, 0, 0x3FFF, none⟩, .seqset ⟨1, 0, 0x3F00, none⟩, .stb ⟨1, 2, 0x3FF0, none⟩, .bclose ⟨1, 2, 3, none⟩, .pub ⟨1, 2, 0, none⟩].all Instr.wf = true) := by
  decide +kernel

/-- A vector word with a direction, a second queue, a type field and a modifier word. -/
def wfV (dir : BitVec 2) (qb : BitVec 3) (tr : BitVec 5) (md : ModWord) : XVec := ⟨10, dir, 3, 1, qb, tr, none, md⟩

theorem test_wf_modifier_words :
    ([(some 0x40000000 : ModWord), some 0x01000000, some 0x20000000, some 0x00040000, some 0x00001000, some 0x00000C00].any (fun md => (Instr.viadd (wfV 0 0 0 md)).wf) = false)
    ∧ ([(some 0x34000000 : ModWord), some 0x00FFF800, some 0x000003FF].all (fun md => (Instr.viadd (wfV 0 0 0 md)).wf) = true)
    ∧ ([Instr.vcmp ⟨0, 0, 16, 1, 2, 0, none, some 0x00000001⟩, .vclass (wfV 0 0 0 (some 0x00000400)), .vqmx (wfV 0 0 0 (some 0)) 0, .vdqmx (wfV 0 0 0 (some 0)) 0,
        .vperm (wfV 0 0 0 (some 0)), .vrot (wfV 0 0 0 (some 0)) 0, .vbcast ⟨1, 0, 0, 0, 0, 0, none, some 0⟩ 0, .vsel (wfV 0 0 0 (some 0)) 0, .vext ⟨1, 0, 0, 1, 0, 0, none, some 0⟩ 0,
        .vins ⟨1, 0, 0, 0, 0, 0, none, some 0⟩ 0, .vmov (wfV 0 0 0 (some 0)), .vlane ⟨1, 0, 0, 0, 0, 0, none, some 0⟩].any Instr.wf = false) := by
  decide +kernel

theorem test_wf_vector_types :
    ([Instr.vadd (wfV 3 0 0 none), .vadd (wfV 0 0 24 none), .vsub (wfV 0 0 5 none), .vmul (wfV 3 0 0 none), .vfma (wfV 0 0 7 none) 0, .vfms (wfV 3 0 0 none) 0, .vfnma (wfV 0 0 25 none) 0,
      .vmin (wfV 0 0 6 none), .vmax (wfV 3 0 0 none), .vminnum (wfV 0 0 5 none), .vmaxnum (wfV 0 0 31 none), .vrcp (wfV 0 1 0 none), .vrsq (wfV 0 1 0 none), .vsqrt (wfV 0 1 0 none),
      .vexp2 (wfV 0 1 0 none), .vlog2 (wfV 0 1 0 none), .vrcp (wfV 0 0 5 none), .vrsq (wfV 3 0 0 none), .vclass (wfV 0 0 1 none), .vclass (wfV 0 0 24 none), .vclass (wfV 0 1 0 none), .vclass (wfV 3 0 0 none),
      .vcmp ⟨16, 0, 16, 1, 2, 0, none, none⟩, .vcmp ⟨0, 1, 16, 1, 2, 0, none, none⟩, .vcmp ⟨0, 0, 22, 1, 2, 0, none, none⟩, .vcmp ⟨0, 0, 16, 1, 2, 1, none, none⟩, .vcmp ⟨0, 0, 8, 1, 2, 0, none, none⟩,
      .vcmp ⟨0, 0, 0, 1, 2, 24, none, none⟩, .vcmp ⟨0, 0, 0, 1, 2, 1, none, none⟩].any Instr.wf = false)
    ∧ ([Instr.vadd (wfV 2 7 20 none), .vrcp (wfV 1 0 12 none), .vclass (wfV 2 0 16 none), .vcmp ⟨15, 0, 21, 1, 2, 28, none, none⟩, .vcmp ⟨15, 0, 7, 1, 2, 16, none, none⟩].all Instr.wf = true) := by
  decide +kernel

theorem test_wf_vector_integers_and_moves :
    ([Instr.viadd (wfV 3 0 0 none), .visub (wfV 3 0 0 none), .vimul (wfV 3 0 0 none), .vimulh (wfV 3 0 0 none), .vimad (wfV 3 0 0 none) 0, .viaddw (wfV 0 0 8 none), .viaddw (wfV 3 0 0 none),
      .vimadw (wfV 0 0 8 none) 0, .vand (wfV 3 0 0 none), .vor (wfV 3 0 0 none), .vxor (wfV 3 0 0 none), .vshl (wfV 3 0 0 none), .vshr (wfV 3 0 0 none), .vsra (wfV 3 0 0 none), .vimin (wfV 3 0 0 none),
      .vimax (wfV 3 0 0 none), .vclz (wfV 0 1 0 none), .vclz (wfV 3 0 0 none), .vpopc (wfV 0 1 0 none), .vcvt (wfV 0 0 8 none) 0, .vcvt (wfV 0 0 5 none) 0, .vcvt (wfV 0 1 0 none) 0, .vcvt (wfV 0 0 0 none) 0x10000,
      .vcvt (wfV 0 0 0 none) 0x80, .vcvt (wfV 0 0 0 none) 1, .vcvt (wfV 0 0 0 none) 0xE000, .vcvt (wfV 0 0 0 none) 0xE00, .vcvt (wfV 0 0 4 none) 0x6000, .vqmx (wfV 0 0 8 none) 0, .vqmx (wfV 0 1 0 none) 0,
      .vqmx (wfV 0 0 0 none) 0x80000, .vqmx (wfV 0 0 0 none) 0x30000, .vqmx (wfV 0 0 0 none) 0x4000, .vqmx (wfV 0 0 0 none) 8, .vdqmx (wfV 0 0 0 none) 0x40000, .vscan (wfV 0 3 0 none), .vscan (wfV 0 4 24 none),
      .vscan (wfV 3 0 0 none), .vscanWide (wfV 0 1 0 none), .vscanWide (wfV 0 0 8 none), .vred (wfV 0 7 0 none), .vred (wfV 3 0 0 none), .vperm (wfV 0 0 1 none), .vperm (wfV 3 0 0 none), .vrot (wfV 0 0 1 none) 0,
      .vrot (wfV 0 1 0 none) 0, .vbcast (wfV 0 0 0 none) 0, .vbcast ⟨1, 0, 0, 0, 1, 0, none, none⟩ 0, .vbcast ⟨1, 0, 0, 0, 0, 1, none, none⟩ 0, .vsel (wfV 0 0 1 none) 0, .vsel (wfV 0 0 0 none) 0x20,
      .vext ⟨64, 0, 0, 1, 0, 0, none, none⟩ 0, .vext ⟨1, 1, 0, 1, 0, 0, none, none⟩ 0, .vext ⟨1, 0, 1, 1, 0, 0, none, none⟩ 0, .vext ⟨1, 0, 0, 1, 1, 0, none, none⟩ 0, .vext ⟨1, 0, 0, 1, 0, 2, none, none⟩ 0,
      .vext ⟨1, 0, 0, 1, 0, 0, none, none⟩ 0x100, .vins (wfV 0 0 0 none) 0, .vins ⟨1, 0, 0, 0, 1, 0, none, none⟩ 0, .vins ⟨1, 0, 0, 0, 0, 3, none, none⟩ 0, .vins ⟨1, 0, 0, 0, 0, 0, none, none⟩ 0x4000,
      .vmov (wfV 0 0 1 none), .vmov (wfV 0 1 0 none), .vlane (wfV 0 0 0 none), .vlane ⟨1, 0, 0, 0, 1, 0, none, none⟩, .vlane ⟨1, 0, 0, 0, 0, 1, none, none⟩, .vlane ⟨1, 3, 0, 0, 0, 0, none, none⟩].any Instr.wf = false)
    ∧ ([Instr.viaddw (wfV 0 7 7 none), .vcvt (wfV 0 0 4 none) 0x5D70, .vqmx (wfV 0 0 4 none) 0x63F07, .vdqmx (wfV 0 0 4 none) 0x23F07, .vscan (wfV 0 6 20 none), .vred (wfV 2 2 31 none),
      .vext ⟨63, 0, 0, 7, 0, 28, none, none⟩ 0xFF, .vins ⟨191, 2, 31, 0, 0, 28, none, none⟩ 0x3FFF].all Instr.wf = true) := by
  decide +kernel

theorem test_wf_matrix_words :
    ([Instr.mma ⟨1, 1, 2, 12, 0, none⟩, .mma ⟨1, 1, 2, 0, 1, none⟩, .mmac ⟨1, 1, 2, 15, 0, none⟩, .mmar ⟨1, 1, 2, 0, 1, none⟩, .mconv ⟨1, 1, 2, 13, 0, none⟩, .mshape ⟨1, 0, 0, 0, 0, none⟩ 0,
      .mshape ⟨0, 1, 0, 0, 0, none⟩ 0, .mshape ⟨0, 0, 0, 0, 0, none⟩ 0x200000, .accz ⟨1, 0, 0, 1, 0, none⟩, .accz ⟨1, 0, 0, 0, 1, none⟩, .accrd ⟨1, 0, 1, 0, 0, none⟩ 0, .accrd ⟨1, 0, 0, 0, 0, none⟩ 0x200,
      .accwr ⟨1, 0, 0, 1, 0, none⟩ 0, .accwr ⟨1, 0, 0, 0, 0, none⟩ 0x100, .accarm ⟨1, 0, 0, 0, 1, none⟩ 0, .accarm ⟨1, 0, 0, 0, 0, none⟩ 0x40000000, .accarm ⟨1, 0, 0, 0, 0, none⟩ 0x200,
      .accarm ⟨1, 0, 0, 0, 0, none⟩ 0x04000000, .mexc ⟨1, 0, 0, 0, 1, none⟩, .mexc ⟨1, 0, 0, 0, 0, some 3⟩].any Instr.wf = false)
    ∧ ([Instr.mma ⟨1023, 15, 15, 11, 14, none⟩, .mshape ⟨0, 0, 0, 0, 0, none⟩ 0x1FFFFF, .accz ⟨1, 15, 15, 0, 0, none⟩, .accrd ⟨1, 0, 0, 0, 0, none⟩ 0x1FF, .accwr ⟨1, 0, 0, 0, 0, none⟩ 0xFF,
      .accarm ⟨1, 0, 0, 0, 0, none⟩ 0x3FFF01FF, .mexc ⟨1, 0, 0, 0, 0, none⟩].all Instr.wf = true) := by
  decide +kernel

/-! Witnesses: for each statement with hypotheses, and for each of its clauses, a state and operands that meet them together, at a bound of the range where the clause has one. -/

/-- The value that a computation answers meets a test. -/
def gives {α ε : Type} (x : Except ε α) (p : α → Bool) : Bool := match x with | .ok v => p v | .error _ => false
def has {α : Type} (x : Option α) (p : α → Bool) : Bool := match x with | some v => p v | none => false

theorem gives_spec {α ε : Type} {x : Except ε α} {p : α → Bool} (h : gives x p = true) : ∃ v, x = .ok v ∧ p v = true := by
  cases x with
  | ok v => exact ⟨v, rfl, h⟩
  | error e => cases h

theorem has_spec {α : Type} {x : Option α} {p : α → Bool} (h : has x p = true) : ∃ v, x = some v ∧ p v = true := by
  cases x with
  | some v => exact ⟨v, rfl, h⟩
  | none => cases h

/-- A core of context 0 in user mode with scalars, some of them poisoned. -/
def tcore (regs : List (Nat × Nat)) (bad : List Nat) : Core :=
  let c := regs.foldl (fun c r => c.ws r.1 (BitVec.ofNat 64 r.2) none) { Core.reset with mode := .user, ctx := some 0 }
  bad.foldl (fun c n => c.ws n 0 (some ⟨1, 0x1000⟩)) c

/-- Core 0 of an otherwise reset module. -/
def on0 (c : Core) : State := State.reset.setCore 0 c
def at0 (regs : List (Nat × Nat)) (bad : List Nat) : State := on0 (tcore regs bad)

/-- Context 0 with pages at multiples of 2^36: 0 the windows, 1 HBM, 3 unordered HBM, 4 cached HBM, 5 host memory, 6 read-only HBM, 7 HBM that the core may not use, 8 HBM that may be protected, 9 a twin, 10 the windows under strong order. -/
def mapPages (s : State) : State :=
  let leaf (s : State) (i v : Nat) : State := s.wrNat (imageTable + 8 * i) 8 (v + 3)
  leaf (leaf (leaf (leaf (leaf (leaf (leaf (leaf (leaf (leaf s.mapImage 0 (0x000F000000000000 + 2 ^ 58 + 2 ^ 57 + 2 ^ 55)) 1 (2 ^ 58 + 2 ^ 57)) 3 (2 ^ 58 + 2 ^ 57 + 2 ^ 63)) 4 (2 ^ 58 + 2 ^ 57 + 2 ^ 59))
    5 (0x0008000000000000 + 2 ^ 58 + 2 ^ 57)) 6 (2 ^ 58)) 7 0) 8 (2 ^ 60 + 2 ^ 58 + 2 ^ 57)) 9 (2 ^ 61 + 2 ^ 58 + 2 ^ 57)) 10 (0x000F000000000000 + 2 ^ 58 + 2 ^ 57 + 2 ^ 62)
def mapped (c : Core) : State := (mapPages State.reset).setCore 0 c
def mapped0 (regs : List (Nat × Nat)) (bad : List Nat) : State := mapped (tcore regs bad)

theorem witness_scalar_operations :
    (∃ o, scalarOp State.reset (.add ⟨3, 1, 2, none⟩) = some o ∧ ∀ r ∈ o.srcs, sp State.reset r = none)
    ∧ (∃ o, scalarOp (at0 [] [2]) (.divu ⟨3, 1, 2, none⟩) = some o ∧ (o.srcs.map (sp (at0 [] [2]))).findSome? id = some ⟨1, 0x1000⟩)
    ∧ (sp (at0 [(1, 5), (2, 0x4003F)] []) 1 = none ∧ sp (at0 [(1, 5), (2, 0x4003F)] []) 2 = none ∧ sp (at0 [(1, 5), (2, 0x4003F)] []) 0 = none) :=
  ⟨⟨_, rfl, by decide⟩, ⟨_, rfl, by decide⟩, by decide⟩

theorem witness_compares_and_predicates :
    (∃ o, compareOp State.reset (.cmpiHi ⟨13, 1, 0x3FFF, none⟩) = some o ∧ ∀ r ∈ o.srcs, sp State.reset r = none)
    ∧ pp State.reset 0 = none ∧ pp State.reset 15 = none ∧ sp State.reset 63 = none :=
  ⟨⟨_, rfl, by decide⟩, by decide⟩

/-- S of core 0 inside a loop body. -/
def inBody : Core := { tcore [] [] with es := { Seq.reset with levels := [⟨0, 3, 0, 0, 2⟩] } }

/-- A record whose handler is line 4 of a kernel of eleven lines, and core 0 in its iteration. -/
def tRecord : RecordRun :=
  { ctx := 0, addr := 0xF000020000, fields := BitVec.ofNat 1024 (10 * 2 ^ 64 + 4 * 2 ^ 96 + 2 ^ 107), level := 0, cores := [0, 1], groups := [], gens := [], handout := [(2, 9)], n := 10
    retired := 1, cr := 1, gang := false, admitted := false, started := [0], going := false, saving := false, kept := [], origins := [], pins := [], order := 1, queue := 0 }
def recorded (c : Core) : State := { mapped { c with run := some (1, 5), iter := 5 } with records := [tRecord] }

/-- A stopped core's snapshot, and the core in its handler. -/
def tSnap : Snapshot := ⟨3, [⟨5, 2, 0, .scalar 1 7 none⟩], [Seq.reset, Seq.reset, Seq.reset, Seq.reset], [], [], FetchUnit.reset, []⟩
def handling : Core := { tcore [] [] with mode := .handler, snap := some tSnap, now := 20 }

theorem witness_control_transfers :
    (∃ o, transferOp State.reset (.call ⟨0, 0, 2047, none⟩) = some o ∧ o.taken = true ∧ o.src = none ∧ State.reset.cur.es.levels = [] ∧ 0 ≤ o.target ∧ o.target < 2048
      ∧ State.reset.cur.mode ≠ .handler)
    ∧ (∃ o, transferOp (recorded handling) (.jmpi ⟨0, 0, 10, none⟩) = some o ∧ o.taken = true ∧ o.src = none ∧ (recorded handling).cur.mode = .handler ∧ (recorded handling).inHandler o.target = true)
    ∧ (∃ o, transferOp State.reset (.br ⟨0, 1, 1, none⟩) = some o ∧ o.taken = false ∧ o.src = none ∧ State.reset.cur.es.levels = [])
    ∧ (∃ o, transferOp (on0 inBody) (.ret ⟨0, 1, 0, none⟩) = some o ∧ (on0 inBody).cur.es.levels ≠ [])
    ∧ (∃ o, transferOp (at0 [] [1]) (.jmp ⟨0, 1, 0, none⟩) = some o ∧ o.src = some ⟨1, 0x1000⟩ ∧ (at0 [] [1]).cur.es.levels = [])
    ∧ (∃ o, transferOp (recorded handling) (.jmpi ⟨0, 0, 11, none⟩) = some o ∧ o.src = none ∧ o.taken = true ∧ (recorded handling).cur.es.levels = []
      ∧ (recorded handling).inHandler o.target = false)
    ∧ (∃ o, transferOp State.reset (.jmpi ⟨0, 0, 2048, none⟩) = some o ∧ o.taken = true ∧ 2048 ≤ o.target)
    ∧ (∃ o, transferOp State.reset (.br ⟨0, 0, 0x1FFFFF, none⟩) = some o ∧ o.taken = true ∧ o.target < 0)
    ∧ (at0 [] []).cur.mode ≠ .handler ∧ (on0 handling).cur.mode = .handler :=
  ⟨⟨_, rfl, by decide⟩, ⟨_, rfl, by decide +kernel⟩, ⟨_, rfl, by decide⟩, ⟨_, rfl, by decide⟩, ⟨_, rfl, by decide⟩, ⟨_, rfl, by decide +kernel⟩, ⟨_, rfl, by decide⟩, ⟨_, rfl, by decide⟩, by decide⟩

/-- L of core 0 at a LOOP of one group with a group after it. -/
def atLoop (levels : List LoopLevel) : Core :=
  { tcore [(1, 0x100000000), (2, 0x100000001)] [3] with
    el := { Seq.reset with levels := levels, queue := [⟨0, 1, ⟨0xF0000000, none, none, none⟩⟩, ⟨0, 2, ⟨0x5C000000, none, none, none⟩⟩, ⟨0, 3, ⟨0x5C000000, none, none, none⟩⟩] } }

theorem witness_loops :
    (∃ o, loopOp (on0 (atLoop [])) (.loopReg .l ⟨0, 1, none⟩) = some o ∧ o.src = none ∧ o.st = none ∧ o.count = 2 ^ 32 ∧ (on0 (atLoop [])).cur.mode ≠ .handler
      ∧ ((on0 (atLoop [])).cur.seqOf o.e).levels = [])
    ∧ (∃ o, loopOp (on0 (atLoop [⟨0, 3, 1, 0, 2⟩])) (.loopImm .l ⟨0, 5, none⟩) = some o ∧ 1 ≤ o.count ∧ ((on0 (atLoop [⟨0, 3, 1, 0, 2⟩])).cur.seqOf o.e).levels = [⟨0, 3, 1, 0, 2⟩]
      ∧ 1 + 1 + o.len = 3)
    ∧ (∃ o, loopOp (on0 (atLoop [])) (.loopImm .l ⟨1, 0, none⟩) = some o ∧ o.count = 0 ∧ o.len < ((on0 (atLoop [])).cur.seqOf o.e).queue.length)
    ∧ (∃ o, loopOp State.reset (.loopImm .l ⟨1, 0, some 5⟩) = some o ∧ o.st ≠ none)
    ∧ (∃ o, loopOp (on0 (atLoop [⟨0, 3, 2, 0, 2⟩])) (.loopImm .l ⟨0, 5, none⟩) = some o ∧ ((on0 (atLoop [⟨0, 3, 2, 0, 2⟩])).cur.seqOf o.e).levels = [⟨0, 3, 2, 0, 2⟩] ∧ 3 < 2 + 1 + o.len)
    ∧ (∃ o, loopOp (on0 (atLoop [])) (.loopReg .l ⟨0, 3, none⟩) = some o ∧ o.src = some ⟨1, 0x1000⟩ ∧ o.st = none)
    ∧ (∃ o, loopOp (on0 (atLoop [])) (.loopReg .l ⟨0, 2, none⟩) = some o ∧ o.src = none ∧ o.count = 2 ^ 32 + 1) :=
  ⟨⟨_, rfl, by decide⟩, ⟨_, rfl, by decide⟩, ⟨_, rfl, by decide⟩, ⟨_, rfl, by decide⟩, ⟨_, rfl, by decide⟩, ⟨_, rfl, by decide⟩, ⟨_, rfl, by decide⟩⟩

/-- Token 1 with a count and a ceiling. -/
def tokAt (n m : Nat) : State := on0 { tcore [(1, 0x50005), (2, 5), (3, 0x40005)] [] with k := [(1, ⟨BitVec.ofNat 16 n, BitVec.ofNat 16 m⟩)] }

theorem witness_tokens :
    ((5 : BitVec 16).toNat ≠ 0 ∧ ((tokAt 3 8).cur.tok 1).count.toNat + 5 ≤ ((tokAt 3 8).cur.tok 1).ceiling.toNat)
    ∧ ((tokAt 4 8).cur.tok 1).ceiling.toNat < ((tokAt 4 8).cur.tok 1).count.toNat + 5
    ∧ ((tokAt 4 8).cur.tok 1).ceiling.toNat < 9
    ∧ (8 ≤ ((tokAt 8 8).cur.tok 1).ceiling.toNat ∧ 8 ≤ ((tokAt 8 8).cur.tok 1).count.toNat)
    ∧ (8 ≤ ((tokAt 7 8).cur.tok 1).ceiling.toNat ∧ ((tokAt 7 8).cur.tok 1).count.toNat < 8)
    ∧ (sp (tokAt 0 0) 1 = none ∧ (sv (tokAt 0 0) 1).extractLsb' 16 16 = 5 ∧ (sv (tokAt 0 0) 1).extractLsb' 0 16 = 5)
    ∧ (sv (tokAt 0 0) 2).extractLsb' 16 16 = 0 ∧ ((sv (tokAt 0 0) 3).extractLsb' 16 16).toNat < ((sv (tokAt 0 0) 3).extractLsb' 0 16).toNat := by
  decide

theorem witness_trap_entry :
    ((recorded (tcore [] [])).cur.mode ≠ .handler ∧ (recorded (tcore [] [])).handler ((recorded (tcore [] [])).core 0) = some (4, 10))
    ∧ ((recorded (tcore [] [])).here = .core 0 ∧ (recorded (tcore [] [])).cur.mode = .user ∧ (recorded (tcore [] [])).cur.es.levels = []
      ∧ (recorded (tcore [] [])).handler (recorded (tcore [] [])).cur = some (4, 10))
    ∧ (on0 inBody).cur.es.levels ≠ []
    ∧ ([Engine.s, .l, .x, .w].all (fun f => decide ((recorded (tcore [] [])).cur.settleWait f = (recorded (tcore [] [])).cur)) = true
      ∧ (recorded (tcore [] [])).handler (recorded (tcore [] [])).cur = some (4, 10)) := by
  decide +kernel

theorem witness_escalation :
    (let b := (mapped0 [] []).core 0
     b.mode ≠ .handler ∧ (mapped0 [] []).handler b = none ∧ b.ctx = some 0 ∧ ((mapped0 [] []).context 0).isSome = true ∧ (mapped0 [] []).escs = [] ∧ ((mapped0 [] []).ringOf 0).length < 32)
    ∧ ((mapped handling).here = .core 0 ∧ (mapped handling).cur.mode = .handler ∧ (mapped handling).cur.ctx = some 0 ∧ ((mapped handling).context 0).isSome = true
      ∧ (mapped handling).escs = [] ∧ ((mapped handling).ringOf 0).length < 32)
    ∧ (mapped0 [] []).cur.mode ≠ .handler := by
  decide +kernel

theorem witness_uhret :
    ((on0 handling).cur.mode = .handler ∧ (on0 handling).cur.snap = some tSnap ∧ (on0 handling).cur.moved = none)
    ∧ ((on0 { handling with moved := some (5, 1) }).cur.mode = .handler ∧ (on0 { handling with moved := some (5, 1) }).cur.snap = some tSnap
      ∧ (on0 { handling with moved := some (5, 1) }).cur.moved = some (5, 1))
    ∧ State.reset.cur.mode ≠ .handler := by
  decide

theorem witness_special_registers :
    ((sysReg State.reset 0x02F).isSome = true ∧ (sysReg (on0 handling) 0x046).isSome = true)
    ∧ State.reset.here = .core 0
    ∧ (sysReg State.reset 0x046 = none ∧ sysReg State.reset 0x01A = none ∧ sysReg (on0 handling) 0x047 = none)
    ∧ (sp State.reset 1 = none ∧ (sysWritten 0x019 5 State.reset.cur).isSome = true)
    ∧ (sysWritten 0x004 5 State.reset.cur = none ∧ sysWritten 0x030 5 State.reset.cur = none)
    ∧ ((on0 handling).cur.mode = .handler ∧ (0x3FFF#64).extractLsb' 14 50 = 0 ∧ (0x3FFF#64).extractLsb' 0 3 ≠ 0)
    ∧ ((0x4001#64).extractLsb' 14 50 ≠ 0 ∧ (0x10#64).extractLsb' 0 3 = 0)
    ∧ (2 ≤ (sv (at0 [(1, 2)] []) 1).toNat ∧ (sv (at0 [(1, 16)] []) 1).toNat ≤ 16)
    ∧ ((sv (at0 [(1, 1)] []) 1).toNat < 2 ∧ 16 < (sv (at0 [(1, 17)] []) 1).toNat)
    ∧ sp (at0 [] [1]) 1 = some ⟨1, 0x1000⟩ := by
  decide +kernel

/-- Word 5 of register 191 of core 0 is poisoned. -/
def mPoisoned : State := { State.reset with pz := [winBase 0 + 0x400000 + 4096 * 191 + 20] }

theorem witness_chk :
    (((0x00 : BitVec 6).extractLsb' 4 2).toNat = 0 ∧ ((0x03 : BitVec 6).extractLsb' 0 4 ++ (0x3F : BitVec 6)).toNat = 255 ∧ (State.reset.cur.rs 63).pz = none)
    ∧ ((at0 [] [63]).cur.rs 63).pz = some ⟨1, 0x1000⟩
    ∧ (((0x10 : BitVec 6).extractLsb' 4 2).toNat = 1 ∧ (State.reset.cur.rp 15).pz = none)
    ∧ ((on0 { tcore [] [] with p := [(15, ⟨0, some ⟨2, 5⟩⟩)] }).cur.rp 15).pz = some ⟨2, 5⟩
    ∧ (((0x22 : BitVec 6).extractLsb' 4 2).toNat = 2 ∧ State.reset.isCp = false ∧ State.reset.pz = [])
    ∧ (poisonedAt mPoisoned.pz (winBase mPoisoned.me + 0x400000 + 4096 * 191 + 4 * 5) = true
      ∧ (List.range 5).all (fun j => !poisonedAt mPoisoned.pz (winBase mPoisoned.me + 0x400000 + 4096 * 191 + 4 * j)) = true) := by
  decide +kernel

/-- Context 0 with save slots. -/
def slottedN (k : Nat) (s : State) : State := match s.context 0 with | some x => s.setContext 0 { x with nslot := k } | none => s
def slotted (s : State) : State := slottedN 1 s

/-- Core 0 in the last iteration of record 1, with the kernel of record 2 in its shadow plane. -/
def swapping : State :=
  { recorded { tcore [] [] with shadow := some 2 } with records := [{ tRecord with handout := [] }, { tRecord with order := 2 }] }

/-- Core 0 in an iteration of record 1, which drains; the record may be a gang's. -/
def draining : State := recorded { tcore [] [] with pre := 1 }
def gangDraining : State := { draining with records := [{ tRecord with gang := true, admitted := true }] }

/-- Enough save slots of a core's context are left. -/
def leaves (s : State) (k : Nat) : Bool := has (s.context 0) (fun x => decide (s.promised 0 + k ≤ x.freeSlots.length))

theorem witness_npost_and_yield :
    (sp (at0 [(1, 8)] []) 1 = none ∧ (sv (at0 [(1, 8)] []) 1).toNat % 8 = 0 ∧ (on0 { tcore [(1, 8)] [] with ncmds := List.replicate 7 ⟨0, 0, false, 0⟩ }).cur.ncmds.length = 7)
    ∧ (sv (at0 [(1, 12)] []) 1).toNat % 8 ≠ 0
    ∧ (on0 { tcore [(1, 8)] [] with ncmds := List.replicate 8 ⟨0, 0, false, 0⟩ }).cur.ncmds.length = 8
    ∧ ((slotted draining).here = .core 0 ∧ (slotted draining).cur.mode ≠ .handler ∧ (slotted draining).cur.pre = 1
      ∧ (slotted draining).recordOf (slotted draining).cur = some tRecord ∧ tRecord.gang = false ∧ leaves (slotted draining) 1 = true)
    ∧ ((slottedN 2 gangDraining).cur.pre = 1 ∧ has ((slottedN 2 gangDraining).recordOf (slottedN 2 gangDraining).cur)
        (fun r => r.gang && decide ((slottedN 2 gangDraining).gangNeed r = 2) && leaves (slottedN 2 gangDraining) 2) = true)
    ∧ (State.reset.here = .core 0 ∧ State.reset.cur.mode ≠ .handler ∧ State.reset.cur.pre ≠ 1 ∧ State.reset.swapPending State.reset.me = false)
    ∧ (draining.cur.pre = 1 ∧ leaves draining 1 = false ∧ leaves (slottedN 1 gangDraining) 2 = false)
    ∧ ((slotted swapping).cur.mode ≠ .handler ∧ (slotted swapping).cur.pre ≠ 1 ∧ (slotted swapping).swapPending (slotted swapping).me = true
      ∧ has ((slotted swapping).recordOf (slotted swapping).cur) (fun r => !r.gang) = true ∧ leaves (slotted swapping) 1 = true) := by
  decide +kernel
def pg (i : Nat) : Nat := i * 0x1000000000

def xlIs (x : Xlat) (p : State → Trans → Bool) : Bool := match x with | .ok s t => p s t | _ => false
def missed : Xlat → Bool | .miss => true | _ => false
def refused : Xlat → Bool | .prot => true | _ => false
def performed (x : Journal) (p : State → Bool) : Bool := match x with | .perform s => p s | _ => false
def entered (x : Submit) (p : State → List (Nat × Nat × Nat) → Bool) : Bool := match x with | .ok s l => p s l | _ => false

theorem witness_scalar_loads :
    (let s := mapped0 [(1, pg 1 + 8)] []
     let f : SImm := ⟨3, 1, 8, none⟩
     sp s f.sa = none ∧ memAddrOf s f % 2 ^ 3 = 0 ∧ gives (s.readUnit .s (memAddrOf s f) 8 0) (fun g => g.data.length == 8 && g.late) = true)
    ∧ (let s := mapped0 [(1, 64)] []
       gives (s.xlatMine .s 64 4 false) (fun r => !isHbm r.2.pa && !isHost r.2.pa) = true ∧ gives (s.readUnit .s 64 4 0) (fun _ => true) = true)
    ∧ (let s := mapped0 [] []
       gives (s.xlatMine .s (pg 5) 4 false) (fun r => isHost r.2.pa && !r.2.cache && !r.2.so) = true ∧ gives (s.readUnit .s (pg 5) 4 0) (fun _ => true) = true)
    ∧ (let s := mapped0 [(1, pg 4)] []
       (sv s 1).toNat % 2 ^ 52 % wd 1 = 0
       ∧ gives (s.xlatMine .s (pg 4) (wd 1) false) (fun r => !r.2.uo && gives ((r.1.modCur (fun c => { c with l1 := [] })).readUnit .s (pg 4) (wd 1) 0) (fun g => !g.data.any (·.2))) = true)
    ∧ (let s := { mapped0 [(1, pg 4)] [] with pz := [0] }
       gives (s.xlatMine .s (pg 4) (wd 0) false) (fun r => gives (r.1.readUnit .s (pg 4) (wd 0) 0) (fun g => g.data.any (·.2))) = true) := by
  decide +kernel

/-- Beside core 0, core 1 in context 0, inside a cycle or not. -/
def withPeer (turn : Nat) : State := (mapped0 [] []).setCore 1 { tcore [] [] with turn := turn }

/-- A store of the word at address `a` of `s`, and the case of its effect that `p` tests. -/
def storeCase (s : State) (a : Nat) (p : State → Trans → Bool) : Bool :=
  gives (s.xlatMine .s a 8 true) fun r => gives (r.1.writeTests .s a r.2 8 0) fun s2 => p s2 r.2

theorem witness_read_cases :
    gives ((mapped0 [] []).xlatMine .s 64 4 false) (fun r => isWin r.2.pa && r.1.ownSpm r.2.pa && !r.2.so) = true
    ∧ gives ((mapped0 [] []).xlatMine .s (pg 10 + 64) 4 false) (fun r => isWin r.2.pa && r.1.ownSpm r.2.pa && r.2.so && gives ((mapped0 [] []).readUnit .s (pg 10 + 64) 4 0) (fun _ => true)) = true
    ∧ gives ((withPeer 0).xlatMine .s 0x1000040 4 false) (fun r => isWin r.2.pa && !r.1.ownWin r.2.pa && !isHbm r.2.pa && gives ((withPeer 0).readUnit .s 0x1000040 4 0) (fun _ => true)) = true := by
  decide +kernel

theorem witness_scalar_access_traps :
    sp (at0 [] [1]) 1 = some ⟨1, 0x1000⟩
    ∧ (sp (mapped0 [(1, pg 1 + 7)] []) 1 = none ∧ memAddrOf (mapped0 [(1, pg 1 + 7)] []) ⟨3, 1, 0, none⟩ % 2 ^ 3 ≠ 0)
    ∧ refused ((mapped0 [(1, pg 7)] []).translate ((mapped0 [(1, pg 7)] []).myCtx.getD 64) (mapped0 [(1, pg 7)] []).myTlb (pg 7) 8 false false) = true
    ∧ missed ((mapped0 [(1, pg 2)] []).translate ((mapped0 [(1, pg 2)] []).myCtx.getD 64) (mapped0 [(1, pg 2)] []).myTlb (pg 2) 8 false false) = true := by
  decide +kernel

theorem witness_scalar_stores :
    (let s := mapped0 [(1, pg 1), (2, 5)] []
     sp s 1 = none ∧ memAddrOf s ⟨2, 1, 0, none⟩ % 2 ^ 3 = 0
     ∧ gives (s.xlatMine .s (pg 1) 8 true) (fun r => gives (r.1.writeTests .s (pg 1) r.2 8 0) (fun _ => true)) = true)
    ∧ (let s := mapped0 [(1, 64), (2, 5)] []
       gives (s.xlatMine .s 64 (wd 0) true) (fun r => !r.2.uo && gives (r.1.writeTests .s 64 r.2 (wd 0) 0) (fun _ => true)) = true)
    ∧ (mapped0 [] []).unitAt 0 = none := by
  decide +kernel

/-- A store to HBM 64 under order 5 that the core sees or not. -/
def tStore (seen : Bool) : PendStore := ⟨5, seen, 64, [7], false, false, false, false, 0, 0, 0, false, [], none, none⟩
def withStore (seen : Bool) : State := mapped { tcore [] [] with stores := [tStore seen] }

theorem witness_store_cases :
    storeCase (mapped0 [] []) 64 (fun s2 t => s2.ownWin t.pa && !t.so) = true
    ∧ storeCase (mapped0 [] []) (pg 1) (fun s2 t => !s2.ownWin t.pa && isHbm t.pa) = true
    ∧ storeCase (withPeer 0) 0x1000040 (fun s2 t => !s2.ownWin t.pa && !isHbm t.pa && !isHost t.pa && !t.so) = true
    ∧ (let st : PendStore := { tStore true with addr := winBase 1 + 64 }
       (withPeer 1).unitAt st.addr = none ∧ winCore st.addr = some 1 ∧ ((withPeer 0).core 1).amid = false ∧ ((withPeer 1).core 1).amid = true)
    ∧ ((withStore true).unitAt (tStore true).addr = none ∧ (tStore true).seen = true
      ∧ (∀ x ∈ ((withStore true).core 0).openStores, x.order < (tStore true).order → x.meets (tStore true) = false)
      ∧ isHbm (tStore true).addr = true ∧ (tStore true).batch = none ∧ (tStore true).release = false)
    ∧ ((withStore false).unitAt (tStore false).addr = none ∧ (tStore false).seen = false) := by
  decide +kernel

theorem witness_fences :
    ((4 : BitVec 3).toNat ≤ 4 ∧ ∃ x ∈ (on0 { tcore [] [] with now := 1, stores := [tStore true] }).cur.stores, x.done = false ∧ x.cyc < (on0 { tcore [] [] with now := 1, stores := [tStore true] }).cur.now)
    ∧ (¬(((1 : BitVec 3) = 1 ∨ (1 : BitVec 3) = 2 ∨ (1 : BitVec 3) = 4) ∧ (1 : BitVec 3) ≠ 0 ∧ ∃ x ∈ State.reset.cur.stores, x.done = false ∧ x.cyc < State.reset.cur.now))
    ∧ (∀ u ∈ State.reset.cur.lates, u.cyc < State.reset.cur.now) := by
  decide +kernel

/-- The premises of an atomic, as a test. -/
def atomicOk (s : State) (va n : Nat) (host : Bool) (p : State → Trans → Bool) : Bool :=
  va % n == 0 && gives (s.xlatMine .s va n true) fun r =>
    !r.2.uo && (!isHost r.2.pa || (host && decide (Config.rootPortAtomics = true)))
      && performed (r.1.ordinal 1 va) fun s2 => gives (if s2.ownSpm r.2.pa then s2.tagCheck .s (r.2.pa % 0x1000000) n else .ok s2) fun s3 =>
        gives (s3.writeTests .s va r.2 n 0) fun s4 => p ((s4.soFirst r.2).drainAt r.2.pa n) r.2

theorem witness_atomics :
    (sp (mapped0 [(1, pg 1), (2, 5)] []) 1 = none
      ∧ atomicOk (mapped0 [(1, pg 1), (2, 5)] []) (pg 1) (wd 1) false (fun u t => !isHost t.pa && !(u.peek t.pa (wd 1)).any (·.2)) = true)
    ∧ atomicOk (mapped0 [(1, 64), (2, 5)] []) 64 (wd 0) false (fun u t => u.ownWin t.pa && u.ownSpm t.pa && !(u.peek t.pa (wd 0)).any (·.2)) = true
    ∧ atomicOk { mapped0 [(1, pg 1)] [] with pz := [0] } (pg 1) (wd 1) false (fun u t => (u.peek t.pa (wd 1)).any (·.2)) = true := by
  decide +kernel

theorem witness_persist_fences :
    (pfenOf (.pfen ⟨0, 0, 0, none⟩) = some .s ∧ State.reset.here = .core 0 ∧ State.reset.cur.mode ≠ .handler ∧ ((parkedCore State.reset.cur .s).seqOf .l).parked = false)
    ∧ (let c : Core := { Core.reset with es := { Seq.reset with parked := true }, el := { Seq.reset with parked := true }, ew := { Seq.reset with parked := true } }
       pfenOf (.pfenMark .x none) = some .x ∧ ((parkedCore c .x).seqOf .s).parked = true ∧ ((parkedCore c .x).seqOf .l).parked = true ∧ ((parkedCore c .x).seqOf .x).parked = true
       ∧ ((parkedCore c .x).seqOf .w).parked = true ∧ (parkedCore c .x).capacity = none ∧ (on0 c).cur.stores = [] ∧ (on0 c).cur.copies = []) := by
  decide +kernel

theorem witness_probe_and_unpin :
    (sp (at0 [(1, 0xFFFFFFFFFFFFF), (2, 2)] []) 1 = none ∧ sv (at0 [(1, 0xFFFFFFFFFFFFF), (2, 2)] []) 0 = 0 ∧ sv (at0 [(1, 0xFFFFFFFFFFFFF), (2, 2)] []) 2 ≠ 0
      ∧ 2 ^ 52 < (sv (at0 [(1, 0xFFFFFFFFFFFFF), (2, 2)] []) 1).toNat + (sv (at0 [(1, 0xFFFFFFFFFFFFF), (2, 2)] []) 2).toNat)
    ∧ (let s := mapped0 [(1, pg 1), (2, 0x4001)] []
       s.myCtx = some 0 ∧ 0 < 0x4001 ∧ pg 1 + 0x4001 ≤ 2 ^ 52 ∧ s.heldRange 0 (pg 1) 0x4001 = false
       ∧ (s.probeFail 0 (pg 1) true (s.pagesIn 0 (pg 1) 0x4001)).isNone = true ∧ has (s.pinPages 0 true 786432 (s.pagesIn 0 (pg 1) 0x4001)) (fun s1 => performed (s1.ordinal 3 (pg 1)) (fun _ => true)) = true)
    ∧ (let s := { mapped0 [(1, pg 1), (2, 1)] [] with locks := [(lockKey 0 (pg 1), 0xFFFFFFFF)] }
       (s.probeFail 0 (pg 1) false (s.pagesIn 0 (pg 1) 1)).isNone = true ∧ (s.pinPages 0 false 786432 (s.pagesIn 0 (pg 1) 1)).isNone = true ∧ (s.chillOf s.me).replay = none)
    ∧ (let s := { mapped0 [(1, pg 1), (2, 1)] [] with locks := [(lockKey 0 (pg 1), 1)] }
       has (s.unpinPages 0 (s.pagesIn 0 (pg 1) 1)) (fun s1 => performed (s1.ordinal 4 (pg 1)) (fun _ => true)) = true) := by
  decide +kernel

/-- The pages of a range from page 1 on permit a write, and their counts have room. -/
def pagesPermit (s : State) (va n : Nat) : Bool :=
  (s.pagesIn 0 va n).all fun p => match p with
    | .leaf v _ w size => decide (tget 0 s.locks (lockKey 0 v) + (s.pagesIn 0 va n).length < 65535) && s.permits 0 w size (s.transOf w size (max va v)).pa 1 true false
    | _ => false

theorem witness_pins :
    ((mapped0 [] []).cur.ordinal < 4096 ∧ ((mapped0 [] []).chillOf (mapped0 [] []).me).replay = none ∧ (mapped0 [] []).heldRange 0 (pg 1) 0x4001 = false ∧ pg 1 + 0x4001 ≤ 2 ^ 52)
    ∧ pagesPermit (mapped0 [] []) (pg 1) 0x4001 = true ∧ (mapped0 [] []).locks.length + ((mapped0 [] []).pagesIn 0 (pg 1) 0x4001).length ≤ 786432
    ∧ ({ mapped0 [] [] with locks := [(lockKey 0 (pg 1), 1)] }.pagesIn 0 (pg 1) 1).all (fun p => match p with | .leaf v _ _ _ => lockKey 0 v == lockKey 0 (pg 1) | _ => false) = true
    ∧ ({ mapped0 [] [] with locks := [(lockKey 0 (pg 1), 1)] }.pagesIn 0 (pg 1) 1).length = 1
    ∧ ({ mapped0 [] [] with tlbHolds := [(0, pg 1, 1)] } : State).heldRange 0 (pg 1) 1 = true := by
  decide +kernel

/-- The premises of an LPOST up to its header, as a test. -/
def lpostOk (s : State) (ha : Nat) (p : State → Trans → Header → Bool) : Bool :=
  gives (s.xlatMine .s ha 64 true) fun r => !r.2.uo && gives (r.1.writeTests .s ha r.2 64 0) fun s2 => performed (s2.ordinal 2 ha) fun s3 =>
    gives (if s3.ownSpm r.2.pa then s3.tagCheck .s (r.2.pa % 0x1000000) 32 else .ok s3) fun s3 => !((s3.drainAll.peek r.2.pa 32).take 16).any (·.2) && p s3 r.2 (headerOf ((s3.drainAll.peek r.2.pa 32).map (·.1)))

/-- Core 0 with a ladle-queue header at HBM 0 whose slots begin at HBM 0x1000, and a packet at HBM 0x2000. -/
def posting (widx : Nat) : State :=
  let s := mapped0 [(1, pg 1), (2, pg 1 + 0x2000)] []
  { s with mem := (s.mem.wrN 0 (natLe 8 widx)).wrN 16 (natLe 8 (pg 1 + 0x1000)) }

theorem witness_ladle_posts :
    (sp (posting 16) 1 = none ∧ sp (posting 16) 2 = none ∧ pg 1 % 64 = 0 ∧ lpostOk (posting 16) (pg 1) (fun _ _ h => decide (h.ridx + 2 ^ (h.lsz + 4) ≤ h.widx)) = true)
    ∧ lpostOk (posting 15) (pg 1) (fun s3 _ h => decide (h.widx < h.ridx + 2 ^ (h.lsz + 4))
        && gives (s3.drainAll.readUnits .s 8 ((List.range 8).map (fun k => (pg 1 + 0x2000 + 8 * k, 0)))) fun g =>
          gives (g.s.xlatMine .s ((h.base + 64 * (h.widx % 2 ^ (h.lsz + 4))) % 2 ^ 52) 64 true) fun r =>
            !r.2.uo && gives (r.1.writeTests .s ((h.base + 64 * (h.widx % 2 ^ (h.lsz + 4))) % 2 ^ 52) r.2 64 0) fun _ => true) = true
    ∧ ((List.replicate 64 ((7 : Byte), false)).length = 64 ∧ (0 + 8 ≤ 8) ∧ (mapped0 [] []).ownWin 0 = false ∧ (∀ k < 8, (mapped0 [] []).ownWin (0x1000 + 8 * k) = false) ∧ winCore 0 = none ∧ (∀ k < 8, winCore (0x1000 + 8 * k) = none)) := by
  decide +kernel

/-- Core 0 as a member of group 5 with a phase. -/
def member (ph : Nat) : Core := { tcore [(1, 0), (2, 1)] [] with slots := [⟨5, 0, 1, 3, BitVec.ofNat 64 ph, 0⟩] }
def barState (b : BarGroup) (ph : Nat) : State := { on0 (member ph) with barriers := [b] }
def oneDone (mixed : Bool) : BarGroup :=
  { BarGroup.fresh 0 5 0 3 false with cph := 1, history := [⟨[0, 1, 2], none, mixed, 0, false⟩] }
def arrivalOf (g ph : Nat) : Arrival := ⟨0, 5, 0, g, BitVec.ofNat 64 ph, none, 0, false⟩

theorem witness_split_barriers :
    (on0 (member 0)).cur.member 6 = none
    ∧ ((on0 (member 0)).cur.member 5 = some ⟨5, 0, 1, 3, 0, 0⟩ ∧ (((groupOf (on0 (member 0)) 5 ⟨5, 0, 1, 3, 0, 0⟩).held ++ (groupOf (on0 (member 0)) 5 ⟨5, 0, 1, 3, 0, 0⟩).early).length < 4))
    ∧ (let b := { oneDone false with held := [arrivalOf 1 5, arrivalOf 1 6, arrivalOf 1 7, arrivalOf 1 8] }
       4 ≤ ((b.held ++ b.early).filter (fun h => h.grank = 1)).length ∧ b.cph + 3 < 9)
    ∧ ((arrivalOf 0 0).phase < (oneDone false).cph)
    ∧ (let b := { BarGroup.fresh 0 5 0 3 false with phases := [⟨[1], none, false, 0, false⟩, BarPhase.empty, BarPhase.empty, BarPhase.empty] }
       (arrivalOf 1 0).phase = b.cph ∧ ((arrivalOf 1 0).grank ∈ [1] ∧ [1].length ≠ b.expect) ∧ ((arrivalOf 2 0).grank ∉ [1] ∧ [1].length + 1 < b.expect))
    ∧ (let b := { BarGroup.fresh 0 5 0 3 false with phases := [⟨[1, 2], none, false, 0, false⟩, BarPhase.empty, BarPhase.empty, BarPhase.empty] }
       (arrivalOf 0 0).phase = b.cph ∧ (arrivalOf 0 0).grank ∉ [1, 2] ∧ [1, 2].length + 1 = b.expect ∧ BarPhase.empty.members.length ≠ b.expect)
    ∧ ((barState (oneDone false) 1).cur.member 5 = some ⟨5, 0, 1, 3, 1, 0⟩ ∧ sp (barState (oneDone false) 1) 1 = none)
    ∧ ((1 : W64) ≤ sv (barState (oneDone false) 1) 2 ∧ (sv (barState (oneDone false) 3) 1).toNat + 2 < (3 : W64).toNat)
    ∧ (sv (barState (oneDone false) 2) 2 < 2 ∧ (groupOf (barState (oneDone false) 2) 5 ⟨5, 0, 1, 3, 2, 0⟩).cph ≤ sv (barState (oneDone false) 2) 2)
    ∧ (let b := groupOf (barState (oneDone false) 2) 5 ⟨5, 0, 1, 3, 2, 0⟩
       (0 : W64) < b.cph ∧ (b.cph - 0).toNat ≤ b.history.length ∧ b.history[b.history.length - (b.cph - 0).toNat]? = some ⟨[0, 1, 2], none, false, 0, false⟩)
    ∧ (let b := groupOf (barState (oneDone true) 2) 5 ⟨5, 0, 1, 3, 2, 0⟩
       b.history[b.history.length - (b.cph - 0).toNat]? = some ⟨[0, 1, 2], none, true, 0, false⟩) := by
  decide +kernel

/-- Context 0, in which two records of group 5 have started. -/
def gensAt (n : Nat) : State := let s := mapped (member 0); match s.context 0 with | some x => s.setContext 0 { x with gens := [(5, n)] } | none => s

theorem witness_barrier_arrivals_from_afar :
    (has ((gensAt 2).context 0) (fun x => decide (1 < tget 0 x.gens 5) && decide (tget 0 x.gens 5 ≤ 2)) = true ∧ (gensAt 2).bar 0 5 1 = none ∧ (gensAt 2).bar 0 5 2 = none)
    ∧ (let s := { gensAt 2 with barriers := [BarGroup.fresh 0 5 2 0 false] }
       (s.bar 0 5 2).map (·.expect) = some 0)
    ∧ (let s := { gensAt 1 with barriers := [BarGroup.fresh 0 5 0 3 false] }
       has (s.bar 0 5 0) (fun b => decide (b.expect ≠ 0) && !s.barWaits b && (b.arrive (arrivalOf 1 0)).is 0 5 0) = true) := by
  decide +kernel

def farIs {α : Type} (x : Far α) (p : α → Bool) : Bool := match x with | .ok v => p v | _ => false

/-- A queue of so many entries, visible from cycle 0. -/
def entries (n : Nat) : List QEntry := List.replicate n ⟨List.replicate 32 5, List.replicate 32 false, 0, 0⟩
def queued (a b : Nat) : Core := { tcore [(1, pg 1), (2, 0), (3, 1)] [] with q := tset [] (tset [] [] 0 (entries a)) 1 (entries b) }

theorem witness_registers_and_queues :
    (((191 : BitVec 8).toNat ≤ 191) ∧ ((on0 (queued 7 6)).cur.queue 0).length < 8 ∧ 8 ≤ ((on0 (queued 8 7)).cur.queue 0).length)
    ∧ ((30 : BitVec 5).toNat % 2 = 0 ∧ ((on0 (queued 7 6)).cur.queue 1).length < 7 ∧ 7 ≤ ((on0 (queued 8 7)).cur.queue 1).length)
    ∧ 191 < (192 : BitVec 8).toNat := by
  decide +kernel

theorem witness_memory_to_queue_and_register :
    (let s := mapped (queued 7 0)
     sp s 1 = none ∧ s.lwAddr .l none (sv s 1) ((sv s 2).toNat + 4 * (0 : BitVec 11).toInt) = pg 1 ∧ pg 1 % 4 = 0 ∧ (s.cur.queue 0).length < 8
     ∧ gives (s.readUnits .l 4 ((List.range 32).map (fun i => ((pg 1 + 4 * i) % 2 ^ 52, 0)))) (fun g => decide (g.s.cur.q = s.cur.q)) = true)
    ∧ (let s := mapped (queued 7 0)
       let sel := selectorOf (sv s 2)
       sel.ireg ≤ 191 ∧ sel.idir ≠ 3
       ∧ (List.range 32).all (fun i => !(laneWord s sel.ireg sel.idir sel.isl i).2 && (gatherAddr (s.lwAddr .l none (sv s 1) 0) sel (laneWord s sel.ireg sel.idir sel.isl i).1 == pg 1)) = true
       ∧ gives (s.readUnits .l 4 ((List.range 32).map (fun i => (pg 1, 1 + i / 8)))) (fun g => decide (g.s.cur.q = s.cur.q)) = true)
    ∧ (let s := mapped0 [(1, pg 1), (2, 128)] []
       (List.range 32).all (fun r => s.lwAddr .l none (sv s 1) (r * (sv s 2).toNat) % 4 == 0) = true
       ∧ gives (s.readUnits .l 4 ((List.range 1024).map (fun k => ((pg 1 + 128 * (k / 32) + 4 * (k % 32)) % 2 ^ 52, k / 128)))) (fun _ => true) = true) := by
  decide +kernel

theorem witness_register_to_memory :
    (let s := mapped0 [(1, pg 1), (2, 0)] []
     s.lwAddr .w none (sv s 1) (128 * (0 : BitVec 5).toInt) = pg 1 ∧ pg 1 % 8 = 0
     ∧ gives (s.writeUnits .w 4 ((List.range 32).map (fun i => ((pg 1 + 4 * i) % 2 ^ 52, 0, natLe 4 (laneWord s 191 2 31 i).1.toNat, (laneWord s 191 2 31 i).2)))) (fun _ => true) = true
     ∧ gives (s.writeUnits .w 4 ((List.range 32).map (fun i => ((pg 1 + 8 * i) % 2 ^ 52, 0,
         natLe 4 (laneWord s 191 0 30 i).1.toNat ++ natLe 4 (laneWord s 191 0 31 i).1.toNat, (laneWord s 191 0 30 i).2 || (laneWord s 191 0 31 i).2)))) (fun _ => true) = true)
    ∧ (let s := mapped0 [(1, pg 1), (2, 0)] []
       gives (scatLanes s 0 ((List.range 32).map (fun i => (i, pg 1, laneWord s 0 0 0 i)))) (fun r => r.2 == 0) = true)
    ∧ (let s := mapped0 [(1, 0x1000000), (2, 0)] []
       gives (scatLanes s 0 ((List.range 32).map (fun i => (i, 0x1000000, laneWord s 0 0 0 i)))) (fun r => r.2 != 0) = true) := by
  decide +kernel

theorem witness_descriptors :
    (let s := at0 [(1, 0x1FFFC0), (2, 0)] []
     (sv s 1 + sv s 2).toNat < 0x200000 ∧ (sv s 1 + sv s 2).toNat % 64 = 0
     ∧ gives (s.tagCheck .l 0x1FFFC0 64) (fun s1 => gives (s1.useBank .l 0 0x1FFFC0) fun _ => true) = true)
    ∧ (let v : W64 := BitVec.ofNat 64 (7 + 4095 * 2 ^ 16 + 2 ^ 28)
       (v.extractLsb' 16 12).toNat + (v.extractLsb' 28 13).toNat = 4096 ∧ State.reset.cur.chunkHeld 0 ((List.range 1).map (· + 4095)) = false)
    ∧ (let v : W64 := BitVec.ofNat 64 (7 + 4095 * 2 ^ 16 + 2 * 2 ^ 28)
       4096 < (v.extractLsb' 16 12).toNat + (v.extractLsb' 28 13).toNat) := by
  decide +kernel

theorem witness_waits_on_maps :
    (let s := on0 { tcore [(1, 4095), (2, 3)] [] with cm := [(0, 1 ||| (1#4096 <<< 4095))] }
     sp s 1 = none ∧ (List.range 64).all (fun i => !(sv s 2).getLsbD i || (s.cur.map 0).getLsbD ((((sv s 1).extractLsb' 0 12).toNat + i) % 4096)) = true)
    ∧ ((sv (at0 [(1, 4095), (2, 3)] []) 2).getLsbD 0 = true ∧ ((at0 [(1, 4095), (2, 3)] []).cur.map 0).getLsbD 4095 = false)
    ∧ (let s := on0 { tcore [] [] with post := [(0, List.replicate 64 (.posted 0xFFFFFFFFFF 0))] }
       (0x40 : BitVec 7).toNat = 64 ∧ (s.cur.posts 0).take 64 = (List.replicate 64 ((0xFFFFFFFFFF : BitVec 40), (0 : BitVec 8))).map (fun x => Place.posted x.1 x.2))
    ∧ (let s := on0 { tcore [] [] with post := [(0, [.posted 4 0, .reserved 7])] }
       Place.reserved 7 ∈ (s.cur.posts 0).take 2 ∧ (s.cur.posts 0).length < 3)
    ∧ 64 < (0x41 : BitVec 7).toNat
    ∧ (let c : Core := { tcore [] [] with nbWaits := [(2, 512)], post := [(2, List.replicate 63 (.posted 4 0))] }
       c.nbWaits = (2, 512) :: [] ∧ (c.posts 2).length < 64 ∧ ∀ x ∈ c.nbWaits, x.1 ≠ 3) := by
  decide +kernel

/-- A copy descriptor of four words from an address, under map 2; the same between tiles, to a neighbour, and to a peer. -/
def tdesc (a more : Nat) : BitVec 512 :=
  BitVec.ofNat 512 (a + 2 * 2 ^ 54 + 2 * 2 ^ 58 + 4 * 2 ^ 96 + 2 ^ 112 + 2 ^ 128 + 2 ^ 144 + 4 * 2 ^ 320 + 2 ^ 352 + 2 ^ 384 + 2 ^ 416 + more)
def copying (d : BitVec 512) (posts : Nat) (copies : List CopyOp) : Core :=
  { tcore [(1, 512), (2, 0)] [] with cd := [(0, (d, false))], post := if posts = 0 then [] else [(2, List.replicate posts (.posted 4 0))], copies := copies }
def tcopy (f : CopyForm) (next : Nat) (chunks : List (Nat × Nat)) : CopyOp :=
  { id := 7, form := f, cd := tdesc (pg 1) 0, loc := 512, o0 := 0, o1 := 0, next := next, status := 0, begun := true, landed := false, posted := false, cyc := 0, line := 0, lane := 1, byStep := false
    chunks := chunks, range := (1, 1), pins := [(pg 1, 0x4000, 0)], tiles := [], ahead := [], cdn := 0 }

/-- The premises that a copy's issue shares, as a test. -/
def copyOk (s : State) (f : CopyForm) : Bool :=
  let d := (s.cur.cdOf 0).1
  decide ((sv s 1).toNat < localLimit d) && decide (stepLocal s .l none (localLimit d) (sv s 1).toNat = 512) && cdChecks f d 512 && (s.cur.busyTiles .l (tilesOf d 512)).isNone

theorem witness_copies_issue :
    (copyWord (.xld ⟨1, 2, 0, none⟩) = some (.l, .xld, ⟨1, 2, 0, none⟩) ∧ copyWord (.xstf ⟨1, 2, 0, none⟩) = some (.w, .xstf, ⟨1, 2, 0, none⟩))
    ∧ (let s := mapped (copying (tdesc (pg 1) 0) 63 [])
       copyOk s .xld = true ∧ s.cur.chunkHeld 2 ((chunksOf' .xld (tdesc (pg 1) 0) 512 0 0).map (·.1)) = false ∧ (s.cur.posts 2).length < 64
       ∧ (copyBatch s .xld (tdesc (pg 1) 0) 0 0).isSome = true
       ∧ entered (s.submit (s.myCtx.getD 64) false (farAddrs .xld (tdesc (pg 1) 0) 0 0) []) (fun s2 pins => !s2.farSealed .xld (tdesc (pg 1) 0) 0 0 pins) = true)
    ∧ cdChecks .xld (tdesc (pg 1 + 2) 0) 512 = false
    ∧ (let s := mapped (copying (tdesc (pg 1) 0) 0 [tcopy .xld 0 [(1, 3)]])
       copyOk s .xld = true ∧ s.cur.chunkHeld 2 ((chunksOf' .xld (tdesc (pg 1) 0) 512 0 0).map (·.1)) = true)
    ∧ (let s := mapped (copying (tdesc (pg 1) 0) 64 [])
       copyOk s .xld = true ∧ 64 ≤ (s.cur.posts 2).length)
    ∧ (let d := tdesc (pg 1) (65 * 2 ^ 64)
       let s := mapped { copying d 0 [] with batches := [(0, (List.range 64).map (fun k => ⟨BitVec.ofNat 16 k, 1, 4, 0, 0, 0⟩))] }
       copyOk s .xstf = true ∧ copyBatch s .xstf d 0 0 = none) := by
  decide +kernel

theorem witness_copies_progress :
    (farIs ((tcopy .xld 3 [(1, 3)]).fetch (mapped (copying (tdesc (pg 1) 0) 0 [tcopy .xld 3 [(1, 3)]])) 0 3) (fun r => r.2.length == 4) = true)
    ∧ winCore ((tcopy .xld 3 [(1, 3)]).localPa 0 3) = some 0
    ∧ ((mapped (copying (tdesc (pg 1) 0) 0 [])).core 0).amid = false ∧ (({ copying (tdesc (pg 1) 0) 0 [] with turn := 1 } : Core).amid = true)
    ∧ cdIn (tdesc (pg 1) 0) 1 0 3 = false
    ∧ ({ tcopy .xld 3 [(1, 3)] with pins := [] }.fetch State.reset 0 3 = .fail 3)
    ∧ ((mapped (copying (tdesc (pg 1) 0) 0 [tcopy .xld 0 [(1, 3)]])).core 0).copyReady (tcopy .xld 0 [(1, 3)]) = true
    ∧ (cdCount (tcopy .xld 4 []).cd ≤ (tcopy .xld 4 []).next ∧ (tcopy .xld 4 []).begun = true)
    ∧ (let d := tdesc 512 (2 ^ 78 + 2 * 2 ^ 72 + 2 * 2 ^ 64)
       let k := { tcopy .xstn 4 [] with cd := d }
       let s := (on0 (copying d 0 [k])).setCore 1 (tcore [] [])
       (s.core 0).copies.find? (fun x => x.id = 7) = some k ∧ k.next = cdCount k.cd ∧ k.neighbour 0 = some 1 ∧ k.cd.getLsbD 78 = true ∧ (s.core 1).ctx = (s.core 0).ctx
       ∧ ((s.core 1).posts 2).length < 64 ∧ k.landed = false ∧ k.begun = true ∧ k.posted = false ∧ (s.core 1).turn = 0 ∧ (s.core 0).turn = 0 ∧ s.nbPosts 0 k = some 1)
    ∧ ((tcopy .xstf 4 []).landed = false ∧ inBytes (tcopy .xstf 4 []).cd (tcopy .xstf 4 []).o0 (tcopy .xstf 4 []).o1 ≠ 0) := by
  decide +kernel

/-- Context 0 with a rank table: this module is rank 0, module 7 rank 1; and a port that is up. -/
def ranked (s : State) : State :=
  let s1 := match s.context 0 with | some x => s.setContext 0 { x with rcount := 2, ranks := [some 0, some 7], ownRank := 0 } | none => s
  { s1 with links := [(28, ⟨.up, 0, 0, 0, false, false⟩)] }

theorem witness_remote_stores :
    (let s := ranked (mapped0 [(1, pg 1), (2, 5), (3, 1)] [])
     s.lwAddr .w none (sv s 1) 0 = pg 1 ∧ pg 1 % 8 = 0 ∧ s.myCtx = some 0 ∧ (addBatch (s.cur.batch 0) ((sv s 3).extractLsb' 0 16) 8).isSome = true
     ∧ (has (addBatch (s.cur.batch 0) ((sv s 3).extractLsb' 0 16) 8) fun b =>
         let u := s.drainAll.modCur (fun c => c.setBatch 0 b)
         decide (u.rankModule 0 1 = some 7) && !u.rankOwn 0 1 && u.portUp (u.me / 512)) = true)
    ∧ (let s := on0 { tcore [(1, 0x1FFC00)] [] with batches := [(2, [⟨1, 1, 8, 8, 0, 0⟩])] }
       sp s 1 = none ∧ (sv s 1).toNat + 1024 ≤ 0x200000 ∧ (sv s 1).toNat % 16 = 0 ∧ (s.cur.batch 2).all (·.left == 0) = true ∧ s.cur.batchMoving 2 = false
       ∧ gives (s.useBanks .w (((List.range 8).filter (fun i => decide (128 * i < 16 * (s.cur.batch 2).length))).map (fun i => (s.cur.now, bankOf (0x1FFC00 + 128 * i), blockOf (0x1FFC00 + 128 * i)))))
         (fun _ => true) = true)
    ∧ sv State.reset 0 = 0
    ∧ (let s := ranked (mapped0 [(1, pg 1), (2, 5), (3, 0)] [])
       s.myCtx = some 0 ∧ s.rankOwn 0 0 = true ∧ (s.rankModule 0 0).isSome = true
       ∧ (has (addBatch (s.cur.batch 0) 0 8) fun b => farIs ((s.drainAll.modCur (fun c => c.setBatch 0 b)).gateTo 0 (pg 1) 8 false) fun r => !isWin r.2.pa) = true)
    ∧ ((ranked (mapped0 [] [])).rankModule 0 2 = none ∧ (mapped0 [] []).rankModule 0 0 = none)
    ∧ (let s := { mapped0 [(1, pg 9), (2, 1)] [] with twins := [⟨0, 2 ^ 36, false⟩] }
       s.myCtx = some 0 ∧ sv s 2 ≠ 0 ∧ s.heldRange 0 (pg 9) 1 = false ∧ gives (pubFrames s 0 (pg 9) (s.pagesIn 0 (pg 9) 1)) (fun l => !l.isEmpty) = true) := by
  decide +kernel

/-- A coding group of two data units and one parity, of which this module is member `me`, with a state of its pour. -/
def coding (me : Nat) (st : PourState) : Spe :=
  { Spe.reset with
    gcfg := BitVec.ofNat 64 (2 ^ 63 + me * 2 ^ 48 + 2 ^ 42 + 2 * 2 ^ 37 + 4), ctxen := 1, st := st, live := [0, 1, 2], dpour := 1
    memb := [(0, 0x000100), (1, 0x010201), (2, 0x020302)], pmbase := 0x40000000 }
def pouring (p : Spe) (regs : List (Nat × Nat)) : State := { mapped0 regs [] with spe := p }
def tRegion : Region := ⟨0, pg 8, [0], 0, 1, false, false⟩
def protecting (st : PourState) : Spe := { coding 1 st with regions := [(3, some tRegion)], data := [(0, ⟨1, stampAbsent, false⟩)] }

theorem witness_pour_instructions :
    (State.reset.ecAllowed = false ∧ (pouring (coding 0 .open_) []).ecAllowed = true)
    ∧ ((pouring (coding 0 .open_) []).spe.live.Nodup ∧ ((pouring (coding 0 .open_) []).spe.regions.filter (fun r => r.2.isSome)).length ≤ 64)
    ∧ (State.reset.spe.shut = true ∧ (pouring (coding 0 .open_) []).spe.shut = false)
    ∧ ((pouring (coding 0 .open_) [(1, 2)]).spe.pour + 1 < sv (pouring (coding 0 .open_) [(1, 2)]) 1)
    ∧ (let s := pouring { coding 0 .open_ with pour := 5 } [(1, 5), (2, 6)]
       sv s 1 ≤ s.spe.pour + 1 ∧ sv s 1 ≤ s.spe.pour ∧ sv s 1 ≠ 0 ∧ sv s 2 = s.spe.pour + 1 ∧ s.spe.pour < s.spe.pour + 1 ∧ s.spe.closing = false ∧ s.spe.refused = false)
    ∧ (pouring (coding 0 .sweeping) []).spe.closing = true
    ∧ (let s := pouring (protecting .open_) [(1, pg 8), (2, 65536)]
       s.myCtx = some 0 ∧ sv s 2 ≠ 0 ∧ s.heldRange 0 (pg 8) 65536 = false ∧ s.sealUnits 0 (pg 8) (pg 8 + 65536) (65536 / 16384 + 2) = some [0])
    ∧ (63 < (sv (at0 [(1, 64)] []) 1).toNat ∧ (sv (at0 [(1, 63)] []) 1).toNat ≤ 63)
    ∧ (tget none (protecting .open_).regions 63 = none ∧ tget none (protecting .open_).regions 3 = some tRegion ∧ tRegion.leaving = false) := by
  decide +kernel

theorem witness_ecprot :
    (pouring (coding 1 .prepared) []).spe.closing = true
    ∧ (protecting .open_).sameRegion (pg 8) 0 1 = some 3
    ∧ (let s := pouring (coding 1 .open_) [(1, pg 8)]
       s.myCtx = some 0 ∧ s.spe.sameRegion (pg 8) 3 1 = none ∧ gcfgU s.spe.gcfg = 3 + 1 ∧ gcfgU s.spe.gcfg < 3 + 2 ∧ s.spe.overlaps 3 1 [] = false ∧ s.heldRange 0 (pg 8) 65536 = false
       ∧ s.unitFrames 0 (pg 8) 1 = some [0] ∧ s.spe.overlaps 3 1 [0] = false ∧ s.spe.freeRegions ≠ [])
    ∧ (pg 8 + 16384) % 65536 ≠ 0
    ∧ (let s := { pouring (coding 1 .open_) [(1, pg 8)] with tlbHolds := [(0, pg 8, 1)] }
       s.heldRange 0 (pg 8) 65536 = true ∧ s.spe.sameRegion (pg 8) 3 1 = none ∧ s.spe.overlaps 3 1 [] = false ∧ pg 8 % 65536 = 0) := by
  decide +kernel

theorem witness_pour_decisions :
    (heard (pouring (coding 0 .open_) []) 2 ∧ (coding 0 .open_).pour.toNat + 1 < 2 ^ 64 ∧ (coding 0 .open_).undecided = true)
    ∧ (let p := { coding 0 .querying with answers := [2] }
       heard (pouring p []) 2 ∧ p.st = .querying ∧ sdel 2 p.answers = [])
    ∧ (let p := { coding 0 .querying with answers := [1, 2] }
       sdel 2 p.answers ≠ [])
    ∧ ((coding 0 .sealing).coordinator = (coding 0 .sealing).me ∧ (coding 0 .sealing).st = .sealing ∧ (coding 0 .open_).coordinator = (coding 0 .open_).me)
    ∧ (let p := { coding 0 .prepared with votes := [0, 1] }
       p.st = .prepared ∧ p.coordNo = false ∧ p.live.all (fun i => smem i (sadd 2 p.votes)) = true)
    ∧ (let p := { coding 0 .prepared with votes := [0] }
       p.live.any (fun i => !smem i (sadd 2 p.votes)) = true)
    ∧ (0 ≤ (coding 0 .open_).pour.toNat) := by
  simp only [heard]
  decide +kernel

theorem witness_pour_close :
    (heard (pouring (coding 1 .open_) []) 0 ∧ (coding 1 .open_).st = .open_ ∧ (coding 1 .open_).refused = false)
    ∧ (let s := pouring (coding 1 .sealing) []
       s.spe.st = .sealing ∧ s.writesPending = false ∧ s.spe.acksDue = [] ∧ s.spe.held = false ∧ s.spe.coordinator ≠ s.spe.me ∧ s.spe.sweepList = [])
    ∧ (let s := pouring (protecting .sealing) []
       s.writesPending = false ∧ s.spe.acksDue = [] ∧ s.spe.sweepList = [(⟨0, 0, 0⟩, false)] ∧ has (s.unitDelta ⟨0, 0, 0⟩ false) (fun _ => true) = true ∧ 1 ≤ gcfgM s.spe.gcfg
       ∧ liveSlot (s.spe.unit 0) s.spe.pour = some 0 ∧ s.unitPoisoned (s.spe.slotBase ⟨0, 0, 0⟩ 0) = false)
    ∧ (let p := { coding 2 .prepared with parity := [(0, ⟨1, stampAbsent, false⟩)] }
       heard (pouring p []) 0 ∧ p.st ≠ .lost ∧ p.st ≠ .notEnabled ∧ parityHolder (gcfgK p.gcfg) (gcfgN p.gcfg) 0 0 = p.me ∧ 0 < gcfgM p.gcfg
       ∧ parityIndex (gcfgK p.gcfg) (gcfgN p.gcfg) p.me 0 = 0 ∧ touchedSlot (p.parityUnit 0) p.pour = some 0 ∧ (List.replicate 8 (5 : Byte)).length ≤ 65536)
    ∧ (let p := { coding 1 .sweeping with acksDue := [(0, 0)] }
       heard (pouring p []) 2 ∧ 2 = parityHolder (gcfgK p.gcfg) (gcfgN p.gcfg) 0 0 ∧ p.acksDue.erase (0, 0) = [] ∧ p.held = false ∧ p.coordinator ≠ p.me)
    ∧ (let p := { coding 1 .sweeping with acksDue := [(0, 0), (3, 0)] }
       p.acksDue.erase (0, 0) ≠ []) := by
  simp only [heard]
  decide +kernel

/-- The configuration of the group before it is enabled. -/
def configured (v : Nat) : Spe := { coding 0 .notEnabled with gcfg := BitVec.ofNat 64 v, live := [] }
def groupWord : W64 := BitVec.ofNat 64 (2 ^ 63 + 2 ^ 42 + 2 * 2 ^ 37 + 4)

theorem witness_coding_group :
    ((configured 0).enabled = false ∧ (configured 0).check (2 ^ 63 + 2 ^ 42) ≠ 0)
    ∧ ((configured 0).check groupWord = 0 ∧ (configured 0).crcs = [] ∧ gcfgJoin groupWord = false ∧ groupWord = (groupWord &&& 0xE01F1FE000FFFFFF) ||| (1#64 <<< 63))
    ∧ (let p := { configured 4 with want := some groupWord, crcs := [(1, (configured 0).configCrc groupWord none)] }
       p.enabled = false ∧ (List.range (gcfgN groupWord)).all (fun i => i == gcfgMe groupWord || i == 2 || p.crcs.any (fun c => c.1 == i)) = true)
    ∧ (let p := coding 0 .open_
       p.enabled = true ∧ smem 2 p.live = true ∧ 2 ≠ p.me ∧ ({ p with live := sdel 2 p.live } : Spe).dead.length ≤ gcfgM p.gcfg)
    ∧ (let p := { coding 0 .open_ with live := [0, 1] }
       p.enabled = true ∧ smem 2 p.live = false ∧ 2 ≠ p.me ∧ 2 < gcfgN p.gcfg ∧ p.st = .open_)
    ∧ (let p := { coding 0 .rebuilding with live := [0, 1], rebuilding := some 2 }
       p.st = .rebuilding ∧ p.rebuilding = some 2 ∧ 2 ≠ p.me) := by
  decide +kernel

theorem witness_vector_instructions :
    (let f : XVec := ⟨191, 0, 30, 0, 1, 24, none, some 0x31000000⟩
     let s := on0 { queued 2 2 with p := [(1, ⟨5, none⟩)] }
     has (vecShape (.viadd f)) (fun h => h.ok && h.two && h.pops == 2) = true ∧ legalDest f 64 ∧ activeLanes s f.md (~~~5) ∧ 2 ≤ (s.cur.queue 0).length ∧ 2 ≤ (s.cur.queue 1).length
     ∧ (s.cur.queue 0).all (fun e => decide (e.vis ≤ s.cur.now)) = true)
    ∧ (¬legalDest ⟨192, 0, 0, 0, 1, 0, none, none⟩ 32 ∧ ¬legalDest ⟨191, 0, 1, 0, 1, 16, none, none⟩ 64 ∧ ¬legalDest ⟨191, 1, 0, 0, 1, 16, none, none⟩ 64)
    ∧ has (vecShape (.vins ⟨1, 0, 0, 0, 0, 0, none, none⟩ 32)) (fun h => !h.ok) = true
    ∧ ((on0 { queued 2 2 with p := [(1, ⟨5, some ⟨2, 0⟩⟩)] }).cur.rp ((0x11000000 : W32).extractLsb' 24 4).toNat).pz = some ⟨2, 0⟩
    ∧ ((on0 (queued 1 0)).cur.queue 1).length < 1 ∧ 1 ≤ ((on0 (queued 1 0)).cur.queue 0).length := by
  simp only [legalDest, activeLanes]
  decide +kernel

theorem witness_vector_elements :
    (∃ o, elemOp (on0 (queued 1 1)) (.vfma ⟨191, 0, 31, 0, 1, 0, none, none⟩ 0x3F800000) = some o ∧ o.f.md = none ∧ o.third = none ∧ o.stochastic = false)
    ∧ (∃ o, elemOp (on0 (queued 1 1)) (.vrcp ⟨191, 0, 31, 0, 1, 0, none, none⟩) = some o ∧ o.f.md = none ∧ o.third = none ∧ o.stochastic = false ∧ o.w = 32)
    ∧ (∃ o, elemOp (on0 (queued 1 1)) (.vclass ⟨191, 0, 31, 0, 1, 0, none, none⟩) = some o ∧ o.third = none ∧ o.stochastic = false ∧ o.w = 32)
    ∧ qPoison (on0 (queued 1 1)) 0 32 31 = false ∧ qPoison (on0 (queued 1 1)) 1 32 31 = false
    ∧ ((on0 (queued 1 1)).cur.queue 0).all (fun e => decide (e.vis ≤ (on0 (queued 1 1)).cur.now)) = true ∧ legalDest ⟨191, 0, 31, 0, 1, 0, none, none⟩ 32 :=
  ⟨⟨_, rfl, rfl, rfl, by decide⟩, ⟨_, rfl, rfl, rfl, by decide, by decide⟩, ⟨_, rfl, rfl, by decide, by decide⟩, by decide +kernel, by decide +kernel, by decide +kernel, by simp only [legalDest]; decide⟩

/-- The premises of a conversion, block format, scan or reduction on queue 0, as a test. -/
def wholeOk (s : State) (i : Instr) : Bool :=
  has (wholeOp s i) fun o => o.1.third.isNone && !o.1.stochastic && decide (o.1.f.dreg.toNat ≤ 191) && has (vecShape i) fun h =>
    h.ok && decide (h.pops ≤ (s.cur.queue 0).length) && ((s.cur.queue 0).take h.pops).all (fun e => decide (e.vis ≤ s.cur.now) && e.pz.all (!·))

theorem witness_vector_conversions_and_scans :
    let f : XVec := ⟨191, 0, 30, 0, 1, 0, none, none⟩
    let s := on0 (queued 2 1)
    [Instr.vcvt f 0x1000, .vcvt f 0x0110, .vqmx f 0x60100, .vdqmx f 0x10000, .vscan f, .vscanWide { f with tr := 0x11 }, .vred f].all (fun i => wholeOk s i) = true
    ∧ legalDest f 32 ∧ legalDest f 64 ∧ legalDest f (mxElem 2).width ∧ 0 ≤ mxPartMax (mxElem 2) := by
  simp only [legalDest]
  decide +kernel

theorem witness_vector_moves :
    (legalDest ⟨191, 0, 31, 0, 1, 0, none, none⟩ 32 ∧ 1 ≤ ((on0 (queued 1 1)).cur.queue 0).length ∧ 1 ≤ ((on0 (queued 1 1)).cur.queue 1).length
      ∧ (third (on0 (queued 1 1)) 0x7FFFFFC3 32 false).2 = none ∧ ((on0 (queued 1 1)).cur.rp ((0x1F : W32).extractLsb' 0 4).toNat).pz = none)
    ∧ ((intType 0).1 = 32 ∧ ((31 : W32).extractLsb' 0 8).toNat < 32)
    ∧ ((21 : BitVec 5).getLsbD 4 = true ∧ ((21 : BitVec 5).extractLsb' 0 4).toNat = 5)
    ∧ (((255 : W32).extractLsb' 0 8).toNat = 255 ∧ perVec 8 = 128 ∧ ((127 : W32).extractLsb' 0 8).toNat < perVec 8 ∧ qPoison (on0 (queued 1 1)) 0 8 (127 / 4) = false
      ∧ qPoison (on0 { queued 0 0 with q := [(0, [⟨List.replicate 32 5, List.replicate 32 true, 0, 0⟩])] }) 0 8 127 = false
      ∧ qPoison (on0 { queued 0 0 with q := [(0, [⟨List.replicate 32 5, List.replicate 32 true, 0, 0⟩])] }) 0 8 (127 / 4) = true) := by
  simp only [legalDest]
  decide +kernel

/-- A command stream of context 0, which owns semaphores 2 to 6 and queues 1 and 2. -/
def stream (regs : List (Nat × Nat)) (bad : List Nat) : State :=
  let s := mapped Core.reset
  let s1 := match s.context 0 with | some x => s.setContext 0 { x with semFirst := 2, semCount := 5, cqMask := 6 } | none => s
  { s1.setAgent (.cp 0) (tcore regs bad) with here := .cp 0 }

theorem witness_command_processor :
    (let s := { stream [(1, 7), (2, 8)] [] with mem := (stream [] []).mem.wrN (semAt 6) (natLe 8 7) }
     sp s 1 = none ∧ (∃ x c, s.myCtx = some x ∧ s.context x = some c ∧ c.semFirst ≤ (6 : BitVec 10).toNat ∧ (6 : BitVec 10).toNat < c.semFirst + c.semCount)
     ∧ semPoisoned s 6 = false ∧ (sv s 1).toNat ≤ (semaphore s 6).toNat ∧ (semaphore s 6).toNat < (sv s 2).toNat)
    ∧ semPoisoned { stream [] [] with pz := [semAt 2] } 2 = true
    ∧ (let s := stream [(1, 128), (2, 2047), (3, 2048)] [4]
       s.myCtx = some 0 ∧ has (s.context 0) (fun c => decide (c.semFirst + c.semCount ≤ (7 : BitVec 10).toNat) && c.cqMask.testBit (2 : BitVec 4).toNat && !c.cqMask.testBit (0 : BitVec 4).toNat) = true
       ∧ (sv s 1).toNat % 128 = 0 ∧ (tget [] s.cqs 2).length < 64 ∧ (sv s 2).toNat < 2048 ∧ 2048 ≤ (sv s 3).toNat ∧ (sv s 2).toNat % 128 ≠ 0 ∧ sp s 4 = some ⟨1, 0x1000⟩)
    ∧ 64 ≤ (tget [] { stream [] [] with cqs := [(2, List.replicate 64 ⟨0, false⟩)] }.cqs 2).length := by
  refine ⟨⟨by decide +kernel, ⟨0, _, rfl, rfl, by decide⟩, by decide +kernel⟩, by decide +kernel⟩

/-- Operand descriptors of one k-step: A in group A, B in group B, a segment, and a peer's panel. -/
def multiplying (k : Nat) (b : Nat) : Core :=
  { tcore [] [] with od := [(0, (BitVec.ofNat 128 ((k - 1) * 2 ^ 96 + 64 * 2 ^ 80), false)), (1, (BitVec.ofNat 128 b, false))] }
def localB : Nat := 64 * 2 ^ 80 + 0x100000
def grown (x : Grown) (p : State → MatOp → Bool) : Bool := match x with | .ok s o => p s o | _ => false

/-- The premises under which a multiply completes, as a test. -/
def mulReady (s : State) (m : MulOp) (f : XMat) : Bool :=
  let fm := matFmt f.fmt.toNat
  m.takes f.fmt.toNat && (stoppedMul s m).isNone && !(s.cur.odOf f.odA.toNat).2 && !(s.cur.odOf f.odB.toNat).2 && !s.cur.shapePz && (s.cur.busyTile .x f.tile.toNat).isNone
    && s.cur.banks.isEmpty && s.cur.tg.all (fun k => !k.2.pending)
    && has (mulOf s m f) fun u =>
      let uses := u.uses m fm s.cur.now (u.k / fm.ks)
      groupsOk m fm u (segEntry s f) (u.k / fm.ks) && decide (uses.Pairwise (fun a b => bankClash b a = false))
        && match u.b with
          | .remote a _ peer =>
            let z := (s.modCur (fun c => { c with banks := uses.reverse ++ c.banks })).drainAll
            !fm.mx && farIs (z.rankRead ((z.core z.me).ctx.getD 64) (some z.me) peer (a % 2 ^ 52) 64) (fun _ => true)
          | _ => true

/-- The shape of a convolution of one element. -/
def oneShape : BitVec 256 :=
  BitVec.ofNat 256 (2 ^ 128 + 2 ^ 112 + 2 ^ 88 + 2 ^ 80 + 2 ^ 72 + 2 ^ 64 + 2 ^ 56 + 2 ^ 48 + 2 ^ 32 + 2 ^ 16 + 1)

theorem witness_multiplies_complete :
    mulReady (mapped (multiplying 1 localB)) .mma ⟨5, 0, 1, 0, 2, none⟩ = true
    ∧ mulReady (mapped (multiplying 2 (2 ^ 124 + 0x100000))) .mmac ⟨5, 0, 1, 2, 2, none⟩ = true
    ∧ mulReady (ranked (mapped (multiplying 1 (2 * 2 ^ 124 + 64 * 2 ^ 80 + pg 1)))) .mmar ⟨5, 0, 1, 0, 2, none⟩ = true
    ∧ mulReady (mapped { multiplying 1 localB with shape := oneShape, od := [(0, (BitVec.ofNat 128 (3 * 2 ^ 124), false)), (1, (BitVec.ofNat 128 localB, false))] }) .mconv ⟨5, 0, 1, 0, 2, none⟩ = true := by
  decide +kernel

theorem witness_matrix_multiplies :
    (let s := mapped (multiplying 1 localB)
     let f : XMat := ⟨5, 0, 1, 0, 2, none⟩
     MulOp.mma.takes 0 = true ∧ cleanMul s .mma f ∧ s.cur.copiedTile .x 5 = none ∧ s.cur.armedTile .x 5 = none
     ∧ has (mulOf s .mma f) (fun u => groupsOk .mma (matFmt 0) u (segEntry s f) 1 && u.k == 1
         && gives (s.useBanks .x (u.uses .mma (matFmt 0) (s.cur.now - firstGroup s .mma) 1)) (fun s1 =>
           gives (s1.tagPieces ((List.range 1).flatMap (fun g => (u.pieces (matFmt 0) g).1 ++ (u.pieces (matFmt 0) g).2))) (fun s2 => grown (s2.growOp s2.me (firstOp s s2 .mma f u)) (fun _ _ => true)))) = true)
    ∧ MulOp.mmac.takes 1 = false
    ∧ (on0 { tcore [] [] with od := [(0, (0, true))] }).cur.odOf 0 = (0, true)
    ∧ (let s := mapped (multiplying 1 (localB + 5 * 2 ^ 124))
       cleanMul s .mma ⟨5, 0, 1, 0, 2, none⟩ ∧ (mulOf s .mma ⟨5, 0, 1, 0, 2, none⟩).isNone = true)
    ∧ (let s := mapped (multiplying 1 (64 * 2 ^ 80))
       has (mulOf s .mma ⟨5, 0, 1, 0, 2, none⟩) (fun u => !groupsOk .mma (matFmt 0) u 0 1) = true) := by
  simp only [cleanMul]
  decide +kernel

/-- A multiply in flight over tile 5. -/
def tmat (g groups : Nat) (b : Operand) (undo : Option Seq) : MatOp :=
  { tile := 5, fmt := 0, start := 0, groups := groups, g := g, a := .local 0 64 false 0, b := b, acc := List.replicate 1024 ⟨0x3F800000, false, false, false, false, true⟩, line := 0, lane := 1
    cyc := 0, kk := groups, scA := [], scB := [], part := false, undo := undo, src := [] }
def matsAt (now : Nat) (o : MatOp) : State := mapped { tcore [] [] with now := now, mats := [o] }

theorem witness_matrix_in_flight :
    ((tmat 0 2 (.local 0x100000 64 false 0) none).fmt = 0 ∧ (tmat 0 2 (.local 0x100000 64 false 0) none).a = .local 0 64 false 0)
    ∧ (((matsAt 8 (tmat 2 2 (.local 0x100000 64 false 0) none)).core 0).mats.find? (fun o => o.start + o.groups + 6 ≤ ((matsAt 8 (tmat 2 2 (.local 0x100000 64 false 0) none)).core 0).now && o.groups ≤ o.g)).isSome = true
    ∧ ((matsAt 7 (tmat 2 2 (.local 0x100000 64 false 0) none)).core 0).mats.all (fun o => decide (((matsAt 7 (tmat 2 2 (.local 0x100000 64 false 0) none)).core 0).now < o.start + o.groups + 6)) = true
    ∧ ((tmat 2 2 (.ingot [] [] [] [] (some (0x18, 1, 0))) none).b = .ingot [] [] [] [] (some (0x18, 1, 0))
      ∧ (tmat 2 2 (.ingot [] [] [] [] (some (0x18, 1, 0))) none).start + 2 ≤ ((matsAt 2 (tmat 2 2 (.ingot [] [] [] [] (some (0x18, 1, 0))) none)).core 0).now)
    ∧ (let o := tmat 1 2 (.remote (pg 1) 64 0) (some Seq.reset)
       o.undo = some Seq.reset ∧ o.g < o.groups ∧ o.start + o.g ≤ ((matsAt 1 o).core 0).now ∧ grown ((ranked (matsAt 1 o)).growOp 0 o) (fun _ _ => true) = true)
    ∧ (let o := tmat 1 2 (.remote (pg 1) 64 5) (some Seq.reset)
       (match (ranked (matsAt 1 o)).growOp 0 o with | .fail _ _ => true | _ => false) = true) := by
  decide +kernel

theorem witness_accumulators :
    (((0x1FFFE0 : W32).extractLsb' 0 21).toNat % 32 = 0 ∧ gives (State.reset.useBank .x 0 0x1FFFE0) (fun s1 => gives (s1.tagCheck .x 0x1FFFE0 32) fun _ => true) = true)
    ∧ (((15 : BitVec 4) ++ (15 : BitVec 4) : BitVec 8).toNat + 1 = 256 ∧ (List.range 256).all (fun i => (State.reset.cur.busyTile .x ((1023 + i) % 1024)).isNone) = true)
    ∧ ((matsAt 0 (tmat 0 2 (.local 0 64 false 0) none)).cur.busyTile .x ((4 + 1) % 1024)).isSome = true
    ∧ (((0x1BF : W32).extractLsb' 0 8).toNat = 191 ∧ (0x1BF : W32).getLsbD 8 = true ∧ (State.reset.cur.ownedTile .x 5).isNone = true ∧ (State.reset.cur.armedTile .x 5).isNone = true
      ∧ (State.reset.cur.copiedTile .x 5).isNone = true ∧ (State.reset.cur.busyTile .x 5).isNone = true)
    ∧ 191 < ((0xC0 : W32).extractLsb' 0 8).toNat
    ∧ ((on0 (member 0)).cur.slots.find? (fun m => m.group == 5) = some ⟨5, 0, 1, 3, 0, 0⟩ ∧ ((on0 (member 0)).cur.arms.map (·.nt)).sum < 64)
    ∧ (State.reset.cur.slots.find? (fun m => m.group == 5)).isNone = true := by
  decide +kernel


/-- Running core 2 of context 0, whose instruction store holds a line of one S group. -/
def running (extra : Core) : State := mapped Core.reset |>.setCore 2 { extra with mode := .user, ctx := some 0 }
def storeLine : Tab W32 := [(0, 0x0000001A), (1, 0xF0000000)]

theorem witness_fetch :
    (let s := running { Core.reset with plane0 := storeLine, fetch := { FetchUnit.reset with next := 0 } }
     let c := s.core 2
     c.fetchBlocked = false ∧ c.fetch.ready ≤ c.now
     ∧ gives (parseLine false c.fetch.next (c.lineWords c.fetch.next)) (fun gs => c.canRead false (s.wordsOf (.core 2)) gs && gs.length == 1) = true
     ∧ (c.seqOf .s).ended = false ∧ (c.seqOf .s).levels = [] ∧ (c.seqOf .s).fromLine = 0 ∧ (c.seqOf .s).fromLane ≤ 1)
    ∧ (let s := running { Core.reset with fetch := { FetchUnit.reset with next := 2047 }, plane0 := [(2047 * 8, 0x0000000F)] }
       (match parseLine false (s.core 2).fetch.next ((s.core 2).lineWords (s.core 2).fetch.next) with | .error _ => true | .ok _ => false) = true)
    ∧ ((State.reset.core 0).mode = .idle) := by
  decide +kernel

/-- Two stores to one place, that the core sees, and one elsewhere. -/
def late0 : PendStore := ⟨0, true, 0x100, [1, 2], false, false, true, false, 0, 0, 0, false, [], none, some 3⟩
def late1 : PendStore := ⟨1, true, 0x101, [3], false, false, false, false, 0, 0, 0, false, [], none, none⟩
def late2 : PendStore := ⟨2, true, 0x200, [3], false, false, false, false, 0, 0, 0, false, [], none, none⟩

/-- A running core with a late datum, an asynchronous trap and two stores to one place. -/
def awaiting : Core :=
  { tcore [] [] with
    now := 9, holds := [⟨9, .data⟩, ⟨40, .data⟩], asyncs := [⟨0x19, 0, 4, true, 0, 0, 0⟩]
    stores := [late0, late1, late2] }

theorem witness_late_data_and_stores :
    ((∃ h ∈ ((on0 awaiting).agent (named 0)).holds, h.kind = .data ∧ h.due ≤ ((on0 awaiting).agent (named 0)).now)
      ∧ (∀ h ∈ (State.reset.agent (named 4096)).holds, h.kind = .data → (State.reset.agent (named 4096)).now < h.due))
    ∧ (((on0 awaiting).core 0).asyncs = ⟨0x19, 0, 4, true, 0, 0, 0⟩ :: [] ∧ ((on0 awaiting).core 0).mode = .user ∧ ((on0 awaiting).core 0).turn = 0 ∧ ((on0 awaiting).core 0).back ≤ ((on0 awaiting).core 0).now
      ∧ ((on0 awaiting).core 0).powered = true ∧ (on0 awaiting).faultDue 0 = false ∧ (State.reset.core 0).asyncs = [])
    ∧ (((on0 awaiting).agent (named 0)).stores[1]? = some late1
      ∧ ∃ e ∈ ((on0 awaiting).agent (named 0)).stores.take 1, e.done = false ∧ e.meets late1 = true ∧ ¬(e.uo = true ∧ late1.uo = true ∧ e.ep = late1.ep ∧ ¬(e.cyc = late1.cyc ∧ e.rank = late1.rank)))
    ∧ (((on0 awaiting).agent (named 0)).stores[2]? = some late2
      ∧ (∀ e ∈ ((on0 awaiting).agent (named 0)).stores.take 2, e.meets late2 = false ∧ late2.release = false ∧ late2.so = false)
      ∧ (∀ h ∈ ((on0 awaiting).agent (named 0)).holds, h.kind ≠ .retry) ∧ late2.seen = true ∧ late2.done = false ∧ isWin late2.addr = false)
    ∧ ((on0 awaiting).agent (named 0)).lates = [] := by
  decide +kernel

theorem witness_window_accesses :
    (reservedOff 0xBFFFFF = false ∧ reservedOff 0 = false
      ∧ ((running Core.reset).core 2).ctx = some 0 ∧ ((running Core.reset).core 2).powered = true ∧ ((running Core.reset).core 2).holds = [] ∧ ((running Core.reset).core 2).pend = [] ∧ ((running Core.reset).core 2).turn = 0)
    ∧ (((running Core.reset).core 2).tileArmed ((0xBFFFFF - 0x800000) / 4096) = false ∧ ((running Core.reset).core 2).tileOwned ((0xBFFFFF - 0x800000) / 4096) = false)
    ∧ (State.reset.core 2).ctx ≠ some 0
    ∧ (let s := running { Core.reset with holds := [⟨5, .persist⟩] }
       (s.core 2).ctx = some 0 ∧ ∃ h ∈ (s.core 2).holds, h.kind = .persist)
    ∧ (reservedOff 0x200000 = true ∧ reservedOff 0x1FFFFF = false) := by
  decide +kernel

def toPage (x : Xlat) : Bool := xlIs x (fun _ _ => true)

theorem witness_peers_and_walks :
    (0 < 8 ∧ pg 1 % 8 + 8 ≤ 8)
    ∧ missed ((mapped0 [] []).translate 0 none (pg 2 % 2 ^ 52) 8 false false) = true
    ∧ refused ((mapped0 [] []).translate 0 none (pg 7 % 2 ^ 52) 8 false false) = true
    ∧ xlIs ((mapped0 [] []).translate 0 none (pg 1 % 2 ^ 52) 8 false false) (fun _ t => isHbm t.pa) = true
    ∧ toPage ((mapped0 [] []).translate 0 none (pg 1 % 2 ^ 52) 1 true false) = true := by
  decide +kernel

theorem witness_host_accesses :
    (State.reset.twins = [] ∧ ∀ a, State.reset.unitAt a = none) ∧ State.reset.boot.bootst.extractLsb' 0 8 = 0
    ∧ (0xFFFFFFFFF8 % 8 + 8 ≤ 8 ∧ 0xFFFFFFFFF8 + 8 ≤ 0x10000000000 ∧ 0xFFFFFFFFF8 % 8 = 0 ∧ ∀ i < 8, poisonedAt State.reset.pz (0xFFFFFFFFF8 + i) = false)
    ∧ (0x10000000000 < 0xFFFFFFFFFC + accSize (.read 8)) ∧ 0xFFFFFFFFFC % 8 ≠ 0
    ∧ ({ State.reset with boot := { Boot.reset with bootst := 1 } } : State).boot.bootst.extractLsb' 0 8 ≠ 0 := by
  refine ⟨⟨rfl, fun a => rfl⟩, rfl, by decide +kernel⟩

theorem witness_register_writes :
    State.reset.boot.bootst.extractLsb' 0 8 = 0 ∧ (0x100000001 : W64).getLsbD 0 = true ∧ (0x100000001 : W64).getLsbD 32 = true ∧ State.reset.mbox.mbst.getLsbD 0 = false
    ∧ ({ State.reset with mbox := ⟨[], [], [], 1⟩ } : State).mbox.mbst.getLsbD 0 = true ∧ 2047 < 2048 ∧ 0xFFFFFFFF < 0x100000000 ∧ 0xFFFFFFFF % 8 ≠ 0 := by
  decide

/-- N of core 3 at a step of a command, with four loops or none, and a token of count 5 of 9. -/
def nrunAt (loops : List NLoop) (step : Option NStep) : NRun := { base := 0, addr := 0x40, arg := 0x1FFFFFFFFFFFFF, argPz := false, loops := loops, word := none, step := step, faulted := false }
def ncore (r : NRun) : Core := { Core.reset with ctx := some 0, mode := .user, run := some (1, 5), nrun := some r, k := [(1, ⟨5, 9⟩)], slots := [⟨5, 0, 1, 3, 0, 7⟩], tref := 0x10000000 }
def nAt (c : Core) : State := { (mapped Core.reset).setCore 3 c with records := [{ tRecord with groups := [(5, [⟨0, 3⟩, ⟨0, 5⟩, ⟨0, 7⟩])] }] }
def fourLoops : List NLoop := List.replicate 4 ⟨0, 3, 8⟩

theorem witness_token_steps :
    let s := nAt (ncore (nrunAt [] none))
    let w (n : Nat) : W64 := BitVec.ofNat 64 (2 ^ 55 + n)
    atStep s 3 (nrunAt [] none) ∧ (w 4).extractLsb' 16 39 = 0 ∧ wTok (w 4) = 1
    ∧ (((s.core 3).tok 1).count.toNat + wCount (w 4) ≤ ((s.core 3).tok 1).ceiling.toNat ∧ ((s.core 3).tok 1).ceiling.toNat < ((s.core 3).tok 1).count.toNat + wCount (w 5))
    ∧ (wCount (w 5) ≤ ((s.core 3).tok 1).count.toNat ∧ ((s.core 3).tok 1).count.toNat ≤ ((s.core 3).tok 1).ceiling.toNat)
    ∧ (((s.core 3).tok 1).count.toNat < wCount (w 6) ∧ wCount (w 9) ≤ ((s.core 3).tok 1).ceiling.toNat ∧ ((s.core 3).tok 1).ceiling.toNat < wCount (w 10))
    ∧ (w 0x10000).extractLsb' 16 39 ≠ 0 := by
  simp only [atStep]
  decide +kernel

theorem witness_loop_steps :
    let s := nAt (ncore (nrunAt (fourLoops.take 3) none))
    let u := nAt (ncore (nrunAt fourLoops none))
    let own : W64 := BitVec.ofNat 64 (2 ^ 51 + 5 * 2 ^ 52 + 1)
    (atStep s 3 (nrunAt (fourLoops.take 3) none) ∧ (fourLoops.take 3).length < 4 ∧ (0xFFFFFFFF : W64).extractLsb' 32 19 = 0 ∧ (0xFFFFFFFF : W64).getLsbD 51 = false ∧ wGroup 0xFFFFFFFF = 0)
    ∧ (own.extractLsb' 32 19 = 0 ∧ own.getLsbD 51 = true ∧ (s.core 3).member (wGroup own) = some ⟨5, 0, 1, 3, 0, 7⟩)
    ∧ (let v := { s with mem := s.mem.wrN (winBase 3 + 0x48) (natLe 8 (10 * 2 ^ 60)) }
       gives (skipBody v 3 0x48 0 0x40000) (fun _ => true) = true)
    ∧ (atStep u 3 (nrunAt fourLoops none) ∧ 4 ≤ fourLoops.length)
    ∧ (fourLoops = List.replicate 3 ⟨0, 3, 8⟩ ++ [⟨0, 3, 8⟩] ∧ 0 + 1 < 3 ∧ (0xA000000000000000 : W64).extractLsb' 0 60 = 0)
    ∧ (let l : NLoop := ⟨2, 3, 8⟩
       l.count ≤ l.lc + 1)
    ∧ (let e : W64 := BitVec.ofNat 64 (11 * 2 ^ 60 + 2 ^ 59 + 2 ^ 54 + 4)
       let v := nAt (ncore (nrunAt [] none))
       e.extractLsb' 16 38 = 0 ∧ e.getLsbD 59 = true ∧ (e.extractLsb' 54 5).toNat = 1 ∧ atStep v 3 (nrunAt [] none)
       ∧ ((v.core 3).tok 1).count.toNat + wCount e ≤ ((v.core 3).tok 1).ceiling.toNat ∧ (0 : W64).extractLsb' 16 38 = 0 ∧ (0 : W64).getLsbD 59 = false) := by
  simp only [atStep]
  decide +kernel

/-- A step word of a transfer of group 5: the local address 512, descriptor 0, the peer one rank on, and a mode. -/
def stepWord (op mode : Nat) : W64 := BitVec.ofNat 64 (op * 2 ^ 60 + 5 * 2 ^ 52 + 2 ^ 35 + 512 * 2 ^ 10 + mode * 2 ^ 4)
def described (d : BitVec 512) (posts : Nat) : Core :=
  { ncore (nrunAt [] none) with cd := [(0, (d, false)), (1, (tdesc 1024 0, false))], post := if posts = 0 then [] else [(2, List.replicate posts (.posted 4 0))] }

/-- The premises of a transfer step that begins, as a test. -/
def transferOk (s : State) (w : W64) (r : NRun := nrunAt [] none) : Bool :=
  let c := s.core 3
  modeOk (wOp w) (w.extractLsb' 4 3).toNat && has (c.member (wGroup w)) fun m => gives (partsOf s 3 r w m) fun p =>
    let send := nCd (c.cdOf (w.extractLsb' 31 4).toNat).1 true
    (partsFault c w p).isNone && !holdsClash c (partsHolds p) && decide ((c.posts (match p.recv with | some x => cdCm x.2.1 | none => cdCm send)).length < 64)

theorem witness_transfer_steps :
    (let s := nAt (described (tdesc 0 0) 63)
     atStep s 3 (nrunAt [] none) ∧ wOp (stepWord 1 0) = 1 ∧ transferOk s (stepWord 1 0) = true)
    ∧ (let s := nAt (described (tdesc 0 0) 0)
       wOp (stepWord 2 0) = 2 ∧ transferOk s (stepWord 2 0) = true ∧  wOp (stepWord 6 0) = 6 ∧ transferOk s (stepWord 6 0) = true)
    ∧ (let r := { nrunAt [] none with arg := 512 }
       let s := nAt { described (tdesc 0 0) 0 with nrun := some r }
       atStep s 3 r ∧ wOp (stepWord 3 2 + 0x80) = 3 ∧ transferOk s (stepWord 3 2 + 0x80) r = true)
    ∧ (modeOk (wOp (stepWord 1 2)) ((stepWord 1 2).extractLsb' 4 3).toNat = false ∧ modeOk (wOp (stepWord 3 4)) ((stepWord 3 4).extractLsb' 4 3).toNat = true
      ∧ ((nAt { described 0 0 with slots := [] }).core 3).member (wGroup (stepWord 3 4)) = none) := by
  simp only [atStep]
  decide +kernel

/-- A copy of N from far memory, or to it. -/
def copyWordN (mode : Nat) : W64 := BitVec.ofNat 64 (5 * 2 ^ 60 + mode * 2 ^ 4 + 512 * 2 ^ 10)
def copyStepOk (s0 : State) (mode : Nat) (f : CopyForm) : Bool :=
  let s := s0.publish (.core 3)
  let w := copyWordN mode
  let c := s.core 3
  let d := copyCd (c.cdOf (w.extractLsb' 31 4).toNat).1
  decide (wOp w = 5) && decide (w.extractLsb' 4 3 = BitVec.ofNat 3 mode) && decide (wGroup w = 0) && !w.getLsbD 51 && decide (w.extractLsb' 35 16 = 0) && decide (w.extractLsb' 0 4 = 0)
    && !(c.cdOf (w.extractLsb' 31 4).toNat).2 && !cdAsrc d && decide ((w.extractLsb' 10 21).toNat = 512) && cdChecks f d 512 && (c.busyTiles .s (tilesOf d 512)).isNone
    && !c.chunkHeld (cdCm d) ((chunksOf' f d 512 0 0).map (·.1)) && decide ((c.posts (cdCm d)).length < 64)
    && entered (s.submit (c.ctx.getD 64) (f == .xst) (farAddrs f d 0 0) []) (fun s1 l => !s1.farSealed f d 0 0 l) && c.copies.all (·.begun) && decide (cdCount d ≠ 0)

theorem witness_copy_and_reduce_steps :
    (atStep (nAt (described (tdesc (pg 1) 0) 63)) 3 (nrunAt [] none) ∧ copyStepOk (nAt (described (tdesc (pg 1) 0) 63)) 0 .xld = true ∧ copyStepOk (nAt (described (tdesc (pg 1) 0) 63)) 1 .xst = true)
    ∧ (let s := nAt (described (tdesc 0 0) 0)
       let w : W64 := BitVec.ofNat 64 (4 * 2 ^ 60 + 5 * 2 ^ 52 + 1023 * 2 ^ 42 + 63 * 2 ^ 36)
       atStep s 3 (nrunAt [] none) ∧ wOp w = 4 ∧ w.extractLsb' 4 31 = 0 ∧ (s.core 3).member (wGroup w) = some ⟨5, 0, 1, 3, 0, 7⟩ ∧ 2 ≤ 3 ∧ (s.core 3).arms = [] ∧ (s.core 3).riser = []
       ∧ ∀ i < (w.extractLsb' 36 6).toNat + 1, (s.core 3).busyTile .s (((w.extractLsb' 42 10).toNat + i) % 1024) = none) := by
  simp only [atStep]
  decide +kernel

/-- A receive part of two blocks from rank 0, with the first received. -/
def receiving (waited : Nat) : NStep :=
  { word := stepWord 2 0, seq := 7, sendTo := none, sendAt := 0, sent := 0, acked := 0, sendBytes := 0, sendStatus := 0, recvFrom := some 0, recvAt := 512, recvd := 4096, recvBytes := 8192, recvStatus := 0
    recvCd := tdesc 0 0, sendCd := 0, holds := [], place := none, copyId := none, tiles := [], armed := false, waited := waited }
def recvRun (waited : Nat) : NRun := nrunAt [] (some (receiving waited))
def riserBlock (idx : Nat) : Block := { group := 5, src := 0, seq := 7, ctag := 0, idx := idx, total := 8192, data := List.replicate 4096 1, poison := List.replicate 1024 false, addend := false }
def riserFull : Core := { ncore (recvRun 0) with riser := List.replicate 64 (riserBlock 9) }

theorem witness_blocks_and_credits :
    (let s := nAt (ncore (recvRun 0))
     (s.core 3).nrun = some (recvRun 0) ∧ (recvRun 0).step = some (receiving 0) ∧ (s.core 3).arms = [] ∧ wGroup (receiving 0).word = (riserBlock 1).group ∧ (receiving 0).seq = (riserBlock 1).seq
     ∧ (s.core 3).turn = 0 ∧ (s.core 3).holds = [] ∧ (s.core 3).run.isSome = true ∧ ((s.core 3).member (riserBlock 1).group).isSome = true ∧ (s.core 3).voided = [] ∧ (s.core 3).pend = []
     ∧ (receiving 0).recvFrom = some (riserBlock 1).src ∧ (receiving 0).armed = false ∧ (riserBlock 1).addend = false ∧ (riserBlock 1).ctag = (receiving 0).word.extractLsb' 0 4
     ∧ (riserBlock 1).total = (receiving 0).recvBytes ∧ (s.memberAt 3 (riserBlock 1).group (riserBlock 1).src) = some ⟨0, 3⟩)
    ∧ (riserBlock 1).idx * 4096 = (receiving 0).recvd ∧ wOp (receiving 0).word ≠ 3 ∧ (riserBlock 2).idx * 4096 ≠ (receiving 0).recvd
    ∧ ((nAt (ncore (recvRun 0))).core 3).riser.length < 64 ∧ 64 ≤ ((nAt riserFull).core 3).riser.length
    ∧ (let s := nAt { ncore (recvRun 0) with credits := [⟨5, 1, 1, []⟩] }
       0 < ((s.core 3).credit 5 1).used ∧ ((s.core 3).credit 5 2).used = 0)
    ∧ ({ riserBlock 1 with ctag := 3 }.ctag ≠ (receiving 0).word.extractLsb' 0 4 ∧ ((nAt { ncore (recvRun 0) with turn := 1 }).core 3).turn ≠ 0) := by
  decide +kernel

theorem witness_collectives_watched :
    (let st := receiving 0
     let fresh : NStep := { st with recvd := 0 }
     let s := nAt (ncore (nrunAt [] (some fresh)))
     (s.core 3).nrun = some (nrunAt [] (some fresh)) ∧ fresh.recvFrom = some 0 ∧ fresh.recvd = 0 ∧ 0 < fresh.recvBytes ∧ (s.core 3).arms = [] ∧ (s.core 3).unmatched (wGroup fresh.word) fresh.seq 0 = true
     ∧ fresh.waited + s.wdtOf (s.core 3) ≤ (s.core 3).tref
     ∧ s.headRead 3 (wGroup fresh.word) 0 6 false = (6, false) ∧ s.headRead 3 (wGroup fresh.word) 0 7 true = (7, true) ∧ s.headRead 3 (wGroup fresh.word) 0 7 false = (7, false)
     ∧ s.headRead 3 (wGroup fresh.word) 0 8 true = (8, true) ∧ fresh.seq.toNat = 7 ∧ (s.core 3).chilled = false)
    ∧ (nAt { ncore (recvRun 0) with chilled := true }).core 3 = { ncore (recvRun 0) with chilled := true }
    ∧ (let s := nAt (ncore (recvRun 1))
       (s.core 3).tref < (receiving 1).waited + s.wdtOf (s.core 3) ∧ (receiving 1).recvd ≠ 0) := by
  decide +kernel

/-- An entry of the page table that cannot be read; a core to which a handler gave a position that no line has; one that stands inside a cycle. -/
def tableTorn : State := { mapped0 [] [] with pz := [imageTable + 16] }
def misplaced : Core := { awaiting with now := 9, back := 9, moved := some (5, 0) }

theorem witness_event_corners :
    (match tableTorn.translate 0 none (pg 2 % 2 ^ 52) 8 false false with | .bad _ => true | _ => false) = true
    ∧ ((on0 misplaced).faultDue 0 = true ∧ ((on0 awaiting).core 0).mats = [] ∧ ((on0 awaiting).core 0).moved = none)
    ∧ (((running Core.reset).core 2).amid = false ∧ ((running { Core.reset with turn := 1 }).core 2).amid = true ∧ ((running { Core.reset with turn := 1 }).core 2).ctx = some 0
      ∧ ((running Core.reset).core 2).snap = none ∧ ((running Core.reset).core 2).inbox = [])
    ∧ (let s := nAt (ncore (recvRun 0))
       (s.core 3).amid = false ∧ (s.core 3).allPend = [] ∧ (s.core 3).dueArms = []
       ∧ winCore (boxByte 3 (receiving 0).recvCd (receiving 0).recvAt 0) = some 3 ∧ winCore (boxByte 3 (receiving 0).recvCd (receiving 0).recvAt 8191) = some 3)
    ∧ (let s := nAt { ncore (recvRun 0) with holds := [⟨5, .persist⟩] }
       ∃ h ∈ (s.core 3).holds, h.kind = .persist)
    ∧ (let st : PendStore := { late0 with addr := 0x100, stl := some 1 }
       let u : LateUnit := ⟨0x100, 8, 0, 4, false, .scalar 5 0, some 3⟩
       st.stl = some 1 ∧ st.touches u.pa u.n = true ∧ u.acq = some 3 ∧ inScope 1 (.core 0) (.core 31) = true ∧ inScope 1 (.core 0) (.core 32) = false ∧ inScope 2 (.core 0) (.core 511) = true)
    ∧ (({ State.reset with msixMask := 1 } : State).boot.bootst.extractLsb' 0 8 = 0 ∧ (0x100000000 : W64).getLsbD 32 = true) := by
  decide +kernel

/-- A record of three iterations, or of other extents, at HBM 0x1000: its kernel is at the execute-only page, its core set at HBM 0x2000. -/
def recordBits (ndim ext : Nat) : Nat := pg 15 + ext * 2 ^ 128 + ndim * 2 ^ 264 + 2 ^ 344 + (pg 1 + 0x2000) * 2 ^ 512
def submitted (ndim ext : Nat) : State :=
  let s := mapped Core.reset
  let s1 := match s.context 0 with | some x => s.setContext 0 { x with cqMask := 6, cqLevels := 64, cores := [0, 1] } | none => s
  { s1 with mem := (s1.mem.wrN 0x1000 (natLe 128 (recordBits ndim ext))).wrN 0x2000 [3], cqs := [(1, [⟨pg 1 + 0x1000, false⟩]), (2, [⟨pg 1 + 0x1000, true⟩])] }

def accepts (s : State) (p : Accept → Bool) : Bool :=
  match bestHead s.eligible with
  | some (q, lvl, x, cx, e) => q == 2 && lvl == 1 && p (s.acceptRead cx x q e.addr)
  | none => false
def taken (p : RecordRun → Bool) : Accept → Bool | .take _ r => p r | _ => false
def turnedAway (k : Nat) : Accept → Bool | .refuse _ (some _) j => j == k | _ => false

theorem witness_records_accepted :
    (accepts (submitted 1 3) (taken (fun r => r.n != 0)) = true ∧ (submitted 1 3).records.length < 64 ∧ (submitted 1 3).checked = false)
    ∧ accepts (submitted 1 0) (taken (fun r => r.n == 0)) = true
    ∧ accepts (submitted 0 0) (turnedAway 2) = true
    ∧ (State.reset.eligible = [] ∧ 64 ≤ { State.reset with records := List.replicate 64 tRecord }.records.length) := by
  decide +kernel

/-- A record with iterations to hand out; core 2 is not in its set. -/
def handing (gang admitted : Bool) (order : Nat) : RecordRun :=
  { tRecord with cores := [0, 1, 3], groups := [(5, [⟨0, 0⟩, ⟨0, 1⟩, ⟨0, 3⟩])], gens := [], handout := [(2, 9)], retired := 0, gang := gang, admitted := admitted, started := [], order := order }
def offering (r : RecordRun) (c0 : Core) : State := { (mapped { Core.reset with plane := some r.order }) with records := [r], cores := [(0, c0), (1, { Core.reset with plane := some r.order })] }
def ready (order : Nat) : Core := { Core.reset with plane := some order }

theorem witness_iterations_handed_out :
    (let s := offering (handing false false 4) (ready 4)
     (s.core 0).vacant = true ∧ s.checked = false ∧ s.lowerUndecided 0 = false ∧ (s.core 0).stores = [] ∧ has (s.decideRecord 0).1 (fun w => !w.gang && decide ((s.core 0).plane = some w.order) && !s.hasSaved w && !s.lowerReady w 0
       && has ((s.decideRecord 0).2.find? (fun r => r.order = w.order)) (fun r => decide (nextL r.handout = some (2, [(3, 9)])) && (s.context r.ctx).isSome)) = true)
    ∧ (let s := offering (handing true true 4) (ready 4)
       has (s.decideRecord 0).1 (fun w => w.gang && w.admitted && !s.lowerReady w 0 && decide ((s.core 0).plane = some w.order)) = true)
    ∧ (let s := offering (handing true false 4) (ready 4)
       has (s.decideRecord 0).1 (fun w => w.gang && !w.admitted && s.gangFree w) = true ∧ (s.core 0).vacant = true
       ∧ has (s.decideRecord 0).1 (fun w => ((s.decideRecord 0).2.find? (fun r => r.order = w.order)).isSome) = true)
    ∧ (let s := offering (handing true false 4) { ready 4 with mode := .user, run := some (9, 0) }
       (s.core 1).vacant = true ∧ s.lowerUndecided 1 = false ∧ has (s.decideRecord 1).1 (fun w => w.gang && !w.admitted && !s.gangFree w) = true)
    ∧ (let s := offering (handing false false 4) Core.reset
       (s.core 0).vacant = true ∧ s.lowerUndecided 0 = false ∧ has (s.decideRecord 0).1 (fun w => !w.gang && decide ((s.core 0).plane ≠ some w.order)) = true) := by
  decide +kernel

/-- Two records of weights 1 and 2 and one of a lower level, for core 0. -/
def contending (goes : Option Nat) : State :=
  let w (k lvl order : Nat) : RecordRun := { handing false false order with fields := BitVec.ofNat 1024 (k * 2 ^ 344), level := lvl, cr := 0 }
  let s := offering (w 1 2 1) { ready 1 with goes := goes }
  { s with records := [w 1 2 1, w 2 2 2, w 9 1 3] }

theorem witness_weighted_round_robin :
    (let s := contending none
     (s.core 0).goes = none
     ∧ (s.records.filter (fun r => s.candidate 0 r && (s.records.filter (s.candidate 0)).all (fun q => decide (q.level ≤ r.level)))).map (·.order) = [1, 2]
     ∧ s.records.map (fun r => r.cr + (nrec r.fields 344 8 : Int)) = [1, 2, 9] ∧ s.records.map (·.order) = [1, 2, 3])
    ∧ (let s := contending (some 3)
       (s.core 0).goes = some 3 ∧ s.records.any (fun r => decide (r.order = 3) && s.candidate 0 r) = true) := by
  decide +kernel

/-- Core 0 at the end of its iteration of a record. -/
def finishing : Core :=
  { tcore [] [] with
    es := { Seq.reset with ended := true }, el := { Seq.reset with ended := true }, ex := { Seq.reset with ended := true }, ew := { Seq.reset with ended := true } }

theorem witness_iterations_retire :
    (((recorded finishing).recordOf ((recorded finishing).core 0)) = some tRecord ∧ ((recorded finishing).core 0).retires = true)
    ∧ ((recorded (tcore [] [])).recordOf ((recorded (tcore [] [])).core 0) = some tRecord ∧ ((recorded (tcore [] [])).core 0).retires = false)
    ∧ (let r := { tRecord with retired := 10 }
       ({ recorded (tcore [] []) with records := [r] } : State).records.find? (fun r => r.order = 1) = some r ∧ r.retired = r.n)
    ∧ tRecord.retired ≠ tRecord.n := by
  decide +kernel

theorem witness_planes :
    (let s := { submitted 1 3 with records := [{ tRecord with fields := BitVec.ofNat 1024 (recordBits 1 3) }] }
     s.records.find? (fun r => r.order = 1) = some { tRecord with fields := BitVec.ofNat 1024 (recordBits 1 3) } ∧ 1 ∈ [0, 1] ∧ (s.core 1).lacks 1 = true
     ∧ (let r := { tRecord with fields := BitVec.ofNat 1024 (recordBits 1 3), pins := [(pg 15, 0x4000, 0x8000)] }
        (s.imageOf r).length = 32 ∧ (∀ b ∈ s.imageOf r, b.2 = false) ∧ ∃ b ∈ ({ s with pz := [0x8000] } : State).imageOf r, b.2 = true))
    ∧ (let s := offering (handing false false 4) { Core.reset with shadow := some 4 }
       (s.core 0).vacant = true ∧ s.records.find? (fun r => (s.core 0).shadow = some r.order) = some (handing false false 4) ∧ s.chosen (handing false false 4) 0 = true)
    ∧ (State.reset.records.find? (fun r => (State.reset.core 0).shadow = some r.order) = none ∧ (State.reset.core 0).lacks 1 = true) := by
  decide +kernel

/-- A record of a lower order of precedence runs on core 0, and a newcomer of level 7 wants the core. -/
def newcomer : RecordRun := { tRecord with fields := BitVec.ofNat 1024 (7 * 2 ^ 320 + 5 * 2 ^ 328 + 2 ^ 344), level := 7, cores := [0], handout := [(0, 0)], started := [], order := 8, retired := 0 }
def contested (pre : Nat) (slots : Nat) : State :=
  let s := recorded { tcore [] [] with pre := pre }
  let s1 := match s.context 0 with | some x => s.setContext 0 { x with nslot := slots } | none => s
  { s1 with records := [tRecord, newcomer] }

theorem witness_stops_and_kills :
    ((contested 0 1).records.find? (fun r => r.order = 8) = some newcomer ∧ newcomer.handout ≠ [] ∧ newcomer.gang = false ∧ (contested 0 1).victims newcomer = [(tRecord, 0)])
    ∧ (((contested 2 0).core 0).pre = 2 ∧ ((contested 4 1).core 0).pre = 4 ∧ ((contested 4 1).core 0).mode = .user ∧ ((contested 4 1).core 0).turn = 0
      ∧ (contested 4 1).recordOf ((contested 4 1).core 0) = some tRecord ∧ ((contested 4 1).core 0).run = some (1, 5) ∧ ((contested 4 1).core 0).ctx = some 0
      ∧ has ((contested 2 0).context 0) (fun cx => decide (cx.freeSlots = [])) = true ∧ has ((contested 4 1).context 0) (fun cx => decide (cx.freeSlots = [0])) = true ∧ ((contested 4 1).core 0).stores = [] ∧ ((contested 4 1).core 0).powered = true
      ∧ has ((contested 4 1).settled 0) (fun s1 => s1.records.all (fun q => !q.going)) = true)
    ∧ (((contested 3 0).core 0).pre = 3 ∧ ((contested 3 0).core 0).run = some (1, 5) ∧ ((contested 3 0).core 0).turn = 0 ∧ ((contested 3 0).core 0).powered = true
      ∧ (contested 3 0).recordOf ((contested 3 0).core 0) = some tRecord ∧ ((contested 3 0).core 0).copies = [] ∧ ((contested 3 0).core 0).stores = [] ∧ ((contested 3 0).core 0).mode ≠ .escalated ∧ tget none (contested 3 0).starts 0 = none)
    ∧ tget none { contested 3 0 with starts := tset none [] 0 (some ⟨Core.reset, [], []⟩) }.starts 0 = some ⟨Core.reset, [], []⟩ := by
  decide +kernel

/-- A saved iteration of a record in slot 0 of context 0; core 1 is free for it. -/
def savedRun (rec : Nat) : SavedCore := { core := { tcore [(1, 5)] [] with snap := some tSnap, run := some (1, 5) }, pz := [], recAddr := rec, l := 5, from_ := 0, yielded := false, spent := 0 }
def restoring (rec : Nat) (plane : Option Nat) : State :=
  let s := (mapped { Core.reset with mode := .user, run := some (9, 0) }).setCore 1 { Core.reset with plane := plane }
  let s1 := match s.context 0 with | some x => s.setContext 0 { x with nslot := 1, slots := [(0, some (savedRun rec))] } | none => s
  { s1 with records := [tRecord], mem := s1.mem.wrN 8192 (savedRun rec).header }

theorem witness_restores_and_switches :
    (let s := restoring tRecord.addr (some 1)
     has (s.context 0) (fun cx => decide (tget none cx.slots 0 = some (savedRun tRecord.addr)) && decide (s.readHeader (cx.slotBase 0) (savedRun tRecord.addr) = some (savedRun tRecord.addr))) = true
     ∧ (s.core 1).stores = [] ∧ (savedRun tRecord.addr).core.heldArr = []
     ∧ s.records.find? (fun r => r.ctx = 0 && r.addr = tRecord.addr) = some tRecord ∧ s.restoreCore tRecord (savedRun tRecord.addr) = some 1
     ∧ (savedRun tRecord.addr).core.mode = .user ∧ (savedRun tRecord.addr).core.run.isSome = true ∧ (savedRun tRecord.addr).core.snap ≠ none ∧ (savedRun tRecord.addr).core.moved = none)
    ∧ ((restoring 8 (some 1)).records.find? (fun r => r.ctx = 0 && r.addr = 8) = none ∧ (restoring 8 (some 1)).readHeader 8192 (savedRun 8) = some (savedRun 8))
    ∧ (let s := { restoring 8 (some 1) with mem := (restoring 8 (some 1)).mem.wr 8192 77 }
       leNat (s.mem.rdN (8192 + 36) 4) ≠ (crc32c (s.mem.rdN 8192 36)).toNat)
    ∧ (restoring tRecord.addr none).restoreCore tRecord (savedRun tRecord.addr) = none
    ∧ (has ((restoring 8 none).context 0) (fun cx => cx.onModule) = true ∧ (∀ c ∈ (restoring 8 none).cores, c.2.ctx = some 0 → c.2.run = none))
    ∧ (has ((contested 0 0).context 0) (fun cx => cx.onModule) = true ∧ ∃ c ∈ (contested 0 0).cores, c.2.ctx = some 0 ∧ c.2.run ≠ none)
    ∧ (let s := match (mapped Core.reset).context 0 with | some x => (mapped Core.reset).setContext 0 { x with onModule := false } | none => State.reset
       has (s.context 0) (fun cx => !cx.onModule) = true) := by
  decide +kernel

/-- A record that waits at a page-table entry that cannot be read, or under a hold; a queue of a context that has ended. -/
def tornQueue : State := { submitted 1 3 with pz := [imageTable + 8] }
def heldQueue : State := { submitted 1 3 with tlbHolds := [(0, pg 1, 2 ^ 30)] }

/-- The two records of a contest over core 0: a gang that runs there and in which a copy has not reached its sector's end. -/
def ganged : RecordRun := { tRecord with gang := true, admitted := true, cores := [0] }
def gangContest : State := { contested 0 1 with records := [ganged, newcomer] }
def waitingCopy : State :=
  { contested 2 1 with tlbHolds := [(0, pg 1, 2 ^ 36)] }.modCore 0 (fun c => { c with copies := [{ tcopy .xst 8 [] with pins := [] }], cd := [(0, (tdesc (pg 1) 0, false))] })

theorem witness_run_corners :
    (accepts (submitted 1 3).flushDead (taken (fun r => r.n != 0)) = true ∧ (submitted 1 3).flushDead.records.length < 64 ∧ (submitted 1 3).flushDead.checked = false)
    ∧ accepts tornQueue.flushDead (fun a => match a with | .dead _ => true | _ => false) = true
    ∧ accepts heldQueue.flushDead (fun a => match a with | .wait => true | _ => false) = true
    ∧ ((contending none).records.Pairwise (fun a b => a.order ≠ b.order) ∧ (∀ r ∈ (contending none).records, (contending none).reserves 0 r = false)
      ∧ ∃ r ∈ ({ contending none with reserving := some 2 } : State).records, ({ contending none with reserving := some 2 } : State).reserves 0 r = true ∧ ({ contending none with reserving := some 2 } : State).candidate 0 r = true)
    ∧ ((∀ q ∈ (recorded finishing).records, q.going = false) ∧ ((recorded finishing).core 0).pend = [] ∧ ((recorded finishing).core 0).inbox = [])
    ∧ (let r := { ganged with going := true }
       let s : State := { recorded finishing with records := [r] }
       s.recordOf (s.core 0) = some r ∧ (s.core 0).retires = true ∧ ∀ k ∈ r.cores, k ≠ 0 → (s.core k).run = none)
    ∧ ((contested 0 1).records.Pairwise (fun a b => a.order ≠ b.order) ∧ tRecord.gang = false ∧ tRecord.going = false ∧ (gangContest.victims newcomer).map (·.2) = [0]
      ∧ has (gangContest.victims newcomer)[0]? (fun v => v.1.gang) = true ∧ gangContest.records.Pairwise (fun a b => a.order ≠ b.order))
    ∧ ((waitingCopy.core 0).pre = 2 ∧ (waitingCopy.core 0).mode = .user ∧ waitingCopy.settled 0 = none)
    ∧ (((contested 3 0).core 0).inbox = [] ∧ (contested 3 0).records.Pairwise (fun a b => a.order ≠ b.order) ∧ ((contested 4 1).core 0).frozen = false) := by
  decide +kernel

/-- The image of core 0's iteration of `tRecord` with a SEQ. -/
def imageSlot (seq : Nat) : Slot :=
  { Slot.empty with sl := ({ Seal.empty with seq := BitVec.ofNat 64 seq, valid := true, fmt := 1, record := 0xF000020000, l := 5, stlen := 512, mrlen := 786432, splen := 2097152 } : Seal).sealed, core := some { tcore [(1, 5)] [] with snap := some tSnap } }
def imaged (a b : Nat) (c : Core) : State := { recorded c with chill := [(0, { Chill.reset with a := imageSlot a, b := imageSlot b })] }
def dark : Core := { Core.reset with powered := false, ctx := some 0, mode := .held }
/-- A record that does not allow its iterations to be lost. -/
def unkillable (c : Core) : State := { recorded c with records := [{ tRecord with fields := tRecord.fields &&& ~~~(1#1024 <<< 352) }] }

theorem witness_images_and_power :
    (({ recorded (tcore [] []) with chill := [(0, { Chill.reset with writing := some (true, 64) })] } : State).chillOf 0).writing = some (true, 64)
    ∧ ((State.reset.chillOf 4095).writing = none ∧ ((recorded (tcore [] [])).chillOf 0).writing = none ∧ State.reset.boot.writing = false)
    ∧ (let x := (imageSlot 3).sl; x.crcOk = true)
    ∧ ((recorded (tcore [] [])).core 0).powered = true ∧ ((recorded (tcore [] [])).core 0).run ≠ none ∧ ((recorded (tcore [] [])).core 0).stores = []
    ∧ ((on0 dark).core 0).powered = false ∧ ((on0 dark).cluster (0 / 32)).powered = true ∧ ((on0 dark).core 0).run = none
    ∧ (let s := imaged 3 4 dark
       (s.core 0).run ≠ none ∧ s.resumeSlot 0 = some true ∧ has ((s.chillOf 0).slot true).core (fun v => v.snap.isSome && v.moved.isNone && v.heldArr.isEmpty && (s.repin 0 ((s.core 0).ctx.getD 64) v.copies).isSome && v.copies.isEmpty) = true
       ∧ (s.repin 0 0 [{ tcopy .xld 8 [] with pins := [] }]).isSome = true ∧ ({ s with tlbHolds := [(0, pg 1, 2 ^ 36)] }.repin 0 0 [{ tcopy .xld 8 [] with pins := [] }]).isNone = true
       ∧ s.slotOk 0 (s.chillOf 0).a = true ∧ s.slotOk 0 (s.chillOf 0).b = true)
    ∧ (let s := unkillable dark
       (s.core 0).powered = false ∧ (s.cluster 0).powered = true ∧ s.resumeSlot 0 = none ∧ has (s.recordOf (s.core 0)) (fun r => !r.fields.getLsbD 352) = true)
    ∧ (let s := { recorded dark with records := [{ tRecord with fields := tRecord.fields ||| (1#1024 <<< 352) }] }
       s.resumeSlot 0 = none ∧ (s.core 0).run = some (1, 5) ∧ has (s.recordOf (s.core 0)) (fun r => r.fields.getLsbD 352 && !r.gang) = true) := by
  decide +kernel

/-- A packet of a ladle queue. -/
def packetOf (op p2 d3 d4 d5 d6 d7 : Nat) (sems : Nat := 0) : List Byte := natLe 64 (op * 2 ^ 16 + sems + p2 * 2 ^ 160 + d3 * 2 ^ 192 + d4 * 2 ^ 256 + d5 * 2 ^ 320 + d6 * 2 ^ 384 + d7 * 2 ^ 448)
/-- Context 0 with queue 2 bound to ladle 1; its header is at HBM 0x10000 and its slots begin at HBM 0x20000, where the head is the packet. -/
def tBind : LadleBind := { hdr := 0x10000, hdrVa := pg 1 + 0x10000, base := pg 1 + 0x20000, lsz := 0, ladle := 1, held := none }
def ladled (p : List Byte) (busy : Bool) : State :=
  let s := mapped Core.reset
  let s1 := match s.context 0 with | some x => s.setContext 0 { x with lqs := [(2, some tBind)], semFirst := 2, semCount := 5 } | none => s
  { s1 with mem := (s1.mem.wrN 0x10000 (natLe 8 1)).wrN 0x20000 p, ladles := if busy then [(1, ⟨some (0, 2), p, 0, false⟩)] else [] }

/-- A range that is translated and pinned in turn, as a test on its last state. -/
def pinned (s : State) : List (Nat × Nat × Bool) → (State → List Nat → Bool) → Bool
  | [], p => p s []
  | (va, n, wr) :: rest, p => entered (s.submit 0 wr (rangeParts va n) []) fun s1 pins => has (boundAddr pins va) fun a =>
      (List.range n).all (fun i => boundAddr pins (va + i) == some (a + i)) && decide (a + n ≤ 0x10000000000) && (!wr || (rangePages va n).all (fun b => (boundAddr pins b).isSome)) && s1.spe.regions.isEmpty
        && pinned s1 rest (fun s as => p s (a :: as))

theorem pins_of {s : State} {va n : Nat} {wr : Bool} {rest : List (Nat × Nat × Bool)} {q : State → List Nat → Bool} (h : pinned s ((va, n, wr) :: rest) q = true) :
    ∃ s1 pins a, pinsTo s 0 va n wr s1 pins a ∧ pinned s1 rest (fun s as => q s (a :: as)) = true := by
  unfold pinned entered at h
  split at h
  · rename_i s1 pins hs
    obtain ⟨a, ha, h⟩ := has_spec h
    simp only [Bool.and_eq_true, Bool.or_eq_true, Bool.not_eq_true', List.all_eq_true, List.mem_range, beq_iff_eq, decide_eq_true_eq] at h
    obtain ⟨⟨⟨⟨h1, h2⟩, h3⟩, h4⟩, h5⟩ := h
    refine ⟨s1, pins, a, ⟨hs, h1, h2, fun hw b hb => ?_, fun b => ?_⟩, h5⟩
    · rcases h3 with h3 | h3
      · rw [hw] at h3; cases h3
      · exact Option.isSome_iff_exists.mp (h3 b hb)
    · unfold State.unitAt
      rw [List.isEmpty_iff.mp h4]; rfl
  · cases h

def tFrom : Nat := pg 1 + 0x4000
def tTo : Nat := pg 1 + 0x8000
def tScale : Nat := pg 1 + 0xA000
def copyPacket : List Byte := packetOf 1 0 tFrom tTo 16 0 0
def fillPacket (a : Nat) : List Byte := packetOf 2 0 a 16 7 0 0
def qmxPacket : List Byte := packetOf 3 0 tFrom tTo tScale (1 + 2 * 2 ^ 32) 0
def qcb4Packet : List Byte := packetOf 4 0 tFrom tTo tScale 1 0
def ingotPacket : List Byte := packetOf 5 0 tFrom tTo tScale (3 * 2 ^ 17) 0
def histPacket : List Byte := packetOf 6 0 tFrom tTo 5 0 0

/-- A ladle table in which symbol 0 has a code of one bit. -/
def tTable : List Byte := let t : List Byte := 1 :: List.replicate 191 0; t ++ natLe 4 (crc32c t).toNat
def tabled (p : List Byte) : State := { ladled p true with mem := (ladled p true).mem.wrN tableBase tTable }

theorem witness_moving_packets :
    performs (ladled (packetOf 0 0 0 0 0 0 0) true) 1 0 2 tBind (packetOf 0 0 0 0 0 0 0) 0
    ∧ (performs (ladled copyPacket true) 1 0 2 tBind copyPacket 1 ∧ pPen copyPacket = false
      ∧ pinned (ladled copyPacket true) [(pdw copyPacket 3, pdw copyPacket 5, false), (pdw copyPacket 4, pdw copyPacket 5, true)] (fun _ as => as == [0x4000, 0x8000]) = true ∧ apart 0x4000 16 0x8000 16)
    ∧ (performs (ladled (fillPacket tTo) true) 1 0 2 tBind (fillPacket tTo) 2 ∧ pdw (fillPacket tTo) 4 % 8 = 0 ∧ pdw (fillPacket tTo) 3 % 8 = 0
      ∧ pinned (ladled (fillPacket tTo) true) [(pdw (fillPacket tTo) 3, pdw (fillPacket tTo) 4, true)] (fun _ _ => true) = true)
    ∧ (performs (ladled (fillPacket (pg 2)) true) 1 0 2 tBind (fillPacket (pg 2)) 2
      ∧ (match (ladled (fillPacket (pg 2)) true).submit 0 true (rangeParts (pdw (fillPacket (pg 2)) 3) (pdw (fillPacket (pg 2)) 4)) [] with | .miss _ => true | _ => false) = true) := by
  simp only [performs, apart]
  decide +kernel

theorem witness_owed_copies :
    let s := { ladled copyPacket true with ladles := [(1, ⟨some (0, 2), copyPacket, 0, true⟩)] }
    (s.ladle 1).busy = some (0, 2) ∧ pOp (s.ladle 1).packet = 1 ∧ (s.ladle 1).owed = true := by
  decide +kernel

theorem witness_coding_packets :
    (performs (ladled qmxPacket true) 1 0 2 tBind qmxPacket 3 ∧ pdw qmxPacket 6 % 2 ^ 32 = 1 ∧ mxElem (pdw qmxPacket 6 / 2 ^ 32 % 4) = .e2m1
      ∧ pinned (ladled qmxPacket true) [(pdw qmxPacket 3, 128, false), (pdw qmxPacket 4, 16, true), (pdw qmxPacket 5, 1, true)] (fun s as => as == [0x4000, 0x8000, 0xA000] && s.pz.isEmpty) = true ∧ apart 0x8000 16 0xA000 1)
    ∧ (performs (tabled qcb4Packet) 1 0 2 tBind qcb4Packet 4 ∧ pdw qcb4Packet 6 % 2 ^ 32 = 1
      ∧ pinned (tabled qcb4Packet) [(pdw qcb4Packet 3, 128, false), (pdw qcb4Packet 4, 16, true), (pdw qcb4Packet 5, 2, true)]
        (fun s as => as == [0x4000, 0x8000, 0xA000] && s.pz.isEmpty && gives (s.ladleTable 0 0 (pdw qcb4Packet 6 / 2 ^ 32 % 16)) (fun _ => true)) = true ∧ apart 0x8000 16 0xA000 2)
    ∧ (performs (tabled ingotPacket) 1 0 2 tBind ingotPacket 5 ∧ (pP2 ingotPacket).testBit 5 = false
      ∧ pinned (tabled ingotPacket) [(pdw ingotPacket 3, 32, false)] (fun s _ => s.pz.isEmpty && gives (s.ladleTable 0 0 (pdw ingotPacket 6 / 2 ^ 13 % 16)) fun tb =>
          gives (allStreams (codewords tb) ((List.range 32).map (fun i => (s.mem.rd (0x4000 + i), false))) 1 (List.range 32)) fun ls =>
            pinned s [(pdw ingotPacket 4, 64 + scaleBytes 3 + (ls.map List.length).sum, true), (pdw ingotPacket 5, scaleBytes 3, false)] (fun s as => as == [0x8000, 0xA000] && s.pz.isEmpty)) = true)
    ∧ (performs (ladled histPacket true) 1 0 2 tBind histPacket 6 ∧ 0 < pdw histPacket 5 ∧ pP2 histPacket = 0
      ∧ pinned (ladled histPacket true) [(pdw histPacket 3, pdw histPacket 5, false), (pdw histPacket 4, 1024, true)] (fun s _ => s.pz.isEmpty) = true) := by
  simp only [performs, apart]
  decide +kernel

def headIs (x : Head) (p : State → List Byte → Bool) : Bool := match x with | .packet s l => p s l | _ => false
def waitingPacket (d1 : Nat) : List Byte := natLe 64 (2 ^ 24 + 2 * 2 ^ 26 + d1 * 2 ^ 64)

theorem witness_slots_taken :
    (let s := ladled (packetOf 0 1 0 0 0 0 0) false
     s.checked = false ∧ (s.ladle 1).busy = none ∧ s.turnOrder 1 = [(0, 2, tBind)] ∧ headIs (s.headOf 0 tBind) (fun _ p => !packetOk p) = true)
    ∧ (let s := ladled (waitingPacket 0) false
       s.turnOrder 1 = [(0, 2, tBind)] ∧ headIs (s.headOf 0 tBind) (fun s1 p => packetOk p && !s1.copyOverlap 0 p && pWen p && !(s1.sem (pWsem p)).2 && decide (pdw p 1 ≤ (s1.sem (pWsem p)).1.toNat)) = true)
    ∧ ((ladled copyPacket true).ladle 1).busy ≠ none ∧ (ladled copyPacket false).lq 0 2 = some tBind ∧ State.reset.lq 0 2 = none := by
  decide +kernel

/-- The mailbox of a state runs a command with its parameters, as doublewords from byte 8. -/
def commanded (s : State) (op : Nat) (ps : List Nat) : State := { s with mbox := ⟨natLe 8 op ++ ps.flatMap (natLe 8), [], [], 1⟩ }
def twinned : State := { commanded State.reset 5 [0, 0, 1, 0] with twins := [⟨2 ^ 33, 2 ^ 14, false⟩] }
/-- An escalation of a command stream of context 0 with sequence 9, and one that waits for nothing. -/
def tEsc : EscEntry := { ctx := 0, core := 0, cp := true, seq := 9, regs := [], hcause := 0, hpos := 0, place := 0 }
def escalated (op : Nat) (ps : List Nat) : State :=
  let s := commanded (stream [] []) op ps
  { s.setAgent (.cp 0) { s.agent (.cp 0) with mode := .escalated, escSeq := some 9 } with escs := [tEsc] }
/-- A context with the entry of ladle queue 2 at HBM 0x40000. -/
def entryAt (bound busy : Bool) (w : Nat) (ps : List Nat) : State :=
  let s := ladled [] busy
  let s1 := match s.context 0 with | some x => s.setContext 0 { x with lqTable := 0x40000, lqs := if bound then x.lqs else [] } | none => s
  commanded { s1 with mem := s1.mem.wrN 0x40020 (natLe 16 w) } 7 ps

theorem witness_context_commands :
    (asks (commanded State.reset 1 [64]) 1 ∧ (commanded State.reset 1 [64]).createOk = false ∧ 64 ≤ (commanded State.reset 1 [64]).param 8)
    ∧ (asks (commanded (mapped Core.reset) 1 [0]) 1 ∧ ((commanded (mapped Core.reset) 1 [0]).context ((commanded (mapped Core.reset) 1 [0]).param 8)).isSome = true)
    ∧ (let s := commanded State.reset 1 [63, 0x100, 0, 0x200, 1 + 36 * 2 ^ 32, 0, 0, 1023 + 2 ^ 16, 0xFFFF, 0x10000, 0xFFFFFFFFFFFE0, 2047]
       asks s 1 ∧ s.createOk = true ∧ s.param 88 ≠ 0
       ∧ (List.range 256).all (fun k => has (s.lqRead (s.param 80) k) (fun e => !lqV e)) = true ∧ (s.agent (.cp (s.param 8))).stores = [])
    ∧ (asks (commanded State.reset 2 [0]) 2 ∧ (commanded State.reset 2 [0]).context ((commanded State.reset 2 [0]).param 8) = none
      ∧ ((commanded (mapped Core.reset) 2 [0]).context ((commanded (mapped Core.reset) 2 [0]).param 8)).isSome = true) := by
  simp only [asks]
  decide +kernel

theorem witness_translation_commands :
    (let s := { commanded (mapped Core.reset) 3 [0, pg 1, 2 ^ 52 - pg 1] with locks := [(lockKey 0 (pg 1), 1)] }
     asks s 3 ∧ s.param 16 + s.param 24 ≤ 2 ^ 52 ∧ has (s.context (s.param 8)) (fun c => !c.dead) = true ∧ s.pinnedIn (s.param 8) (s.param 16) (s.param 24) = true)
    ∧ (let s := commanded (mapped Core.reset) 3 [0, pg 1, 1]
       asks s 3 ∧ has (s.context (s.param 8)) (fun c => !c.dead) = true ∧ s.pinnedIn (s.param 8) (s.param 16) (s.param 24) = false)
    ∧ (asks (commanded State.reset 3 [0, 0, 0]) 3 ∧ (commanded State.reset 3 [0, 0, 0]).context ((commanded State.reset 3 [0, 0, 0]).param 8) = none)
    ∧ (asks (commanded (mapped Core.reset) 4 [0, pg 1, 1]) 4 ∧ has ((commanded (mapped Core.reset) 4 [0, pg 1, 1]).context 0) (fun c => !c.dead) = true)
    ∧ (asks (commanded State.reset 5 [0x4000, 0, 0, 0]) 5 ∧ (commanded State.reset 5 [0x4000, 0, 0, 0]).param 8 % (2 * 2 ^ 14) ≠ 0)
    ∧ (let s := commanded twinned 5 [0x2000000000 * 6, 2, 1, 0]
       asks s 5 ∧ s.param 16 = 2 ∧ s.param 24 ≤ 1 ∧ s.param 32 = 0 ∧ s.param 8 % (2 * 2 ^ 36) = 0 ∧ s.param 8 + 2 * 2 ^ 36 ≤ 0x10000000000
       ∧ ∀ w ∈ s.twins, w.lower + 2 * w.size ≤ s.param 8 ∨ s.param 8 + 2 * 2 ^ 36 ≤ w.lower)
    ∧ (let s := commanded twinned 5 [2 ^ 33, 0, 0, 1]
       asks s 5 ∧ s.param 16 = 0 ∧ s.param 32 = 1 ∧ s.param 8 % (2 * 2 ^ 14) = 0 ∧ ∃ w ∈ s.twins, w.lower = s.param 8 ∧ w.size = 2 ^ 14) := by
  simp only [asks]
  decide +kernel

theorem witness_stream_commands :
    (asks (escalated 6 [0, 8, 1]) 6 ∧ has ((escalated 6 [0, 8, 1]).context 0) (fun c => !c.dead) = true ∧ (∀ e ∈ (escalated 6 [0, 8, 1]).ringOf 0, e.seq ≠ 8) ∧ (escalated 6 [0, 8, 1]).param 24 ≤ 1)
    ∧ ((escalated 6 [0, 9, 1]).ringOf ((escalated 6 [0, 9, 1]).param 8)).find? (fun e => e.seq = (escalated 6 [0, 9, 1]).param 16) = some tEsc
    ∧ ((escalated 6 [0, 9, 0]).param 24 = 0 ∧ tEsc.cp = true ∧ ((escalated 6 [0, 9, 0]).agent (.cp 0)).mode = .escalated ∧ ((escalated 6 [0, 9, 0]).agent (.cp 0)).escSeq = some tEsc.seq ∧ (tget 0 ((escalated 6 [0, 9, 0]).agent (.cp 0)).tr 0).extractLsb' 0 8 ≠ 0x1B
      ∧ ∀ w ∈ (escalated 6 [0, 9, 0]).escs, w.ctx = 0 → w.seq ≠ 0)
    ∧ (asks (commanded (stream [] []) 8 [0, 16]) 8 ∧ (commanded (stream [] []) 8 [0, 16]).param 16 % 32 ≠ 0)
    ∧ (let s := commanded (stream [] []) 8 [0, 2 ^ 52 - 32]
       asks s 8 ∧ s.param 16 % 32 = 0 ∧ s.param 16 < 2 ^ 52 ∧ has (s.context 0) (fun c => !c.dead) = true ∧ (s.agent (.cp 0)).mode = .user ∧ (s.agent (.cp 0)).es.ended = false
       ∧ (s.agent (.cp 0)).fetch.stopped = false)
    ∧ (let s := commanded (mapped Core.reset) 8 [0, 32]
       asks s 8 ∧ (s.agent (.cp 0)).mode = .idle ∧ (s.agent (.cp 0)).stores = [])
    ∧ (asks (entryAt false false 0 [0, 256, 0]) 7 ∧ 255 < (entryAt false false 0 [0, 256, 0]).param 16)
    ∧ (let s := { entryAt false false 0 [0, 2, 3] with pz := [0x40020] }
       asks s 7 ∧ has (s.context 0) (fun x => !x.dead && (s.lqRead x.lqTable (s.param 16)).isNone) = true ∧ s.param 24 ≤ 3)
    ∧ (let s := entryAt false false (2 ^ 63 + 2 ^ 52) [0, 2, 3]
       has (s.context 0) (fun x => has (s.lqRead x.lqTable (s.param 16)) (fun w => w.getLsbD 63 && decide (w.extractLsb' 52 11 ≠ 0))) = true)
    ∧ (let s := entryAt false false 0 [0, 2, 1]
       s.param 24 / 2 % 2 = 0 ∧ has (s.context 0) (fun x => has (s.lqRead x.lqTable (s.param 16)) (fun w => !w.getLsbD 63) && (tget none x.lqs (s.param 16)).isNone) = true)
    ∧ (let s := entryAt true true 0 [0, 2, 1]
       asks s 7 ∧ has (s.context 0) (fun x => has (s.lqRead x.lqTable (s.param 16)) (fun w => !w.getLsbD 63) && decide (tget none x.lqs (s.param 16) = some tBind)) = true
       ∧ ∃ l ∈ s.ladles, l.2.busy = some (s.param 8, s.param 16)) := by
  simp only [asks]
  decide +kernel

/-- Cluster 127 in a ramp, cluster 64 dark. -/
def clustered (s : State) : State := { s with clusters := [(64, { Cluster.reset with powered := false }), (127, { Cluster.reset with ramp := true, tgt := 5, pv := true, pend := 7 })] }

theorem witness_power_commands :
    (asks (commanded State.reset 0x10 [0, 0, 7]) 0x10 ∧ (commanded State.reset 0x10 [0, 0, 7]).param 8 + 2 ^ 64 * (commanded State.reset 0x10 [0, 0, 7]).param 16 = 0)
    ∧ (let s := clustered (commanded State.reset 0x10 [1, 2 ^ 63 + 1, 7])
       asks s 0x10 ∧ s.param 8 + 2 ^ 64 * s.param 16 ≠ 0 ∧ s.param 24 ≤ 7 ∧ (∀ i < 256, 32 ≤ i → s.mbox.cmd.getD i 0 = 0)
       ∧ (s.param 8 + 2 ^ 64 * s.param 16).testBit 127 = true ∧ (s.cluster 127).ramp = true ∧ (s.param 8 + 2 ^ 64 * s.param 16).testBit 64 = true ∧ (s.cluster 64).powered = false
       ∧ (s.param 8 + 2 ^ 64 * s.param 16).testBit 0 = true ∧ (s.cluster 0).ramp = false ∧ (s.cluster 0).powered = true ∧ (s.param 8 + 2 ^ 64 * s.param 16).testBit 1 = false)
    ∧ (asks (commanded State.reset 0x11 [128]) 0x11 ∧ 127 < (commanded State.reset 0x11 [128]).param 8 ∧ (commanded State.reset 0x11 [127]).param 8 ≤ 127)
    ∧ (asks (commanded State.reset 0x12 [2]) 0x12 ∧ 1 < (commanded State.reset 0x12 [2]).param 8 ∧ (commanded State.reset 0x12 [1]).param 8 ≤ 1) := by
  simp only [asks]
  decide +kernel

theorem witness_other_commands :
    ((commanded State.reset 9 []).mbox.mbst.getLsbD 0 = true ∧ (commanded State.reset 9 []).opcode = 9 ∧ (commanded State.reset 0 []).opcode = 0 ∧ (commanded State.reset 19 []).opcode = 19)
    ∧ State.reset.mbox.mbst.getLsbD 0 = false
    ∧ ((commanded State.reset (3 + 2 ^ 17) []).opcode = 3 ∧ (commanded State.reset (3 + 2 ^ 17) []).param 0 / 2 ^ 17 % 2 ^ 15 ≠ 0) := by
  decide +kernel

theorem witness_operating_points :
    ((State.reset.cluster 0).ramp = false ∧ ((clustered State.reset).cluster 127).ramp = true ∧ ((clustered State.reset).cluster 127).pv = true ∧ ((clustered State.reset).cluster 127).powered = true)
    ∧ (let s := { State.reset with clusters := [(3, { Cluster.reset with ramp := true, tgt := 7 })] }
       (s.cluster 3).ramp = true ∧ (s.cluster 3).pv = false)
    ∧ ((State.reset.cluster 3).powered = true ∧ ((clustered State.reset).cluster 64).powered = false ∧ ∀ n < 4096, n / 32 = 64 → ((clustered State.reset).core n).run = none) := by
  refine ⟨by decide +kernel, by decide +kernel, rfl, by decide +kernel, fun n _ _ => rfl⟩

/-- A full error log. -/
def loggedFull : State := { State.reset with elog := ⟨0, 4096, 0, 0, 0, []⟩ }

theorem witness_errors_and_snapshots :
    (({ State.reset with trig := ⟨1, 0, 0, 0, []⟩ } : State).trig.ctl.getLsbD 0 = true ∧ State.reset.bootFailed = false ∧ ({ State.reset with boot := { Boot.reset with bootst := 1 } } : State).bootFailed = true)
    ∧ State.reset.trig.ctl.getLsbD 0 = false
    ∧ ((⟨.pcie, false, 0xFFFF, some 31⟩ : ErrorReport).uncorrected = false ∧ (∀ k, (⟨.l1 0 0, true, 0, none⟩ : ErrorReport).site ≠ .moduleControl k)
      ∧ 4096 ≤ (loggedFull.elog.widx - loggedFull.elog.ridx).toNat ∧ (State.reset.elog.widx - State.reset.elog.ridx).toNat < 4096)
    ∧ (isHbm 0xFFFFFFFFFF = true ∧ 63 ≠ 0 ∧ ((recorded (tcore [] [])).core 0).ctx = some 0)
    ∧ ((State.reset.core 0).spmap.getLsbD 5 = false ∧ ((on0 { Core.reset with spmap := 0x20 }).core 0).spmap.getLsbD 5 = true)
    ∧ (∀ c l ws, (⟨.l1 0 0, true, 0, none⟩ : ErrorReport).site ≠ .residue c l ws)
    ∧ ((State.reset.core 0).pend = [] ∧ (State.reset.core 0).turn = 0 ∧ (State.reset.core 0).copies = []
      ∧ ((on0 { Core.reset with turn := 3 }).core 0).turn ≠ 0 ∧ ((on0 { Core.reset with turn := 3 }).core 0).frozen = false ∧ ((on0 { Core.reset with turn := 3, frozen := true }).core 0).frozen = true
      ∧ (State.reset.core 0).run = none ∧ ((recorded (tcore [] [])).core 0).run ≠ none ∧ ((recorded (tcore [] [])).settled 0).isSome = true ∧ waitingCopy.settled 0 = none ∧ (waitingCopy.core 0).run ≠ none ∧ (waitingCopy.core 0).turn = 0) := by
  refine ⟨by decide, by decide, ⟨rfl, (fun k h => by cases h), by decide +kernel⟩, by decide +kernel, by decide +kernel, (fun c l ws h => by cases h), by decide +kernel⟩

/-- A link in a state of its training, after so many failures. -/
def linked (l : Nat) (st : LinkState) (tries : Nat) (policy : Nat) : State :=
  { State.reset with
    links := [(l, ⟨st, tries, 0, 0, false, false⟩)]
    boot := { Boot.reset with copyA := some (({ Seal.empty with seq := 1, valid := true, fmt := 2 } : Seal).sealed, ⟨[(5, 0x21)], [], [], List.replicate 16 (BitVec.ofNat 32 policy), 7⟩) } }

theorem witness_links :
    (43 < 44 ∧ ((linked 43 .down 2 0).link 43).st = .down ∧ ((linked 43 .down 2 0).link 43).tries < 3)
    ∧ (((linked 0 .detect 0 0).link 0).st = .detect ∧ ((linked 0 .equalise 0 0).link 0).st = .equalise ∧ ((linked 27 .feclock 0 0).link 27).st = .feclock)
    ∧ (((linked 28 .ident 0 1).link 28).st = .ident ∧ 28 ≤ 28 ∧ ((linked 28 .ident 0 1).policy 28).extractLsb' 0 2 = (0xFFFFFFFD : W32).extractLsb' 0 2
      ∧ ((linked 28 .ident 0 1).policy 28).extractLsb' 0 2 ≠ (0xFFFFFFFF : W32).extractLsb' 0 2)
    ∧ (((linked 43 .keyx 0 1).link 43).st = .keyx ∧ ((linked 43 .up 0 1).link 43).st = .up ∧ (({ State.reset with links := [(43, ⟨.keyx, 0, 0, 0, true, false⟩)] } : State).link 43).wasDown = true ∧ ((linked 43 .keyx 0 1).link 43).wasDown = false)
    ∧ (((linked 43 .keyx 1 1).link 43).tries < 2 ∧ 2 ≤ ((linked 43 .keyx 2 1).link 43).tries)
    ∧ (let s := { linked 0 .up 0 0 with links := [(0, ⟨.up, 0, 0, 8, false, false⟩), (1, ⟨.up, 0, 0, 7, false, false⟩)] }
       (s.link 0).st = .up ∧ (s.link 0).fails = 8 ∧ (s.link 1).fails < 8 ∧ 44 ≤ 44)
    ∧ (let s := linked 43 .up 0 1
       (s.link (28 + 15)).st = .up ∧ (s.policy (28 + 15)).getLsbD 0 = true ∧ ((linked 43 .up 0 2).policy (28 + 15)).getLsbD 0 = false) := by
  decide +kernel

/-- A boot whose stages have verdicts and versions. -/
def booting (a b c : Bool) (v : Nat) : BootInput :=
  let st (ok : Bool) : BootStage := ⟨ok, BitVec.ofNat 16 v, [1]⟩
  ⟨true, [2], st a, st b, st c⟩

theorem witness_boot :
    (({ booting true true true 7 with selfTestOk := false } : BootInput).selfTestOk = false ∧ State.reset.boot.config = none)
    ∧ ((linked 0 .down 0 0).boot.config = some ⟨[(5, 0x21)], [], [], List.replicate 16 0, 7⟩
      ∧ (booting false true true 7).supervisor.signatureOk = false ∧ (booting true true true 6).supervisor.svn < 7 ∧ ¬(booting true false true 7).supervisor.svn < 7
      ∧ (booting true false true 7).cp.signatureOk = false
      ∧ (linked 0 .down 0 0).boot.found (booting true true true 7) = [(booting true true true 7).supervisor, (booting true true true 7).cp, (booting true true true 7).link]
      ∧ ∀ x ∈ [(booting true true true 7).supervisor, (booting true true true 7).cp, (booting true true true 7).link], x.signatureOk = true ∧ ¬x.svn < 7)
    ∧ ((⟨false, ⟨[], [], [], [], 0⟩, []⟩ : FirmwareImage).signatureOk = false ∧ (⟨true, ⟨[], [], [], [], 0⟩, [(2, ⟨true, 9, [3]⟩)]⟩ : FirmwareImage).signatureOk = true
      ∧ (State.reset.boot.copyA = none ∧ State.reset.boot.copyB = none)
      ∧ has (linked 0 .down 0 0).boot.copyA (fun x => decide (x.1.seq.toNat + 1 < 2 ^ 64)) = true ∧ (linked 0 .down 0 0).boot.copyB = none)
    ∧ (({ State.reset with boot := { Boot.reset with spdm := 1 } } : State).boot.spdm = 1 ∧ ({ State.reset with boot := { Boot.reset with spdm := 2 } } : State).boot.spdm = 2
      ∧ ({ State.reset with boot := { Boot.reset with spdm := 3 } } : State).boot.spdm = 3 ∧ State.reset.boot.spdm < 1) := by
  decide +kernel

/-- Core 0 within a cycle, at the first turn of S, or at the one of its WAITs, with a group to issue. -/
def issuing (turn : Nat) (w : W32) (st : Option W32) (levels : List LoopLevel) : State :=
  on0 { tcore [] [] with turn := turn, es := { Seq.reset with queue := [⟨0, 1, ⟨w, none, st, none⟩⟩], levels := levels, lbuf := [⟨0, 1, ⟨w, none, st, none⟩⟩] } }

theorem witness_groups_executed :
    (let s := issuing 1 0 none []
     s.checked = false ∧ s.cur.moves = true ∧ s.cur.frozen = false ∧ s.cur.free .s = true ∧ (s.cur.seqOf .s).nextGroup = some ⟨0, 1, ⟨0, none, none, none⟩⟩
     ∧ (decode (spaceOf s.isCp .s) ⟨0, none, none, none⟩).isSome = true ∧ s.cur.turn = 1 ∧ s.nTurn = none)
    ∧ (let s := issuing 1 0xFFFFFFFF none []
       (decode (spaceOf s.isCp .s) ⟨0xFFFFFFFF, none, none, none⟩).isNone = true ∧ s.cur.turn = 1)
    ∧ (let s := issuing 5 0xF8000000 none []
       s.cur.free .s = true ∧ decode (spaceOf s.isCp .s) ⟨0xF8000000, none, none, none⟩ = some (.wait .s ⟨0, 0, none⟩) ∧ (0 : BitVec 21).toNat ≤ (s.cur.tok 0).ceiling.toNat ∧ s.cur.turn = 5)
    ∧ (let s := issuing 1 0x00108300 (some 0x41) [⟨0, 1, 0, 3, 5⟩]
       (s.cur.seqOf .s).inLoop = true ∧ (s.cur.seqOf .s).nextGroup = some ⟨0, 1, ⟨0x00108300, none, some 0x41, none⟩⟩
       ∧ has (decode (spaceOf s.isCp .s) ⟨0x00108300, none, some 0x41, none⟩) (fun i => (stepInstr (s.cur.seqOf .s).passNo 0x41 i).isSome) = true)
    ∧ (let s := issuing 1 0x00108300 (some 0xFFFFFFFF) [⟨0, 1, 0, 3, 5⟩]
       has (decode (spaceOf s.isCp .s) ⟨0x00108300, none, some 0xFFFFFFFF, none⟩) (fun i => (stepInstr (s.cur.seqOf .s).passNo 0xFFFFFFFF i).isNone) = true) := by
  decide +kernel

/-- N of core 0 at a SIGS or a WAITS of token 1 with a count of 4. -/
def signalling (op turn : Nat) : State :=
  on0 { ncore { nrunAt [] none with word := some (BitVec.ofNat 64 (op * 2 ^ 60 + 2 ^ 55 + 4)) } with turn := turn }

theorem witness_token_steps_executed :
    (let s := signalling 8 5
     s.checked = false ∧ s.here = .core 0 ∧ s.cur.moves = true ∧ s.cur.frozen = false ∧ has s.cur.nrun (fun r => !r.faulted && r.step.isNone && has r.word stepSigs) = true ∧ s.cur.turn = 5)
    ∧ (let s := signalling 7 9
       s.cur.moves = true ∧ has s.cur.nrun (fun r => has r.word fun w => stepWaits w && decide ((w.extractLsb' 0 16).toNat ≤ (s.cur.tok (w.extractLsb' 55 5).toNat).count.toNat)) = true ∧ s.cur.turn = 9) := by
  decide +kernel

theorem witness_events_executed :
    (let s := { State.reset with agenda := [.event .snapshotFire, .core 0] }
     s.agenda = .event .snapshotFire :: [.core 0] ∧ s.cur.turn = 0 ∧ s.fatal = [])
    ∧ (({ State.reset with checked := true } : State).checked = true ∧ State.reset.agenda = []) := by
  decide

theorem witness_stored_words :
    (0x8C000002 < 2 ^ 32 ∧ decodeTableIn tableSpaces 0x8C000002 = some (.s, .halt ⟨0, 0, 0, none⟩) ∧ Space.s ≠ .cp)
    ∧ decodeTableIn tableSpaces 0xC0050100 = some (.x, .mma ⟨5, 0, 1, 0, 0, none⟩) := by
  decide +kernel

theorem witness_encoding :
    (Instr.addi ⟨63, 63, 0x2000, none⟩).wf = true ∧ encode (.addi ⟨63, 63, 0x2000, none⟩) = some (.s, (match encode (.addi ⟨63, 63, 0x2000, none⟩) with | some x => x.2 | none => ⟨0, none, none, none⟩))
    ∧ (decode .x ⟨0x0C291AA8, some 0x7FFFFFC7, none, some 0x34000000⟩).isSome = true := by
  decide +kernel

theorem witness_memory :
    State.reset.mem.wf = true ∧ (State.reset.mem.wrN (winBase 4095) [1, 0, 2]).wf = true
    ∧ (∃ t, step { State.reset with agenda := [.event .snapshotFire] } = .next t) := by
  refine ⟨by decide, by decide +kernel, ?_⟩
  generalize h : step { State.reset with agenda := [.event .snapshotFire] } = r
  have h2 : (match step { State.reset with agenda := [.event .snapshotFire] } with | .next _ => true | _ => false) = true := by decide +kernel
  rw [h] at h2
  cases r with
  | next t => exact ⟨t, rfl⟩
  | fault _ => cases h2
  | refused _ => cases h2

/-- A machine that has taken a module machine check answers a next state for an event, and so does any other for one that moves no operating point. -/
theorem witness_whole_machine :
    (match exec .snapshotFire { State.reset with checked := true } with | .next t => t.checked | _ => false) = true
    ∧ (match exec .powerLimitTick State.reset with | .next t => decide ((t.cluster 127).plim = 1) | _ => false) = true := by
  decide +kernel

theorem witness_results_visible : (63 : Nat) ≠ 0 ∧ (63 : Nat) ≠ 15 ∧ (15 : Nat) ≠ 0 := by decide

/-- A multiply whose addend group is due and that has not been drawn in; a handler's core; a stream of packets of no bytes. -/
def growing : MatOp := tmat 0 4 (.remote (pg 1) 64 0) (some Seq.reset)
def emptyPacket (op : Nat) : List Byte := packetOf op 0 tFrom (if op = 2 then 0 else tTo) 0 0 0

theorem witness_core_forms_complete :
    ((on0 { tcore [] [] with mode := .handler }).cur.mode = .handler)
    ∧ (let s := running { Core.reset with plane0 := storeLine, fetch := { FetchUnit.reset with next := 0 } }
       let c := s.core 2
       c.mode = .user ∧ c.fetch.stopped = false ∧ c.fetch.illegal = none ∧ c.fetch.pastEnd = false ∧ c.fetch.next < 2048)
    ∧ (let s := on0 { tcore [] [] with mats := [growing], now := 9 }
       (s.core 0).mats = [growing] ∧ growing.undo = some Seq.reset ∧ growing.g < growing.groups ∧ growing.start + growing.g ≤ (s.core 0).now)
    ∧ (let s := on0 { tcore [] [] with stores := [{ late0 with addr := 0x4000 }] }
       (s.agent (named 0)).stores = [{ late0 with addr := 0x4000 }] ∧ late0.seen = true ∧ late0.done = false ∧ isWin 0x4000 = false)
    ∧ ((nAt (described (tdesc 0 0) 63)).core 3).nrun = some (nrunAt [] none) := by
  decide +kernel

theorem witness_module_forms_complete :
    (let z := (submitted 1 3).flushDead
     z.records.length < 64 ∧ z.checked = false ∧ (bestHead z.eligible).isSome = true)
    ∧ (let s := offering (handing false false 4) (ready 4)
       (s.core 0).vacant = true ∧ s.checked = false ∧ s.lowerUndecided 0 = false)
    ∧ has ((restoring 8 (some 1)).context 0) (fun cx => (tget none cx.slots 0).isSome) = true
    ∧ (((on0 dark).core 0).powered = false ∧ ((on0 dark).cluster (0 / 32)).powered = true)
    ∧ ([1, 2, 3, 4, 5, 6, 7, 8, 0x10, 0x11, 0x12].all (fun op => let s := commanded State.reset op [0]
        s.mbox.mbst.getLsbD 0 && decide (s.opcode = op) && decide (s.param 0 / 2 ^ 17 % 2 ^ 15 = 0))) = true
    ∧ ((commanded State.reset 9 []).mbox.mbst.getLsbD 0 = true ∧ knownOpcode (commanded State.reset 9 []).opcode = false) := by
  decide +kernel

theorem witness_ladle_forms_complete :
    ((ladled [] false).ladle 1).owed = false
    ∧ (performs (ladled (emptyPacket 1) true) 1 0 2 tBind (emptyPacket 1) 1 ∧ pdw (emptyPacket 1) 5 = 0)
    ∧ (performs (ladled (emptyPacket 2) true) 1 0 2 tBind (emptyPacket 2) 2 ∧ pdw (emptyPacket 2) 4 = 0)
    ∧ (performs (ladled (emptyPacket 3) true) 1 0 2 tBind (emptyPacket 3) 3 ∧ pdw (emptyPacket 3) 6 % 2 ^ 32 = 0)
    ∧ (performs (ladled (emptyPacket 4) true) 1 0 2 tBind (emptyPacket 4) 4 ∧ pdw (emptyPacket 4) 6 % 2 ^ 32 = 0)
    ∧ (performs (ladled (emptyPacket 6) true) 1 0 2 tBind (emptyPacket 6) 6 ∧ pdw (emptyPacket 6) 5 = 0) := by
  simp only [performs]
  decide +kernel

/-! The spec's worked examples, each one step or one computation; the results are those that the spec writes. -/

/-- What an instruction puts in flight on core 0. -/
def putBy (i : Instr) (s : State) : List Write := match exec i s with | .next t => t.cur.pend.map (·.w) | _ => []

/-- R92: LI s1, 0x8000_0000 and then LIH s1, 0x1. -/
theorem test_li : putBy (.li ⟨1, 0, 0, none⟩ 0x80000000) State.reset = [.scalar 1 0xFFFFFFFF80000000 none] := by decide +kernel
theorem test_lih : putBy (.lih ⟨1, 0, 0, none⟩ 1) (at0 [(1, 0xFFFFFFFF80000000)] []) = [.scalar 1 0x0000000180000000 none] := by decide +kernel
/-- R88: sums wrap, and MULH takes the high half of the signed product: 2^63 read as -2^63, times 2, is -2^64, whose high half is -1. -/
theorem test_add_wraps : putBy (.add ⟨3, 1, 2, none⟩) (at0 [(1, 2 ^ 64 - 1), (2, 3)] []) = [.scalar 3 2 none] := by decide +kernel
theorem test_mulh_signed : putBy (.mulh ⟨3, 1, 2, none⟩) (at0 [(1, 2 ^ 63), (2, 2)] []) = [.scalar 3 0xFFFFFFFFFFFFFFFF none] := by decide +kernel

/-- The example of R47: with ceiling 2 and count 1, S:SIG k3, 1 gives 2, a second one is the token-ceiling fault, and the WAIT of 2 leaves 0. -/
theorem test_sig : (match exec (.sig .s ⟨3, 1, none⟩) (on0 { tcore [] [] with k := [(3, ⟨1, 2⟩)] }) with | .next t => decide ((t.cur.tok 3).count = 2) | _ => false) = true := by decide +kernel
theorem test_wait : (match exec (.wait .l ⟨3, 2, none⟩) (on0 { tcore [] [] with k := [(3, ⟨2, 2⟩)] }) with | .next t => decide ((t.cur.tok 3).count = 0) | _ => false) = true := by decide +kernel

/-- R17: the worked example of MX quantisation to E4M3 in RNE without saturation, for its finite elements: the scale code 0x78 and the codes 0x7E, 0xB8, 0x38, 0x02, 0x02 and 0x00. -/
theorem test_mx_example :
    (let r := mxQuantise ([0x40600000, 0xBC000000, 0x3C080000, 0x38000000, 0x37C00000, 0x36800000].map Fmt.f32.decode) .e4m3 false .rne (List.replicate 6 0)
     r.1 = 0x78 ∧ r.2.1 = [0x7E, 0xB8, 0x38, 0x02, 0x02, 0x00]) := by
  decide +kernel

/-- R131: VRCP.f32 of 3.0 in RNE is 0x3EAA_AAAA in every lane, not the correctly rounded 0x3EAA_AAAB, and VSQRT.f32 of 4.0 is 0x4000_0000. -/
def fullOf (v : W32) : State := on0 { tcore [] [] with q := [(0, [⟨List.replicate 32 v, List.replicate 32 false, 0, 0⟩])] }
def lanesPut (l : List Write) : List W32 := l.flatMap (fun w => match w with | .bytes _ d _ => [BitVec.ofNat 32 (leNat d)] | _ => [])
theorem test_vrcp_of_three : lanesPut (putBy (.vrcp ⟨1, 0, 0, 0, 0, 0, none, none⟩) (fullOf 0x40400000)) = List.replicate 32 0x3EAAAAAA := by decide +kernel
theorem test_vsqrt_of_four : lanesPut (putBy (.vsqrt ⟨1, 0, 0, 0, 0, 0, none, none⟩) (fullOf 0x40800000)) = List.replicate 32 0x40000000 := by decide +kernel

/-- R197, R199: the example's code table, the codewords that it writes, and lane 0 of its segment. -/
def lenTable (l : List (Nat × Nat)) : List Byte :=
  (List.range 128).map (fun i => let n (s : Nat) : Nat := match l.find? (fun x => x.1 = s) with | some x => x.2 | none => 0
    BitVec.ofNat 8 (n (2 * i) + 16 * n (2 * i + 1)))
def exampleCodes : List (Nat × Nat × Nat) := codewords (lenTable [(0x00, 1), (0x38, 2), (0xB8, 3), (0x30, 4), (0x40, 4)])
theorem test_codewords : exampleCodes.map (fun c => (c.1, c.2.1, c.2.2)) = [(1, 0b0, 0x00), (2, 0b10, 0x38), (3, 0b110, 0xB8), (4, 0b1110, 0x30), (4, 0b1111, 0x40)] := by decide +kernel
theorem test_melt_lane : (match meltLane exampleCodes [0xA7, 0xC5, 0x8D, 0xEE, 0x80] 8 with | .ok l => l | .error _ => []) = [0x38, 0x00, 0x00, 0xB8, 0x40, 0x00, 0x30, 0x38] := by decide +kernel

/-- R310: the hand-out order of the example, 6, 7, 8, 0, 1, 2, 3, 4, 5, 9, 10, 11, as ranges; R309: L = 6 and L = 7 have the index vectors (2, 0) and (2, 1). -/
theorem test_handout_order : handoutOf 12 [(6, 8), (0, 1)] = [(6, 8), (0, 1), (2, 5), (9, 11)] := by decide +kernel
def exampleRecord : BitVec 1024 := BitVec.ofNat 1024 (4 * 2 ^ 128 + 3 * 2 ^ 160 + 0x82810201 * 2 ^ 256)
theorem test_index_vectors :
    recIndex exampleRecord [0, 1] 6 = [(1, 0), (0, 2)] ∧ recIndex exampleRecord [0, 1] 7 = [(1, 1), (0, 2)] := by decide +kernel

/-- R395: the deltas of the example with k = 3 and m = 2: 0xF4 · 0x02 = 0xF5 to member 3 and 0x8E · 0x02 = 0x01 to member 4. -/
def fiveMembers : W64 := BitVec.ofNat 64 (2 ^ 63 + 2 * 2 ^ 42 + 3 * 2 ^ 37 + 3)
theorem test_coding_delta :
    Spe.reset.coef fiveMembers 0 1 = 0xF4 ∧ Spe.reset.coef fiveMembers 1 1 = 0x8E ∧ gfMul 0xF4 0x02 = 0xF5 ∧ gfMul 0x8E 0x02 = 0x01 := by decide +kernel

/-- R427: the example's cluster: OP2 ramps, OP3 waits and is replaced by OP1, which ramps when the first ramp ends. -/
theorem test_ramps :
    let a := Cluster.reset.request 2
    let b := (a.request 3).request 1
    (a.cur = 0 ∧ a.ramp = true ∧ a.tgt = 2 ∧ a.pv = false) ∧ (b.cur = 0 ∧ b.ramp = true ∧ b.tgt = 2 ∧ b.pv = true ∧ b.pend = 1)
    ∧ (b.rampDone.cur = 2 ∧ b.rampDone.ramp = true ∧ b.rampDone.tgt = 1 ∧ b.rampDone.pv = false) := by
  decide

/-- R223, R224: phase 0 of the example's group with .max of 7 and 12: complete with 12; core 1's second arrival for phase 1 is ignored. -/
def maxArrival (g ph v : Nat) : Arrival := ⟨0, 3, 0, g, BitVec.ofNat 64 ph, some 3, BitVec.ofNat 64 v, false⟩
theorem test_barrier_phases :
    let b := (((BarGroup.fresh 0 3 0 3 false).arrive (maxArrival 0 0 7)).arrive ⟨0, 3, 0, 2, 0, none, 0, false⟩).arrive (maxArrival 1 0 12)
    let c := b.arrive (maxArrival 1 1 3)
    (b.cph = 1 ∧ b.history.map (·.value) = [12]) ∧ (c.cph = 1 ∧ c.arrive (maxArrival 1 1 3) = c) := by
  decide +kernel

/-- The words of the chapter's groups: BARRED.max s6, s7, g3, BARV s5, g3 and BARW s8, s9, g3. -/
theorem test_barrier_words :
    (decode .s ⟨0x9861D803, none, none, none⟩).isSome = true ∧ (decode .s ⟨0x90500003, none, none, none⟩).isSome = true
    ∧ decode .s ⟨0x94824003, none, none, none⟩ = some (.barw ⟨8, 9, 3, none⟩) := by
  decide +kernel
end Sys2Proof.Tests
end

section
/-! PROOFS. Decoding loses no bit: the fields that each form reads from a word make up the word again, so what a group decodes to encodes to the group (R6, R59 to R65, R73). -/

namespace Sys2Proof

/-! Fields of a word (R6). -/

/-- Two adjacent fields are one field. -/
theorem fld_append {n : Nat} (w : BitVec n) {hi lo a b : Nat} (h : hi = lo + b) : fld w hi a ++ fld w lo b = fld w lo (a + b) :=
  BitVec.extractLsb'_append_extractLsb'_eq_extractLsb' h

/-- The field of all bits is the word. -/
theorem fld_all {n : Nat} (w : BitVec n) : fld w 0 n = w := BitVec.extractLsb'_eq_self

/-- A bit is a field of one bit. -/
theorem fld_one {n : Nat} (w : BitVec n) (j : Nat) : fld w j 1 = BitVec.ofBool (bitAt w j) := by
  ext k hk
  obtain rfl : k = 0 := by omega
  simp [fld, bitAt]

/-- A field whose number is `k` is the constant `k`. -/
theorem eq_ofNat_of_toNat {n k : Nat} {b : BitVec n} (h : b.toNat = k) : b = BitVec.ofNat n k := by
  rw [← h, BitVec.ofNat_toNat, BitVec.setWidth_eq]

/-! The forms: the fields of a word, put together again under its major code, are the word. -/

section Forms
variable {w : W32} {op : BitVec 6} (st : StepWord)

theorem encReg_regOf {fn : BitVec 8} (ho : fld w 26 6 = op) (hf : fld w 0 8 = fn) : encReg op (regOf w st) fn = w := by
  subst ho hf
  simp (disch := rfl) only [encReg, regOf, fld_append]
  exact fld_all w

theorem encImm_immOf (ho : fld w 26 6 = op) : encImm op (immOf w st) = w := by
  subst ho
  simp (disch := rfl) only [encImm, immOf, fld_append]
  exact fld_all w

theorem encBr_brOf (ho : fld w 26 6 = op) : op ++ (brOf w st).pred ++ (brOf w st).inv ++ (brOf w st).off = w := by
  subst ho
  simp (disch := rfl) only [brOf, fld_append]
  exact fld_all w

theorem encLw_lwOf (ho : fld w 26 6 = op) : encLw op (lwOf w st) = w := by
  subst ho
  simp (disch := rfl) only [encLw, lwOf, fld_append]
  exact fld_all w

theorem encVec_vecOf (md : ModWord) (ho : fld w 26 6 = op) : encVec op (vecOf w st md) = w := by
  subst ho
  simp (disch := rfl) only [encVec, vecOf, fld_append]
  exact fld_all w

theorem encMat_matOf (ho : fld w 26 6 = op) : encMat op (matOf w st) = w := by
  subst ho
  simp (disch := rfl) only [encMat, matOf, fld_append]
  exact fld_all w

theorem encMst_mstOf (ho : fld w 26 6 = op) :
    op ++ (mstOf w st).base ++ (mstOf w st).reg ++ (mstOf w st).dir ++ (mstOf w st).slice ++ (mstOf w st).off = w := by
  subst ho
  simp (disch := rfl) only [mstOf, fld_append]
  exact fld_all w

theorem encSliceQ_sliceQOf (ho : fld w 26 6 = op) (hz : fld w 0 8 = 0#8) :
    op ++ (sliceQOf w st).reg ++ (sliceQOf w st).dir ++ (sliceQOf w st).slice ++ (sliceQOf w st).q ++ 0#8 = w := by
  subst ho
  rw [← hz]
  simp (disch := rfl) only [sliceQOf, fld_append]
  exact fld_all w

/-- The semaphore group (R321). -/
theorem semFields {fn : BitVec 4} (ho : fld w 26 6 = op) (hf : fld w 0 4 = fn) :
    op ++ fld w 20 6 ++ fld w 14 6 ++ fld w 4 10 ++ fn = w := by
  subst ho hf
  simp (disch := rfl) only [fld_append]
  exact fld_all w

/-- The queue group (R321). -/
theorem queueFields {fn : BitVec 7} (ho : fld w 26 6 = op) (hz : fld w 12 2 = 0#2) (hf : fld w 0 7 = fn) :
    op ++ fld w 20 6 ++ fld w 14 6 ++ 0#2 ++ fld w 8 4 ++ fld w 7 1 ++ fn = w := by
  subst ho hf
  rw [← hz]
  simp (disch := rfl) only [fld_append]
  exact fld_all w

/-- LOOP with an immediate count (R98). -/
theorem loopImmFields (ho : fld w 26 6 = op) (hb : fld w 20 1 = 0#1) (hz : fld w 14 6 = 0#6) :
    op ++ fld w 21 5 ++ 0#1 ++ 0#6 ++ fld w 0 14 = w := by
  subst ho
  rw [← hb, ← hz]
  simp (disch := rfl) only [fld_append]
  exact fld_all w

/-- LOOP with a register count (R98). -/
theorem loopRegFields (ho : fld w 26 6 = op) (hb : fld w 20 1 = 1#1) (hz : fld w 0 14 = 0#14) :
    op ++ fld w 21 5 ++ 1#1 ++ fld w 14 6 ++ 0#14 = w := by
  subst ho
  rw [← hb, ← hz]
  simp (disch := rfl) only [fld_append]
  exact fld_all w

/-- SIG and WAIT (R98). -/
theorem tokenFields (ho : fld w 26 6 = op) (hz : fld w 16 5 = 0#5) : op ++ fld w 21 5 ++ 0#5 ++ fld w 0 16 = w := by
  subst ho
  rw [← hz]
  simp (disch := rfl) only [fld_append]
  exact fld_all w

/-- NOP and PFEN.mark (R78). -/
theorem markFields {k : BitVec 2} (ho : fld w 26 6 = op) (hk : fld w 24 2 = k) (hz : fld w 0 24 = 0#24) : op ++ k ++ 0#24 = w := by
  subst ho hk
  rw [← hz]
  simp (disch := rfl) only [fld_append]
  exact fld_all w

/-- The loads and stores whose width stands in the low bits of the major code (R75): the code's high bits `c` name the operation. -/
theorem major_eq_append {k : Nat} {c : BitVec 4} (ho : (fld w 26 6).toNat = k) (hc : BitVec.ofNat 4 (k / 4) = c) :
    fld w 26 6 = c ++ fld w 26 2 := by
  have hhigh : fld w 28 4 = c := by
    subst ho hc
    apply BitVec.eq_of_toNat_eq
    simp only [fld, BitVec.extractLsb'_toNat, BitVec.toNat_ofNat, Nat.shiftRight_eq_div_pow]
    omega
  rw [← hhigh]
  exact (fld_append w (hi := 28) (lo := 26) (a := 4) (b := 2) rfl).symm

end Forms

/-- What encodes to a word that equals `w` encodes to `w`. -/
theorem encode_word {i : Instr} {sp : Space} {v w : W32} {ext : Option W32} {st : StepWord} {md : ModWord}
    (h : encode i = some (sp, ⟨v, ext, st, md⟩)) (hv : v = w) : encode i = some (sp, ⟨w, ext, st, md⟩) := hv ▸ h

/-- A word that is read only under a condition, and is read, meets it. -/
theorem of_read {p : Prop} [Decidable p] {x i : Instr} (h : (if p then some x else none) = some i) : p ∧ x = i := by
  simpa only [Option.ite_none_right_eq_some, Option.some.injEq] using h

/-- Where a word of the group must be absent, a group that is read has none. -/
theorem absent_of_read {o : Option W32} {x : Option Instr} {i : Instr} (h : (if o.isSome then none else x) = some i) :
    o = none ∧ x = some i := by
  cases o with
  | none => exact ⟨rfl, h⟩
  | some v => cases h

/-! The function codes of the S groups (R76, R77): each code is read as one instruction, which is given that code. -/

section Groups
variable {f : SReg} {fn : BitVec 8} {i : Instr}

theorem parseAlu_encode (h : parseAlu f fn = some i) : encode i = some (.s, ⟨encReg 0#6 f fn, none, f.st, none⟩) := by
  unfold parseAlu at h
  split at h <;> cases h <;> (rename_i hfn; rw [eq_ofNat_of_toNat hfn]; rfl)

theorem parseMem_encode (h : parseMem f fn = some i) : encode i = some (.s, ⟨encReg 24#6 f fn, none, f.st, none⟩) := by
  unfold parseMem at h
  split at h <;> cases h <;> (rename_i hfn; rw [eq_ofNat_of_toNat hfn]; rfl)

theorem parseFence_encode (h : parseFence f fn = some i) : encode i = some (.s, ⟨encReg 25#6 f fn, none, f.st, none⟩) := by
  unfold parseFence at h
  split at h
  · rename_i hz
    cases h
    have hfn : 0#2 ++ fld fn 3 3 ++ fld fn 0 3 = fn := by
      rw [← show fld fn 6 2 = 0#2 from hz]
      simp (disch := rfl) only [fld_append]
      exact fld_all fn
    exact congrArg (fun k => some (Space.s, ({ word := encReg 25#6 f k, ext := none, st := f.st, md := none } : Code))) hfn
  · split at h <;> cases h <;> (rename_i hfn; rw [eq_ofNat_of_toNat hfn]; rfl)

theorem parseSys_encode (h : parseSys f fn = some i) : encode i = some (.s, ⟨encReg 26#6 f fn, none, f.st, none⟩) := by
  unfold parseSys at h
  split at h <;> cases h <;> (rename_i hfn; rw [eq_ofNat_of_toNat hfn]; rfl)

theorem parseControl_encode (h : parseControl f fn = some i) : encode i = some (.s, ⟨encReg 35#6 f fn, none, f.st, none⟩) := by
  unfold parseControl at h
  split at h <;> cases h <;> (rename_i hfn; rw [eq_ofNat_of_toNat hfn]; rfl)

theorem parsePred_encode (h : parsePred f fn = some i) : encode i = some (.s, ⟨encReg 39#6 f fn, none, f.st, none⟩) := by
  unfold parsePred at h
  split at h <;> cases h <;> (rename_i hfn; rw [eq_ofNat_of_toNat hfn]; rfl)

theorem parsePour_encode (h : parsePour f fn = some i) : encode i = some (.s, ⟨encReg 40#6 f fn, none, f.st, none⟩) := by
  unfold parsePour at h
  split at h <;> cases h <;> (rename_i hfn; rw [eq_ofNat_of_toNat hfn]; rfl)

end Groups

/-! Extension words (R55, R75 to R81). -/

/-- A group whose space requires no extension word for it has none. -/
theorem ext_eq_none {sp : Space} {w : W32} {ext : Option W32} (hext : ext.isSome = decide (extCount sp w = 1))
    (hc : extCount sp w = 0) : ext = none := by
  simpa [hc] using hext

/-! The major codes of each space (R75, R78 to R81, R321). -/

section Spaces
variable {w : W32} {ext : Option W32} {st : StepWord} {md : ModWord} {i : Instr}

/-- What the common codes of R78 are read into encodes to the word, in the engine's own space. -/
theorem parseCommon_encode {e : Engine} (h : parseCommon e w st = some i) : encode i = some (e.space, ⟨w, none, st, none⟩) := by
  unfold parseCommon at h
  split at h
  case h_1 ho =>
    split at h
    · rename_i hb
      obtain ⟨hz, rfl⟩ := of_read h
      exact encode_word rfl (loopRegFields (eq_ofNat_of_toNat ho) (by rw [fld_one, hb]; rfl) hz)
    · rename_i hb
      obtain ⟨hz, rfl⟩ := of_read h
      exact encode_word rfl (loopImmFields (eq_ofNat_of_toNat ho) (by rw [fld_one, Bool.eq_false_iff.2 hb]; rfl) hz)
  case h_2 ho | h_3 ho =>
    obtain ⟨hz, rfl⟩ := of_read h
    exact encode_word rfl (tokenFields (eq_ofNat_of_toNat ho) hz)
  case h_4 ho =>
    split at h
    · rename_i hz
      split at h <;> cases h <;> rename_i hk <;>
        exact encode_word rfl (markFields (eq_ofNat_of_toNat ho) (eq_ofNat_of_toNat hk) hz)
    · cases h
  case h_5 => cases h

/-- What the command processor's own codes are read into encodes to the word. -/
theorem parseCp_encode (h : parseCp w st = some i) : encode i = some (.cp, ⟨w, none, st, none⟩) := by
  unfold parseCp at h
  split at h
  case h_1 ho =>
    simp only at h
    split at h <;> cases h <;> rename_i hk <;>
      exact encode_word rfl (semFields (eq_ofNat_of_toNat ho) (eq_ofNat_of_toNat hk))
  case h_2 ho =>
    simp only at h
    split at h
    · rename_i hz
      split at h <;> cases h <;> rename_i hk <;>
        exact encode_word rfl (queueFields (eq_ofNat_of_toNat ho) hz (eq_ofNat_of_toNat hk))
    · cases h
  case h_3 => cases h

/-- What an L word is read into encodes to it. -/
theorem parseL_encode (h : parseL w st = some i) : encode i = some (.l, ⟨w, none, st, none⟩) := by
  unfold parseL at h
  split at h
  -- VRD and SPRD
  case h_1 ho | h_6 ho =>
    obtain ⟨hz, rfl⟩ := of_read h
    exact encode_word rfl (encSliceQ_sliceQOf st (eq_ofNat_of_toNat ho) hz)
  -- the two forms of WAITC
  case h_13 ho => split at h <;> cases h <;> exact encode_word rfl (encLw_lwOf st (eq_ofNat_of_toNat ho))
  case h_15 => cases h
  all_goals
    rename_i ho
    cases h
    exact encode_word rfl (encLw_lwOf st (eq_ofNat_of_toNat ho))

/-- What a W word is read into encodes to it. -/
theorem parseW_encode (h : parseW w st = some i) : encode i = some (.w, ⟨w, none, st, none⟩) := by
  unfold parseW at h
  split at h
  -- the two forms of WAITC
  case h_1 ho => split at h <;> cases h <;> exact encode_word rfl (encLw_lwOf st (eq_ofNat_of_toNat ho))
  -- MST and SPWR
  case h_2 ho | h_3 ho =>
    cases h
    exact encode_word rfl (encMst_mstOf st (eq_ofNat_of_toNat ho))
  case h_11 => cases h
  all_goals
    rename_i ho
    cases h
    exact encode_word rfl (encLw_lwOf st (eq_ofNat_of_toNat ho))

/-- The S codes but those of LI and LIH take no extension word (R75). -/
theorem extCount_s {k : Nat} (ho : (fld w 26 6).toNat = k) (h8 : k ≠ 8) (h9 : k ≠ 9) : extCount .s w = 0 := by
  simp [extCount, ho, h8, h9]

/-- The command processor's own codes take no extension word. -/
theorem extCount_of_parseCp (h : parseCp w st = some i) : extCount .cp w = 0 := by
  unfold parseCp at h
  split at h
  case h_1 ho | h_2 ho => exact extCount_s ho (by decide) (by decide)
  case h_3 => cases h

/-- What an S group is read into encodes to its word and extension word. -/
theorem parseS_encode (hext : ext.isSome = decide (extCount .s w = 1)) (h : parseS w ext st = some i) :
    encode i = some (.s, ⟨w, ext, st, none⟩) := by
  unfold parseS at h
  split at h
  -- LI and LIH
  case h_9 ho | h_10 ho =>
    obtain ⟨e, rfl, rfl⟩ := Option.map_eq_some_iff.1 h
    exact encode_word rfl (encImm_immOf st (eq_ofNat_of_toNat ho))
  case h_39 => cases h
  all_goals
    rename_i ho
    obtain rfl : ext = none := ext_eq_none hext (extCount_s ho (by decide) (by decide))
  -- the groups with a function code
  case h_1 => exact encode_word (parseAlu_encode h) (encReg_regOf st (eq_ofNat_of_toNat ho) rfl)
  case h_25 => exact encode_word (parseMem_encode h) (encReg_regOf st (eq_ofNat_of_toNat ho) rfl)
  case h_26 => exact encode_word (parseFence_encode h) (encReg_regOf st (eq_ofNat_of_toNat ho) rfl)
  case h_27 => exact encode_word (parseSys_encode h) (encReg_regOf st (eq_ofNat_of_toNat ho) rfl)
  case h_33 => exact encode_word (parseControl_encode h) (encReg_regOf st (eq_ofNat_of_toNat ho) rfl)
  case h_37 => exact encode_word (parsePred_encode h) (encReg_regOf st (eq_ofNat_of_toNat ho) rfl)
  case h_38 => exact encode_word (parsePour_encode h) (encReg_regOf st (eq_ofNat_of_toNat ho) rfl)
  all_goals cases h
  -- BR, CALL and JMPI
  case h_30 | h_31 | h_32 => exact encode_word rfl (encBr_brOf st (eq_ofNat_of_toNat ho))
  -- LD, ST and LD.spec of each width
  case h_13 | h_14 | h_15 | h_16 | h_17 | h_18 | h_19 | h_20 | h_21 | h_22 | h_23 | h_24 =>
    exact encode_word rfl (encImm_immOf st (major_eq_append ho rfl))
  all_goals exact encode_word rfl (encImm_immOf st (eq_ofNat_of_toNat ho))

/-- What an X group is read into encodes to its word, extension word and modifier word. -/
theorem parseX_encode (hext : ext.isSome = decide (extCount .x w = 1)) (h : parseX w ext st md = some i) :
    encode i = some (.x, ⟨w, ext, st, md⟩) := by
  unfold parseX at h
  split at h
  -- vector words with an extension word
  case h_4 ho | h_5 ho | h_6 ho | h_22 ho | h_24 ho | h_35 ho | h_36 ho | h_37 ho | h_42 ho | h_43 ho | h_44 ho | h_45 ho | h_46 ho =>
    obtain ⟨e, rfl, rfl⟩ := Option.map_eq_some_iff.1 h
    exact encode_word rfl (encVec_vecOf st md (eq_ofNat_of_toNat ho))
  -- matrix words with one: MSHAPE, ACCRD, ACCWR and ACCARM
  case h_53 ho | h_55 ho | h_56 ho | h_57 ho =>
    simp only [Option.ite_none_right_eq_some, Option.isNone_iff_eq_none, Option.map_eq_some_iff] at h
    obtain ⟨rfl, e, rfl, rfl⟩ := h
    exact encode_word rfl (encMat_matOf st (eq_ofNat_of_toNat ho))
  case h_59 => cases h
  all_goals
    rename_i ho
    obtain rfl : ext = none := ext_eq_none hext (by rw [extCount, ho]; rfl)
  -- the other matrix words
  case h_49 | h_50 | h_51 | h_52 | h_54 | h_58 =>
    simp only [Option.ite_none_right_eq_some, Option.isNone_iff_eq_none, Option.some.injEq] at h
    obtain ⟨rfl, rfl⟩ := h
    exact encode_word rfl (encMat_matOf st (eq_ofNat_of_toNat ho))
  -- the other vector words
  all_goals
    cases h
    exact encode_word rfl (encVec_vecOf st md (eq_ofNat_of_toNat ho))

end Spaces

/-! The decoder (R73). -/

/-- What the decoder accepts: a group with as many extension words as its code requires, whose fields are those of a well-formed instruction that the command processor does not refuse. -/
theorem decode_eq_some_iff {sp : Space} {c : Code} {i : Instr} :
    decode sp c = some i ↔
      c.ext.isSome = decide (extCount sp c.word = 1) ∧ parse sp c = some i ∧ i.wf = true ∧ (sp == .cp && cpRefused i) = false := by
  unfold decode
  by_cases hext : c.ext.isSome = decide (extCount sp c.word = 1)
  · rw [if_neg (not_not_intro hext)]
    cases hp : parse sp c with
    | none => simp
    | some j =>
      simp only [Option.ite_none_right_eq_some, Bool.and_eq_true, Bool.not_eq_true', Option.some.injEq]
      constructor
      · rintro ⟨hok, rfl⟩
        exact ⟨hext, rfl, hok⟩
      · rintro ⟨-, rfl, hok⟩
        exact ⟨hok, rfl⟩
  · simp [hext]

/-- A common code (60 to 63) takes no extension word in any space. -/
theorem extCount_common {sp : Space} {w : W32} (hw : 60 ≤ (fld w 26 6).toNat) : extCount sp w = 0 := by
  cases sp with
  | s | cp => exact if_neg (by omega)
  | l | w => rfl
  | x => exact if_neg fun hm => by simp only [List.mem_cons, List.not_mem_nil, or_false] at hm; omega

/-- The fields that a group is read into encode to the group: in the same space, but for the words that the command processor shares with S. -/
theorem parse_encode {sp : Space} {c : Code} {i : Instr} (hext : c.ext.isSome = decide (extCount sp c.word = 1))
    (h : parse sp c = some i) : ∃ sp', encode i = some (sp', c) ∧ (sp' = sp ∨ (sp = .cp ∧ sp' = .s)) := by
  obtain ⟨w, ext, st, md⟩ := c
  unfold parse at h
  split at h
  · rename_i hw
    obtain rfl : ext = none := ext_eq_none hext (extCount_common hw)
    obtain ⟨rfl, h⟩ := absent_of_read h
    refine ⟨_, parseCommon_encode h, ?_⟩
    cases sp <;> simp [Engine.space]
  · cases sp with
    | s =>
      obtain ⟨rfl, h⟩ := absent_of_read h
      exact ⟨.s, parseS_encode hext h, .inl rfl⟩
    | cp =>
      obtain ⟨rfl, h⟩ := absent_of_read h
      cases hcp : parseCp w st with
      | some j =>
        obtain rfl : ext = none := ext_eq_none hext (extCount_of_parseCp hcp)
        simp only [hcp, Option.some.injEq] at h
        subst h
        exact ⟨.cp, parseCp_encode hcp, .inl rfl⟩
      | none =>
        simp only [hcp] at h
        exact ⟨.s, parseS_encode hext h, .inr ⟨rfl, rfl⟩⟩
    | l =>
      obtain ⟨rfl, h⟩ := absent_of_read h
      obtain rfl : ext = none := ext_eq_none hext rfl
      exact ⟨.l, parseL_encode h, .inl rfl⟩
    | w =>
      obtain ⟨rfl, h⟩ := absent_of_read h
      obtain rfl : ext = none := ext_eq_none hext rfl
      exact ⟨.w, parseW_encode h, .inl rfl⟩
    | x => exact ⟨.x, parseX_encode hext h, .inl rfl⟩

/-- Settles O53: the decoder checks well-formedness, and the fields that it reads encode to the group again. -/
theorem decodeThenEncode : Obligations.DecodeThenEncode := by
  intro i sp c h
  obtain ⟨hext, hparse, hwf, -⟩ := decode_eq_some_iff.1 h
  exact ⟨hwf, parse_encode hext hparse⟩
end Sys2Proof
end

section
/-! PROOFS. What becomes visible (R10, R38), and the range copy of the byte memory (R6). -/

namespace Sys2Proof.Machine

/-! A result becomes visible. -/

@[simp] theorem State.land_scalar (s : State) (m : Mover) (n : Nat) (v : W64) (pz : Option PRec) :
    s.land m (.scalar n v pz) = s.setAgent m ((s.agent m).ws n v pz) := rfl

@[simp] theorem State.land_predicate (s : State) (m : Mover) (n : Nat) (v mask : W32) (pz : Option PRec) :
    s.land m (.predicate n v mask pz) = s.setAgent m ((s.agent m).wp n v mask pz) := rfl

/-- The predicates after a write of p[n], n not 0. -/
theorem Core.wp_p (c : Core) (n : Nat) (v mask : W32) (pz : Option PRec) (h : n ≠ 0) :
    (c.wp n v mask pz).p = tset Predicate.zero c.p n ⟨((c.rp n).v &&& ~~~mask) ||| (v &&& mask), mergePz mask (c.rp n).pz pz⟩ := by
  rw [Core.wp, if_neg h]

/-- A write of p[n] takes the masked bits, unless n is 0. -/
theorem Core.rp_wp_same (c : Core) (n : Nat) (v mask : W32) (pz : Option PRec) (h : n ≠ 0) :
    (c.wp n v mask pz).rp n = ⟨((c.rp n).v &&& ~~~mask) ||| (v &&& mask), mergePz mask (c.rp n).pz pz⟩ := by
  rw [Core.rp, if_neg h, Core.wp_p _ _ _ _ _ h, tget_tset_same]

/-- A write of p[n] leaves every other predicate. -/
theorem Core.rp_wp_other (c : Core) (n j : Nat) (v mask : W32) (pz : Option PRec) (h : j ≠ n) :
    (c.wp n v mask pz).rp j = c.rp j := by
  by_cases hn : n = 0
  · rw [hn, Core.wp_zero]
  · by_cases hj : j = 0
    · rw [hj, Core.rp_zero, Core.rp_zero]
    · rw [Core.rp, if_neg hj, Core.wp_p _ _ _ _ _ hn, tget_tset_other _ _ _ _ _ h, Core.rp, if_neg hj]

/-- A bit of a masked merge is the new one under the mask and the old one elsewhere. -/
theorem getLsbD_masked (old v mask : W32) (i : Nat) (hi : i < 32) :
    ((old &&& ~~~mask) ||| (v &&& mask)).getLsbD i = if mask.getLsbD i then v.getLsbD i else old.getLsbD i := by
  simp only [BitVec.getLsbD_or, BitVec.getLsbD_and, BitVec.getLsbD_not, hi, decide_true, Bool.true_and]
  cases mask.getLsbD i <;> simp

/-- Settles O1: a landing result is the one register write of its agent. -/
theorem resultsBecomeVisible : Obligations.ResultsBecomeVisible := by
  refine ⟨fun s m n v pz => ⟨?_, ?_, ?_, ?_⟩, fun s m n v mask pz => ⟨?_, ?_, ?_⟩⟩
  · intro hn
    rw [State.land_scalar, State.agent_setAgent_same, Core.rs_ws_same _ _ _ _ hn]
  · intro j hj
    rw [State.land_scalar, State.agent_setAgent_same]
    rcases hj with hj | rfl
    · exact Core.rs_ws_other _ _ _ _ _ hj
    · rw [Core.ws_zero]
  · rw [State.land_scalar, State.setAgent_mem]
  · intro k hk
    rw [State.land_scalar, State.agent_setAgent_other _ _ _ _ hk]
  · intro hn i hi
    rw [State.land_predicate, State.agent_setAgent_same, Core.rp_wp_same _ _ _ _ _ hn]
    exact getLsbD_masked _ _ _ _ hi
  · intro j hj
    rw [State.land_predicate, State.agent_setAgent_same]
    rcases hj with hj | rfl
    · exact Core.rp_wp_other _ _ _ _ _ _ hj
    · rw [Core.wp_zero]
  · rw [State.land_predicate, State.agent_setAgent_same, Core.rp_zero]

/-! Range copies (R6). -/

/-- What is left out reads as unlisted, and the rest as before. -/
theorem Memory.rd_without (m : Memory) (a n x : Nat) :
    (m.without a n).rd x = if a ≤ x ∧ x < a + n then memDefault else m.rd x := by
  have hf := Memory.rd_filter (fun y => !(decide (a ≤ y) && decide (y < a + n))) m x
  rw [Memory.without, hf]
  by_cases hx : a ≤ x ∧ x < a + n <;> simp [hx]

/-- Cells above an offset do not reach it. -/
theorem Memory.rd_putCells_above (m : Memory) (a n k : Nat) (cells : Memory) (h : tabove k cells) :
    (m.putCells a n cells).rd (a + k) = m.rd (a + k) := by
  induction cells generalizing m with
  | nil => rfl
  | cons c rest ih =>
    have hk : k < c.1 := h c List.mem_cons_self
    rw [Memory.putCells, ih _ fun d hd => h d (List.mem_cons_of_mem _ hd)]
    split
    · exact Memory.rd_wr_other _ _ _ _ (by omega)
    · rfl

/-- Canonical cells put into an unlisted range read as the cells. -/
theorem Memory.rd_putCells_at (m : Memory) (a n k : Nat) (cells : Memory) (hc : cells.wf = true) (hk : k < n)
    (hm : m.rd (a + k) = memDefault) : (m.putCells a n cells).rd (a + k) = cells.rd k := by
  induction cells generalizing m with
  | nil => exact hm
  | cons c rest ih =>
    obtain ⟨b, v⟩ := c
    obtain ⟨-, habove, hrest⟩ := (twf_cons_iff memDefault b v rest).1 hc
    have hread : Memory.rd ((b, v) :: rest) k = if b = k then v else Memory.rd rest k := rfl
    rw [Memory.putCells, hread]
    by_cases hb : b = k
    · subst hb
      rw [if_pos hk, if_pos rfl]
      have := Memory.rd_putCells_above (m.wr (a + b) v) a n b rest habove
      exact this.trans (Memory.rd_wr_same m (a + b) v)
    · rw [if_neg hb]
      refine ih _ hrest ?_
      split
      · rw [Memory.rd_wr_other _ _ _ _ (by omega), hm]
      · exact hm

section Shift
variable {a : Nat} {t : Memory} (hge : ∀ c ∈ t, a ≤ c.1)
include hge

/-- Cells moved down by `a` read as the cells `a` further up. -/
theorem Memory.rd_shift (k : Nat) : Memory.rd (t.map fun c => (c.1 - a, c.2)) k = t.rd (a + k) := by
  induction t with
  | nil => rfl
  | cons c rest ih =>
    obtain ⟨b, v⟩ := c
    have hb : a ≤ b := hge (b, v) List.mem_cons_self
    have hrest := ih fun d hd => hge d (List.mem_cons_of_mem _ hd)
    simp only [Memory.rd, List.map_cons, tget_cons] at hrest ⊢
    rw [hrest]
    exact if_congr (by omega) rfl rfl

/-- Cells moved down keep the canonical form. -/
theorem Memory.shift_wf (ht : t.wf = true) : Memory.wf (t.map fun c => (c.1 - a, c.2)) = true := by
  induction t with
  | nil => rfl
  | cons c rest ih =>
    obtain ⟨b, v⟩ := c
    have hb : a ≤ b := hge (b, v) List.mem_cons_self
    obtain ⟨hv, habove, hrest⟩ := (twf_cons_iff memDefault b v rest).1 ht
    refine (twf_cons_iff _ _ _ _).2 ⟨hv, ?_, ih (fun d hd => hge d (List.mem_cons_of_mem _ hd)) hrest⟩
    intro d hd
    obtain ⟨e, he, rfl⟩ := List.mem_map.1 hd
    have := habove e he
    show b - a < e.1 - a
    omega

end Shift

/-- The cells that a cut takes stand in its range. -/
theorem Memory.ge_of_mem_cut_filter {m : Memory} {a n : Nat} :
    ∀ c ∈ m.filter (fun c => decide (a ≤ c.1) && decide (c.1 < a + n)), a ≤ c.1 := by
  intro c hc
  have := (List.mem_filter.1 hc).2
  simp only [Bool.and_eq_true, decide_eq_true_eq] at this
  exact this.1

/-- A cut reads as its range. -/
theorem Memory.rd_cut (m : Memory) (a n k : Nat) (hk : k < n) : (m.cut a n).rd k = m.rd (a + k) := by
  have hf := Memory.rd_filter (fun y => decide (a ≤ y) && decide (y < a + n)) m (a + k)
  rw [Memory.cut, Memory.rd_shift Memory.ge_of_mem_cut_filter, hf]
  simp [hk]

/-- A cut of a canonical memory is canonical. -/
theorem Memory.cut_wf (m : Memory) (a n : Nat) (h : m.wf = true) : (m.cut a n).wf = true :=
  Memory.shift_wf Memory.ge_of_mem_cut_filter (twf_filter _ _ _ h)

/-- After a copy the range at `dst` reads as the range at `src` read before. -/
theorem Memory.rd_copyRange_at (m : Memory) (src dst n k : Nat) (h : m.wf = true) (hk : k < n) :
    (m.copyRange src dst n).rd (dst + k) = m.rd (src + k) := by
  have hfree : (m.without dst n).rd (dst + k) = memDefault := by
    rw [Memory.rd_without, if_pos (by omega)]
  rw [Memory.copyRange, Memory.paste, Memory.rd_putCells_at _ _ _ _ _ (m.cut_wf src n h) hk hfree, Memory.rd_cut _ _ _ _ hk]

/-- Settles O54, from the laws of writes, canonical tables and range copies. -/
theorem memoryKeepsWhatIsWritten : Obligations.MemoryKeepsWhatIsWritten := by
  intro m a d
  refine ⟨m.rdN_wrN_same a d, fun x hx => m.rd_wrN_other a x d hx, m.wrN_wf a d, fun n => m.ext_of_rd n, fun src n => ⟨?_, ?_⟩⟩
  · intro hwf x hlo hhi
    obtain ⟨k, rfl⟩ := Nat.exists_eq_add_of_le hlo
    rw [Nat.add_sub_cancel_left]
    exact m.rd_copyRange_at src a n k hwf (by omega)
  · intro x hx
    exact m.rd_paste_other a n x _ hx

end Sys2Proof.Machine
end

section
/-! PROOFS. Multiplies in flight (O31): a group of products, the tile write, the late faults (R33, R154 to R156, R163, R202). -/

namespace Sys2Proof.Machine

/-! Runs of words in memory. -/

/-- A run of bytes depends on its bytes only. -/
theorem Memory.rdN_congr {m k : Memory} {a n : Nat} (h : ∀ x, a ≤ x → x < a + n → m.rd x = k.rd x) : m.rdN a n = k.rdN a n := by
  induction n generalizing a with
  | zero => rfl
  | succ n ih =>
    rw [Memory.rdN, Memory.rdN, h a le_rfl (by omega), ih fun x hx hx' => h x (by omega) (by omega)]

@[simp] theorem State.wrWords_cores (s : State) (a : Nat) (ws : List (W32 × Bool)) : (s.wrWords a ws).cores = s.cores := by
  induction ws generalizing s a with
  | nil => rfl
  | cons w rest ih => exact ih _ _

/-- Writing words leaves every byte outside them. -/
theorem State.wrWords_rd_other (s : State) (a x : Nat) (ws : List (W32 × Bool)) (h : x < a ∨ a + 4 * ws.length ≤ x) :
    (s.wrWords a ws).mem.rd x = s.mem.rd x := by
  induction ws generalizing s a with
  | nil => rfl
  | cons w rest ih =>
    rw [List.length_cons] at h
    rw [State.wrWords, ih _ _ (by omega), State.wrB_rd_other _ _ _ _ _ (by rw [natLe_length]; omega)]

/-- Each word that was written is the one that is read. -/
theorem State.wrWords_word (s : State) (a c : Nat) (ws : List (W32 × Bool)) (h : c < ws.length) :
    leNat ((s.wrWords a ws).mem.rdN (a + 4 * c) 4) = ws[c].1.toNat := by
  induction ws generalizing s a c with
  | nil => simp at h
  | cons w rest ih =>
    cases c with
    | zero =>
      have hkeep : ((s.wrB a (natLe 4 w.1.toNat) w.2).wrWords (a + 4) rest).mem.rdN a 4 = (s.mem.wrN a (natLe 4 w.1.toNat)).rdN a 4 :=
        Memory.rdN_congr fun x _ hx => State.wrWords_rd_other _ _ _ _ (.inl hx)
      have hread := s.mem.rdN_wrN_same a (natLe 4 w.1.toNat)
      rw [natLe_length] at hread
      change leNat (((s.wrB a (natLe 4 w.1.toNat) w.2).wrWords (a + 4) rest).mem.rdN a 4) = w.1.toNat
      rw [hkeep, hread, leNat_natLe]
      exact Nat.mod_eq_of_lt w.1.isLt
    | succ c =>
      have := ih (s.wrB a (natLe 4 w.1.toNat) w.2) (a + 4) c (by simpa using h)
      rwa [show a + 4 + 4 * c = a + 4 * (c + 1) by omega] at this

/-! A group of products (R33, R148, R154). -/

/-- Element `n` of group `g` of an unscaled 16-bit operand in the plain layout. -/
theorem State.localLine_plain16 (s : State) (core base pitch g n : Nat) (sc : List (Byte × Bool)) (t : Ety) (hw : t.width = 16) :
    ∃ p, s.localLine core base pitch false sc t false 1 g n = [elemOf (t.value (Claim.plainCode s core base pitch 2 g n)) none p] := by
  have hb : (8 * base + 8 * g * pitch + n * 16) / 8 = base + g * pitch + 2 * n := by
    rw [show 8 * base + 8 * g * pitch + n * 16 = 8 * (base + g * pitch + 2 * n) by ring, Nat.mul_div_cancel_left _ (by decide)]
  simp [State.localLine, State.elemAt, localBit, hw, hb, Claim.plainCode, State.rdNat, State.rdB, Nat.mod_one]

/-- A group of one product adds that product, rounded once. -/
theorem stepCell_one (c : AccElt) (x y : Elem) :
    (stepCell false c [x] [y]).v = roundF32 (addV false (Fmt.f32.decode c.v.toNat) (mulV x.v y.v).1).1 := rfl

@[simp] theorem stepCell_live (int : Bool) (c : AccElt) (a b : List Elem) : (stepCell int c a b).live = c.live := by
  cases int <;> rfl

/-- A cell after a group: one that is live takes its step, another stays. -/
theorem stepCells_getElem? (int : Bool) (acc : List AccElt) (a b : List (List Elem)) {i j : Nat} (hi : i < 32) (hj : j < 32) {c : AccElt}
    (hc : acc[32 * i + j]? = some c) :
    (stepCells int acc a b)[32 * i + j]? = some (if c.live then stepCell int c (a.getD i []) (b.getD j []) else c) := by
  have hdiv : (32 * i + j) / 32 = i := by omega
  have hmod : (32 * i + j) % 32 = j := by omega
  rw [stepCells, List.getElem?_map, List.getElem?_range (by omega)]
  simp [hdiv, hmod, List.getD_eq_getElem?_getD, hc]

/-- Reading a group of two local operands without scales leaves the state. -/
theorem State.growOp_local (s : State) (core : Nat) (o : MatOp) {ba pa sa bb pb sb : Nat} {ta tb : Bool} (hsrc : o.src = [])
    (ha : o.a = .local ba pa ta sa) (hb : o.b = .local bb pb tb sb) (hmx : (matFmt o.fmt).mx = false) :
    s.growOp core o = .ok s { o with
      g := o.g + 1
      acc := stepCells (matFmt o.fmt).int o.acc
        ((List.range 32).map (s.localLine core ba pa ta o.scA (matFmt o.fmt).ea false (matFmt o.fmt).ks o.g))
        ((List.range 32).map (s.localLine core bb pb tb o.scB (matFmt o.fmt).eb false (matFmt o.fmt).ks o.g)) } := by
  simp [State.growOp, State.segmentMoved, hsrc, State.readGroup, ha, hb, hmx]

/-- One group of BF16 products in the plain layout. -/
theorem groupOfProducts : Claim.GroupOfProducts := by
  intro s core o ba pa sa bb pb sb hfmt ha hb hsrc
  refine ⟨_, s.growOp_local core o hsrc ha hb (by rw [hfmt]; rfl), rfl, rfl, rfl, ?_⟩
  intro i hi j hj c hc
  dsimp only
  refine ⟨_, stepCells_getElem? _ _ _ _ hi hj hc, ?_, ?_, ?_⟩
  · split
    · exact stepCell_live _ _ _ _
    · rfl
  · intro hl; rw [hl]; rfl
  · intro hl
    obtain ⟨p, hp⟩ := s.localLine_plain16 core ba pa o.g i o.scA (matFmt 0).ea rfl
    obtain ⟨q, hq⟩ := s.localLine_plain16 core bb pb o.g j o.scB (matFmt 0).eb rfl
    have hks : (matFmt 0).ks = 1 := rfl
    have hint : (matFmt 0).int = false := rfl
    simp only [hl, hfmt, hks, hint, if_true, List.getD_eq_getElem?_getD, List.getElem?_map, List.getElem?_range hi, List.getElem?_range hj,
      Option.map_some, Option.getD_some, hp, hq, stepCell_one]
    rfl

/-! Tile writes (R154, R163). -/

/-- The write of one row of a tile's cells, with the words that `s` gives them. -/
def State.writeRow (s : State) (core tile : Nat) (acc : List AccElt) (t : State) (r : Nat) : State :=
  match acc[32 * r]? with
  | some x => if x.live then t.wrWords (tAddr core tile r 0) (s.cellWords acc r) else t
  | none => t

theorem State.writeCells_eq (s : State) (core tile : Nat) (acc : List AccElt) :
    s.writeCells core tile acc = { (List.range 32).foldl (s.writeRow core tile acc) s with fresh := s.fresh + 1024 } := rfl

theorem State.writeRow_live (s t : State) (core tile r : Nat) (acc : List AccElt) (x : AccElt) (hx : acc[32 * r]? = some x) (hl : x.live = true) :
    s.writeRow core tile acc t r = t.wrWords (tAddr core tile r 0) (s.cellWords acc r) := by
  simp [State.writeRow, hx, hl]

@[simp] theorem State.cellWords_length (s : State) (acc : List AccElt) (r : Nat) : (s.cellWords acc r).length = 32 := by
  simp [State.cellWords]

/-- A row either is written or stays as it is. -/
theorem State.writeRow_cases (s t : State) (core tile r : Nat) (acc : List AccElt) :
    s.writeRow core tile acc t r = t ∨ s.writeRow core tile acc t r = t.wrWords (tAddr core tile r 0) (s.cellWords acc r) := by
  unfold State.writeRow
  split
  · split
    · exact .inr rfl
    · exact .inl rfl
  · exact .inl rfl

@[simp] theorem State.writeRow_cores (s t : State) (core tile r : Nat) (acc : List AccElt) : (s.writeRow core tile acc t r).cores = t.cores := by
  rcases s.writeRow_cases t core tile r acc with h | h <;> rw [h]
  exact t.wrWords_cores _ _

theorem State.writeRow_rd_other (s t : State) (core tile r x : Nat) (acc : List AccElt) (h : x < tAddr core tile r 0 ∨ tAddr core tile r 0 + 128 ≤ x) :
    (s.writeRow core tile acc t r).mem.rd x = t.mem.rd x := by
  rcases s.writeRow_cases t core tile r acc with he | he <;> rw [he]
  exact t.wrWords_rd_other _ _ _ (by rwa [State.cellWords_length])

/-- An unpoisoned cell of a live row is written with its value. -/
theorem State.writeRow_word (s t : State) (core tile r c : Nat) (acc : List AccElt) (hc : c < 32) (x0 x : AccElt)
    (h0 : acc[32 * r]? = some x0) (hl : x0.live = true) (hx : acc[32 * r + c]? = some x) (hp : x.pz = false) :
    leNat ((s.writeRow core tile acc t r).mem.rdN (tAddr core tile r 0 + 4 * c) 4) = x.v.toNat := by
  rw [s.writeRow_live t core tile r acc x0 h0 hl, t.wrWords_word _ _ _ (by rwa [State.cellWords_length])]
  simp [State.cellWords, hx, hp]

@[simp] theorem State.writeRows_cores (s t : State) (core tile : Nat) (acc : List AccElt) (l : List Nat) :
    (l.foldl (s.writeRow core tile acc) t).cores = t.cores := by
  induction l generalizing t with
  | nil => rfl
  | cons r rest ih => rw [List.foldl_cons, ih, State.writeRow_cores]

theorem State.writeRows_rd_other (s t : State) (core tile x : Nat) (acc : List AccElt) (l : List Nat)
    (h : ∀ r ∈ l, x < tAddr core tile r 0 ∨ tAddr core tile r 0 + 128 ≤ x) :
    (l.foldl (s.writeRow core tile acc) t).mem.rd x = t.mem.rd x := by
  induction l generalizing t with
  | nil => rfl
  | cons r rest ih =>
    rw [List.foldl_cons, ih _ fun q hq => h q (List.mem_cons_of_mem _ hq), State.writeRow_rd_other _ _ _ _ _ _ _ (h r List.mem_cons_self)]

/-- The rows lie one after the other. -/
theorem tAddr_row (core tile r : Nat) : tAddr core tile r 0 = tAddr core tile 0 0 + 128 * r := by
  simp only [tAddr]; omega

/-- After the first `n` rows, each of them that is live holds its unpoisoned cells: no later row touches it. -/
theorem State.writeRows_word (s t : State) (core tile n r c : Nat) (acc : List AccElt) (hr : r < n) (hc : c < 32) (x0 x : AccElt)
    (h0 : acc[32 * r]? = some x0) (hl : x0.live = true) (hx : acc[32 * r + c]? = some x) (hp : x.pz = false) :
    leNat (((List.range n).foldl (s.writeRow core tile acc) t).mem.rdN (tAddr core tile r 0 + 4 * c) 4) = x.v.toNat := by
  induction n with
  | zero => omega
  | succ n ih =>
    rw [List.range_succ, List.foldl_append, List.foldl_cons, List.foldl_nil]
    rcases Nat.lt_succ_iff_lt_or_eq.1 hr with hlt | rfl
    · rw [Memory.rdN_congr fun y _ hy => s.writeRow_rd_other _ core tile n y acc (.inl (by rw [tAddr_row] at hy ⊢; omega)), ih hlt]
    · exact s.writeRow_word _ core tile r c acc hc x0 x h0 hl hx hp

/-- A tile write changes memory and the counter of free values only. -/
theorem State.writeCells_core (s : State) (n tile k : Nat) (acc : List AccElt) : (s.writeCells n tile acc).core k = s.core k := by
  unfold State.core
  rw [s.writeCells_eq]
  exact congrArg (tget Core.reset · k) (s.writeRows_cores s n tile acc _)

theorem State.writeCells_word (s : State) (n tile r c : Nat) (acc : List AccElt) (hr : r < 32) (hc : c < 32) (x0 x : AccElt)
    (h0 : acc[32 * r]? = some x0) (hl : x0.live = true) (hx : acc[32 * r + c]? = some x) (hp : x.pz = false) :
    leNat ((s.writeCells n tile acc).mem.rdN (Claim.tileWord n tile r c) 4) = x.v.toNat :=
  s.writeRows_word s n tile 32 r c acc hr hc x0 x h0 hl hx hp

theorem State.writeCells_rd_other (s : State) (n tile a : Nat) (acc : List AccElt)
    (h : a < Claim.tileWord n tile 0 0 ∨ Claim.tileWord n tile 0 0 + 4096 ≤ a) : (s.writeCells n tile acc).mem.rd a = s.mem.rd a := by
  refine s.writeRows_rd_other s n tile a acc _ fun r hr => ?_
  have hr := List.mem_range.1 hr
  rw [show Claim.tileWord n tile 0 0 = tAddr n tile 0 0 from rfl] at h
  rw [tAddr_row]
  omega

/-- The first three of the four counts. -/
theorem cellCounts_take (int : Bool) (acc : List AccElt) :
    ((cellCounts int acc).take 3).sum = (cellCounts int acc).getD 0 0 + (cellCounts int acc).getD 1 0 + (cellCounts int acc).getD 2 0 := by
  unfold cellCounts
  split <;> simp [Nat.add_assoc]

/-- The core after the multiply `o` has left its flight list. -/
def Core.retire (c : Core) (o : MatOp) : Core :=
  let n := cellCounts (matFmt o.fmt).int o.acc
  { c with
    mats := c.mats.erase o
    fpflags := if !o.part && !(matFmt o.fmt).int && decide (0 < n.getD 0 0 + n.getD 1 0 + n.getD 2 0) then c.fpflags ||| 0x20 else c.fpflags
    exc := if o.part then c.exc else tset 0 c.exc (o.tile / 64) (addCounts (tget 0 c.exc (o.tile / 64)) n) }

theorem execMatrixTileWrite_some (n : Nat) (s : State) (o : MatOp)
    (h : (s.core n).mats.find? (fun o => o.start + o.groups + 6 ≤ (s.core n).now && o.groups ≤ o.g) = some o) :
    execMatrixTileWrite n s = .next ((s.setCore n ((s.core n).retire o)).writeCells n o.tile o.acc) := by
  simp only [execMatrixTileWrite, h]
  rfl

theorem execMatrixTileWrite_none (n : Nat) (s : State) (h : ∀ o ∈ (s.core n).mats, (s.core n).now < o.start + o.groups + 6) :
    execMatrixTileWrite n s = .next s := by
  have hnone : (s.core n).mats.find? (fun o => o.start + o.groups + 6 ≤ (s.core n).now && o.groups ≤ o.g) = none :=
    List.find?_eq_none.2 fun o ho => by simp [Nat.not_le.2 (h o ho)]
  simp only [execMatrixTileWrite, hnone]

/-- The counters of the other classes stay. -/
theorem Core.retire_exc (c : Core) (o : MatOp) (k : Nat) :
    tget 0 (c.retire o).exc k = if k = o.tile / 64 ∧ o.part = false
      then addCounts (tget 0 c.exc (o.tile / 64)) (cellCounts (matFmt o.fmt).int o.acc) else tget 0 c.exc k := by
  cases hp : o.part <;> simp [Core.retire, hp, tget_tset]

theorem Core.retire_fpflags (c : Core) (o : MatOp) :
    (c.retire o).fpflags = if o.part = false ∧ (matFmt o.fmt).int = false ∧ 0 < ((cellCounts (matFmt o.fmt).int o.acc).take 3).sum
      then c.fpflags ||| 0x20 else c.fpflags := by
  rw [cellCounts_take]
  simp only [Core.retire, Bool.and_eq_true, Bool.not_eq_true', decide_eq_true_eq, and_assoc]

/-- MATRIX_TILE_WRITE. -/
theorem tileWrites : Claim.TileWrites := by
  refine ⟨fun n s o h => ⟨_, execMatrixTileWrite_some n s o h, ?_⟩, fun n s h => ⟨s, execMatrixTileWrite_none n s h, rfl⟩⟩
  have hcore : ((s.setCore n ((s.core n).retire o)).writeCells n o.tile o.acc).core n = (s.core n).retire o := by
    rw [State.writeCells_core, State.core_setCore_same]
  beta_reduce
  rw [hcore]
  refine ⟨rfl, ?_, ?_, ?_, ?_, Core.retire_fpflags _ _, rfl, ?_⟩
  · intro r hr c hc x0 x h0 hl hx hp
    exact State.writeCells_word _ n o.tile r c o.acc hr hc x0 x h0 hl hx hp
  · intro a ha
    rw [State.writeCells_rd_other _ _ _ _ _ ha, State.setCore_mem]
  · rw [Core.retire_exc]
    cases o.part <;> simp
  · intro k hk
    rw [Core.retire_exc, if_neg (by simp [hk])]
  · intro k hk
    rw [State.writeCells_core, State.core_setCore_other _ _ _ _ hk]

/-! Late faults (R155, R156, R202). -/

/-- The late faults of multiplies. -/
theorem lateFaults : Claim.LateFaults := by
  refine ⟨?_, ?_⟩
  · intro n s o rest c p sc cb code sub d hm hb hdue
    refine ⟨_, ?_, rfl⟩
    change execIngotFault n s = _
    simp [execIngotFault, hm, hb, hdue]
  · intro n s o rest u hm hu hg hdue
    have hfind : (s.core n).mats.find? (fun o => o.undo.isSome && decide (o.g < o.groups) && decide (o.start + o.g ≤ (s.core n).now)) = some o := by
      simp [hm, hu, hg, hdue]
    refine ⟨?_, ?_⟩
    · intro s1 o' hgrow
      refine ⟨_, ?_, rfl⟩
      change execRemoteOperandFault n s = _
      simp only [execRemoteOperandFault, hfind, hgrow]
    · intro sub a hgrow
      refine ⟨_, ?_, rfl⟩
      change execRemoteOperandFault n s = _
      simp only [execRemoteOperandFault, hfind, hgrow, hu]
      simp [hm, Seq.back, remoteTrap]

/-- Settles O31: each clause from the lemmas of its own part. -/
theorem matrixInFlight : Obligations.MatrixInFlight := ⟨groupOfProducts, tileWrites, lateFaults⟩

end Sys2Proof.Machine
end

section
/-! PROOFS. Rounding and packing of vector elements (R20 to R29, R44, R45, R126): what an element's code is without a modifier word and outside stochastic rounding, and which words a slice receives. -/

namespace Sys2Proof.Machine

open Sys2Proof.Claim

/-! Rounding without draws (R20, R23): outside stochastic rounding the draw does not matter, and what a value already differs by changes flags only. -/

theorem roundsUp_draw {mode : Rm} (h : mode ≠ .sr) (st : W32) (neg : Bool) (q r d : Nat) :
    roundsUp mode st neg q r d = roundsUp mode 0 neg q r d := by
  cases mode with
  | sr => exact absurd rfl h
  | _ => rfl

theorem roundMag_draw {mode : Rm} (h : mode ≠ .sr) (st : W32) (neg : Bool) (m : Nat) (e k : Int) :
    roundMag mode st neg m e k = roundMag mode 0 neg m e k := by
  simp only [roundMag, roundsUp_draw h st]

theorem Fmt.round_draw {mode : Rm} (h : mode ≠ .sr) (f : Fmt) (st : W32) (sat fzo ne : Bool) (v : Fv) :
    f.round mode st sat fzo ne v = f.round mode 0 sat fzo ne v := by
  cases v with
  | nan => rfl
  | inf => rfl
  | num n m e => simp only [Fmt.round, Fmt.roundNum, roundMag_draw h st]

theorem Fmt.round_code_ne (f : Fmt) (mode : Rm) (st : W32) (sat fzo ne : Bool) (v : Fv) :
    (f.round mode st sat fzo ne v).code = (f.round mode st sat fzo false v).code := by
  cases v with
  | nan => rfl
  | inf => rfl
  | num n m e =>
    simp only [Fmt.round, Fmt.roundNum]
    split
    · rfl
    · split
      · rfl
      · split <;> rfl

/-- A NaN has one code, whatever the flush control. -/
theorem Fmt.round_nan (f : Fmt) (mode : Rm) (st : W32) (sat fzo ne : Bool) {v : Fv} (h : v.isNan = true) :
    (f.round mode st sat fzo ne v).code = f.nanCode := by
  cases v with
  | nan => rfl
  | inf => cases h
  | num => cases h

/-- A number is an integer already: rounding it to one changes nothing. -/
theorem roundIntV_zero (mode : Rm) (neg : Bool) (m : Nat) : roundIntV mode 0 neg m 0 = (if neg then -(m : Int) else m, false) := by
  have hup : roundsUp mode 0#32 neg m 0 1 = false := by cases mode <;> simp [roundsUp]
  simp [roundIntV, roundMag, splitAt2, hup]

/-! Finishing an element (R27 to R29). -/

@[simp] theorem Modif.none_sat : Modif.none.sat = 0 := rfl

@[simp] theorem Modif.none_apply (v : Fv) : Modif.none.apply v = v := by
  cases v <;> simp [Modif.apply, Modif.none, Fv.scale]

/-- Without a modifier word an element is rounded once to its format. -/
theorem finishFp_none {mode : Rm} (h : mode ≠ .sr) (f : Fmt) (st : W32) (fzo ne : Bool) (v : Fv) :
    (finishFp f mode st Modif.none fzo ne v).1 = (f.round mode 0 false fzo false v).code := by
  unfold finishFp
  cases hv : v.isNan
  · simp only [Bool.false_eq_true, if_false, Modif.none_apply]
    exact (f.round_code_ne mode st false fzo _ v).trans (congrArg Rounded.code (f.round_draw h st false fzo false v))
  · simp only [if_true, Fmt.round_nan _ _ _ _ _ _ hv]

/-- Without a modifier word an element is limited to its integer type, or taken modulo 2^w. -/
theorem finishInt_none (s : State) (w : Nat) (sg fromFp : Bool) (mode : Rm) (v : Fv) :
    (finishInt w sg fromFp mode Modif.none v).1 = finishCode s (.int w sg) mode fromFp v := by
  have hle : intLo w sg ≤ intHi w sg := by
    have : (0 : Int) < 2 ^ w := by positivity
    have : (0 : Int) < 2 ^ (w - 1) := by positivity
    cases sg <;> simp [intLo, intHi]
    omega
  cases v with
  | nan => rfl
  | inf n => cases n <;> rfl
  | num n m e =>
    change (finishInt w sg fromFp mode Modif.none (.num n m e)).1 = ((if fromFp then max (intLo w sg) (min (intHi w sg) (roundIntV mode 0 n m e).1)
      else (roundIntV mode 0 n m e).1) % 2 ^ w).toNat
    simp only [finishInt, Modif.none_apply, Modif.none_sat, Fv.isNan, Bool.false_eq_true, if_false, OfNat.zero_ne_ofNat, zero_ne_one]
    cases fromFp
    · rfl
    · simp only [Bool.not_true, Bool.false_eq_true, if_false, if_true]
      split
      · next hlo => rw [min_eq_right (by omega), max_eq_left hlo.le]
      · next hlo =>
        split
        · next hhi => rw [min_eq_left hhi.le, max_eq_right hle]
        · next hhi => rw [min_eq_right (by omega), max_eq_right (by omega)]

/-- A rounding without a modifier word, outside stochastic rounding, under the flush control of `s`. -/
structure PlainRnd (s : State) (r : Rnd) : Prop where
  noMod : r.m = Modif.none
  noDraw : r.mode ≠ .sr
  flush : r.fzo = s.cur.fzo

theorem Rnd.one_draw {r : Rnd} (h : r.mode ≠ .sr) (hm : r.m = Modif.none) (st : W32) (x : Elt) : (r.one st x).1 = (r.one 0 x).1 := by
  unfold Rnd.one
  split
  · rw [hm, finishFp_none h, finishFp_none h]
  · rfl

/-- The code of an element is that of the claims. -/
theorem PlainRnd.code {s : State} {r : Rnd} (h : PlainRnd s r) (st : W32) (x : Elt) :
    (r.one st x).1 = finishCode s r.ty r.mode r.fromFp x.v := by
  unfold Rnd.one
  split
  · next f hf => rw [h.noMod, finishFp_none h.noDraw, h.flush, hf]; rfl
  · next w sg hf => rw [h.noMod, finishInt_none s, hf]

/-! Results in flight (R10, R45). -/

/-- The results that an instruction adds are in flight at its latency, and what was in flight stays. -/
theorem Core.mem_emits (c : Core) (e : Engine) (lat : Nat) (ws : List Write) (p : Pend) :
    p ∈ (c.emits e lat ws).pend ↔ (∃ w ∈ ws, p = ⟨c.now + lat, c.now, e.rank, w⟩) ∨ p ∈ c.pend := by
  induction ws generalizing c with
  | nil => simp [Core.emits]
  | cons w rest ih =>
    rw [Core.emits, ih, Core.mem_emit]
    simp only [List.mem_cons, exists_eq_or_imp]
    exact ⟨fun h => by rcases h with h | h | h <;> simp_all [Core.emit], fun h => by rcases h with (h | h) | h <;> simp_all [Core.emit]⟩

theorem sliceAddr_eq (s : State) (reg : Nat) (dir : BitVec 2) (k i : Nat) :
    sliceAddr s.me reg dir k i = wordAddr s reg (laneRow dir k i) (laneCol dir k i) := by
  have hd : dir = 0 ∨ dir = 1 ∨ dir = 2 ∨ dir = 3 := by revert dir; decide
  rcases hd with rfl | rfl | rfl | rfl <;> rfl

/-- A lane with a word is written. -/
theorem mem_sliceWrites {core reg : Nat} {dir : BitVec 2} {k i : Nat} {lanes : List (Option (W32 × Bool))} {v : W32} {p : Bool}
    (hi : i < 32) (h : lanes.getD i none = some (v, p)) :
    Write.bytes (sliceAddr core reg dir k i) (natLe 4 v.toNat) p ∈ sliceWrites core reg dir k lanes :=
  List.mem_filterMap.2 ⟨i, List.mem_range.2 hi, by rw [h]⟩

/-! Lanes (R44). -/

/-- The widths of element types. -/
def isWidth (w : Nat) : Prop := w = 4 ∨ w = 8 ∨ w = 16 ∨ w = 32 ∨ w = 64

theorem isWidth.perLane_pos {w : Nat} (h : isWidth w) : 0 < perLane w := by
  rcases h with rfl | rfl | rfl | rfl | rfl <;> decide

theorem isWidth.perVec_eq {w : Nat} (h : isWidth w) : perVec w = 32 * perLane w := by
  rcases h with rfl | rfl | rfl | rfl | rfl <;> rfl

theorem isWidth.perLane_dvd {w : Nat} (h : isWidth w) : perLane w ∣ 32 := by
  rcases h with rfl | rfl | rfl | rfl | rfl <;> decide

/-- The word of lane `i`: its elements, the first lowest. -/
def laneValue (w i : Nat) (code : Nat → Nat) : Nat := ((List.range (perLane w)).map (fun k => code (i * perLane w + k) * 2 ^ (k * w))).sum

/-- The positions of a lane's elements among `n` elements from `lo` on. -/
theorem filter_lane {p lo n i : Nat} (hp : 0 < p) (hlo : lo ≤ i * p) (hn : (i + 1) * p ≤ lo + n) :
    (List.range n).filter (fun j => (lo + j) / p = i) = (List.range p).map (fun k => i * p - lo + k) := by
  rw [Nat.add_mul, one_mul] at hn
  obtain ⟨b, rfl⟩ := Nat.exists_eq_add_of_le (show i * p - lo + p ≤ n by omega)
  have hpos (j : Nat) : (lo + j) / p = i ↔ i * p ≤ lo + j ∧ lo + j < i * p + p := by
    rw [Nat.div_eq_iff hp]; omega
  simp only [hpos]
  rw [List.range_add, List.range_add, List.filter_append, List.filter_append]
  have hbefore : (List.range (i * p - lo)).filter (fun j => i * p ≤ lo + j ∧ lo + j < i * p + p) = [] :=
    List.filter_eq_nil_iff.2 fun j hj => by have := List.mem_range.1 hj; simp; omega
  have hafter : ((List.range b).map (i * p - lo + p + ·)).filter (fun j => i * p ≤ lo + j ∧ lo + j < i * p + p) = [] :=
    List.filter_eq_nil_iff.2 fun j hj => by obtain ⟨x, -, rfl⟩ := List.mem_map.1 hj; simp; omega
  have hin : ((List.range p).map (i * p - lo + ·)).filter (fun j => i * p ≤ lo + j ∧ lo + j < i * p + p) = (List.range p).map (i * p - lo + ·) :=
    List.filter_eq_self.2 fun j hj => by
      obtain ⟨x, hx, rfl⟩ := List.mem_map.1 hj
      have := List.mem_range.1 hx
      simp; omega
  rw [hbefore, hafter, hin, List.nil_append, List.append_nil]

/-- A rounded element without its flags, which its lane does not hold. -/
def Out.bare (o : Out) : Out := { o with fl := FpFlags.none }

/-- The place of element `j` in its lane's word. -/
def lanePlace (w j : Nat) : Nat := if w = 64 then 0 else j % (32 / w) * w

theorem isWidth.lanePlace_eq {w : Nat} (h : isWidth w) (i : Nat) {k : Nat} (hk : k < perLane w) : lanePlace w (i * perLane w + k) = k * w := by
  by_cases h64 : w = 64
  · subst h64
    rw [show k = 0 by simpa [perLane] using hk]
    rfl
  · rw [lanePlace, if_neg h64, show 32 / w = perLane w by rw [perLane, if_neg h64], Nat.mul_comm i, Nat.mul_add_mod, Nat.mod_eq_of_lt hk]

/-- The words of a lane in terms of the elements that it has. -/
theorem packLane_of_filter (s : State) {w i : Nat} {outs l : List Out} (h : outs.filter (fun o => laneOf w o.j = i) = l) (hl : l ≠ [])
    (hpz : ∀ o ∈ l, o.pz = false) :
    packLane s w i outs = some (BitVec.ofNat 32 (l.map (fun o => o.code * 2 ^ lanePlace w o.j)).sum,
      BitVec.ofNat 32 ((l.map (fun o => o.code * 2 ^ lanePlace w o.j)).sum / 2 ^ 32), false) := by
  have hfold (g : Out → Nat) (a : Nat) (l : List Out) : l.foldl (fun a o => a + g o) a = a + (l.map g).sum := by
    induction l generalizing a with
    | nil => rfl
    | cons o rest ih => rw [List.foldl_cons, ih, List.map_cons, List.sum_cons, Nat.add_assoc]
  have hclean (g : Out → Nat) : l.map (fun o => (if o.pz then g o else o.code) * 2 ^ lanePlace w o.j) = l.map (fun o => o.code * 2 ^ lanePlace w o.j) :=
    List.map_congr_left fun o ho => by rw [if_neg (by simp [hpz o ho])]
  have hany : l.any (·.pz) = false := by simpa using hpz
  have hpack : packLane s w i outs
      = (let v := l.foldl (fun a o => a + (if o.pz then (Config.freeWord (s.fresh + i)).toNat / 2 ^ lanePlace w o.j % 2 ^ w else o.code) * 2 ^ lanePlace w o.j) 0
        some (BitVec.ofNat 32 v, BitVec.ofNat 32 (v / 2 ^ 32), l.any (·.pz))) := by
    rw [packLane, h]
    cases l with
    | nil => exact absurd rfl hl
    | cons o rest => rfl
  rw [hpack]
  simp only [hfold, hclean, hany, zero_add]

/-- A lane whose elements are all among `n` unpoisoned ones from `lo` on holds them. -/
theorem packLane_full (s : State) {w i lo n : Nat} {outs : List Out} {code : Nat → Nat} {pz : Nat → Bool} (hw : isWidth w)
    (hlo : lo ≤ i * perLane w) (hn : (i + 1) * perLane w ≤ lo + n) (hpz : ∀ j < n, laneOf w (lo + j) = i → pz j = false)
    (houts : outs.map Out.bare = (List.range n).map (fun j => ⟨lo + j, code (lo + j), FpFlags.none, pz j⟩)) :
    packLane s w i outs = some (BitVec.ofNat 32 (laneValue w i code), BitVec.ofNat 32 (laneValue w i code / 2 ^ 32), false) := by
  have hpos := hw.perLane_pos
  have hlane : (outs.filter (fun o => laneOf w o.j = i)).map Out.bare
      = (List.range (perLane w)).map (fun k => ⟨i * perLane w + k, code (i * perLane w + k), FpFlags.none, pz (i * perLane w - lo + k)⟩) := by
    rw [show (fun o : Out => decide (laneOf w o.j = i)) = (fun o : Out => decide (laneOf w o.j = i)) ∘ Out.bare from rfl, ← List.filter_map, houts,
      List.filter_map]
    have hplace : (List.range n).filter ((fun o : Out => decide (laneOf w o.j = i)) ∘ fun j => ⟨lo + j, code (lo + j), FpFlags.none, pz j⟩)
        = (List.range (perLane w)).map (fun k => i * perLane w - lo + k) := filter_lane hpos hlo hn
    rw [hplace, List.map_map]
    refine List.map_congr_left fun k _ => ?_
    simp [show lo + (i * perLane w - lo + k) = i * perLane w + k by omega]
  have hclean : ∀ o ∈ outs.filter (fun o => laneOf w o.j = i), o.pz = false := by
    intro o ho
    obtain ⟨k, hk, he⟩ := List.mem_map.1 (hlane ▸ List.mem_map_of_mem (f := Out.bare) ho)
    have hk := List.mem_range.1 hk
    rw [Nat.add_mul, one_mul] at hn
    rw [show o.pz = o.bare.pz from rfl, ← he]
    refine hpz _ (by omega) ?_
    rw [laneOf, Nat.div_eq_iff hpos]
    omega
  have hne : outs.filter (fun o => laneOf w o.j = i) ≠ [] := by
    intro h
    have := congrArg List.length hlane
    simp [h] at this
    omega
  have hval : ((outs.filter (fun o => laneOf w o.j = i)).map (fun o => o.code * 2 ^ lanePlace w o.j)).sum = laneValue w i code := by
    rw [show (fun o : Out => o.code * 2 ^ lanePlace w o.j)
        = (fun o : Out => o.code * 2 ^ lanePlace w o.j) ∘ Out.bare from rfl, ← List.map_map, hlane, List.map_map, laneValue]
    refine congrArg List.sum (List.map_congr_left fun k hk => ?_)
    simp only [Function.comp_def, hw.lanePlace_eq i (List.mem_range.1 hk)]
  have := packLane_of_filter s rfl hne hclean
  rwa [hval] at this

/-- What it comes to that lane `i` of a destination holds its elements. -/
theorem laneHolds_of_value {s t : State} {o : ElemOp} {i : Nat}
    (hlo : (⟨s.cur.now + o.lat, s.cur.now, Engine.x.rank, .bytes (wordAddr s o.f.dreg.toNat (laneRow o.f.dir o.f.slice.toNat i) (laneCol o.f.dir o.f.slice.toNat i))
      (natLe 4 (BitVec.ofNat 32 (laneValue o.w i o.code)).toNat) false⟩ : Pend) ∈ t.cur.pend)
    (hhi : o.w = 64 → (⟨s.cur.now + o.lat, s.cur.now, Engine.x.rank,
      .bytes (wordAddr s o.f.dreg.toNat (laneRow o.f.dir (o.f.slice.toNat + 1) i) (laneCol o.f.dir (o.f.slice.toNat + 1) i))
      (natLe 4 (BitVec.ofNat 32 (laneValue o.w i o.code / 2 ^ 32)).toNat) false⟩ : Pend) ∈ t.cur.pend) : laneHolds s t o i := by
  unfold laneHolds
  dsimp only
  split
  · next h64 =>
    have hv : laneValue o.w i o.code = o.code i := by simp [laneValue, perLane, h64]
    rw [hv] at hlo hhi
    exact ⟨hlo, hhi h64⟩
  · next h64 =>
    rw [laneValue, show perLane o.w = 32 / o.w by rw [perLane, if_neg h64]] at hlo
    exact hlo

/-- What is in flight later still holds. -/
theorem laneHolds_mono {s t u : State} {o : ElemOp} {i : Nat} (h : ∀ p ∈ t.cur.pend, p ∈ u.cur.pend) (ht : laneHolds s t o i) : laneHolds s u o i := by
  unfold laneHolds at ht ⊢
  dsimp only at ht ⊢
  split
  · next h64 =>
    rw [if_pos h64] at ht
    exact ⟨h _ ht.1, h _ ht.2⟩
  · next h64 =>
    rw [if_neg h64] at ht
    exact h _ ht

/-! States in which an instruction has popped its sources: the issuing agent is the same, and so are its cycle and its controls. -/

/-- The issuing agent of `s1` is that of `s`, but for its queues and generators. -/
structure Popped (s s1 : State) : Prop where
  here : s1.here = s.here
  cur : ∃ q sr, s1.cur = { s.cur with q := q, srseed := sr }

theorem Popped.me {s s1 : State} (h : Popped s s1) : s1.me = s.me := by rw [State.me, State.me, h.here]
theorem Popped.now {s s1 : State} (h : Popped s s1) : s1.cur.now = s.cur.now := by obtain ⟨q, sr, hc⟩ := h.cur; rw [hc]
theorem Popped.rs {s s1 : State} (h : Popped s s1) (n : Nat) : s1.cur.rs n = s.cur.rs n := by obtain ⟨q, sr, hc⟩ := h.cur; rw [hc]; rfl
theorem Popped.fzi {s s1 : State} (h : Popped s s1) : s1.cur.fzi = s.cur.fzi := by obtain ⟨q, sr, hc⟩ := h.cur; rw [hc]; rfl
theorem Popped.fzo {s s1 : State} (h : Popped s s1) : s1.cur.fzo = s.cur.fzo := by obtain ⟨q, sr, hc⟩ := h.cur; rw [hc]; rfl

/-- The generators may step. -/
theorem Popped.seed {s s1 : State} (h : Popped s s1) (sr : List W32) : Popped s (s1.modCur (fun c => { c with srseed := sr })) := by
  obtain ⟨q, sr0, hc⟩ := h.cur
  exact ⟨(State.modCur_here _ _).trans h.here, q, sr, by rw [State.cur_modCur, hc]⟩

/-- The words of packed lanes are in flight. -/
theorem laneHolds_writeOuts {s s1 : State} {o : ElemOp} {outs : List Out} {i : Nat} (hs : Popped s s1) (hi : i < 32)
    (hpack : packLane s1 o.w i outs = some (BitVec.ofNat 32 (laneValue o.w i o.code), BitVec.ofNat 32 (laneValue o.w i o.code / 2 ^ 32), false)) :
    laneHolds s (writeOuts s1 o.f o.w o.lat outs) o i := by
  have hflight {w : Write} (hw : w ∈ destWrites s1 o.f o.w ((List.range 32).map (fun i => packLane s1 o.w i outs))) :
      (⟨s.cur.now + o.lat, s.cur.now, Engine.x.rank, w⟩ : Pend) ∈ (writeOuts s1 o.f o.w o.lat outs).cur.pend := by
    rw [← hs.now]
    change _ ∈ (s1.modCur _).cur.pend
    rw [State.cur_modCur, Core.mem_emits]
    exact .inl ⟨w, List.mem_append_left _ hw, rfl⟩
  have haddr (k : Nat) : sliceAddr s1.me o.f.dreg.toNat o.f.dir k i = wordAddr s o.f.dreg.toNat (laneRow o.f.dir k i) (laneCol o.f.dir k i) := by
    rw [hs.me, sliceAddr_eq]
  refine laneHolds_of_value (hflight (List.mem_append_left _ ?_)) fun h64 => hflight (List.mem_append_right _ ?_)
  · rw [← haddr]
    exact mem_sliceWrites hi (by simp [List.getD_eq_getElem?_getD, hi, hpack])
  · rw [← haddr, if_pos h64]
    exact mem_sliceWrites hi (by simp [List.getD_eq_getElem?_getD, hi, hpack])

end Sys2Proof.Machine
end

section
/-! PROOFS. Sources and results of vector instructions (R42, R124 to R126): what an instruction reads from the heads of its queues, and that its rounded elements reach the lanes of its destination. -/

namespace Sys2Proof.Machine

open Sys2Proof.Claim

/-! Types (R60, R136, R138). -/

theorem fpType_width (tr : BitVec 5) : isWidth (fpType tr).width := by
  unfold fpType isWidth
  split <;> decide

theorem fpType_narrow (tr : BitVec 5) : (fpType tr).width ≠ 64 := by
  unfold fpType
  split <;> decide

theorem intType_width (tr : BitVec 5) : isWidth (intType tr).1 := by
  unfold intType isWidth
  split <;> decide

theorem cvtType_width (c : Nat) : isWidth (cvtType c).width := by
  unfold cvtType isWidth
  split <;> decide

theorem mxElem_width (c : Nat) : isWidth (mxElem c).width := by
  unfold mxElem isWidth
  split <;> decide

theorem scanType_width (f : XVec) : isWidth (scanType f).1.width := by
  unfold scanType
  split
  · exact fpType_width f.tr
  · exact intType_width f.tr

/-- No integer type is rounded stochastically: its round code has two bits. -/
theorem intMode_plain (tr : BitVec 5) : intMode tr ≠ .sr := by
  have h : ∀ c : BitVec 2, rmOf c.toNat ≠ .sr := by decide
  exact h _

/-! Sources (R42, R124). -/

/-- What an instruction takes from the head of a queue. -/
def headVin (s : State) (q : BitVec 3) (n : Nat) : Vin :=
  let l := (s.cur.queue q.toNat).take n
  ⟨(l.getD 0 ⟨[], [], 0, 0⟩).lanes, (l.getD 1 ⟨[], [], 0, 0⟩).lanes,
    if n = 2 then List.zipWith (· || ·) (l.getD 0 ⟨[], [], 0, 0⟩).pz (l.getD 1 ⟨[], [], 0, 0⟩).pz else (l.getD 0 ⟨[], [], 0, 0⟩).pz⟩

/-- Visible entries are taken. -/
theorem takeQ_ready {s : State} {c : Core} {q : BitVec 3} {n : Nat} (h : ready s q n) (hq : c.queue q.toNat = s.cur.queue q.toNat) (hnow : c.now = s.cur.now) :
    c.takeQ q.toNat n = some (headVin s q n, c.setQueue q.toNat ((s.cur.queue q.toNat).drop n)) := by
  obtain ⟨hlen, hvis⟩ := h
  have hall : ((s.cur.queue q.toNat).take n).all (fun e => decide (e.vis ≤ c.now)) = true := by
    simpa [hnow] using hvis
  simp only [Core.takeQ, hq, List.length_take, min_eq_left hlen, hall, and_self, if_true]
  rfl

theorem popped_setQueue (s : State) (n : Nat) (l : List QEntry) : Popped s (s.setCur (s.cur.setQueue n l)) :=
  ⟨State.setCur_here _ _, _, _, by rw [State.cur_setCur]; rfl⟩

/-- A one-source instruction goes on with the head of its queue. -/
theorem pop1_ready {s : State} {qa : BitVec 3} {n : Nat} (h : ready s qa n) (k : State → Vin → Effect) :
    ∃ s1, Popped s s1 ∧ pop1 s qa n k = k s1 (headVin s qa n) := by
  refine ⟨_, popped_setQueue s qa.toNat ((s.cur.queue qa.toNat).drop n), ?_⟩
  rw [pop1, takeQ_ready h rfl rfl]

/-- A two-source instruction goes on with the heads of both queues, which may be one (R42). -/
theorem pop2_ready {s : State} {qa qb : BitVec 3} {n : Nat} (ha : ready s qa n) (hb : ready s qb n) (k : State → Vin → Vin → Effect) :
    ∃ s1, Popped s s1 ∧ pop2 s qa qb n k = k s1 (headVin s qa n) (headVin s qb n) := by
  by_cases hq : qa = qb
  · subst hq
    refine ⟨_, popped_setQueue s qa.toNat ((s.cur.queue qa.toNat).drop n), ?_⟩
    rw [pop2, takeQ_ready ha rfl rfl]
    exact if_pos rfl
  · refine ⟨s.setCur ((s.cur.setQueue qa.toNat ((s.cur.queue qa.toNat).drop n)).setQueue qb.toNat ((s.cur.queue qb.toNat).drop n)),
      ⟨State.setCur_here _ _, _, _, by rw [State.cur_setCur]; rfl⟩, ?_⟩
    have hother : (s.cur.setQueue qa.toNat ((s.cur.queue qa.toNat).drop n)).queue qb.toNat = s.cur.queue qb.toNat :=
      Core.queue_setQueue_other _ _ _ _ fun e => hq (BitVec.eq_of_toNat_eq e.symm)
    rw [pop2, takeQ_ready ha rfl rfl]
    dsimp only
    rw [if_neg hq, takeQ_ready hb hother rfl]

/-- An entry that is taken is the one at its place in the queue. -/
theorem getD_take_of_lt {l : List QEntry} {n i : Nat} (h : i < n) (d : QEntry) : (l.take n).getD i d = l.getD i d := by
  rw [List.getD_eq_getElem?_getD, List.getD_eq_getElem?_getD, List.getElem?_take_of_lt h]

theorem headVin_elem (s : State) (q : BitVec 3) {n w : Nat} (j : Nat) (hn : 0 < n) (hw : w = 64 → n = 2) :
    (headVin s q n).elem w j = qElem s q w j := by
  unfold Vin.elem qElem headVin
  dsimp only
  rw [getD_take_of_lt hn]
  split
  · next h64 => rw [getD_take_of_lt (by rw [hw h64]; decide)]
  · rfl

theorem headVin_poison (s : State) (q : BitVec 3) {n : Nat} (w j : Nat) (hn : 0 < n) :
    (headVin s q n).poison w j = qPoison s q (if n = 2 then 64 else 32) (laneOf w j) := by
  unfold Vin.poison qPoison headVin
  dsimp only
  rw [getD_take_of_lt hn]
  by_cases h2 : n = 2
  · simp only [h2, if_true]
    rw [getD_take_of_lt (by decide)]
  · simp only [h2, if_false]
    rfl

/-- Without a poisoned lane among its entries, a source has none. -/
theorem headVin_lanes {s : State} {q : BitVec 3} {n : Nat} (h : ∀ e ∈ (s.cur.queue q.toNat).take n, ∀ b ∈ e.pz, b = false) :
    ∀ b ∈ (headVin s q n).pz, b = false := by
  have hentry (i : Nat) : ∀ b ∈ (((s.cur.queue q.toNat).take n).getD i ⟨[], [], 0, 0⟩).pz, b = false := by
    rw [List.getD_eq_getElem?_getD]
    cases he : ((s.cur.queue q.toNat).take n)[i]? with
    | none => simp
    | some e => exact h e (List.mem_of_getElem? he)
  intro b hb
  unfold headVin at hb
  dsimp only at hb
  split at hb
  · obtain ⟨i, hi, rfl⟩ := List.mem_iff_getElem.1 hb
    rw [List.getElem_zipWith, hentry 0 _ (List.getElem_mem _), hentry 1 _ (List.getElem_mem _)]
    rfl
  · exact hentry 0 b hb

theorem headVin_clean {s : State} {q : BitVec 3} {n : Nat} (h : ∀ e ∈ (s.cur.queue q.toNat).take n, ∀ b ∈ e.pz, b = false) (w j : Nat) :
    (headVin s q n).poison w j = false := by
  rw [Vin.poison, List.getD_eq_getElem?_getD]
  cases hg : (headVin s q n).pz[laneOf w j]? with
  | none => rfl
  | some b => exact headVin_lanes h b (List.mem_of_getElem? hg)

theorem entries_pos (w : Nat) : 0 < entries w := by unfold entries; split <;> decide

theorem entries_wide {w : Nat} (h : w = 64) : entries w = 2 := if_pos h

/-- The value of an element as an instruction reads it. -/
theorem read_head {s s1 : State} (h : Popped s s1) (q : BitVec 3) (t : Ety) {n : Nat} (j : Nat) (hn : 0 < n) (hw : t.width = 64 → n = 2) :
    t.read s1.cur.fzi ((headVin s q n).elem t.width j) = qRead s q t j := by
  rw [headVin_elem s q j hn hw, h.fzi]
  cases t <;> rfl

/-! Starting (R45, R126). -/

/-- A legal destination and no modifier word: every lane is active. -/
theorem vecStart_plain {s : State} {f : XVec} {w : Nat} (hmd : f.md = none) (hd : legalDest f w) (k : W32 → Effect) :
    vecStart s f w k = k 0xFFFFFFFF := by
  obtain ⟨hreg, hpair⟩ := hd
  have hok : destBad f w = false := by
    by_cases h64 : w = 64
    · obtain ⟨hdir, heven⟩ := hpair h64
      have hbit : bitAt f.slice 0 = false := by
        rw [bitAt, ← BitVec.testBit_toNat, Nat.testBit_zero]; simpa using heven
      simp [destBad, hdir, hbit]; omega
    · simp [destBad, h64]; omega
  simp [vecStart, hok, guardOf, hmd]

theorem bitAt_allLanes {l : Nat} (h : l < 32) : bitAt (0xFFFFFFFF : W32) l = true := by
  have : ∀ l : Fin 32, bitAt (0xFFFFFFFF : W32) l = true := by decide
  exact this ⟨l, h⟩

/-! Rounded elements (R126). -/

/-- An element after rounding, without its flags. -/
def Rnd.bareOut (r : Rnd) (p : Nat × Elt) : Out := ⟨p.1, (r.one 0 p.2).1, FpFlags.none, p.2.pz || r.m.pz⟩

/-- On active lanes every element is rounded, and outside stochastic rounding no draw shows. -/
theorem roundAll_bare {r : Rnd} (hmode : r.mode ≠ .sr) (hmod : r.m = Modif.none) (sr : List W32) {xs : List (Nat × Elt)}
    (h : ∀ p ∈ xs, laneOf r.ty.width p.1 < 32) : (roundAll r 0xFFFFFFFF sr xs).2.map Out.bare = xs.map r.bareOut := by
  induction xs generalizing sr with
  | nil => rfl
  | cons p rest ih =>
    obtain ⟨j, x⟩ := p
    have hact := bitAt_allLanes (h (j, x) List.mem_cons_self)
    simp only [roundAll, hact, Bool.not_true, Bool.false_eq_true, if_false, List.map_cons, ih _ fun p hp => h p (List.mem_cons_of_mem _ hp)]
    refine congrArg (· :: _) ?_
    simp only [Out.bare, Rnd.bareOut, Rnd.one_draw hmode hmod]

/-- An effect that completes with results in flight on the lanes of `P`. -/
def landsOn (s : State) (x : Effect) (o : ElemOp) (P : Nat → Prop) : Prop := ∃ t, x = .done t ∧ ∀ l < 32, P l → laneHolds s t o l

/-- Elements that are written reach the lanes that they fill. -/
theorem writeOuts_lands {s s1 : State} {o : ElemOp} {lo n : Nat} {outs : List Out} {pz : Nat → Bool} {P : Nat → Prop} (hs : Popped s s1) (hw : isWidth o.w)
    (hend : perLane o.w ∣ lo + n) (houts : outs.map Out.bare = (List.range n).map (fun j => ⟨lo + j, o.code (lo + j), FpFlags.none, pz j⟩))
    (hP : ∀ l < 32, P l → lo ≤ l * perLane o.w ∧ l * perLane o.w < lo + n ∧ ∀ j < n, laneOf o.w (lo + j) = l → pz j = false) :
    ∀ l < 32, P l → laneHolds s (writeOuts s1 o.f o.w o.lat outs) o l := by
  intro l hl hPl
  obtain ⟨hlo, hhi, hpz⟩ := hP l hl hPl
  refine laneHolds_writeOuts hs hl (packLane_full s1 hw hlo ?_ hpz houts)
  obtain ⟨c, hc⟩ := hend
  rw [hc, Nat.mul_comm l] at hhi
  rw [hc, Nat.mul_comm (perLane o.w)]
  exact Nat.mul_le_mul_right _ (Nat.lt_of_mul_lt_mul_left hhi)

/-- Elements that are rounded on active lanes reach the lanes that they fill. -/
theorem vecFinish_lands {s s1 : State} {o : ElemOp} {r : Rnd} {lo n : Nat} {d : Nat → Nat} {x : Nat → Elt} {P : Nat → Prop} (hs : Popped s s1)
    (hmode : r.mode ≠ .sr) (hmod : r.m = Modif.none) (hty : r.ty.width = o.w) (hw : isWidth o.w) (hend : perLane o.w ∣ lo + n)
    (hfit : lo + n ≤ perVec o.w) (hd : ∀ j, d j = lo + j) (hcode : ∀ j < n, (r.one 0 (x j)).1 = o.code (lo + j))
    (hP : ∀ l < 32, P l → lo ≤ l * perLane o.w ∧ l * perLane o.w < lo + n ∧ ∀ j < n, laneOf o.w (lo + j) = l → (x j).pz = false) :
    landsOn s (vecFinish s1 o.f r o.lat 0xFFFFFFFF ((List.range n).map (fun j => (d j, x j)))) o P := by
  refine ⟨_, rfl, ?_⟩
  rw [hty]
  refine writeOuts_lands (pz := fun j => (x j).pz) (hs.seed _) hw hend ?_ hP
  rw [roundAll_bare hmode hmod, List.map_map]
  · refine List.map_congr_left fun j hj => ?_
    simp only [Function.comp_def, Rnd.bareOut, hd, hcode j (List.mem_range.1 hj), hmod, Modif.none, Bool.or_false]
  · intro p hp
    obtain ⟨j, hj, rfl⟩ := List.mem_map.1 hp
    have hj := List.mem_range.1 hj
    rw [hw.perVec_eq] at hfit
    rw [hty, hd, laneOf, Nat.div_lt_iff_lt_mul hw.perLane_pos]
    omega

/-- An instruction of one source goes on, on all lanes, with the head of its queue. -/
theorem start1_landsOn {s : State} {f : XVec} {w n : Nat} {k : State → Vin → W32 → Effect} {o : ElemOp} {P : Nat → Prop} (hmd : f.md = none)
    (hd : legalDest f w) (ha : ready s f.qa n) (h : ∀ s1, Popped s s1 → landsOn s (k s1 (headVin s f.qa n) 0xFFFFFFFF) o P) :
    landsOn s (vecStart s f w (fun act => pop1 s f.qa n (fun s a => k s a act))) o P := by
  obtain ⟨s1, hs, hpop⟩ := pop1_ready ha (fun s a => k s a 0xFFFFFFFF)
  rw [vecStart_plain hmd hd, hpop]
  exact h s1 hs

/-- An instruction of two sources goes on, on all lanes, with the heads of its queues. -/
theorem start2_landsOn {s : State} {f : XVec} {w n : Nat} {k : State → Vin → Vin → W32 → Effect} {o : ElemOp} {P : Nat → Prop} (hmd : f.md = none)
    (hd : legalDest f w) (ha : ready s f.qa n) (hb : ready s f.qb n)
    (h : ∀ s1, Popped s s1 → landsOn s (k s1 (headVin s f.qa n) (headVin s f.qb n) 0xFFFFFFFF) o P) :
    landsOn s (vecStart s f w (fun act => pop2 s f.qa f.qb n (fun s a b => k s a b act))) o P := by
  obtain ⟨s1, hs, hpop⟩ := pop2_ready ha hb (fun s a b => k s a b 0xFFFFFFFF)
  rw [vecStart_plain hmd hd, hpop]
  exact h s1 hs

/-- The rounding of an instruction without a modifier word. -/
theorem rndOf_plain {s s1 : State} {f : XVec} (hs : Popped s s1) (hmd : f.md = none) (t : Ety) {mode : Rm} (hmode : mode ≠ .sr) (fromFp : Bool) :
    PlainRnd s (rndOf s1 f t mode fromFp) :=
  ⟨by rw [rndOf, hmd]; rfl, hmode, hs.fzo⟩

/-- An instruction whose effect completes does so. -/
theorem completes_of_landsOn {i : Instr} {s : State} {o : ElemOp} {x : Effect} {P Q : Nat → Prop} (hi : exec i s = s.issue .x x) (h : landsOn s x o P)
    (hQ : ∀ l < 32, Q l → P l) : completes i s fun t => ∀ l < 32, Q l → laneHolds s t o l := by
  obtain ⟨t, rfl, ht⟩ := h
  refine ⟨_, hi, fun l hl hq => laneHolds_mono (fun p hp => ?_) (ht l hl (hQ l hl hq))⟩
  rwa [State.cur_modCur, Core.issued_pend]

end Sys2Proof.Machine
end

section
/-! PROOFS. Vector arithmetic (O27, first clause): floating point, integers, bitwise operations, shifts and counts (R24 to R26, R129 to R135). -/

namespace Sys2Proof.Machine

open Sys2Proof.Claim

/-! The shape of the proof: an instruction of the table completes, and its clean lanes receive the table's codes. -/

/-- What the claim says of one instruction of the table. -/
def Elementwise (i : Instr) (s : State) (o : ElemOp) : Prop :=
  o.f.md = none → o.third = none → legalDest o.f o.w → o.stochastic = false →
    (∀ h, vecShape i = some h → ready s o.f.qa h.pops ∧ (o.two = true → ready s o.f.qb h.pops)) →
    completes i s fun t => ∀ l < 32, (∀ h, vecShape i = some h →
        qPoison s o.f.qa (if h.pops = 2 then 64 else 32) l = false ∧ (o.two = true → qPoison s o.f.qb (if h.pops = 2 then 64 else 32) l = false)) →
      laneHolds s t o l

/-- A lane whose sources are unpoisoned, for an instruction that takes `n` entries of each queue. -/
def cleanLane (s : State) (o : ElemOp) (n l : Nat) : Prop :=
  qPoison s o.f.qa (if n = 2 then 64 else 32) l = false ∧ (o.two = true → qPoison s o.f.qb (if n = 2 then 64 else 32) l = false)

/-- It is enough that the effect lands on the clean lanes. -/
theorem elementwise_of_landsOn {i : Instr} {s : State} {o : ElemOp} {x : Effect} {sh : VecShape} (hi : exec i s = s.issue .x x) (hsh : vecShape i = some sh)
    (h : o.f.md = none → o.third = none → legalDest o.f o.w → o.stochastic = false → ready s o.f.qa sh.pops → (o.two = true → ready s o.f.qb sh.pops) →
      landsOn s x o (cleanLane s o sh.pops)) : Elementwise i s o := by
  intro hmd hthird hd hst hready
  obtain ⟨ha, hb⟩ := hready sh hsh
  exact completes_of_landsOn hi (h hmd hthird hd hst ha hb) fun l _ hq => hq sh hsh

/-- The elements of a whole vector, rounded on active lanes, reach the lanes of `P`. -/
theorem vecFinish_allLanes {s s1 : State} {o : ElemOp} {r : Rnd} {x : Nat → Elt} {P : Nat → Prop} (hs : Popped s s1) (hr : PlainRnd s r)
    (hty : r.ty.width = o.w) (hw : isWidth o.w) (hcode : ∀ j, finishCode s r.ty r.mode r.fromFp (x j).v = o.code j)
    (hP : ∀ l, P l → ∀ j, laneOf o.w j = l → (x j).pz = false) :
    landsOn s (vecFinish s1 o.f r o.lat 0xFFFFFFFF ((List.range (perVec o.w)).map (fun j => (j, x j)))) o P := by
  refine vecFinish_lands (lo := 0) hs hr.noDraw hr.noMod hty hw ?_ (by omega) (fun j => (zero_add j).symm) (fun j _ => ?_) fun l hl hPl => ⟨by omega, ?_, fun j _ hj => ?_⟩
  · rw [zero_add, hw.perVec_eq]; exact Nat.dvd_mul_left _ _
  · rw [hr.code, zero_add]; exact hcode j
  · rw [zero_add, hw.perVec_eq]; exact Nat.mul_lt_mul_of_pos_right hl hw.perLane_pos
  · exact hP l hPl j (by rwa [zero_add] at hj)

/-- Both sources of an element in a clean lane are unpoisoned. -/
theorem sources_clean {s : State} {o : ElemOp} {n l w j : Nat} (hl : cleanLane s o n l) (htwo : o.two = true) (hj : laneOf w j = l) (hn : 0 < n := by decide) :
    ((headVin s o.f.qa n).poison w j || (headVin s o.f.qb n).poison w j) = false := by
  rw [headVin_poison s _ _ _ hn, headVin_poison s _ _ _ hn, hj, hl.1, hl.2 htwo]
  rfl

/-! Floating point (R129 to R131). -/

theorem fpMode_plain {tr : BitVec 5} (h : (fpMode tr == .sr) = false) : fpMode tr ≠ .sr := by simpa using h

/-- A floating-point source read from the head of its queue. -/
theorem read_head_fp {s s1 : State} (h : Popped s s1) (q : BitVec 3) (tr : BitVec 5) (j : Nat) :
    (Ety.fp (fpType tr)).read s1.cur.fzi ((headVin s q 1).elem (fpType tr).width j) = qRead s q (.fp (fpType tr)) j :=
  read_head h q (.fp (fpType tr)) j one_pos fun h64 => absurd h64 (fpType_narrow tr)

theorem elementwise_fp1 {i : Instr} {s : State} {f : XVec} {lat : Nat} (op : Fmt → Fv → FnVal) (hi : exec i s = s.issue .x (vecF1 s f lat op))
    (hsh : vecShape i = some (shape1 f (fpType f.tr).width lat)) : Elementwise i s (fpElem1 s f lat (fun v => (op (fpType f.tr) v).v)) := by
  refine elementwise_of_landsOn hi hsh fun hmd _ hd hst ha _ => ?_
  rw [show (shape1 f (fpType f.tr).width lat).pops = 1 from if_neg (fpType_narrow f.tr)] at *
  refine start1_landsOn hmd hd ha fun s1 hs => ?_
  refine vecFinish_allLanes (o := fpElem1 s f lat _) hs (rndOf_plain hs hmd _ (fpMode_plain hst) _) rfl (fpType_width f.tr) (fun j => ?_) fun l hl j hj => ?_
  · exact congrArg (fun v => finishCode s (.fp (fpType f.tr)) (fpMode f.tr) true (op (fpType f.tr) v).v) (read_head_fp hs f.qa f.tr j)
  · exact (headVin_poison s f.qa _ j one_pos).trans (hj ▸ hl.1)

theorem elementwise_fp2 {i : Instr} {s : State} {f : XVec} {lat : Nat} (op : Rm → Fv → Fv → Ev) (hi : exec i s = s.issue .x (vecF2 s f lat op))
    (hsh : vecShape i = some (shape2 f (fpType f.tr).width lat)) : Elementwise i s (fpElem2 s f lat (fun a b => (op (fpMode f.tr) a b).1)) := by
  refine elementwise_of_landsOn hi hsh fun hmd _ hd hst ha hb => ?_
  rw [show (shape2 f (fpType f.tr).width lat).pops = 1 from if_neg (fpType_narrow f.tr)] at *
  refine start2_landsOn hmd hd ha (hb rfl) fun s1 hs => ?_
  refine vecFinish_allLanes (o := fpElem2 s f lat _) hs (rndOf_plain hs hmd _ (fpMode_plain hst) _) rfl (fpType_width f.tr) (fun j => ?_) fun l hl j hj => ?_
  · exact congrArg₂ (fun a b => finishCode s (.fp (fpType f.tr)) (fpMode f.tr) true (op (fpMode f.tr) a b).1)
      (read_head_fp hs f.qa f.tr j) (read_head_fp hs f.qb f.tr j)
  · exact sources_clean hl rfl hj

/-- The third source as the model reads it. -/
theorem third_eq (s : State) (ext : BitVec 32) (w : Nat) (sg : Bool) : third s ext w sg = thirdOf s.cur ext w sg := by
  unfold third thirdOf
  by_cases h : ext.toNat / 64 = 0x1FFFFFF
  · rw [if_pos h, if_pos (by omega), show ext.toNat % 64 = ext.toNat - 0x7FFFFFC0 by omega]
  · rw [if_neg h, if_neg (show ¬(0x7FFFFFC0 ≤ ext.toNat ∧ ext.toNat ≤ 0x7FFFFFFF) by omega)]

theorem elementwise_fma {i : Instr} {s : State} {f : XVec} {ext : BitVec 32} (np nb : Bool) (hi : exec i s = s.issue .x (vecFma s f ext np nb))
    (hsh : vecShape i = some (shape2 f (fpType f.tr).width 4)) : Elementwise i s (fpElem3 s f ext np nb) := by
  refine elementwise_of_landsOn hi hsh fun hmd hthird hd hst ha hb => ?_
  rw [show (shape2 f (fpType f.tr).width 4).pops = 1 from if_neg (fpType_narrow f.tr)] at *
  have hthird : (thirdOf s.cur ext (fpType f.tr).width false).2 = none := (congrArg Prod.snd (third_eq s ext _ _)).symm.trans hthird
  refine start2_landsOn hmd hd ha (hb rfl) fun s1 hs => ?_
  refine vecFinish_allLanes (o := fpElem3 s f ext np nb) hs (rndOf_plain hs hmd _ (fpMode_plain hst) _) rfl (fpType_width f.tr) (fun j => ?_) fun l hl j hj => ?_
  · have ht : (Ety.fp (fpType f.tr)).read s1.cur.fzi (thirdOf s.cur ext (fpType f.tr).width false).1
        = if s.cur.fpctl.getLsbD 0 then (fpType f.tr).flushIn ((fpType f.tr).decode (third s ext (fpType f.tr).width false).1)
          else (fpType f.tr).decode (third s ext (fpType f.tr).width false).1 := by
      rw [third_eq, hs.fzi]; rfl
    refine Eq.trans ?_ (congrArg₂ (fun a b => finishCode s (.fp (fpType f.tr)) (fpMode f.tr) true (fmaV (fpMode f.tr = .rdn) np nb a _ b).1)
      (read_head_fp hs f.qa f.tr j) (read_head_fp hs f.qb f.tr j))
    exact congrArg (fun t => finishCode s (.fp (fpType f.tr)) (fpMode f.tr) true (fmaV (fpMode f.tr = .rdn) np nb _ t _).1) ht
  · change ((headVin s f.qa 1).poison _ j || (headVin s f.qb 1).poison _ j || (thirdOf s.cur ext (fpType f.tr).width false).2.isSome) = false
    rw [hthird, Option.isSome_none, Bool.or_false]
    exact sources_clean hl rfl hj

/-- VCLASS rounds nothing. -/
theorem elementwise_class {s : State} {f : XVec} :
    Elementwise (.vclass f) s ⟨f, (fpType f.tr).width, 2, false, fun j => 2 ^ classNo (fpType f.tr) ((fpType f.tr).decode (qElem s f.qa (fpType f.tr).width j)), none, false⟩ := by
  refine elementwise_of_landsOn (sh := shape1 f (fpType f.tr).width 2) rfl rfl fun hmd _ hd _ ha _ => ?_
  rw [show (shape1 f (fpType f.tr).width 2).pops = 1 from if_neg (fpType_narrow f.tr)] at *
  have hw := fpType_width f.tr
  refine start1_landsOn hmd hd ha fun s1 hs => ⟨_, rfl, ?_⟩
  have hall : (List.range (perVec (fpType f.tr).width)).filter (fun j => bitAt (0xFFFFFFFF : W32) (laneOf (fpType f.tr).width j)) = List.range (perVec (fpType f.tr).width) :=
    List.filter_eq_self.2 fun j hj => bitAt_allLanes (by
      rw [laneOf, Nat.div_lt_iff_lt_mul hw.perLane_pos, ← hw.perVec_eq]
      exact List.mem_range.1 hj)
  rw [hall]
  refine writeOuts_lands (o := ⟨f, (fpType f.tr).width, 2, false, _, none, false⟩) (lo := 0) (n := perVec (fpType f.tr).width)
    (pz := fun j => (headVin s f.qa 1).poison (fpType f.tr).width j) hs hw ?_ ?_ fun l hl hPl => ⟨by omega, ?_, fun j _ hj => ?_⟩
  · rw [zero_add, hw.perVec_eq]; exact Nat.dvd_mul_left _ _
  · rw [List.map_map]
    refine List.map_congr_left fun j _ => ?_
    simp only [Function.comp_def, Out.bare, headVin_elem s f.qa j one_pos fun h64 => absurd h64 (fpType_narrow f.tr), zero_add]
    rfl
  · rw [zero_add, hw.perVec_eq]; exact Nat.mul_lt_mul_of_pos_right hl hw.perLane_pos
  · rw [zero_add] at hj
    exact (headVin_poison s f.qa _ j one_pos).trans (hj ▸ hPl.1)

/-! Integers (R15, R134, R135). -/

/-- A value is its pattern modulo 2^w. -/
theorem intVal_emod (w : Nat) (sg : Bool) (c : Nat) : intVal w sg c % 2 ^ w = ((c % 2 ^ w : Nat) : Int) := by
  have hnat : ((c % 2 ^ w : Nat) : Int) % 2 ^ w = ((c % 2 ^ w : Nat) : Int) := by
    rw [Int.natCast_mod, Nat.cast_pow, Nat.cast_ofNat, Int.emod_emod_of_dvd _ dvd_rfl]
  unfold intVal
  dsimp only
  split
  · rw [Int.sub_emod_right, hnat]
  · exact hnat

theorem pat_intVal (w : Nat) (sg : Bool) (c : Nat) : pat w (intVal w sg c) = c % 2 ^ w := by
  rw [pat, intVal_emod, Int.toNat_natCast]

/-- An element fits its width. -/
theorem qElem_lt {w : Nat} (hw : isWidth w) (s : State) (q : BitVec 3) (j : Nat) : qElem s q w j < 2 ^ w := by
  unfold qElem
  dsimp only
  split
  · next h64 =>
    subst h64
    have hlo := (((s.cur.queue q.toNat).getD 0 ⟨[], [], 0, 0⟩).lanes.getD j 0).isLt
    have hhi := (((s.cur.queue q.toNat).getD 1 ⟨[], [], 0, 0⟩).lanes.getD j 0).isLt
    omega
  · exact Nat.mod_lt _ (by positivity)

/-- An unsigned value is its pattern. -/
theorem intVal_unsigned {w c : Nat} (h : c < 2 ^ w) : intVal w false c = c := by simp [intVal, Nat.mod_eq_of_lt h]

/-- What the claims read of an integer source is its value. -/
theorem intElem_code (s : State) (f : XVec) {ws : Nat} (hws : isWidth ws) (w lat : Nat) (sg two : Bool) (t : Option PRec) (op : Int → Int → Int) (j : Nat) :
    (intElem s f ws w lat sg two t op).code j
      = pat w (op (intVal ws sg (qElem s f.qa ws j)) (if two then intVal ws sg (qElem s f.qb ws j) else 0)) := by
  simp only [intElem, intVal, Nat.mod_eq_of_lt (qElem_lt hws s _ j), pat]

/-- An integer result is taken modulo 2^w. -/
theorem finishCode_ofInt (s : State) (w : Nat) (sg : Bool) (mode : Rm) (x : Int) : finishCode s (.int w sg) mode false (Fv.ofInt x) = pat w x := by
  have hx : (roundIntV mode 0 (decide (x < 0)) x.natAbs 0).1 = x := by
    rw [roundIntV_zero]
    by_cases h : x < 0
    · rw [decide_eq_true h, if_pos rfl]; omega
    · rw [decide_eq_false h, if_neg Bool.false_ne_true]; omega
  simp only [finishCode, Fv.ofInt, hx, Bool.false_eq_true, if_false]
  rfl

/-- An integer instruction: the results are the operation on the values of the sources, modulo 2^w. -/
theorem elementwise_int {i : Instr} {s : State} {f : XVec} {w wd lat : Nat} {sg two : Bool} {t : Int × Option PRec} {op : Int → Int → Int → Int} {code : Nat → Nat}
    (hi : exec i s = s.issue .x (vecI s f w wd sg lat two t op)) (hsh : vecShape i = some ⟨f, wd, entries w, two, lat, true, true⟩) (hw : isWidth w)
    (hwd : isWidth wd) (hlane : perLane w = perLane wd)
    (hcode : ∀ j, code j = pat wd (op (intVal w sg (qElem s f.qa w j)) (intVal w sg (qElem s (if two then f.qb else f.qa) w j)) t.1)) :
    Elementwise i s ⟨f, wd, lat, two, code, t.2, false⟩ := by
  refine elementwise_of_landsOn hi hsh fun hmd hthird hd _ ha hb => ?_
  have hlaneOf (j : Nat) : laneOf w j = laneOf wd j := by rw [laneOf, laneOf, hlane]
  have hvec : perVec w = perVec wd := by rw [hw.perVec_eq, hwd.perVec_eq, hlane]
  have ht : t.2 = none := hthird
  have hval (q : BitVec 3) (j : Nat) : intVal w sg ((headVin s q (entries w)).elem w j) = intVal w sg (qElem s q w j) := by
    rw [headVin_elem s q j (entries_pos w) entries_wide]
  cases two with
  | true =>
    simp only [vecI, if_true]
    refine start2_landsOn hmd hd ha (hb rfl) fun s1 hs => ?_
    rw [hvec]
    refine vecFinish_allLanes (o := ⟨f, wd, lat, true, code, t.2, false⟩) hs (rndOf_plain hs hmd _ (intMode_plain _) _) rfl hwd (fun j => ?_) fun l hl j hj => ?_
    · refine (finishCode_ofInt s wd sg _ _).trans ?_
      rw [hval, hval]
      exact (hcode j).symm
    · rw [ht, Option.isSome_none, Bool.or_false]
      exact sources_clean hl rfl ((hlaneOf j).trans hj) (entries_pos w)
  | false =>
    simp only [vecI, Bool.false_eq_true, if_false]
    refine start1_landsOn hmd hd ha fun s1 hs => ?_
    rw [hvec]
    refine vecFinish_allLanes (o := ⟨f, wd, lat, false, code, t.2, false⟩) hs (rndOf_plain hs hmd _ (intMode_plain _) _) rfl hwd (fun j => ?_) fun l hl j hj => ?_
    · refine (finishCode_ofInt s wd sg _ _).trans ?_
      rw [hval]
      exact (hcode j).symm
    · rw [ht, Option.isSome_none, Bool.or_false, Bool.or_self]
      exact (headVin_poison s f.qa w j (entries_pos w)).trans ((hlaneOf j).trans hj ▸ hl.1)

/-- Two sources of one type. -/
theorem elementwise_int2 {i : Instr} {s : State} {f : XVec} {lat : Nat} {op : Nat → Bool → Int → Int → Int} {o : ElemOp}
    (hi : exec i s = s.issue .x (vecI2 s f lat op)) (hsh : vecShape i = some (shape2 f (intType f.tr).1 lat))
    (ho : o = ⟨f, (intType f.tr).1, lat, true, o.code, none, false⟩)
    (hcode : ∀ j, o.code j = pat (intType f.tr).1 (op (intType f.tr).1 (intType f.tr).2 (intVal (intType f.tr).1 (intType f.tr).2 (qElem s f.qa (intType f.tr).1 j))
      (intVal (intType f.tr).1 (intType f.tr).2 (qElem s f.qb (intType f.tr).1 j)))) : Elementwise i s o := by
  rw [ho]
  exact elementwise_int (t := (0, none)) (op := fun a b _ => op (intType f.tr).1 (intType f.tr).2 a b) hi hsh (intType_width _) (intType_width _) rfl hcode

/-- One source. -/
theorem elementwise_int1 {i : Instr} {s : State} {f : XVec} {op : Nat → Int → Int} {o : ElemOp}
    (hi : exec i s = s.issue .x (vecI1 s f op)) (hsh : vecShape i = some (shape1 f (intType f.tr).1 2))
    (ho : o = ⟨f, (intType f.tr).1, 2, false, o.code, none, false⟩)
    (hcode : ∀ j, o.code j = pat (intType f.tr).1 (op (intType f.tr).1 (intVal (intType f.tr).1 (intType f.tr).2 (qElem s f.qa (intType f.tr).1 j)))) :
    Elementwise i s o := by
  rw [ho]
  exact elementwise_int (t := (0, none)) (op := fun a _ _ => op (intType f.tr).1 a) hi hsh (intType_width _) (intType_width _) rfl hcode

/-- A bitwise operation is one on the patterns. -/
theorem pat_bitOp {g : Nat → Nat → Nat} {w a b : Nat} (sg : Bool) (ha : a < 2 ^ w) (hb : b < 2 ^ w) (hg : g a b < 2 ^ w) :
    pat w (bitOp g w sg (intVal w sg a) (intVal w sg b)) = g a b := by
  rw [bitOp, pat_intVal, pat_intVal, pat_intVal, Nat.mod_eq_of_lt ha, Nat.mod_eq_of_lt hb, Nat.mod_eq_of_lt hg]

/-- A product modulo 2^w depends on its factor modulo 2^w. -/
theorem pat_intVal_mul (w : Nat) (sg : Bool) (c : Nat) (k : Int) : pat w (intVal w sg c * k) = pat w (intVal w false c * k) := by
  rw [pat, pat, Int.mul_emod, intVal_emod, ← intVal_emod w false, ← Int.mul_emod]

/-- Counting the set bits from the top or over all places is the same. -/
theorem popNat_eq_countP (n k : Nat) : popNat n k = (List.range k).countP (fun i => n.testBit i) := by
  induction k with
  | zero => rfl
  | succ k ih =>
    rw [popNat, List.range_succ, List.countP_append, ih, List.countP_singleton, Nat.testBit_eq_decide_div_mod_eq, Nat.add_comm]
    simp

/-- The claims' codes of two-source operations on values. -/
theorem elementwise_intElem2 {i : Instr} {s : State} {f : XVec} {lat : Nat} {op : Nat → Bool → Int → Int → Int} {op' : Int → Int → Int}
    (hi : exec i s = s.issue .x (vecI2 s f lat op)) (hsh : vecShape i = some (shape2 f (intType f.tr).1 lat))
    (hop : ∀ a b, op (intType f.tr).1 (intType f.tr).2 a b = op' a b) :
    Elementwise i s (intElem s f (intType f.tr).1 (intType f.tr).1 lat (intType f.tr).2 true none op') :=
  elementwise_int2 (f := f) hi hsh rfl fun j => by rw [intElem_code s f (intType_width _), hop]; rfl

/-- Bitwise operations. -/
theorem elementwise_bits {i : Instr} {s : State} {f : XVec} {g : Nat → Nat → Nat} (hi : exec i s = s.issue .x (vecI2 s f 2 (bitOp g)))
    (hsh : vecShape i = some (shape2 f (intType f.tr).1 2)) (hg : ∀ w a b : Nat, a < 2 ^ w → b < 2 ^ w → g a b < 2 ^ w) :
    Elementwise i s { intElem s f (intType f.tr).1 (intType f.tr).1 2 false true none (fun _ _ => 0) with
      code := fun j => g (qElem s f.qa (intType f.tr).1 j) (qElem s f.qb (intType f.tr).1 j) } :=
  elementwise_int2 (f := f) hi hsh rfl fun j => by
    have ha := qElem_lt (intType_width f.tr) s f.qa j
    have hb := qElem_lt (intType_width f.tr) s f.qb j
    exact (pat_bitOp _ ha hb (hg _ _ _ ha hb)).symm

/-- Left shifts: the value's sign does not matter modulo 2^w. -/
theorem elementwise_shl {s : State} {f : XVec} : Elementwise (.vshl f) s
    (intElem s f (intType f.tr).1 (intType f.tr).1 2 false true none (fun a b => a * 2 ^ (b.toNat % (intType f.tr).1))) :=
  elementwise_int2 (op := fun w _ a b => a * 2 ^ (pat w b % w)) rfl rfl rfl fun j => by
    have hb := qElem_lt (intType_width f.tr) s f.qb j
    rw [intElem_code s f (intType_width _), if_pos rfl, intVal_unsigned hb, Int.toNat_natCast, pat_intVal, Nat.mod_eq_of_lt hb,
      pat_intVal_mul _ (intType f.tr).2]

/-- Logical right shifts of the pattern. -/
theorem elementwise_shr {s : State} {f : XVec} : Elementwise (.vshr f) s
    (intElem s f (intType f.tr).1 (intType f.tr).1 2 false true none (fun a b => a / 2 ^ (b.toNat % (intType f.tr).1))) :=
  elementwise_int2 (op := fun w sg a b => intVal w sg (pat w a / 2 ^ (pat w b % w))) rfl rfl rfl fun j => by
    have ha := qElem_lt (intType_width f.tr) s f.qa j
    have hb := qElem_lt (intType_width f.tr) s f.qb j
    rw [intElem_code s f (intType_width _), if_pos rfl, intVal_unsigned ha, intVal_unsigned hb, Int.toNat_natCast, pat_intVal, pat_intVal, pat_intVal,
      Nat.mod_eq_of_lt ha, Nat.mod_eq_of_lt hb, pat]
    norm_cast

/-- Counts of leading zeros and of ones. -/
theorem elementwise_count {i : Instr} {s : State} {f : XVec} {count : Nat → Nat → Nat} {op : Int → Int → Int} (hi : exec i s = s.issue .x (vecI1 s f (fun w a => (count w (pat w a) : Int))))
    (hsh : vecShape i = some (shape1 f (intType f.tr).1 2)) (hop : ∀ (n : Nat) (b : Int), op n b = count (intType f.tr).1 n) :
    Elementwise i s (intElem s f (intType f.tr).1 (intType f.tr).1 2 false false none op) :=
  elementwise_int1 (f := f) hi hsh rfl fun j => by
    have ha := qElem_lt (intType_width f.tr) s f.qa j
    rw [intElem_code s f (intType_width _), intVal_unsigned ha, hop, pat_intVal, Nat.mod_eq_of_lt ha]

/-- Two sources and a third one, as values of one signedness. -/
theorem elementwise_intElem3 {i : Instr} {s : State} {f : XVec} {w wd lat : Nat} {sg : Bool} (t : Int × Option PRec) (op : Int → Int → Int → Int)
    (hi : exec i s = s.issue .x (vecI s f w wd sg lat true t op)) (hsh : vecShape i = some ⟨f, wd, entries w, true, lat, true, true⟩) (hw : isWidth w)
    (hwd : isWidth wd) (hlane : perLane w = perLane wd) : Elementwise i s (intElem s f w wd lat sg true t.2 (fun a b => op a b t.1)) :=
  elementwise_int (code := (intElem s f w wd lat sg true t.2 (fun a b => op a b t.1)).code) hi hsh hw hwd hlane fun j => by
    rw [intElem_code s f hw]; rfl

/-- Widening operations: 32-bit sources, 64-bit results. -/
theorem elementwise_wide {i : Instr} {s : State} {f : XVec} (t : Int × Option PRec) (op : Int → Int → Int → Int)
    (hi : exec i s = s.issue .x (vecI s f 32 64 (intType f.tr).2 4 true t op)) (hsh : vecShape i = some ⟨f, 64, 1, true, 4, true, true⟩) :
    Elementwise i s (intElem s f 32 64 4 (intType f.tr).2 true t.2 (fun a b => op a b t.1)) :=
  elementwise_intElem3 t op hi hsh (.inr (.inr (.inr (.inl rfl)))) (.inr (.inr (.inr (.inr rfl)))) rfl

/-- Every instruction of the table of vector arithmetic. -/
theorem elementwise_of_elemOp {i : Instr} {s : State} {o : ElemOp} (h : elemOp s i = some o) : Elementwise i s o := by
  cases i with
  | vadd f => cases h; exact elementwise_fp2 (fun m a b => addV (m = .rdn) a b) rfl rfl
  | vsub f => cases h; exact elementwise_fp2 (fun m a b => addV (m = .rdn) a b.neg) rfl rfl
  | vmul f => cases h; exact elementwise_fp2 (fun _ a b => mulV a b) rfl rfl
  | vfma f ext => cases h; exact elementwise_fma false false rfl rfl
  | vfms f ext => cases h; exact elementwise_fma false true rfl rfl
  | vfnma f ext => cases h; exact elementwise_fma true false rfl rfl
  | vmin f => cases h; exact elementwise_fp2 (fun _ a b => minmaxV false a b) rfl rfl
  | vmax f => cases h; exact elementwise_fp2 (fun _ a b => minmaxV true a b) rfl rfl
  | vminnum f => cases h; exact elementwise_fp2 (fun _ a b => minmaxNumV false a b) rfl rfl
  | vmaxnum f => cases h; exact elementwise_fp2 (fun _ a b => minmaxNumV true a b) rfl rfl
  | vrcp f => cases h; exact elementwise_fp1 rcpV rfl rfl
  | vrsq f => cases h; exact elementwise_fp1 rsqV rfl rfl
  | vsqrt f => cases h; exact elementwise_fp1 (fun _ v => sqrtFn v) rfl rfl
  | vexp2 f => cases h; exact elementwise_fp1 exp2V rfl rfl
  | vlog2 f => cases h; exact elementwise_fp1 log2V rfl rfl
  | vclass f => cases h; exact elementwise_class
  | viadd f => cases h; exact elementwise_intElem2 (op := fun _ _ a b => a + b) rfl rfl fun _ _ => rfl
  | visub f => cases h; exact elementwise_intElem2 (op := fun _ _ a b => a - b) rfl rfl fun _ _ => rfl
  | vimul f => cases h; exact elementwise_intElem2 (op := fun _ _ a b => a * b) rfl rfl fun _ _ => rfl
  | vimulh f => cases h; exact elementwise_intElem2 (op := fun w _ a b => a * b / 2 ^ w) rfl rfl fun _ _ => rfl
  | vimad f ext =>
    cases h
    rw [third_eq]
    exact elementwise_intElem3 (intThird s ext (intType f.tr).1 (intType f.tr).2) (fun a b t => a * t + b) rfl rfl (intType_width _) (intType_width _) rfl
  | viaddw f => cases h; exact elementwise_wide (0, none) (fun a b _ => a + b) rfl rfl
  | vimadw f ext =>
    cases h
    rw [third_eq]
    exact elementwise_wide (intThird s ext 32 (intType f.tr).2) (fun a b t => a * t + b) rfl rfl
  | vand f => cases h; exact elementwise_bits rfl rfl fun _ _ _ ha _ => Nat.and_lt_two_pow _ ‹_›
  | vor f => cases h; exact elementwise_bits rfl rfl fun _ _ _ => Nat.or_lt_two_pow
  | vxor f => cases h; exact elementwise_bits rfl rfl fun _ _ _ => Nat.xor_lt_two_pow
  | vshl f => cases h; exact elementwise_shl
  | vshr f => cases h; exact elementwise_shr
  | vsra f => cases h; exact elementwise_intElem2 (op := fun w _ a b => a / 2 ^ (pat w b % w)) rfl rfl fun _ _ => rfl
  | vimin f => cases h; exact elementwise_intElem2 (op := fun _ _ a b => min a b) rfl rfl fun _ _ => rfl
  | vimax f => cases h; exact elementwise_intElem2 (op := fun _ _ a b => max a b) rfl rfl fun _ _ => rfl
  | vclz f =>
    cases h
    refine elementwise_count (count := clzNat) rfl rfl fun n _ => ?_
    simp only [clzNat, Int.natCast_eq_zero, Int.toNat_natCast]
    split <;> rfl
  | vpopc f => cases h; exact elementwise_count (count := fun w n => popNat n w) rfl rfl fun n _ => by rw [popNat_eq_countP, Int.toNat_natCast]
  | _ => cases h

/-- Vector arithmetic. -/
theorem vectorArithmetic : Claim.VectorArithmetic := fun _ _ _ h => elementwise_of_elemOp h

end Sys2Proof.Machine
end

section
/-! PROOFS. Conversions, block formats, scans and reductions (O27, second clause; R16, R17, R27, R136 to R141). -/

namespace Sys2Proof.Machine

open Sys2Proof.Claim

/-! The shape of the proof: an instruction of the table completes, and the lanes of its range receive the table's codes. -/

/-- What the claim says of one instruction of the table. -/
def WholeLanes (i : Instr) (s : State) (o : ElemOp) (lo n : Nat) : Prop :=
  o.f.md = none → o.third = none → legalDest o.f o.w → o.stochastic = false →
    (∀ h, vecShape i = some h → h.ok = true ∧ ready s o.f.qa h.pops ∧ ∀ e ∈ (s.cur.queue o.f.qa.toNat).take h.pops, ∀ b ∈ e.pz, b = false) →
    completes i s fun t => ∀ l < 32, lo ≤ l * perLane o.w → l * perLane o.w < lo + n → laneHolds s t o l

/-- The lanes of `n` elements from `lo` on. -/
def inRange (w lo n l : Nat) : Prop := lo ≤ l * perLane w ∧ l * perLane w < lo + n

/-- The first `n` entries of a queue have no poisoned lane. -/
def cleanHead (s : State) (q : BitVec 3) (n : Nat) : Prop := ∀ e ∈ (s.cur.queue q.toNat).take n, ∀ b ∈ e.pz, b = false

/-- It is enough that the effect lands on the lanes of the range. -/
theorem wholeLanes_of_landsOn {i : Instr} {s : State} {o : ElemOp} {lo n : Nat} {x : Effect} {sh : VecShape} (hi : exec i s = s.issue .x x)
    (hsh : vecShape i = some sh)
    (h : o.f.md = none → o.third = none → legalDest o.f o.w → o.stochastic = false → sh.ok = true → ready s o.f.qa sh.pops → cleanHead s o.f.qa sh.pops →
      landsOn s x o (inRange o.w lo n)) : WholeLanes i s o lo n := by
  intro hmd hthird hd hst hsrc
  obtain ⟨hok, hready, hclean⟩ := hsrc sh hsh
  obtain ⟨t, ht, hlanes⟩ := completes_of_landsOn hi (h hmd hthird hd hst hok hready hclean) fun l _ hl => hl
  exact ⟨t, ht, fun l hl hlo hhi => hlanes l hl ⟨hlo, hhi⟩⟩

/-! Conversions (R136, R137). -/

/-- The part of the wider vector that a conversion reads or writes lies in it. -/
theorem part_fits {es ed part : Nat} (h : part < max es ed / min es ed) : (if es ≤ ed then part * min es ed else 0) + min es ed ≤ ed := by
  split
  · next hle =>
    rw [max_eq_right hle, min_eq_left hle] at *
    calc part * es + es = (part + 1) * es := by ring
      _ ≤ ed / es * es := Nat.mul_le_mul_right _ h
      _ ≤ ed := Nat.div_mul_le_self _ _
  · omega

/-- A conversion of `n` elements from source element `s0` on to destination element `d0` on, once its part is legal. -/
def convert (s : State) (f : XVec) (ts td : Ety) (s0 d0 n : Nat) : Effect :=
  vecStart s f td.width (fun act => pop1 s f.qa (entries ts.width) (fun s a =>
    vecFinish s f (rndOf s f td (fpMode f.tr) ts.isFp) 3 act
      ((List.range n).map (fun j =>
        (d0 + j, ⟨ts.read s.cur.fzi (a.elem ts.width (s0 + j)), false, { FpFlags.none with iv := (ts.read s.cur.fzi (a.elem ts.width (s0 + j))).isSig },
          a.poison ts.width (s0 + j)⟩)))))

/-- VCVT with a legal part converts as many elements as the narrower of both vectors holds. -/
theorem vcvt_eq (s : State) (f : XVec) (ext : BitVec 32) {ts td : Ety} {part : Nat} (hts : cvtType (fld ext 8 4).toNat = ts)
    (htd : cvtType (fld ext 12 4).toNat = td) (hp : (fld ext 4 3).toNat = part)
    (h : part < max (perVec ts.width) (perVec td.width) / min (perVec ts.width) (perVec td.width)) :
    vcvt s f ext = convert s f ts td (if perVec ts.width ≤ perVec td.width then 0 else part * min (perVec ts.width) (perVec td.width))
      (if perVec ts.width ≤ perVec td.width then part * min (perVec ts.width) (perVec td.width) else 0) (min (perVec ts.width) (perVec td.width)) := by
  subst hts htd hp
  rw [vcvt, if_neg (Nat.not_lt.2 (Nat.le_sub_one_of_lt h))]
  split
  · next hle => rw [min_eq_left hle]; rfl
  · next hle => rw [min_eq_right (Nat.le_of_not_le hle)]; rfl

/-- The table's row of such a conversion. -/
def convertElem (s : State) (f : XVec) (ts td : Ety) (s0 d0 : Nat) : ElemOp :=
  ⟨f, td.width, 3, false, fun j => finishCode s td (fpMode f.tr) ts.isFp (qRead s f.qa ts (s0 + (j - d0))), none, fpMode f.tr == .sr⟩

theorem convert_lands {s : State} {f : XVec} {ts td : Ety} {s0 d0 n : Nat} (hmd : f.md = none) (hd : legalDest f td.width)
    (hmode : fpMode f.tr ≠ .sr) (hwd : isWidth td.width) (ha : ready s f.qa (entries ts.width)) (hclean : cleanHead s f.qa (entries ts.width))
    (hend : perLane td.width ∣ d0 + n) (hfit : d0 + n ≤ perVec td.width) :
    landsOn s (convert s f ts td s0 d0 n) (convertElem s f ts td s0 d0) (inRange td.width d0 n) := by
  refine start1_landsOn hmd hd ha fun s1 hs => ?_
  have hr := rndOf_plain hs hmd td hmode ts.isFp
  refine vecFinish_lands (o := convertElem s f ts td s0 d0) hs hr.noDraw hr.noMod rfl hwd hend hfit (fun _ => rfl) (fun j _ => ?_)
    fun l _ hl => ⟨hl.1, hl.2, fun j _ _ => headVin_clean hclean _ _⟩
  rw [hr.code, convertElem]
  dsimp only
  rw [Nat.add_sub_cancel_left, ← read_head hs f.qa ts _ (entries_pos _) entries_wide]
  rfl

theorem wholeLanes_cvt {s : State} {f : XVec} {ext : BitVec 32} {o : ElemOp} {lo n : Nat} (h : wholeOp s (.vcvt f ext) = some (o, lo, n)) :
    WholeLanes (.vcvt f ext) s o lo n := by
  cases h
  refine wholeLanes_of_landsOn (x := vcvt s f ext) rfl rfl fun hmd _ hd hst hok ha hclean => ?_
  have hpart := of_decide_eq_true hok
  have hws := cvtType_width (fld ext 8 4).toNat
  have hwd := cvtType_width (fld ext 12 4).toNat
  have hn : perLane (cvtType (fld ext 12 4).toNat).width ∣ min (perVec (cvtType (fld ext 8 4).toNat).width) (perVec (cvtType (fld ext 12 4).toNat).width) := by
    rw [hws.perVec_eq, hwd.perVec_eq, Nat.mul_min_mul_left]
    exact hwd.perLane_dvd.mul_right _
  rw [vcvt_eq s f ext rfl rfl rfl hpart]
  refine convert_lands hmd hd (fpMode_plain hst) hwd ha hclean (Nat.dvd_add ?_ hn) (part_fits hpart)
  split
  · exact hn.mul_left _
  · exact Nat.dvd_zero _

/-! Block formats (R16, R17, R138, R139). -/

theorem mxElem_narrow (c : Nat) : (mxElem c).width ≠ 64 := by
  unfold mxElem
  split <;> decide

/-- Decoding a block of `elem` from part `part` of the source with the scale code in `sc`, once its part is legal. -/
def dequantise (s : State) (f : XVec) (elem : Fmt) (part : Nat) (sc : Tagged 64) : Effect :=
  vecStart s f 32 (fun act => pop1 s f.qa 1 (fun s a =>
    vecFinish s f ⟨.fp .f32, fpMode f.tr, Modif.none, false, true⟩ 4 act
      ((List.range 32).map (fun i =>
        (i, ⟨(mxEv (sc.v.toNat / 2 ^ (8 * part) % 256) (elem.decode (a.elem elem.width (32 * part + i)))).1, false,
          { FpFlags.none with iv := (mxEv (sc.v.toNat / 2 ^ (8 * part) % 256) (elem.decode (a.elem elem.width (32 * part + i)))).2 },
          a.poison elem.width (32 * part + i) || sc.pz.isSome⟩)))))

theorem vdqmx_eq (s : State) (f : XVec) (ext : BitVec 32) (h : (fld ext 0 3).toNat ≤ mxPartMax (mxElem (fld ext 16 2).toNat)) :
    vdqmx s f ext = dequantise s f (mxElem (fld ext 16 2).toNat) (fld ext 0 3).toNat (s.cur.rs (fld ext 8 6).toNat) := by
  rw [vdqmx, if_neg (Nat.not_lt.2 h)]
  rfl

/-- The table's row of decoding a block. -/
def dequantiseElem (s : State) (f : XVec) (elem : Fmt) (part : Nat) (sc : Tagged 64) : ElemOp :=
  ⟨f, 32, 4, false, fun j => (Fmt.f32.round (fpMode f.tr) 0 false false false
    (mulV (e8m0 (sc.v.toNat / 2 ^ (8 * part) % 256)) (elem.decode (qElem s f.qa elem.width (32 * part + j)))).1).code, sc.pz, fpMode f.tr == .sr⟩

/-- Each element of the block with its scale, rounded once. -/
theorem dequantise_lands {s : State} {f : XVec} {elem : Fmt} {part : Nat} {sc : Tagged 64} (hmd : f.md = none) (hd : legalDest f 32)
    (hmode : fpMode f.tr ≠ .sr) (helem : elem.width ≠ 64) (hsc : sc.pz = none) (ha : ready s f.qa 1) (hclean : cleanHead s f.qa 1) :
    landsOn s (dequantise s f elem part sc) (dequantiseElem s f elem part sc) (inRange 32 0 32) := by
  refine start1_landsOn hmd hd ha fun s1 hs => ?_
  refine vecFinish_lands (o := dequantiseElem s f elem part sc) (r := ⟨.fp .f32, fpMode f.tr, Modif.none, false, true⟩) hs hmode rfl rfl
    (.inr (.inr (.inr (.inl rfl)))) (show perLane 32 ∣ 0 + 32 by decide) (show 0 + 32 ≤ perVec 32 by decide) (fun j => (zero_add j).symm) (fun j _ => ?_) fun l _ hl => ⟨hl.1, hl.2, fun j _ _ => ?_⟩
  · rw [headVin_elem s f.qa _ one_pos fun h64 => absurd h64 helem, zero_add]
    exact finishFp_none hmode _ _ _ _ _
  · dsimp only
    rw [headVin_clean hclean, hsc]
    rfl

theorem wholeLanes_dqmx {s : State} {f : XVec} {ext : BitVec 32} {o : ElemOp} {lo n : Nat} (h : wholeOp s (.vdqmx f ext) = some (o, lo, n)) :
    WholeLanes (.vdqmx f ext) s o lo n := by
  cases h
  refine wholeLanes_of_landsOn (x := vdqmx s f ext) rfl rfl fun hmd hthird hd hst hok ha hclean => ?_
  rw [vdqmx_eq s f ext (of_decide_eq_true hok)]
  exact dequantise_lands hmd hd (fpMode_plain hst) (mxElem_narrow _) hthird ha hclean

/-- The scale code of a block. -/
theorem mxQuantise_scale (x : List Fv) (elem : Fmt) (sat : Bool) (mode : Rm) (st : List W32) :
    (mxQuantise x elem sat mode st).1 = if x.any Fv.isNan then 255 else (mxShared elem x + 127).toNat := by
  unfold mxQuantise
  split <;> rfl

theorem mxElement_draw {mode : Rm} (h : mode ≠ .sr) (elem : Fmt) (sat : Bool) (st : W32) (xs : Int) (v : Fv) :
    mxElement elem sat mode st xs v = mxElement elem sat mode 0 xs v := by
  unfold mxElement
  split <;> exact Fmt.round_draw h _ _ _ _ _ _

/-- The element codes of a block, outside stochastic rounding. -/
theorem mxQuantise_code {mode : Rm} (h : mode ≠ .sr) (x : List Fv) (elem : Fmt) (sat : Bool) (st : List W32) {i : Nat} (hi : i < x.length) :
    (mxQuantise x elem sat mode st).2.1.getD i 0
      = if x.any Fv.isNan then 0 else (mxElement elem sat mode 0 (mxShared elem x) (x.getD i (.num false 0 0))).code := by
  unfold mxQuantise
  split
  · simp [hi]
  · simp [hi, mxElement_draw h]

/-- The block that VQMX reads. -/
def mxBlock (s : State) (q : BitVec 3) : List Fv := (List.range 32).map (fun i => Fmt.f32.decode (qElem s q 32 i))

/-- The state after VQMX has encoded an unpoisoned block as `block`: `fl` are the flags of its elements. -/
def afterVqmx (s s1 : State) (f : XVec) (ext : BitVec 32) (block : Nat × List Nat × FpFlags) (fl : Nat → FpFlags) : State :=
  ((writeOuts s1 f (mxElem (fld ext 16 2).toNat).width 6 ((List.range 32).map (fun i => ⟨32 * (fld ext 0 3).toNat + i, block.2.1.getD i 0, fl i, false⟩))).modCur
    (fun c => c.emit .x 6 (.byteOf (fld ext 8 6).toNat (fld ext 0 3).toNat (BitVec.ofNat 8 block.1)
      (s.cur.rs (fld ext 8 6).toNat).v (s.cur.rs (fld ext 8 6).toNat).pz))).bump

/-- VQMX with an unpoisoned block completes. -/
theorem vqmx_done {s : State} {f : XVec} {ext : BitVec 32} (hmd : f.md = none) (hd : legalDest f (mxElem (fld ext 16 2).toNat).width)
    (hpart : (fld ext 0 3).toNat ≤ mxPartMax (mxElem (fld ext 16 2).toNat)) (ha : ready s f.qa 1) (hclean : cleanHead s f.qa 1) :
    ∃ s1 st fl, Popped s s1 ∧
      vqmx s f ext = .done (afterVqmx s s1 f ext (mxQuantise (mxBlock s f.qa) (mxElem (fld ext 16 2).toNat) (bitAt ext 18) (fpMode f.tr) st) fl) := by
  have hblock : (List.range 32).map (fun i => Fmt.f32.decode ((headVin s f.qa 1).elem 32 i)) = mxBlock s f.qa :=
    List.map_congr_left fun i _ => by rw [headVin_elem s f.qa i one_pos (by decide)]
  have hpz : (headVin s f.qa 1).pz.any id = false := List.any_eq_false.2 fun b hb => by rw [headVin_lanes hclean b hb]; decide
  have hgo (k : State → Vin → Effect) : ∃ s1, Popped s s1 ∧ (vecStart s f (mxElem (fld ext 16 2).toNat).width fun _ => pop1 s f.qa 1 k) = k s1 (headVin s f.qa 1) := by
    rw [vecStart_plain hmd hd]
    exact pop1_ready ha k
  rw [vqmx, if_neg (Nat.not_lt.2 hpart)]
  obtain ⟨s1, hs, he⟩ := hgo _
  rw [he, hblock, hpz]
  generalize mxQuantise = encode
  generalize drawAll = draw
  -- A lemma of its own, in which `encode` and `draw` are variables: the kernel would evaluate the two functions on the block.
  as_aux_lemma =>
    dsimp only
    generalize draw _ s1.cur.srseed (List.range 32) = draws
    obtain ⟨sr, st⟩ := draws
    refine ⟨if fpMode f.tr = .sr then s1.modCur (fun c => { c with srseed := sr }) else s1, st, ?_⟩
    dsimp only
    generalize encode (mxBlock s f.qa) _ _ _ st = block
    obtain ⟨scale, codes, fl⟩ := block
    refine ⟨fun i => if i = 0 then fl else FpFlags.none, ?_, ?_⟩
    · split
      · exact hs.seed sr
      · exact hs
    · rw [afterVqmx, hs.rs]
      rfl

/-- The table's row of encoding a block. -/
def quantiseElem (s : State) (f : XVec) (elem : Fmt) (part : Nat) (sat : Bool) : ElemOp :=
  ⟨f, elem.width, 6, false, fun j => if (mxBlock s f.qa).any Fv.isNan then 0
    else (mxElement elem sat (fpMode f.tr) 0 (mxShared elem (mxBlock s f.qa)) ((mxBlock s f.qa).getD (j - 32 * part) (.num false 0 0))).code, none, fpMode f.tr == .sr⟩

/-- The element codes of a block reach their part of the destination. -/
theorem afterVqmx_lands {s s1 : State} {f : XVec} {ext : BitVec 32} {st : List W32} {fl : Nat → FpFlags} (hs : Popped s s1) (hmode : fpMode f.tr ≠ .sr) {l : Nat}
    (hl : l < 32) (hr : inRange (mxElem (fld ext 16 2).toNat).width (32 * (fld ext 0 3).toNat) 32 l) :
    laneHolds s (afterVqmx s s1 f ext (mxQuantise (mxBlock s f.qa) (mxElem (fld ext 16 2).toNat) (bitAt ext 18) (fpMode f.tr) st) fl) (quantiseElem s f (mxElem (fld ext 16 2).toNat) (fld ext 0 3).toNat (bitAt ext 18)) l := by
  have hw := mxElem_width (fld ext 16 2).toNat
  refine laneHolds_mono (fun p hp => ?_) (writeOuts_lands (o := quantiseElem s f (mxElem (fld ext 16 2).toNat) (fld ext 0 3).toNat (bitAt ext 18))
    (outs := (List.range 32).map (fun i => ⟨32 * (fld ext 0 3).toNat + i,
      (mxQuantise (mxBlock s f.qa) (mxElem (fld ext 16 2).toNat) (bitAt ext 18) (fpMode f.tr) st).2.1.getD i 0, fl i, false⟩))
    (pz := fun _ => false) hs hw (Nat.dvd_add (hw.perLane_dvd.mul_right _) hw.perLane_dvd) ?_ (fun l _ hl => ⟨hl.1, hl.2, fun _ _ _ => rfl⟩) l hl hr)
  · rw [afterVqmx, State.cur_bump, State.cur_modCur, Core.mem_emit]
    exact .inr hp
  · rw [List.map_map]
    refine List.map_congr_left fun i hi => ?_
    have hlen : i < (mxBlock s f.qa).length := by simpa [mxBlock] using hi
    simp only [Function.comp_def, Out.bare, mxQuantise_code hmode _ _ _ _ hlen, quantiseElem, Nat.add_sub_cancel_left]

theorem wholeLanes_qmx {s : State} {f : XVec} {ext : BitVec 32} {o : ElemOp} {lo n : Nat} (h : wholeOp s (.vqmx f ext) = some (o, lo, n)) :
    WholeLanes (.vqmx f ext) s o lo n := by
  cases h
  refine wholeLanes_of_landsOn (x := vqmx s f ext) rfl rfl fun hmd _ hd hst hok ha hclean => ?_
  obtain ⟨s1, st, fl, hs, hdone⟩ := vqmx_done hmd hd (of_decide_eq_true hok) ha hclean
  exact ⟨_, hdone, fun l hl hr => afterVqmx_lands hs (fpMode_plain hst) hl hr⟩

theorem Core.emits_now (c : Core) (e : Engine) (lat : Nat) (ws : List Write) : (c.emits e lat ws).now = c.now := by
  induction ws generalizing c with
  | nil => rfl
  | cons w rest ih => rw [Core.emits, ih, Core.emit_now]

theorem writeOuts_now (s : State) (f : XVec) (w lat : Nat) (outs : List Out) : (writeOuts s f w lat outs).cur.now = s.cur.now := by
  change (s.modCur _).cur.now = _
  rw [State.cur_modCur, Core.emits_now]

/-- VQMX's scale code. -/
theorem vqmx_scale {s : State} {f : XVec} {ext : BitVec 32} (hmd : f.md = none) (hd : legalDest f (mxElem (fld ext 16 2).toNat).width)
    (hpart : (fld ext 0 3).toNat ≤ mxPartMax (mxElem (fld ext 16 2).toNat)) (ha : ready s f.qa 1) (hclean : cleanHead s f.qa 1) :
    completes (.vqmx f ext) s fun t =>
      (⟨s.cur.now + 6, s.cur.now, Engine.x.rank, .byteOf (fld ext 8 6).toNat (fld ext 0 3).toNat
        (BitVec.ofNat 8 (if (mxBlock s f.qa).any Fv.isNan then 255 else (mxShared (mxElem (fld ext 16 2).toNat) (mxBlock s f.qa) + 127).toNat))
        (s.cur.rs (fld ext 8 6).toNat).v (s.cur.rs (fld ext 8 6).toNat).pz⟩ : Pend) ∈ t.cur.pend := by
  obtain ⟨s1, st, fl, hs, hdone⟩ := vqmx_done hmd hd hpart ha hclean
  refine ⟨_, congrArg (s.issue .x) hdone, ?_⟩
  beta_reduce
  rw [State.cur_modCur, Core.issued_pend, afterVqmx, State.cur_bump, State.cur_modCur, Core.mem_emit, writeOuts_now, hs.now, mxQuantise_scale]
  exact .inl rfl

/-! Scans and reductions (R140, R141). -/

/-- What a scan has accumulated of its first elements. -/
def scanAcc (op : Nat) (t : Ety) (w : Nat) (mode : Rm) (x : Nat → Fv) : Nat → Option Fv
  | 0 => none
  | k + 1 => some (scanValue op t w mode x k)

/-- Outside stochastic rounding, combining takes no draw. -/
theorem combine_draw {mode : Rm} (h : mode ≠ .sr) (op : Nat) (t : Ety) (w : Nat) (st : W32) (a x : Fv) :
    combine op t w mode st a x = combine op t w mode 0 a x := by
  cases t with
  | int => cases op <;> simp only [combine]
  | fp f => cases op <;> simp only [combine, Fmt.round_draw h f st]

theorem Scan.step_acc {op : Nat} {t : Ety} {w : Nat} {mode : Rm} {x : Nat → Fv} {c : Scan} {k : Nat} (hmode : mode ≠ .sr)
    (hc : c.acc = scanAcc op t w mode x k) (l : Nat) (pz : Bool) :
    (c.step op t w mode l (x k) pz).acc = scanAcc op t w mode x (k + 1) := by
  cases k with
  | zero => simp only [Scan.step, hc, scanAcc, scanValue]
  | succ k => simp only [Scan.step, hc, scanAcc, scanValue, combine_draw hmode]

theorem Scan.step_clean {c : Scan} (h : c.pz = false) (op : Nat) (t : Ety) (w : Nat) (mode : Rm) (l : Nat) (x : Fv) :
    (c.step op t w mode l x false).pz = false := by
  unfold Scan.step
  split <;> simp only [h, Bool.or_false]

/-- An unpoisoned source whose elements read as `x`. -/
structure ReadsAs (a : Vin) (t : Ety) (fzi : Bool) (x : Nat → Fv) : Prop where
  value (j : Nat) : t.read fzi (a.elem t.width j) = x j
  clean (j : Nat) : a.poison t.width j = false

theorem headVin_readsAs {s s1 : State} (h : Popped s s1) {q : BitVec 3} {t : Ety} (hclean : cleanHead s q (entries t.width)) :
    ReadsAs (headVin s q (entries t.width)) t s1.cur.fzi (qRead s q t) :=
  ⟨fun j => read_head h q t j (entries_pos _) entries_wide, headVin_clean hclean _⟩

/-- A scan on all lanes gives, after each element, the combination of all elements up to it, rounded once. -/
theorem scanGo_bare {s : State} {r : Rnd} {op : Nat} {t : Ety} {a : Vin} {fzi : Bool} {x : Nat → Fv} (hr : PlainRnd s r) (ha : ReadsAs a t fzi x) {m : Nat} :
    ∀ {k : Nat} {c : Scan}, c.acc = scanAcc op t r.ty.width r.mode x k → c.pz = false →
      (∀ j < k + m, laneOf t.width j < 32 ∧ laneOf r.ty.width j < 32) →
      (scanGo r 0xFFFFFFFF op t a fzi c (List.range' k m)).2.map Out.bare
        = (List.range' k m).map (fun j => ⟨j, finishCode s r.ty r.mode r.fromFp (scanValue op t r.ty.width r.mode x j), FpFlags.none, false⟩) := by
  induction m with
  | zero => intros; rfl
  | succ m ih =>
    intro k c hacc hpz hlane
    obtain ⟨hsource, hdest⟩ := hlane k (by omega)
    simp only [List.range'_succ, scanGo, bitAt_allLanes hsource, Bool.not_true, Bool.false_eq_true, if_false, List.map_append, List.map_cons, ha.value, ha.clean]
    have hacc1 := Scan.step_acc hr.noDraw hacc (laneOf t.width k) false
    have hpz1 := Scan.step_clean hpz op t r.ty.width r.mode (laneOf t.width k) (x k)
    generalize c.step op t r.ty.width r.mode _ (x k) false = c1 at hacc1 hpz1
    obtain ⟨acc1, fl1, pz1, sr1⟩ := c1
    dsimp only at hacc1 hpz1
    subst hacc1 hpz1
    rw [roundAll_bare hr.noDraw hr.noMod _ (by simpa using hdest), ih rfl rfl fun j hj => hlane j (by omega)]
    simp only [List.map_cons, List.map_nil, List.singleton_append, Rnd.bareOut, hr.code, hr.noMod, scanAcc, Option.getD_some, Modif.none, Bool.or_false]

/-- A reduction on all lanes ends with the combination of all elements. -/
theorem redGo_acc {op : Nat} {t : Ety} {mode : Rm} {a : Vin} {fzi : Bool} {x : Nat → Fv} (hmode : mode ≠ .sr) (ha : ReadsAs a t fzi x) {m : Nat} :
    ∀ {k : Nat} {c : Scan} {fl : FpFlags}, c.acc = scanAcc op t t.width mode x k → c.pz = false → (∀ j < k + m, laneOf t.width j < 32) →
      (redGo 0xFFFFFFFF op t mode a fzi c fl (List.range' k m)).1.acc = scanAcc op t t.width mode x (k + m)
      ∧ (redGo 0xFFFFFFFF op t mode a fzi c fl (List.range' k m)).1.pz = false := by
  induction m with
  | zero => exact fun hacc hpz _ => ⟨hacc, hpz⟩
  | succ m ih =>
    intro k c fl hacc hpz hlane
    simp only [List.range'_succ, redGo, bitAt_allLanes (hlane k (by omega)), Bool.not_true, Bool.false_eq_true, if_false, ha.value, ha.clean]
    rw [show k + (m + 1) = k + 1 + m by omega]
    exact ih (Scan.step_acc hmode hacc _ _) (Scan.step_clean hpz ..) fun j hj => hlane j (by omega)

theorem isWidth.lane_lt {w j : Nat} (h : isWidth w) (hj : j < perVec w) : laneOf w j < 32 := by
  rw [laneOf, Nat.div_lt_iff_lt_mul h.perLane_pos, ← h.perVec_eq]
  exact hj

/-- The table's row of a scan of elements of type `t` into results of type `td`. -/
def scanElem (s : State) (f : XVec) (t td : Ety) (mode : Rm) (lat : Nat) (st : Bool) : ElemOp :=
  ⟨f, td.width, lat, false, fun j => finishCode s td mode t.isFp (scanValue (fld f.qb 0 2).toNat t td.width mode (qRead s f.qa t) j), none, st⟩

theorem vscan_lands {s : State} {f : XVec} {t td : Ety} {mode : Rm} {lat : Nat} (st : Bool) (hmd : f.md = none) (hd : legalDest f td.width) (hmode : mode ≠ .sr)
    (hw : isWidth t.width) (hwd : isWidth td.width) (hsame : perVec td.width = perVec t.width) (ha : ready s f.qa (entries t.width))
    (hclean : cleanHead s f.qa (entries t.width)) :
    landsOn s (vscan s f t td mode lat) (scanElem s f t td mode lat st) (inRange td.width 0 (perVec td.width)) := by
  refine start1_landsOn hmd hd ha fun s1 hs => ⟨_, rfl, ?_⟩
  have hr := rndOf_plain hs hmd td hmode t.isFp
  refine writeOuts_lands (o := scanElem s f t td mode lat st) (lo := 0) (n := perVec td.width) (pz := fun _ => false) (hs.seed _) hwd ?_ ?_ fun l _ hl => ⟨hl.1, hl.2, fun _ _ _ => rfl⟩
  · rw [zero_add, show (scanElem s f t td mode lat st).w = td.width from rfl, hwd.perVec_eq]
    exact Nat.dvd_mul_left _ _
  · rw [hsame, List.range_eq_range', scanGo_bare hr (headVin_readsAs hs hclean) rfl rfl]
    · simp only [zero_add]
      rfl
    · intro j hj
      rw [zero_add] at hj
      exact ⟨hw.lane_lt hj, hwd.lane_lt (hsame.symm ▸ hj)⟩

theorem wholeOp_vscan (s : State) (f : XVec) :
    wholeOp s (.vscan f) = some (scanElem s f (scanType f).1 (scanType f).1 (scanType f).2 6 ((scanType f).2 == .sr), 0, perVec (scanType f).1.width) := rfl

theorem wholeLanes_scan {s : State} {f : XVec} {o : ElemOp} {lo n : Nat} (h : wholeOp s (.vscan f) = some (o, lo, n)) : WholeLanes (.vscan f) s o lo n := by
  cases (wholeOp_vscan s f).symm.trans h
  refine wholeLanes_of_landsOn (x := vscan s f (scanType f).1 (scanType f).1 (scanType f).2 6) rfl rfl fun hmd _ hd hst _ ha hclean => ?_
  exact vscan_lands _ hmd hd (beq_eq_false_iff_ne.1 hst) (scanType_width f) (scanType_width f) rfl ha hclean

theorem wholeLanes_scanWide {s : State} {f : XVec} {o : ElemOp} {lo n : Nat} (h : wholeOp s (.vscanWide f) = some (o, lo, n)) :
    WholeLanes (.vscanWide f) s o lo n := by
  cases h
  refine wholeLanes_of_landsOn (x := vscan s f (.int 32 (intType f.tr).2) (.int 64 (intType f.tr).2) (intMode f.tr) 8) rfl rfl fun hmd _ hd _ _ ha hclean => ?_
  exact vscan_lands (td := .int 64 (intType f.tr).2) _ hmd hd (intMode_plain f.tr) (.inr (.inr (.inr (.inl rfl)))) (.inr (.inr (.inr (.inr rfl)))) (show perVec 64 = perVec 32 by decide) ha hclean

/-- The table's row of a reduction. -/
def reduceElem (s : State) (f : XVec) (t : Ety) (mode : Rm) : ElemOp :=
  ⟨f, t.width, 6, false, fun _ => finishCode s t mode t.isFp (scanValue (fld f.qb 0 2).toNat t t.width mode (qRead s f.qa t) (perVec t.width - 1)), none, mode == .sr⟩

/-- VRED of elements of type `t`. -/
def reduce (s : State) (f : XVec) (t : Ety) (mode : Rm) : Effect :=
  vecStart s f t.width (fun act => pop1 s f.qa (entries t.width) (fun s a =>
    let (c, fl) := redGo act (fld f.qb 0 2).toNat t mode a s.cur.fzi
      ⟨none, FpFlags.none, false, s.cur.srseed⟩ FpFlags.none (List.range (perVec t.width))
    match c.acc with
    | none => .done s
    | some v =>
      vecFinish (s.modCur (fun x => { x with srseed := c.sr })) f (rndOf s f t mode t.isFp) 6 act
        ((List.range (perVec t.width)).map (fun j => (j, ⟨v, false, fl, c.pz⟩)))))

theorem vred_eq (s : State) (f : XVec) : vred s f = reduce s f (scanType f).1 (scanType f).2 := rfl

theorem reduce_lands {s : State} {f : XVec} {t : Ety} {mode : Rm} (hmd : f.md = none) (hd : legalDest f t.width) (hmode : mode ≠ .sr) (hw : isWidth t.width)
    (ha : ready s f.qa (entries t.width)) (hclean : cleanHead s f.qa (entries t.width)) (P : Nat → Prop) :
    landsOn s (reduce s f t mode) (reduceElem s f t mode) P := by
  refine start1_landsOn hmd hd ha fun s1 hs => ?_
  have hr := rndOf_plain hs hmd t hmode t.isFp
  have hred := redGo_acc (op := (fld f.qb 0 2).toNat) (k := 0) (m := perVec t.width) (c := ⟨none, FpFlags.none, false, s1.cur.srseed⟩) (fl := FpFlags.none)
    hmode (headVin_readsAs hs hclean) rfl rfl fun j hj => hw.lane_lt (by omega)
  rw [zero_add, ← List.range_eq_range'] at hred
  dsimp only
  generalize redGo _ _ t mode _ _ _ _ _ = reduced at hred
  obtain ⟨⟨acc, cfl, pz, sr⟩, fl⟩ := reduced
  obtain ⟨hacc, hpz⟩ := hred
  have hpos : perVec t.width = perVec t.width - 1 + 1 := by have := hw.perVec_eq; have := hw.perLane_pos; omega
  rw [hpos] at hacc
  dsimp only at hacc hpz
  subst hacc hpz
  exact vecFinish_allLanes (o := reduceElem s f t mode) (hs.seed _) hr rfl hw (fun _ => rfl) fun _ _ _ _ => rfl

theorem wholeOp_vred (s : State) (f : XVec) :
    wholeOp s (.vred f) = some (reduceElem s f (scanType f).1 (scanType f).2, 0, perVec (scanType f).1.width) := rfl

theorem wholeLanes_red {s : State} {f : XVec} {o : ElemOp} {lo n : Nat} (h : wholeOp s (.vred f) = some (o, lo, n)) : WholeLanes (.vred f) s o lo n := by
  cases (wholeOp_vred s f).symm.trans h
  refine wholeLanes_of_landsOn (x := reduce s f (scanType f).1 (scanType f).2) rfl rfl fun hmd _ hd hst _ ha hclean => ?_
  exact reduce_lands hmd hd (beq_eq_false_iff_ne.1 hst) (scanType_width f) ha hclean _

/-! The table, whole. -/

theorem wholeLanes_of_wholeOp {i : Instr} {s : State} {o : ElemOp} {lo n : Nat} (h : wholeOp s i = some (o, lo, n)) : WholeLanes i s o lo n := by
  cases i with
  | vcvt => exact wholeLanes_cvt h
  | vqmx => exact wholeLanes_qmx h
  | vdqmx => exact wholeLanes_dqmx h
  | vscan => exact wholeLanes_scan h
  | vscanWide => exact wholeLanes_scanWide h
  | vred => exact wholeLanes_red h
  | _ => cases h

theorem vectorConversionsAndScans : Claim.VectorConversionsAndScans := by
  refine ⟨fun _ _ _ _ _ h => wholeLanes_of_wholeOp h, fun f ext s sh hmd hd hpart ha hclean hsh => ?_⟩
  subst hsh
  exact vqmx_scale hmd hd hpart ha hclean

/-- Settles O27: every element goes through one rounding lemma, `vecFinish_lands`, and scans through an induction over their elements. -/
theorem vectorElements : Obligations.VectorElements := ⟨vectorArithmetic, vectorConversionsAndScans⟩

end Sys2Proof.Machine
end

section
/-! PROOFS. What the frames of the claims say (R82, R83): the module beside the issuing agent, and the agent beside its results and sequencers. -/

namespace Sys2Proof.Claim

open Sys2Proof.Machine

theorem othersKeep.refl (s : State) : othersKeep s s := ⟨rfl, fun _ _ => rfl⟩

theorem othersKeep.here {s t : State} (h : othersKeep s t) : t.here = s.here := by rw [h.1]

theorem othersKeep.trans {s t u : State} (h : othersKeep s t) (k : othersKeep t u) : othersKeep s u := by
  refine ⟨?_, fun m hm => (k.2 m (h.here ▸ hm)).trans (h.2 m hm)⟩
  have hu := k.1
  rw [h.1] at hu
  exact hu

/-- The counter of the free values may rise. -/
theorem othersKeep.fresh {s t : State} (h : othersKeep s t) (n : Nat) : othersKeep s { t with fresh := n } :=
  h.trans ⟨rfl, fun m _ => by cases m <;> rfl⟩

theorem othersKeep.bump {s t : State} (h : othersKeep s t) : othersKeep s t.bump := h.fresh _

/-- Replacing the issuing agent leaves the rest of the module. -/
theorem othersKeep.modCur {s t : State} (h : othersKeep s t) (f : Core → Core) : othersKeep s (t.modCur f) := by
  refine h.trans ⟨?_, fun m hm => t.agent_modCur_other f m hm⟩
  rw [State.modCur_fresh]
  exact t.modCur_eq f

theorem coreKeeps.refl (c : Core) : coreKeeps c c := rfl

theorem coreKeeps.emits {c d : Core} (h : coreKeeps c d) (e : Engine) (lat : Nat) (ws : List Write) : coreKeeps c (d.emits e lat ws) := by
  induction ws generalizing d with
  | nil => exact h
  | cons w rest ih =>
    refine ih ?_
    rw [coreKeeps] at h
    rw [coreKeeps, Core.emit, h]

/-- The move past a group changes the sequencer and the turn. -/
theorem coreKeeps.issued {c d : Core} (h : coreKeeps c d) (e : Engine) (occ : Nat) : coreKeeps c (d.issued e occ) := by
  rw [coreKeeps] at h
  rw [coreKeeps, h]
  cases e <;> rfl

end Sys2Proof.Claim

namespace Sys2Proof.Machine

open Sys2Proof.Claim

/-! Results in flight. -/

/-- The results in flight depend on the cycle and on those in flight before. -/
theorem Core.emits_pend_congr {c d : Core} (hnow : d.now = c.now) (hpend : d.pend = c.pend) (e : Engine) (lat : Nat) (ws : List Write) :
    (d.emits e lat ws).pend = (c.emits e lat ws).pend := by
  induction ws generalizing c d with
  | nil => exact hpend
  | cons w rest ih => exact ih hnow (by rw [Core.emit, Core.emit, hnow, hpend])

theorem Core.emits_append (c : Core) (e : Engine) (lat : Nat) (ws vs : List Write) : c.emits e lat (ws ++ vs) = (c.emits e lat ws).emits e lat vs := by
  induction ws generalizing c with
  | nil => rfl
  | cons w rest ih => exact ih (c.emit e lat w)

/-- Results in flight change nothing else of an agent. -/
theorem Core.emits_eq (c : Core) (e : Engine) (lat : Nat) (ws : List Write) : c.emits e lat ws = { c with pend := (c.emits e lat ws).pend } := by
  induction ws generalizing c with
  | nil => rfl
  | cons w rest ih => exact ih (c.emit e lat w)

/-! Instructions that complete, and that trap. -/

/-- The move past a group from an agent with the same sequencers, cycle and turn. -/
theorem seqMoved_issued {c d : Core} (hseq : ∀ g, d.seqOf g = c.seqOf g) (hnow : d.now = c.now) (hturn : d.turn = c.turn) (e : Engine) (occ : Nat) :
    seqMoved c (d.issued e occ) e occ :=
  ⟨by rw [Core.issued_seqOf_same, hseq, hnow], fun g hg => (Core.issued_seqOf_other _ _ _ _ hg).trans (hseq g), by rw [Core.issued_turn, hturn]⟩

/-- An instruction whose effect is done goes on to the next group. -/
theorem completes_of_done {i : Instr} {s s' : State} {e : Engine} {p : State → Prop} (hi : exec i s = s.issue e (.done s'))
    (hp : p (s'.modCur (fun c => c.issued e 1))) : completes i s p := ⟨_, hi, hp⟩

/-- An instruction that only puts results in flight. -/
theorem completes_emits {i : Instr} {s s' : State} {e : Engine} {lat : Nat} {ws : List Write} (hi : exec i s = s.issue e (.done s')) (ho : othersKeep s s')
    (hc : s'.cur = s.cur.emits e lat ws) : completes i s fun t => onlyResults s t e 1 lat ws := by
  refine completes_of_done hi ?_
  rw [onlyResults, State.cur_modCur, hc]
  refine ⟨ho.modCur _, ((coreKeeps.refl _).emits e lat ws).issued e 1, seqMoved_issued (fun g => ?_) ?_ ?_ e 1, Core.issued_pend _ _ _⟩
  · rw [Core.emits_eq]; cases g <;> rfl
  · rw [Core.emits_eq]
  · rw [Core.emits_eq]

/-- An instruction that puts one result in flight. -/
theorem completes_emit {i : Instr} {s s' : State} {e : Engine} {lat : Nat} {w : Write} (hi : exec i s = s.issue e (.done s')) (ho : othersKeep s s')
    (hc : s'.cur = s.cur.emit e lat w) : completes i s fun t => onlyResults s t e 1 lat [w] := completes_emits hi ho hc

theorem traps_of_trap {i : Instr} {s : State} {e : Engine} {t : TrapInfo} (hi : exec i s = s.issue e (.trap t)) : traps i s e t := hi

end Sys2Proof.Machine
end

section
/-! PROOFS. Tokens (O4; R47, R102, R103). -/

namespace Sys2Proof.Machine

open Sys2Proof.Claim

/-- What an instruction that sets one token leaves: the other tokens, the rest of its agent and of the module. -/
def tokenSet (s u : State) (e : Engine) (k : Nat) (t : Tok) : Prop :=
  othersKeep s u ∧ seqMoved s.cur u.cur e 1 ∧ u.cur.tok k = t ∧ (∀ j, j ≠ k → u.cur.tok j = s.cur.tok j)
    ∧ coreKeeps { s.cur with k := u.cur.k } u.cur ∧ u.cur.pend = s.cur.pend

theorem completes_setTok {i : Instr} {s : State} {e : Engine} {k : Nat} {t : Tok} (hi : exec i s = s.issue e (.done (s.modCur (fun c => c.setTok k t)))) :
    completes i s fun u => tokenSet s u e k t := by
  refine completes_of_done hi ?_
  have htok (j : Nat) : ((s.cur.setTok k t).issued e 1).tok j = (s.cur.setTok k t).tok j := by rw [Core.tok, Core.issued_k]; rfl
  rw [tokenSet, State.cur_modCur, State.cur_modCur]
  refine ⟨((othersKeep.refl s).modCur _).modCur _, seqMoved_issued (fun g => by cases g <;> rfl) rfl rfl e 1, ?_, fun j hj => ?_, ?_, Core.issued_pend _ _ _⟩
  · rw [htok, Core.tok_setTok_same]
  · rw [htok, Core.tok_setTok_other _ _ _ _ hj]
  · rw [Core.issued_k]; exact (coreKeeps.refl _).issued e 1

section
variable (e : Engine) (f : TokWord) (s : State)

/-- What SIG comes to, by the token's count and ceiling. -/
theorem exec_sig : exec (.sig e f) s = s.issue e
    (if f.n = 0 then .done s
     else if (s.cur.tok f.tok.toNat).ceiling.toNat < (s.cur.tok f.tok.toNat).count.toNat + f.n.toNat then .trap (TrapInfo.of 0x0D e)
     else .done (s.modCur (fun c => c.setTok f.tok.toNat { s.cur.tok f.tok.toNat with count := (s.cur.tok f.tok.toNat).count + f.n }))) := rfl

/-- What WAIT comes to. -/
theorem exec_wait : exec (.wait e f) s = s.issue e
    (if (s.cur.tok f.tok.toNat).ceiling.toNat < f.n.toNat then .trap (TrapInfo.of 0x02 e)
     else if f.n.toNat ≤ (s.cur.tok f.tok.toNat).count.toNat then
      .done (s.modCur (fun c => c.setTok f.tok.toNat { s.cur.tok f.tok.toNat with count := (s.cur.tok f.tok.toNat).count - f.n }))
     else .block) := rfl

end

/-- What TKSET comes to on a clean source. -/
theorem exec_tkset {f : SReg} {s : State} (h : sp s f.sa = none) : exec (.tkset f) s = s.issue .s
    (if (sv s f.sa).extractLsb' 16 16 = 0 ∨ ((sv s f.sa).extractLsb' 16 16).toNat < ((sv s f.sa).extractLsb' 0 16).toNat then .trap (TrapInfo.of 0x02 .s)
     else .done (s.modCur (fun c => c.setTok (f.sd.extractLsb' 0 5).toNat ⟨(sv s f.sa).extractLsb' 0 16, (sv s f.sa).extractLsb' 16 16⟩))) := by
  rw [sp] at h
  change execTkset f s = _
  rw [execTkset, h]
  rfl

/-- TKRD puts the token of the start of the cycle in flight. -/
theorem exec_tkrd (f : SReg) (s : State) : exec (.tkrd f) s = s.issue .s (.done (s.modCur (fun c => c.emit .s 1
    (.scalar f.sd.toNat (BitVec.ofNat 64 ((s.cur.tok0 (f.sa.extractLsb' 0 5).toNat).ceiling.toNat * 65536 + (s.cur.tok0 (f.sa.extractLsb' 0 5).toNat).count.toNat)) none)))) := rfl

/-- Settles O4: every case of SIG, WAIT, TKSET and TKRD from what the instruction comes to. -/
theorem tokens : Obligations.Tokens := by
  refine ⟨fun e f s => ⟨fun h0 h => ?_, fun h0 => ?_, fun h0 h => ?_, fun h => ?_, fun h hc => ?_, fun h hc => ?_⟩,
    fun f s hp => ⟨fun h0 h => ?_, fun h => ?_⟩, fun f s => ?_⟩
  · have hsig := exec_sig e f s
    rw [if_neg (fun hz => h0 (congrArg BitVec.toNat hz)), if_neg (by omega)] at hsig
    exact completes_setTok hsig
  · have hsig := exec_sig e f s
    rw [if_pos (BitVec.eq_of_toNat_eq h0)] at hsig
    exact completes_emits hsig (othersKeep.refl s) rfl
  · have hsig := exec_sig e f s
    rw [if_neg (fun hz => h0 (congrArg BitVec.toNat hz)), if_pos h] at hsig
    exact traps_of_trap hsig
  · have hwait := exec_wait e f s
    rw [if_pos h] at hwait
    exact traps_of_trap hwait
  · have hwait := exec_wait e f s
    rw [if_neg (by omega), if_pos hc] at hwait
    exact completes_setTok hwait
  · have hwait := exec_wait e f s
    rw [if_neg (by omega), if_neg (by omega)] at hwait
    exact ⟨_, hwait, (othersKeep.refl s).modCur _, State.cur_modCur _ _⟩
  · have hset := exec_tkset hp
    rw [if_neg (not_or.2 ⟨h0, by omega⟩)] at hset
    exact completes_setTok hset
  · have hset := exec_tkset hp
    rw [if_pos h] at hset
    exact traps_of_trap hset
  · exact completes_emit (exec_tkrd f s) ((othersKeep.refl s).modCur _) (State.cur_modCur _ _)

end Sys2Proof.Machine
end

section
/-! PROOFS. Special registers (O11; R50, R116, R117, R278, R284, R286). -/

namespace Sys2Proof.Machine

open Sys2Proof.Claim

/-- The table of R50 and R284, but for %core. -/
theorem sysValue_eq (s : State) (n : Nat) (h : n ≠ 0x002) : sysValue s n = sysReg s n := by
  unfold sysValue sysReg
  dsimp only
  rw [if_neg h]
  rfl

/-- What SYSRD comes to. -/
theorem exec_sysrd (f : SImm) (s : State) : exec (.sysrd f) s = s.issue .s
    (match sysValue s f.imm.toNat with
     | some v => .done (s.modCur (fun c => c.emit .s 2 (.scalar f.sd.toNat v none))).bump
     | none => .trap (TrapInfo.of 0x02 .s)) := rfl

theorem sysrd_completes {f : SImm} {s : State} {v : W64} (h : sysValue s f.imm.toNat = some v) :
    completes (.sysrd f) s fun t => onlyResults s t .s 1 2 [.scalar f.sd.toNat v none] := by
  have hrd := exec_sysrd f s
  rw [h] at hrd
  exact completes_emit hrd ((othersKeep.refl s).modCur _).bump (State.cur_modCur _ _)

theorem sysReg_core (s : State) : sysReg s 0x002 = none := rfl

theorem sysrdReads : Claim.SysrdReads := by
  refine ⟨fun f s v h => ?_, fun f s n hn h => ?_, fun f s h h2 => ?_⟩
  · refine sysrd_completes ((sysValue_eq s _ fun h2 => ?_).trans h)
    rw [h2, sysReg_core] at h
    cases h
  · refine sysrd_completes ?_
    rw [h]
    simp [sysValue, State.isCp, State.me, hn]
  · have hrd := exec_sysrd f s
    rw [(sysValue_eq s _ fun hz => h2 (BitVec.eq_of_toNat_eq hz)).trans h] at hrd
    exact traps_of_trap hrd

/-! Writes (R50, R116, R117, R286). -/

/-- What SYSWR comes to on a clean source. -/
theorem exec_syswr {f : SImm} {s : State} (h : sp s f.sa = none) : exec (.syswr f) s = s.issue .s
    (if f.imm = 0x043 ∧ s.cur.mode = .handler then writeSpos s (sv s f.sa)
     else
      match sysWrite f.imm.toNat (sv s f.sa) with
      | some w => .done (s.modCur (fun c => c.emit .s 2 w))
      | none => .trap (TrapInfo.of 0x02 .s)) := by
  rw [sp] at h
  change execSyswr f s = _
  rw [execSyswr, h]
  rfl

/-- The write of %tr.spos that is legal: only LINE and LANE, with LANE not 0. -/
theorem writeSpos_legal (s : State) {v : W64} (h : v.extractLsb' 14 50 = 0) (h' : v.extractLsb' 0 3 ≠ 0) :
    writeSpos s v = .done (s.modCur (fun c =>
      Core.emit { c with moved := some ((v.extractLsb' 3 11).toNat, (v.extractLsb' 0 3).toNat) } .s 2 (.trSpos v))) := by
  rw [writeSpos, fld, fld, if_neg (not_or.2 ⟨not_not.2 h, h'⟩)]
  rfl

theorem writeSpos_illegal (s : State) {v : W64} (h : v.extractLsb' 14 50 ≠ 0 ∨ v.extractLsb' 0 3 = 0) :
    writeSpos s v = .trap (TrapInfo.of 0x02 .s) := by
  rw [writeSpos, fld, fld, if_pos h, illegalOperand]

/-- What CLKDIV comes to on a clean source. -/
theorem exec_clkdiv {f : SReg} {s : State} (h : sp s f.sa = none) : exec (.clkdiv f) s = s.issue .s
    (if (sv s f.sa).toNat < 2 ∨ 16 < (sv s f.sa).toNat then .trap (TrapInfo.of 0x02 .s)
     else .done (s.modCur (fun c => c.emit .s 2 (.clkdiv (sv s f.sa).toNat)))) := by
  rw [sp] at h
  change execClkdiv f s = _
  rw [execClkdiv, h]
  rfl

/-- The write of a special register, when it lands, is that of the table; a register that the table lacks is not written. -/
theorem sysWrite_cases (n : Nat) (v : W64) :
    (∃ w, sysWrite n v = some w ∧ ∀ (u : State) (m : Mover), ∃ d, sysWritten n v (u.agent m) = some d ∧ u.land m w = u.setAgent m d)
      ∨ (sysWrite n v = none ∧ ∀ c, sysWritten n v c = none) := by
  unfold sysWrite sysWritten
  split
  · exact .inl ⟨_, rfl, fun u m => ⟨_, rfl, rfl⟩⟩
  split
  · exact .inl ⟨_, rfl, fun u m => ⟨_, rfl, rfl⟩⟩
  split
  · exact .inl ⟨_, rfl, fun u m => ⟨_, rfl, rfl⟩⟩
  split
  · exact .inl ⟨_, rfl, fun u m => ⟨_, rfl, rfl⟩⟩
  · exact .inr ⟨rfl, fun _ => rfl⟩

/-- SYSWR to a register of the table. -/
theorem syswr_completes {f : SImm} {s : State} {c' : Core} (hp : sp s f.sa = none) (hm : ¬(f.imm = 0x043 ∧ s.cur.mode = .handler))
    (h : sysWritten f.imm.toNat (sv s f.sa) s.cur = some c') :
    completes (.syswr f) s fun t => ∃ w, onlyResults s t .s 1 2 [w]
      ∧ ∀ (u : State) (m : Mover) (d : Core), sysWritten f.imm.toNat (sv s f.sa) (u.agent m) = some d → u.land m w = u.setAgent m d := by
  have hwr := exec_syswr hp
  rw [if_neg hm] at hwr
  obtain ⟨w, hw, hland⟩ | ⟨-, hnone⟩ := sysWrite_cases f.imm.toNat (sv s f.sa)
  · rw [hw] at hwr
    obtain ⟨t, ht, hres⟩ := completes_emit hwr ((othersKeep.refl s).modCur _) (State.cur_modCur _ _)
    refine ⟨t, ht, w, hres, fun u m d hd => ?_⟩
    obtain ⟨d', hd', heq⟩ := hland u m
    rw [heq, Option.some.inj (hd'.symm.trans hd)]
  · rw [hnone] at h
    cases h

/-- SYSWR to a register that is not in the table. -/
theorem syswr_traps {f : SImm} {s : State} (hp : sp s f.sa = none) (hm : ¬(f.imm = 0x043 ∧ s.cur.mode = .handler))
    (h : sysWritten f.imm.toNat (sv s f.sa) s.cur = none) : traps (.syswr f) s .s (TrapInfo.of 0x02 .s) := by
  have hwr := exec_syswr hp
  rw [if_neg hm] at hwr
  obtain ⟨w, -, hland⟩ | ⟨hw, -⟩ := sysWrite_cases f.imm.toNat (sv s f.sa)
  · obtain ⟨d, hd, -⟩ := hland s s.here
    exact absurd (h.symm.trans hd) (by simp)
  · rw [hw] at hwr
    exact traps_of_trap hwr

theorem syswrAndClkdiv : Claim.SyswrAndClkdiv := by
  refine ⟨fun f s hp hm => ⟨fun c' h => syswr_completes hp hm h, fun h => syswr_traps hp hm h⟩, fun f s v hp hv hi hm => ⟨fun h h' => ?_, fun h => ?_⟩,
    fun f s hp => ⟨fun h h' => ?_, fun h => ?_⟩, fun f g s r => ⟨fun h => ?_, fun h => ?_⟩⟩
  · have hwr := exec_syswr hp
    rw [if_pos ⟨hi, hm⟩, hv, writeSpos_legal s h h'] at hwr
    refine completes_of_done hwr ?_
    rw [State.cur_modCur, State.cur_modCur, Core.issued_moved]
    exact ⟨((othersKeep.refl s).modCur _).modCur _, rfl, ((coreKeeps.refl _).emits .s 2 [.trSpos v]).issued .s 1, Core.issued_pend _ _ _⟩
  · have hwr := exec_syswr hp
    rw [if_pos ⟨hi, hm⟩, hv, writeSpos_illegal s h] at hwr
    exact traps_of_trap hwr
  · have hdiv := exec_clkdiv hp
    rw [if_neg (by omega)] at hdiv
    exact completes_emit hdiv ((othersKeep.refl s).modCur _) (State.cur_modCur _ _)
  · have hdiv := exec_clkdiv hp
    rw [if_pos h] at hdiv
    exact traps_of_trap hdiv
  · change execSyswr f s = _
    rw [sp] at h
    rw [execSyswr, h]
    rfl
  · change execClkdiv g s = _
    rw [sp] at h
    rw [execClkdiv, h]
    rfl

/-- Settles O11: reads from the table of the registers, writes from what lands. -/
theorem specialRegisters : Obligations.SpecialRegisters := ⟨sysrdReads, syswrAndClkdiv⟩

end Sys2Proof.Machine
end

section
/-! PROOFS. The control steps of the communication sequencer (O36; R47, R261, R262, R271, R272). -/

namespace Sys2Proof.Claim

open Sys2Proof.Machine

theorem coreOnly.refl (s : State) (n : Nat) : coreOnly s s n (s.core n) := ⟨rfl, rfl, fun _ _ => rfl⟩

theorem coreOnly.setCore {s t : State} {n : Nat} {c : Core} (h : coreOnly s t n c) (d : Core) : coreOnly s (t.setCore n d) n d := by
  refine ⟨?_, State.core_setCore_same _ _ _, fun k hk => (State.core_setCore_other _ _ _ _ hk).trans (h.2.2 k hk)⟩
  rw [h.1]
  rfl

theorem coreOnly.modCore {s t : State} {n : Nat} {c : Core} (h : coreOnly s t n c) (f : Core → Core) : coreOnly s (t.modCore n f) n (f c) := by
  rw [State.modCore, h.2.1]
  exact h.setCore _

/-- N goes to a step address. -/
theorem coreOnly.nTo {s t : State} {n : Nat} {c : Core} (h : coreOnly s t n c) (r : NRun) (a : Nat) :
    coreOnly s (t.nTo n r a) n { c with nrun := some { r with addr := a, word := none } } := h.modCore _

end Sys2Proof.Claim

namespace Sys2Proof.Machine

open Sys2Proof.Claim

section
variable {s : State} {n : Nat} {r : NRun}

/-- N at a step that has not begun starts it. -/
theorem nStep_atStep (h : atStep s n r) (w : W64) (start : NRun → State) : nStep s n w start = .next (start r) := by
  obtain ⟨hrun, hfault, hstep, harg⟩ := h
  have hz : ¬fld r.arg 53 11 ≠ 0 := not_not.2 harg
  simp only [nStep, hrun, hfault, hstep, Bool.false_eq_true, if_false, if_neg hz]

/-- A step fault of the step that N stands at. -/
theorem nFault_faultsAt (h : atStep s n r) (w : W64) (sub : Nat) : faultsAt s (s.nFault n r w sub) n r w sub := by
  have hrun : (s.core n).nrun = some r := h.1
  have hfault := ((coreOnly.refl s n).modCore (fun c => { c with nrec := some (c.stepRecord r.addr w sub) })).modCore (fun c =>
    { c with nrun := c.nrun.map (fun r => { r with faulted := true, word := none }), asyncs := c.asyncs ++ [⟨0x1B, sub, 4, true, 0, r.addr, w⟩] })
  rw [faultsAt]
  rw [hrun] at hfault
  exact hfault

end

/-- A step that goes on in one state. -/
theorem completes_of_next {i : Instr} {s t : State} {p : State → Prop} (hi : exec i s = .next t) (hp : p t) : completes i s p := ⟨t, hi, hp⟩

/-- A step that faults. -/
theorem completes_fault {i : Instr} {s : State} {n : Nat} {r : NRun} {w : W64} {sub : Nat} (h : atStep s n r) (hi : exec i s = .next (s.nFault n r w sub)) :
    completes i s fun t => faultsAt s t n r w sub := completes_of_next hi (nFault_faultsAt h w sub)

/-! SIGS and WAITS. -/

/-- A token takes what does not pass its ceiling. -/
theorem addTok_eq (c : Core) (k v : Nat) :
    c.addTok k v = if (c.tok k).count.toNat + v ≤ (c.tok k).ceiling.toNat then some (tokCount c k ((c.tok k).count.toNat + v)) else none := rfl

/-- The count of an LBEG (R271): its own, or its group's size less it. -/
def lbegCount (s : State) (n : Nat) (w : W64) : Option Nat :=
  if w.getLsbD 51 then ((s.core n).member (wGroup w)).map (fun m => m.size - (w.extractLsb' 0 32).toNat) else some (w.extractLsb' 0 32).toNat

section
variable {s : State} {n : Nat} {r : NRun} (h : atStep s n r) (w : W64)
include h

theorem exec_sigs : exec (.sigs n w) s = .next (if w.extractLsb' 16 39 ≠ 0 then s.nFault n r w 1 else
    match (s.core n).addTok (wTok w) (wCount w) with
    | none => s.nFault n r w 10
    | some c => (s.setCore n c).nTo n r (r.addr + 8)) := nStep_atStep h w _

theorem exec_waits : exec (.waits n w) s = .next (if w.extractLsb' 16 39 ≠ 0 then s.nFault n r w 1
    else if ((s.core n).tok (wTok w)).ceiling.toNat < wCount w then s.nFault n r w 10
    else if wCount w ≤ ((s.core n).tok (wTok w)).count.toNat then
      (s.modCore n (fun c => c.setTok (wTok w) { (s.core n).tok (wTok w) with count := ((s.core n).tok (wTok w)).count - w.extractLsb' 0 16 })).nTo n r (r.addr + 8)
    else s) := nStep_atStep h w _

theorem exec_lbeg : exec (.lbeg n w) s = .next (if w.extractLsb' 32 19 ≠ 0 ∨ (!w.getLsbD 51 ∧ wGroup w ≠ 0) then s.nFault n r w 1
    else if 4 ≤ r.loops.length then s.nFault n r w 6
    else
      match lbegCount s n w with
      | none => s.nFault n r w 2
      | some 0 =>
        match skipBody s n (r.addr + 8) 0 0x40000 with
        | .ok a => s.nTo n r a
        | .error sub => s.nFault n r w sub
      | some k => s.nTo n { r with loops := r.loops ++ [⟨0, k, r.addr + 8⟩] } (r.addr + 8)) := nStep_atStep h w _

theorem exec_lend : exec (.lend n w) s = .next (if w.extractLsb' 0 60 ≠ 0 then s.nFault n r w 1 else
    match r.loops.getLast? with
    | none => s.nFault n r w 6
    | some l =>
      if l.lc + 1 < l.count then s.nTo n { r with loops := r.loops.dropLast ++ [{ l with lc := l.lc + 1 }] } l.start
      else s.nTo n { r with loops := r.loops.dropLast } (r.addr + 8)) := nStep_atStep h w _

theorem exec_endStep : exec (.endStep n w) s = .next (if w.extractLsb' 16 38 ≠ 0 then s.nFault n r w 1
    else if !r.loops.isEmpty then s.nFault n r w 6
    else if w.getLsbD 59 then
      match (s.core n).addTok (w.extractLsb' 54 5).toNat (wCount w) with
      | none => s.nFault n r w 10
      | some c => s.setCore n { c with nrun := none }
    else s.modCore n (fun c => { c with nrun := none })) := nStep_atStep h w _

theorem exec_reservedStep : exec (.reservedStep n w) s = .next (s.nFault n r w 1) := nStep_atStep h w _

end

/-- A difference that does not wrap. -/
theorem sub_eq_ofNat {n : Nat} {x y : BitVec n} (h : y.toNat ≤ x.toNat) : x - y = BitVec.ofNat n (x.toNat - y.toNat) :=
  BitVec.eq_of_toNat_eq (by rw [BitVec.toNat_sub_of_le h, BitVec.toNat_ofNat, Nat.mod_eq_of_lt (by omega)])

theorem tokenSteps : Claim.TokenSteps := by
  intro n w s r h
  have hsigs := exec_sigs h w
  have hwaits := exec_waits h w
  refine ⟨fun hz => ⟨fun hle => ?_, fun hlt => ?_, fun hle hc => ?_, fun hlt hle => ?_, fun hlt => ?_⟩, fun hz => ?_⟩
  · rw [if_neg (not_not.2 hz), addTok_eq, if_pos hle] at hsigs
    exact completes_of_next hsigs (((coreOnly.refl s n).setCore _).nTo r _)
  · rw [if_neg (not_not.2 hz), addTok_eq, if_neg (by omega)] at hsigs
    exact completes_fault h hsigs
  · rw [if_neg (not_not.2 hz), if_neg (by omega), if_pos hle] at hwaits
    rw [sub_eq_ofNat hle] at hwaits
    exact completes_of_next hwaits (((coreOnly.refl s n).modCore _).nTo r _)
  · rw [if_neg (not_not.2 hz), if_neg (by omega), if_neg (by omega)] at hwaits
    exact completes_of_next hwaits rfl
  · rw [if_neg (not_not.2 hz), if_pos hlt] at hwaits
    exact completes_fault h hwaits
  · rw [if_pos hz] at hsigs hwaits
    exact ⟨completes_fault h hsigs, completes_fault h hwaits⟩

/-! LBEG, LEND and END. -/

/-- The two forms of LBEG with a count have legal fields. -/
theorem lbegCount_legal {s : State} {n : Nat} {w : W64} {count : Nat}
    (h : (w.getLsbD 51 = false ∧ wGroup w = 0 ∧ count = (w.extractLsb' 0 32).toNat)
      ∨ (w.getLsbD 51 = true ∧ ∃ m, (s.core n).member (wGroup w) = some m ∧ count = m.size - (w.extractLsb' 0 32).toNat)) :
    lbegCount s n w = some count ∧ (w.getLsbD 51 = true ∨ wGroup w = 0) := by
  obtain ⟨hb, hg, rfl⟩ | ⟨hb, m, hm, rfl⟩ := h
  · exact ⟨by rw [lbegCount, hb]; rfl, .inr hg⟩
  · exact ⟨by rw [lbegCount, hb, hm]; rfl, .inl hb⟩

/-- LBEG past the check of its fields. -/
theorem lbeg_fields {w : W64} (hz : w.extractLsb' 32 19 = 0) (hg : w.getLsbD 51 = true ∨ wGroup w = 0) :
    ¬(w.extractLsb' 32 19 ≠ 0 ∨ (!w.getLsbD 51 ∧ wGroup w ≠ 0)) := by
  rintro (hne | ⟨hb, hne⟩)
  · exact hne hz
  · rcases hg with hg | hg
    · rw [hg] at hb; exact absurd hb (by decide)
    · exact hne hg

theorem loopSteps : Claim.LoopSteps := by
  intro n w s r h
  refine ⟨fun count hz hcount hlen => ⟨fun hpos => ?_, fun h0 a ha => ?_⟩, fun hz hg hlen => ?_, fun hz => ⟨fun l ls hl => ?_, fun hl => ?_⟩, fun hz => ⟨fun hl hsig => ?_, fun hl hsig hle => ?_, fun hl => ?_⟩,
    completes_fault h (exec_reservedStep h w)⟩
  · have hbeg := exec_lbeg h w
    obtain ⟨hc, hg⟩ := lbegCount_legal hcount
    rw [if_neg (lbeg_fields hz hg), if_neg (by omega), hc] at hbeg
    obtain ⟨k, rfl⟩ := Nat.exists_eq_succ_of_ne_zero hpos.ne'
    exact completes_of_next hbeg ((coreOnly.refl s n).nTo _ _)
  · have hbeg := exec_lbeg h w
    obtain ⟨hc, hg⟩ := lbegCount_legal hcount
    rw [if_neg (lbeg_fields hz hg), if_neg (by omega), hc, h0] at hbeg
    simp only [ha] at hbeg
    exact completes_of_next hbeg ((coreOnly.refl s n).nTo r a)
  · have hbeg := exec_lbeg h w
    rw [if_neg (lbeg_fields hz hg), if_pos hlen] at hbeg
    exact completes_fault h hbeg
  · have hend := exec_lend h w
    rw [if_neg (not_not.2 hz), hl, List.getLast?_concat, List.dropLast_concat] at hend
    refine ⟨fun hlt => ?_, fun hle => ?_⟩
    · dsimp only at hend
      rw [if_pos hlt] at hend
      exact completes_of_next hend ((coreOnly.refl s n).nTo _ _)
    · dsimp only at hend
      rw [if_neg (by omega)] at hend
      exact completes_of_next hend ((coreOnly.refl s n).nTo _ _)
  · have hend := exec_lend h w
    rw [if_neg (not_not.2 hz), hl] at hend
    exact completes_fault h hend
  · have hend := exec_endStep h w
    rw [if_neg (not_not.2 hz), hl, if_neg (by simp), if_neg (by rw [hsig]; decide)] at hend
    exact completes_of_next hend ((coreOnly.refl s n).modCore _)
  · have hend := exec_endStep h w
    rw [if_neg (not_not.2 hz), hl, if_neg (by simp), if_pos hsig, addTok_eq, if_pos hle] at hend
    exact completes_of_next hend ((coreOnly.refl s n).setCore _)
  · have hend := exec_endStep h w
    rw [if_neg (not_not.2 hz), if_pos (by simp [hl])] at hend
    exact completes_fault h hend

/-- Settles O36. -/
theorem controlSteps : Obligations.ControlSteps := ⟨tokenSteps, loopSteps⟩

end Sys2Proof.Machine
end

section
/-! PROOFS. The state after reset (O49, O55; R23, R38, R39, R117, R196, R325, R393, R414, R419, R425). -/

namespace Sys2Proof.Machine

/-- No core is listed after reset: each holds the values of R38. -/
@[simp] theorem State.reset_core (n : Nat) : State.reset.core n = Core.reset := rfl

/-- Nothing is listed in memory after reset. -/
@[simp] theorem State.reset_rd (a : Nat) : State.reset.mem.rd a = memDefault := Memory.rd_nil a

/-- No granule is poisoned after reset. -/
@[simp] theorem State.reset_poisonedAt (a : Nat) : poisonedAt State.reset.pz a = false := rfl

@[simp] theorem Core.reset_rs (r : Nat) : Core.reset.rs r = Scalar.zero := by unfold Core.rs; split <;> rfl

theorem Core.reset_rp (r : Nat) (h : r ≠ 0) : Core.reset.rp r = Predicate.zero := by rw [Core.rp, if_neg h]; rfl

/-- Lane i's generator starts at i + 1 (R23). -/
theorem srseedReset_getD (i : Nat) (h : i < 32) : srseedReset.getD i 0 = BitVec.ofNat 32 (i + 1) := by
  rw [srseedReset, List.getD_eq_getElem?_getD, List.getElem?_map, List.getElem?_range h]
  rfl

theorem coresAtReset : Claim.CoresAtReset := by
  intro n _
  rw [State.reset_core]
  exact ⟨Core.reset_rs, Core.rp_zero _, Core.reset_rp, fun _ => rfl, fun _ => ⟨rfl, rfl⟩, fun _ => rfl, fun _ => rfl, fun _ => rfl, fun _ => rfl, rfl, rfl,
    srseedReset_getD, rfl, fun _ _ => ⟨State.reset_rd _, State.reset_poisonedAt _⟩, rfl, rfl, rfl⟩

theorem moduleAtReset : Claim.ModuleAtReset :=
  ⟨State.reset_rd, fun _ => rfl, rfl, rfl, rfl, rfl, rfl, rfl, fun _ => ⟨rfl, rfl, rfl, rfl⟩, rfl, rfl, rfl⟩

/-- Settles O49: every table of the reset state is empty, and reads as its default. -/
theorem resetState : Obligations.ResetState := ⟨coresAtReset, moduleAtReset⟩

/-- Settles O55: nothing is listed. -/
theorem resetMemoryIsCanonical : Obligations.ResetMemoryIsCanonical := Memory.wf_nil

end Sys2Proof.Machine
end

section
/-! PROOFS. The course of a vector instruction (R42, R45, R65, R124, R126): its checks, its sources, and what it leaves once it has put its results in flight. -/

namespace Sys2Proof.Machine

open Sys2Proof.Claim

/-! What a vector instruction leaves. -/

/-- The queues after the instruction has taken its sources (R42). -/
structure queuesPopped (s : State) (h : VecShape) (c : Core) : Prop where
  other : ∀ q, q ≠ h.f.qa.toNat → q ≠ h.f.qb.toNat → c.queue q = s.cur.queue q
  qa : c.queue h.f.qa.toNat = (s.cur.queue h.f.qa.toNat).drop h.pops
  qb : c.queue h.f.qb.toNat = (s.cur.queue h.f.qb.toNat).drop (if h.two || h.f.qa == h.f.qb then h.pops else 0)

/-- `t` is `s` after the instruction has taken its sources and put results in flight: its frame, but for the move past its group. -/
structure VecOut (s : State) (h : VecShape) (act : W32) (t : State) : Prop where
  others : othersKeep s t
  ran : ∃ q sr ws, t.cur = { s.cur with q := q, srseed := sr, pend := (s.cur.emits .x h.lat ws).pend } ∧ ∀ w ∈ ws, laneWrite s h act w
  popped : queuesPopped s h t.cur

section
variable {s t : State} {h : VecShape} {act : W32}

theorem VecOut.me (ht : VecOut s h act t) : t.me = s.me := by rw [State.me, State.me, ht.others.here]

/-- From the agent whose queues have been popped. -/
theorem vecOut_setCur {c : Core} (hc : ∃ q, c = { s.cur with q := q }) (hq : queuesPopped s h c) : VecOut s h act (s.setCur c) := by
  obtain ⟨q, rfl⟩ := hc
  refine ⟨(othersKeep.refl s).modCur fun _ => { s.cur with q := q }, ⟨q, s.cur.srseed, [], State.cur_setCur _ _, fun w hw => absurd hw List.not_mem_nil⟩, ?_⟩
  rw [State.cur_setCur]
  exact hq

/-- The generators may step (R23). -/
theorem VecOut.seed (ht : VecOut s h act t) (sr : List W32) : VecOut s h act (t.modCur (fun c => { c with srseed := sr })) := by
  obtain ⟨ho, ⟨q, sr0, ws, hc, hws⟩, hq⟩ := ht
  refine ⟨ho.modCur _, ⟨q, sr, ws, by rw [State.cur_modCur, hc], hws⟩, ?_⟩
  rw [State.cur_modCur]
  exact ⟨hq.other, hq.qa, hq.qb⟩

/-- Free values may be drawn. -/
theorem VecOut.fresh (ht : VecOut s h act t) (n : Nat) : VecOut s h act { t with fresh := n } :=
  ⟨ht.others.fresh n, ht.ran, ht.popped⟩

/-- Results of the instruction may enter flight. -/
theorem VecOut.emits (ht : VecOut s h act t) {vs : List Write} (hvs : ∀ w ∈ vs, laneWrite s h act w) :
    VecOut s h act (t.modCur (fun c => c.emits .x h.lat vs)) := by
  obtain ⟨ho, ⟨q, sr, ws, hc, hws⟩, hq⟩ := ht
  have hpend : (t.cur.emits .x h.lat vs).pend = (s.cur.emits .x h.lat (ws ++ vs)).pend := by
    rw [Core.emits_append]
    refine Core.emits_pend_congr ?_ (by rw [hc]) _ _ _
    rw [hc, Core.emits_eq s.cur]
  refine ⟨ho.modCur _, ⟨q, sr, ws ++ vs, ?_, fun w hw => (List.mem_append.1 hw).elim (hws w) (hvs w)⟩, ?_⟩
  · rw [State.cur_modCur, Core.emits_eq, hpend, hc]
  · rw [State.cur_modCur, Core.emits_eq]
    exact ⟨hq.other, hq.qa, hq.qb⟩

theorem VecOut.bump (ht : VecOut s h act t) : VecOut s h act t.bump := ht.fresh _

theorem VecOut.emit (ht : VecOut s h act t) {w : Write} (hw : laneWrite s h act w) : VecOut s h act (t.modCur (fun c => c.emit .x h.lat w)) :=
  ht.emits (vs := [w]) fun _ hv => List.mem_singleton.1 hv ▸ hw

/-- The frame of the claim, once the instruction has moved past its group. -/
theorem VecOut.frame (ht : VecOut s h act t) : vecFrame s (t.modCur (fun c => c.issued .x 1)) h act := by
  obtain ⟨ho, ⟨q, sr, ws, hc, hws⟩, hq⟩ := ht
  have hqueue (n : Nat) : (t.cur.issued .x 1).queue n = t.cur.queue n := by rw [Core.queue, Core.issued_q]; rfl
  rw [vecFrame, State.cur_modCur]
  refine ⟨ho.modCur _, seqMoved_issued (fun g => by rw [hc]; cases g <;> rfl) (by rw [hc]) (by rw [hc]) .x 1, ?_, fun n ha hb => ?_, ?_, ?_, ws, ?_, hws⟩
  · rw [Core.issued_q, Core.issued_srseed]
    refine coreKeeps.issued ?_ .x 1
    rw [hc]
    rfl
  · rw [hqueue, hq.other n ha hb]
  · rw [hqueue, hq.qa]
  · rw [hqueue, hq.qb]
  · rw [Core.issued_pend, hc]

end

/-! Results (R45, R124, R126). -/

theorem mem_sliceWrites_iff {core reg : Nat} {dir : BitVec 2} {k : Nat} {lanes : List (Option (W32 × Bool))} {w : Write}
    (h : w ∈ sliceWrites core reg dir k lanes) :
    ∃ i < 32, ∃ v p, lanes.getD i none = some (v, p) ∧ w = .bytes (sliceAddr core reg dir k i) (natLe 4 v.toNat) p := by
  obtain ⟨i, hi, hw⟩ := List.mem_filterMap.1 h
  refine ⟨i, List.mem_range.1 hi, ?_⟩
  split at hw
  · next v p hl => exact ⟨v, p, hl, (Option.some.inj hw).symm⟩
  · cases hw

section
variable {s t : State} {h : VecShape} {act : W32}

/-- A word of an active lane of the destination. -/
theorem laneWrite_word (hme : t.me = s.me) {i k : Nat} (hi : i < 32) (hact : h.guarded = true → act.getLsbD i = true)
    (hk : k = h.f.slice.toNat ∨ (h.w = 64 ∧ k = h.f.slice.toNat + 1)) (v : W32) (p : Bool) :
    laneWrite s h act (.bytes (sliceAddr t.me h.f.dreg.toNat h.f.dir k i) (natLe 4 v.toNat) p) :=
  .inl ⟨i, hi, k, v, p, hact, hk, by rw [hme, sliceAddr_eq]⟩

/-- The words of a slice, where every lane with a word is active. -/
theorem laneWrite_slice (hme : t.me = s.me) {k : Nat} (hk : k = h.f.slice.toNat ∨ (h.w = 64 ∧ k = h.f.slice.toNat + 1)) {lanes : List (Option (W32 × Bool))}
    (hact : h.guarded = true → ∀ i < 32, (lanes.getD i none).isSome → act.getLsbD i = true) :
    ∀ w ∈ sliceWrites t.me h.f.dreg.toNat h.f.dir k lanes, laneWrite s h act w := by
  intro w hw
  obtain ⟨i, hi, v, p, hl, rfl⟩ := mem_sliceWrites_iff hw
  exact laneWrite_word hme hi (fun hg => hact hg i hi (by rw [hl]; rfl)) hk v p

/-- The words of a destination. -/
theorem laneWrite_dest (hme : t.me = s.me) {lanes : List (Option (W32 × W32 × Bool))}
    (hact : h.guarded = true → ∀ i < 32, (lanes.getD i none).isSome → act.getLsbD i = true) :
    ∀ w ∈ destWrites t h.f h.w lanes, laneWrite s h act w := by
  have hmap {β : Type} (g : W32 × W32 × Bool → β) (i : Nat) : ((lanes.map (fun l => l.map g)).getD i none).isSome = (lanes.getD i none).isSome := by
    rw [List.getD_eq_getElem?_getD, List.getD_eq_getElem?_getD, List.getElem?_map]
    cases lanes[i]? with
    | none => rfl
    | some l => cases l <;> rfl
  intro w hw
  rcases List.mem_append.1 hw with hw | hw
  · exact laneWrite_slice hme (.inl rfl) (fun hg i hi hs => hact hg i hi (by rwa [hmap] at hs)) w hw
  · split at hw
    · next h64 => exact laneWrite_slice hme (.inr ⟨h64, rfl⟩) (fun hg i hi hs => hact hg i hi (by rwa [hmap] at hs)) w hw
    · exact absurd hw List.not_mem_nil

/-- A lane is packed only if it has an element. -/
theorem packLane_isSome {w i : Nat} {outs : List Out} (hs : (packLane t w i outs).isSome) : ∃ o ∈ outs, laneOf w o.j = i := by
  by_contra hno
  have hnil : outs.filter (fun o => laneOf w o.j = i) = [] := List.filter_eq_nil_iff.2 fun o ho => by simpa using fun he => hno ⟨o, ho, he⟩
  rw [packLane, hnil] at hs
  cases hs

/-- Rounded elements of active lanes are written. -/
theorem VecOut.writeOuts (ht : VecOut s h act t) {outs : List Out} (hout : h.guarded = true → ∀ o ∈ outs, act.getLsbD (laneOf h.w o.j) = true) :
    VecOut s h act (writeOuts t h.f h.w h.lat outs) := by
  refine VecOut.fresh (ht.emits fun w hw => ?_) (t.fresh + 32)
  rcases List.mem_append.1 hw with hw | hw
  · refine laneWrite_dest ht.me (fun hg i hi hs => ?_) w hw
    rw [List.getD_eq_getElem?_getD, List.getElem?_map, List.getElem?_range hi] at hs
    obtain ⟨o, ho, hl⟩ := packLane_isSome hs
    exact hl ▸ hout hg o ho
  · split at hw
    · exact absurd hw List.not_mem_nil
    · exact .inr (.inl ⟨_, List.mem_singleton.1 hw⟩)

/-- Rounding keeps the elements of active lanes only. -/
theorem roundAll_active (r : Rnd) (act : W32) (sr : List W32) (xs : List (Nat × Elt)) :
    ∀ o ∈ (roundAll r act sr xs).2, act.getLsbD (laneOf r.ty.width o.j) = true := by
  induction xs generalizing sr with
  | nil => exact fun o ho => absurd ho List.not_mem_nil
  | cons p rest ih =>
    obtain ⟨j, x⟩ := p
    by_cases hact : bitAt act (laneOf r.ty.width j) = true
    · simp only [roundAll, hact, Bool.not_true, Bool.false_eq_true, if_false, List.mem_cons]
      rintro o (rfl | ho)
      · exact hact
      · exact ih _ o ho
    · simp only [roundAll, hact, Bool.not_false, if_true]
      exact ih _

/-- A scan writes elements of active lanes only. -/
theorem scanGo_active (r : Rnd) (act : W32) (op : Nat) (ty : Ety) (a : Vin) (fzi : Bool) (c : Scan) (js : List Nat) :
    ∀ o ∈ (scanGo r act op ty a fzi c js).2, act.getLsbD (laneOf r.ty.width o.j) = true := by
  induction js generalizing c with
  | nil => exact fun o ho => absurd ho List.not_mem_nil
  | cons j rest ih =>
    rw [scanGo]
    dsimp only
    split
    · exact ih _
    · intro o ho
      rcases List.mem_append.1 ho with ho | ho
      · exact roundAll_active _ _ _ _ o ho
      · exact ih _ o ho

/-- An effect that completes with the frame. -/
def vecLands (s : State) (h : VecShape) (act : W32) (x : Effect) : Prop := ∃ t, x = .done t ∧ VecOut s h act t

theorem VecOut.lands (ht : VecOut s h act t) : vecLands s h act (.done t) := ⟨t, rfl, ht⟩

/-- Elements that are rounded on the active lanes are written. -/
theorem VecOut.vecFinish (ht : VecOut s h act t) {r : Rnd} (hr : r.ty.width = h.w) (xs : List (Nat × Elt)) :
    vecLands s h act (vecFinish t h.f r h.lat act xs) := by
  refine ⟨_, rfl, ?_⟩
  rw [hr]
  exact (ht.seed _).writeOuts fun _ o ho => hr ▸ roundAll_active r act _ xs o ho

/-- Whole lanes are moved. -/
theorem VecOut.moveLanes (ht : VecOut s h act t) (hg : h.guarded = false) (lanes : List (W32 × Bool × Bool)) :
    vecLands s h act (moveLanes t h.f h.lat lanes) :=
  ⟨_, rfl, VecOut.fresh (ht.emits (laneWrite_slice ht.me (.inl rfl) fun hg' => absurd hg' (by rw [hg]; decide))) (t.fresh + 32)⟩

/-- Elements that are no choice of the guard are written. -/
theorem VecOut.writeAll (ht : VecOut s h act t) (hg : h.guarded = false) (outs : List Out) : VecOut s h act (Machine.writeOuts t h.f h.w h.lat outs) :=
  ht.writeOuts fun hg' => absurd hg' (by rw [hg]; decide)

end

/-! Sources (R42). -/

/-- Entries that are not visible are not taken. -/
theorem takeQ_not_ready {s : State} {c : Core} {q : BitVec 3} {n : Nat} (h : ¬ready s q n) (hq : c.queue q.toNat = s.cur.queue q.toNat) (hnow : c.now = s.cur.now) :
    c.takeQ q.toNat n = none := by
  rw [Core.takeQ]
  refine if_neg fun ⟨hlen, hall⟩ => h ?_
  rw [hq] at hlen hall
  rw [hnow] at hall
  exact ⟨by rw [List.length_take] at hlen; omega, by simpa using hall⟩

/-- The course of an instruction past its checks: it underflows where a source is not there, and completes with its frame where they are. -/
structure VecBody (s : State) (h : VecShape) (act : W32) (x : Effect) : Prop where
  noA : 0 < h.pops → ¬ready s h.f.qa h.pops → x = .trap (TrapInfo.of 0x0B .x)
  noB : 0 < h.pops → h.two = true → ready s h.f.qa h.pops → ¬ready s h.f.qb h.pops → x = .trap (TrapInfo.of 0x0B .x)
  lands : ready s h.f.qa h.pops → (h.two = true → ready s h.f.qb h.pops) → vecLands s h act x

section
variable {s : State} {h : VecShape} {act : W32}

/-- An instruction without sources. -/
theorem vecBody_none {x : Effect} (hp : h.pops = 0) (hx : VecOut s h act s → vecLands s h act x) : VecBody s h act x := by
  refine ⟨fun h0 => absurd h0 (by omega), fun h0 => absurd h0 (by omega), fun _ _ => hx ?_⟩
  refine ⟨othersKeep.refl s, ⟨s.cur.q, s.cur.srseed, [], rfl, fun w hw => absurd hw List.not_mem_nil⟩, ⟨fun _ _ _ => rfl, by rw [hp]; rfl, ?_⟩⟩
  rw [hp, ite_self]
  rfl

/-- An instruction of one source. -/
theorem vecBody_pop1 {n : Nat} {k : State → Vin → Effect} (hn : h.pops = n) (htwo : h.two = false) (hk : ∀ t a, VecOut s h act t → vecLands s h act (k t a)) :
    VecBody s h act (pop1 s h.f.qa n k) := by
  subst hn
  refine ⟨fun _ hno => ?_, fun _ h2 => absurd h2 (by rw [htwo]; decide), fun ha _ => ?_⟩
  · rw [pop1, takeQ_not_ready hno rfl rfl, underflow]
  · rw [pop1, takeQ_ready ha rfl rfl]
    refine hk _ _ (vecOut_setCur ⟨_, rfl⟩ ⟨fun q hqa _ => Core.queue_setQueue_other _ _ _ _ hqa, Core.queue_setQueue_same _ _ _, ?_⟩)
    by_cases hq : h.f.qa = h.f.qb
    · rw [← hq, Core.queue_setQueue_same, if_pos (by simp)]
    · rw [Core.queue_setQueue_other _ _ _ _ fun e => hq (BitVec.eq_of_toNat_eq e.symm), if_neg (by simp [htwo, hq])]
      rfl

/-- An instruction of two sources. -/
theorem vecBody_pop2 {n : Nat} {k : State → Vin → Vin → Effect} (hn : h.pops = n) (htwo : h.two = true) (hk : ∀ t a b, VecOut s h act t → vecLands s h act (k t a b)) :
    VecBody s h act (pop2 s h.f.qa h.f.qb n k) := by
  subst hn
  have hother (hq : h.f.qa ≠ h.f.qb) (l : List QEntry) : (s.cur.setQueue h.f.qa.toNat l).queue h.f.qb.toNat = s.cur.queue h.f.qb.toNat :=
    Core.queue_setQueue_other _ _ _ _ fun e => hq (BitVec.eq_of_toNat_eq e.symm)
  refine ⟨fun _ hno => ?_, fun _ _ ha hno => ?_, fun ha hb => ?_⟩
  · rw [pop2, takeQ_not_ready hno rfl rfl, underflow]
  · have hq : h.f.qa ≠ h.f.qb := fun e => hno (e ▸ ha)
    rw [pop2, takeQ_ready ha rfl rfl]
    dsimp only
    rw [if_neg hq, takeQ_not_ready hno (hother hq _) rfl, underflow]
  · rw [pop2, takeQ_ready ha rfl rfl]
    dsimp only
    by_cases hq : h.f.qa = h.f.qb
    · rw [if_pos hq]
      refine hk _ _ _ (vecOut_setCur ⟨_, rfl⟩ ⟨fun q hqa _ => Core.queue_setQueue_other _ _ _ _ hqa, Core.queue_setQueue_same _ _ _, ?_⟩)
      rw [← hq, Core.queue_setQueue_same, if_pos (by simp)]
    · rw [if_neg hq, takeQ_ready (hb htwo) (hother hq _) rfl]
      refine hk _ _ _ (vecOut_setCur ⟨_, rfl⟩ ⟨fun q hqa hqb => ?_, ?_, ?_⟩)
      · rw [Core.queue_setQueue_other _ _ _ _ hqb, Core.queue_setQueue_other _ _ _ _ hqa]
      · rw [Core.queue_setQueue_other _ _ _ _ fun e => hq (BitVec.eq_of_toNat_eq e), Core.queue_setQueue_same]
      · rw [Core.queue_setQueue_same, if_pos (by simp [htwo])]

end

/-! Checks (R45, R60, R65, R126). -/

theorem destBad_iff (f : XVec) (w : Nat) : destBad f w = false ↔ legalDest f w := by
  have hbit : bitAt f.slice 0 = false ↔ f.slice.toNat % 2 = 0 := by
    rw [bitAt, ← BitVec.testBit_toNat, Nat.testBit_zero]; simp
  simp [destBad, legalDest, hbit]

section
variable {s : State} {f : XVec} {w : Nat} {k : W32 → Effect}

theorem vecStart_illegal (h : ¬legalDest f w) : vecStart s f w k = .trap (TrapInfo.of 0x02 .x) := by
  rw [vecStart, if_pos (by rw [← destBad_iff] at h; simpa using h), illegalOperand]

/-- A legal destination: the instruction runs on its active lanes, or its guard is poisoned. -/
theorem vecStart_legal (h : legalDest f w) : vecStart s f w k = match guardOf s.cur f.md with
    | .error r => poisonTrap .x r
    | .ok act => k act := by
  rw [vecStart, (destBad_iff f w).2 h]
  rfl

theorem guardOf_active {act : W32} (h : activeLanes s f.md act) : guardOf s.cur f.md = .ok act := by
  unfold activeLanes at h
  cases hmd : f.md with
  | none => rw [hmd] at h; rw [h]; rfl
  | some m =>
    rw [hmd] at h
    rw [guardOf]
    dsimp only at h ⊢
    split at h
    · next h28 =>
      obtain ⟨hp, rfl⟩ := h
      rw [bitAt, h28, if_pos rfl, fld, hp]
      rfl
    · next h28 => rw [bitAt, if_neg h28, h]

theorem guardOf_poisoned {m : BitVec 32} {r : PRec} (hmd : f.md = some m) (h28 : m.getLsbD 28 = true) (h : (s.cur.rp (m.extractLsb' 24 4).toNat).pz = some r) :
    guardOf s.cur f.md = .error r := by
  rw [hmd, guardOf]
  dsimp only
  rw [bitAt, h28, if_pos rfl, fld, h]

end

/-- The course of a vector instruction, as the claims tell it. -/
structure VecRuns (s : State) (h : VecShape) (x : Effect) : Prop where
  dest : ¬legalDest h.f h.w → x = .trap (TrapInfo.of 0x02 .x)
  part : legalDest h.f h.w → h.ok = false → ∀ act, activeLanes s h.f.md act → x = .trap (TrapInfo.of 0x02 .x)
  guard : legalDest h.f h.w → h.ok = true → ∀ m r, h.f.md = some m → m.getLsbD 28 = true → (s.cur.rp (m.extractLsb' 24 4).toNat).pz = some r → x = .trap (TrapInfo.poison .x r)
  body : legalDest h.f h.w → h.ok = true → ∀ act, activeLanes s h.f.md act → VecBody s h act x

section
variable {s : State} {h : VecShape} {k : W32 → Effect}

/-- An instruction that checks its part, if it does, on its active lanes. -/
theorem vecRuns_start (hpart : h.ok = false → ∀ act, k act = .trap (TrapInfo.of 0x02 .x)) (hk : h.ok = true → ∀ act, VecBody s h act (k act)) :
    VecRuns s h (vecStart s h.f h.w k) := by
  refine ⟨vecStart_illegal, fun hd hok act ha => ?_, fun hd _ m r hmd h28 hp => ?_, fun hd hok act ha => ?_⟩
  · rw [vecStart_legal hd, guardOf_active ha]
    exact hpart hok act
  · rw [vecStart_legal hd, guardOf_poisoned hmd h28 hp]
    rfl
  · rw [vecStart_legal hd, guardOf_active ha]
    exact hk hok act

/-- An instruction whose extension word is always legal. -/
theorem vecRuns_plain (hok : h.ok = true) (hk : ∀ act, VecBody s h act (k act)) : VecRuns s h (vecStart s h.f h.w k) :=
  vecRuns_start (fun hno => absurd hno (by rw [hok]; decide)) fun _ => hk

/-- An instruction that checks its part before anything else. -/
theorem vecRuns_checked {bad : Prop} [Decidable bad] (hok : h.ok = decide ¬bad) (hk : ∀ act, VecBody s h act (k act)) :
    VecRuns s h (if bad then illegalOperand .x else vecStart s h.f h.w k) := by
  by_cases hb : bad
  · have hno : h.ok = false := by rw [hok]; simpa using hb
    rw [if_pos hb, illegalOperand]
    exact ⟨fun _ => rfl, fun _ _ _ _ => rfl, fun _ h1 => absurd h1 (by rw [hno]; decide), fun _ h1 => absurd h1 (by rw [hno]; decide)⟩
  · rw [if_neg hb]
    exact vecRuns_plain (by rw [hok]; simpa using hb) hk

end

end Sys2Proof.Machine
end

section
/-! PROOFS. Every vector instruction takes the course of its shape (O28; R42, R45, R81, R124, R126, R129 to R143). -/

namespace Sys2Proof.Machine

open Sys2Proof.Claim

/-! The forms that several instructions share. -/

section
variable {s : State} {f : XVec} {lat : Nat}

/-- No floating-point type takes two entries. -/
theorem pops_fp (tr : BitVec 5) : (if (fpType tr).width = 64 then 2 else 1) = 1 := if_neg (fpType_narrow tr)

/-- Floating point, one source. -/
theorem vecRuns_f1 (op : Fmt → Fv → FnVal) : VecRuns s (shape1 f (fpType f.tr).width lat) (vecF1 s f lat op) :=
  vecRuns_plain rfl fun _ => vecBody_pop1 (pops_fp f.tr) rfl fun _ _ ht => ht.vecFinish rfl _

/-- Floating point, two sources. -/
theorem vecRuns_f2 (op : Rm → Fv → Fv → Ev) : VecRuns s (shape2 f (fpType f.tr).width lat) (vecF2 s f lat op) :=
  vecRuns_plain rfl fun _ => vecBody_pop2 (pops_fp f.tr) rfl fun _ _ _ ht => ht.vecFinish rfl _

/-- Fused multiply-adds. -/
theorem vecRuns_fma (ext : BitVec 32) (np nb : Bool) : VecRuns s (shape2 f (fpType f.tr).width 4) (vecFma s f ext np nb) :=
  vecRuns_plain rfl fun _ => vecBody_pop2 (pops_fp f.tr) rfl fun _ _ _ ht => ht.vecFinish rfl _

/-- Integers: entries of width `w` of each source, results of width `wd`. -/
theorem vecRuns_int {n : Nat} (w wd : Nat) (sg two : Bool) (t : Int × Option PRec) (op : Int → Int → Int → Int) (hn : n = entries w) :
    VecRuns s ⟨f, wd, n, two, lat, true, true⟩ (vecI s f w wd sg lat two t op) := by
  cases two with
  | true =>
    simp only [vecI, if_true]
    exact vecRuns_plain rfl fun _ => vecBody_pop2 hn rfl fun _ _ _ ht => ht.vecFinish rfl _
  | false =>
    simp only [vecI, Bool.false_eq_true, if_false]
    exact vecRuns_plain rfl fun _ => vecBody_pop1 hn rfl fun _ _ ht => ht.vecFinish rfl _

/-- Integers, two sources of one type. -/
theorem vecRuns_i2 (op : Nat → Bool → Int → Int → Int) : VecRuns s (shape2 f (intType f.tr).1 lat) (vecI2 s f lat op) := by
  rw [vecI2]
  generalize intType f.tr = p
  exact vecRuns_int p.1 p.1 p.2 true (0, none) (fun a b _ => op p.1 p.2 a b) rfl

/-- Integers, one source. -/
theorem vecRuns_i1 (op : Nat → Int → Int) : VecRuns s (shape1 f (intType f.tr).1 2) (vecI1 s f op) := by
  rw [vecI1]
  generalize intType f.tr = p
  exact vecRuns_int p.1 p.1 p.2 false (0, none) (fun a _ _ => op p.1 a) rfl

/-- Scans. -/
theorem vecRuns_scan {n : Nat} (ty td : Ety) (mode : Rm) (hn : n = entries ty.width) : VecRuns s ⟨f, td.width, n, false, lat, true, true⟩ (vscan s f ty td mode lat) :=
  vecRuns_plain rfl fun _ => vecBody_pop1 hn rfl fun _ _ ht => ((ht.seed _).writeOuts fun _ => scanGo_active _ _ _ _ _ _ _ _).lands

end

/-! The others. -/

section
variable (s : State) (f : XVec) (ext : BitVec 32)

theorem vecRuns_class : ∃ x, exec (.vclass f) s = s.issue .x x ∧ VecRuns s (shape1 f (fpType f.tr).width 2) x := by
  refine ⟨_, rfl, vecRuns_plain rfl fun act => vecBody_pop1 (pops_fp f.tr) rfl fun t a ht => (ht.writeOuts fun _ o ho => ?_).lands⟩
  obtain ⟨j, hj, rfl⟩ := List.mem_map.1 ho
  exact (List.mem_filter.1 hj).2

/-- Reductions: without an active element nothing is written. -/
theorem vecRuns_red : VecRuns s (shape1 f (scanType f).1.width 6) (vred s f) := by
  refine vecRuns_plain rfl fun act => vecBody_pop1 rfl rfl fun t a ht => ?_
  dsimp only
  split
  · exact ht.lands
  · exact (ht.seed _).vecFinish rfl _

theorem vecRuns_mov : ∃ x, exec (.vmov f) s = s.issue .x x ∧ VecRuns s ⟨f, 32, 1, false, 1, false, true⟩ x :=
  ⟨_, rfl, vecRuns_plain rfl fun _ => vecBody_pop1 rfl rfl fun _ _ ht => ht.moveLanes rfl _⟩

theorem vecRuns_rot : ∃ x, exec (.vrot f ext) s = s.issue .x x ∧ VecRuns s ⟨f, 32, 1, false, 2, false, true⟩ x :=
  ⟨_, rfl, vecRuns_plain rfl fun _ => vecBody_pop1 rfl rfl fun _ _ ht => ht.moveLanes rfl _⟩

theorem vecRuns_perm : ∃ x, exec (.vperm f) s = s.issue .x x ∧ VecRuns s ⟨f, 32, 1, true, 3, false, true⟩ x :=
  ⟨_, rfl, vecRuns_plain rfl fun _ => vecBody_pop2 rfl rfl fun _ _ _ ht => ht.moveLanes rfl _⟩

theorem vecRuns_sel : ∃ x, exec (.vsel f ext) s = s.issue .x x ∧ VecRuns s ⟨f, 32, 1, true, 2, false, true⟩ x :=
  ⟨_, rfl, vecRuns_plain rfl fun _ => vecBody_pop2 rfl rfl fun _ _ _ ht => ht.moveLanes rfl _⟩

theorem vecRuns_lane : ∃ x, exec (.vlane f) s = s.issue .x x ∧ VecRuns s ⟨f, (intType f.tr).1, 0, false, 2, false, true⟩ x :=
  ⟨_, rfl, vecRuns_plain rfl fun _ => vecBody_none rfl fun ht => (ht.writeAll rfl _).lands⟩

/-- VBCAST: a poisoned third source is written as it stands, with its poison. -/
theorem vecRuns_bcast : ∃ x, exec (.vbcast f ext) s = s.issue .x x ∧ VecRuns s ⟨f, (intType f.tr).1, 0, false, 2, false, true⟩ x := by
  refine ⟨_, rfl, vecRuns_plain rfl fun act => vecBody_none rfl fun ht => ?_⟩
  dsimp only
  split
  · exact (ht.writeAll rfl _).lands
  · exact (ht.emits (laneWrite_dest ht.me fun hg => absurd hg Bool.false_ne_true)).lands

/-- VCVT checks its part first (R136). -/
theorem vecRuns_cvt {h : VecShape} (hsh : vecShape (.vcvt f ext) = some h) : VecRuns s h (vcvt s f ext) := by
  cases hsh
  refine vecRuns_checked ?_ fun _ => vecBody_pop1 rfl rfl fun _ _ ht => ht.vecFinish rfl _
  have hpos (c : Nat) : 0 < perVec (cvtType c).width := by
    rw [(cvtType_width c).perVec_eq]
    exact Nat.mul_pos (by decide) (cvtType_width c).perLane_pos
  refine decide_eq_decide.2 ?_
  have hparts (a b p : Nat) (ha : 0 < a) (hb : 0 < b) : p < max a b / min a b ↔ ¬max a b / min a b - 1 < p := by
    have : 0 < max a b / min a b := Nat.div_pos min_le_max (lt_min ha hb)
    omega
  exact hparts _ _ _ (hpos _) (hpos _)

/-- VDQMX checks its part first (R139). -/
theorem vecRuns_dqmx {h : VecShape} (hsh : vecShape (.vdqmx f ext) = some h) : VecRuns s h (vdqmx s f ext) := by
  cases hsh
  exact vecRuns_checked (decide_eq_decide.2 not_lt.symm) fun _ => vecBody_pop1 rfl rfl fun _ _ ht => ht.vecFinish rfl _

/-- VQMX writes its block and the byte of its scale register, whatever the draws and the block are (R138). -/
theorem vecRuns_qmx {h : VecShape} (hsh : vecShape (.vqmx f ext) = some h) : VecRuns s h (vqmx s f ext) := by
  cases hsh
  refine vecRuns_checked (decide_eq_decide.2 not_lt.symm) fun act => vecBody_pop1 rfl rfl fun t a ht => ?_
  extract_lets at_
  generalize drawAll _ _ _ = draws
  obtain ⟨sr, st⟩ := draws
  dsimp only
  generalize mxQuantise _ _ _ _ _ = block
  obtain ⟨scale, codes, fl⟩ := block
  refine ⟨_, rfl, VecOut.bump (VecOut.emit (VecOut.writeAll ?_ rfl _) (.inr (.inr ⟨_, _, _, _, _, rfl⟩)))⟩
  split
  · exact ht.seed _
  · exact ht

/-- What VINS comes to on a legal destination, for elements of width `w`. -/
def insElement (w : Nat) : Effect :=
  let idx := (ext.extractLsb' 0 8).toNat
  let x := s.cur.rs (ext.extractLsb' 8 6).toNat
  let word (k : Nat) (v : W32) (p : Bool) : Write := .bytes (sliceAddr s.me f.dreg.toNat f.dir k (laneOf w idx)) (natLe 4 v.toNat) p
  if perVec w ≤ idx then illegalOperand .x
  else if w = 64 then
    .done (s.modCur (fun c => c.emits .x 2 [word f.slice.toNat (x.v.extractLsb' 0 32) x.pz.isSome, word (f.slice.toNat + 1) (x.v.extractLsb' 32 32) x.pz.isSome]))
  else
    let old := s.word (sliceAddr s.me f.dreg.toNat f.dir f.slice.toNat (laneOf w idx))
    let sh := idx % (32 / w) * w
    .done (s.modCur (fun c => c.emit .x 2 (word f.slice.toNat
      (BitVec.ofNat 32 (old.1.toNat - old.1.toNat / 2 ^ sh % 2 ^ w * 2 ^ sh + x.v.toNat % 2 ^ w * 2 ^ sh)) (x.pz.isSome || (decide (w < 32) && old.2)))))

theorem exec_vins : exec (.vins f ext) s = s.issue .x (vecStart s f (intType f.tr).1 (fun _ => insElement s f ext (intType f.tr).1)) := rfl

variable {s f ext} in
/-- An element of the destination is written. -/
theorem insElement_lands {h : VecShape} {act : W32} (hw : isWidth h.w) (hg : h.guarded = false) (hlat : h.lat = 2) (hidx : (ext.extractLsb' 0 8).toNat < perVec h.w)
    (ht : VecOut s h act s) : vecLands s h act (insElement s h.f ext h.w) := by
  have hlane : laneOf h.w (ext.extractLsb' 0 8).toNat < 32 := by
    rw [hw.perVec_eq] at hidx
    exact (Nat.div_lt_iff_lt_mul hw.perLane_pos).2 hidx
  have hact : h.guarded = true → act.getLsbD (laneOf h.w (ext.extractLsb' 0 8).toNat) = true := fun hg' => absurd hg' (by rw [hg]; decide)
  rw [insElement, ← hlat]
  dsimp only
  rw [if_neg (not_le.2 hidx)]
  split
  · next h64 =>
    refine (ht.emits fun w hw => ?_).lands
    rcases List.mem_pair.1 hw with rfl | rfl
    · exact laneWrite_word rfl hlane hact (.inl rfl) _ _
    · exact laneWrite_word rfl hlane hact (.inr ⟨h64, rfl⟩) _ _
  · exact (ht.emit (laneWrite_word rfl hlane hact (.inl rfl) _ _)).lands

/-- VINS checks its element after its guard (R143). -/
theorem vecRuns_ins {h : VecShape} (hsh : vecShape (.vins f ext) = some h) : VecRuns s h (vecStart s f (intType f.tr).1 (fun _ => insElement s f ext (intType f.tr).1)) := by
  cases hsh
  refine vecRuns_start (fun hok _ => ?_) fun hok act => vecBody_none rfl fun ht => insElement_lands (intType_width _) rfl rfl (of_decide_eq_true hok) ht
  exact if_pos (not_lt.1 (of_decide_eq_false hok))

end

/-! The table, and the obligation. -/

section
variable {i : Instr} {s : State} {h : VecShape}

/-- Every vector instruction takes the course of its shape. -/
theorem vecShape_runs (hsh : vecShape i = some h) : ∃ x, exec i s = s.issue .x x ∧ VecRuns s h x := by
  cases i with
  | vadd f | vsub f | vmul f | vmin f | vmax f | vminnum f | vmaxnum f => cases hsh; exact ⟨_, rfl, vecRuns_f2 _⟩
  | vfma f ext | vfms f ext | vfnma f ext => cases hsh; exact ⟨_, rfl, vecRuns_fma ext _ _⟩
  | vrcp f | vrsq f | vexp2 f | vlog2 f | vsqrt f => cases hsh; exact ⟨_, rfl, vecRuns_f1 _⟩
  | vclass f => cases hsh; exact vecRuns_class s f
  | viadd f | visub f | vand f | vor f | vxor f | vshl f | vshr f | vsra f | vimin f | vimax f | vimul f | vimulh f => cases hsh; exact ⟨_, rfl, vecRuns_i2 _⟩
  | vimad f ext | vimadw f ext => cases hsh; exact ⟨_, rfl, vecRuns_int _ _ _ true _ _ rfl⟩
  | viaddw f => cases hsh; exact ⟨_, rfl, vecRuns_int _ _ _ true _ _ rfl⟩
  | vclz f | vpopc f => cases hsh; exact ⟨_, rfl, vecRuns_i1 _⟩
  | vcvt f ext => exact ⟨_, rfl, vecRuns_cvt s f ext hsh⟩
  | vqmx f ext => exact ⟨_, rfl, vecRuns_qmx s f ext hsh⟩
  | vdqmx f ext => exact ⟨_, rfl, vecRuns_dqmx s f ext hsh⟩
  | vscan f => cases hsh; exact ⟨_, rfl, vecRuns_scan _ _ _ rfl⟩
  | vscanWide f => cases hsh; exact ⟨_, rfl, vecRuns_scan (.int 32 _) (.int 64 _) _ rfl⟩
  | vred f => cases hsh; exact ⟨_, rfl, vecRuns_red s f⟩
  | vperm f => cases hsh; exact vecRuns_perm s f
  | vrot f ext => cases hsh; exact vecRuns_rot s f ext
  | vbcast f ext => cases hsh; exact vecRuns_bcast s f ext
  | vsel f ext => cases hsh; exact vecRuns_sel s f ext
  | vmov f => cases hsh; exact vecRuns_mov s f
  | vlane f => cases hsh; exact vecRuns_lane s f
  | vins f ext => exact ⟨_, exec_vins s f ext, vecRuns_ins s f ext hsh⟩
  | _ => cases hsh

end

/-- Where its operands are legal and there, a vector instruction completes with its frame. -/
theorem vectorCompletes : Claim.VectorCompletes := by
  intro i s h act hsh hok hd ha hqa hqb
  obtain ⟨x, hx, hruns⟩ := vecShape_runs (s := s) hsh
  obtain ⟨t, rfl, ht⟩ := (hruns.body hd hok act ha).lands hqa hqb
  exact completes_of_done hx ht.frame

/-- A vector instruction reports the first of its faults. -/
theorem vectorTraps : Claim.VectorTraps := by
  intro i s h hsh
  obtain ⟨x, hx, hruns⟩ := vecShape_runs (s := s) hsh
  have htrap {tr : TrapInfo} (he : x = .trap tr) : traps i s .x tr := traps_of_trap (he ▸ hx)
  exact ⟨fun hd => htrap (hruns.dest hd), fun hd hok act ha => htrap (hruns.part hd hok act ha),
    fun hd hok m r hmd h28 hp => htrap (hruns.guard hd hok m r hmd h28 hp),
    fun hd hok act ha h0 => ⟨fun hno => htrap ((hruns.body hd hok act ha).noA h0 hno), fun h2 hya hno => htrap ((hruns.body hd hok act ha).noB h0 h2 hya hno)⟩⟩

/-- Settles O28: every vector instruction takes the course of its shape, whose checks come in the order destination, part, guard, sources. -/
theorem vectorInstructions : Obligations.VectorInstructions := ⟨vectorCompletes, vectorTraps⟩

end Sys2Proof.Machine
end

section
/-! PROOFS. What a step picks (O50; R40, R47, R64, R73, R206, R271, R415): the rest of a cycle, a token step of N, an engine's group, or an event that is due. -/

namespace Sys2Proof.Machine

open Sys2Proof.Claim

/-- What a step does with what it has picked. -/
def Pick.answer (p : Pick) : Result :=
  match p with
  | .run s i => exec i s
  | .rest s => .next s

theorem step_eq (s : State) : step s = if s.checked && s.agenda.isEmpty then .fault .machineChecked else s.nextMove.answer := rfl

/-- The issuing agent is not frozen. -/
def State.thawed (s : State) : State := s.modCur fun c => { c with frozen := false }

theorem State.cur_thawed (s : State) : s.thawed.cur = { s.cur with frozen := false } := State.cur_modCur _ _

theorem State.here_thawed (s : State) : s.thawed.here = s.here := State.modCur_here _ _

/-- Being frozen has no part in a token step of N. -/
theorem State.nTurn_thawed (s : State) : s.thawed.nTurn = s.nTurn := by
  rw [State.nTurn, State.here_thawed, State.cur_thawed]
  rfl

theorem State.isCp_thawed (s : State) : s.thawed.isCp = s.isCp := by rw [State.isCp, State.here_thawed, State.isCp]

/-- Within a cycle the issuing agent goes through its turns. -/
theorem step_turns {s : State} (hc : s.checked = false) (hm : s.cur.moves = true) (hf : s.cur.frozen = false) (ht : s.cur.turn ≠ 0) :
    step s = (scanTurns s.thawed 9).answer := by
  rw [step_eq, if_neg (by simp [hc]), State.nextMove, if_pos ⟨hm, ht, by simp [hf]⟩, State.restCycle]
  cases s.here <;> simp [hf, State.thawed]

section
variable {s : State}

/-- The token step of N comes first. -/
theorem scanTurns_token {i : Instr} (n : Nat) (h : s.nTurn = some i) : scanTurns s (n + 1) = .run s i := by
  rw [scanTurns]
  simp only [h]

/-- Otherwise the engine of the turn issues. -/
theorem scanTurns_go {i : Instr} (n : Nat) (h : s.nTurn = none) (ht : s.cur.turn ≤ 8) (hi : s.cur.turnOf s.isCp (s.wordsOf s.here) s.cur.turn = .go i) :
    scanTurns s (n + 1) = .run s i := by
  rw [scanTurns]
  simp only [h, if_neg (not_lt.2 ht), hi]

/-- An engine that is free and has a group issues it in its turn, a WAIT that may still come to hold in its turn at the end of the cycle. -/
theorem turnOf_group {c : Core} {cp : Bool} {words : Nat → List W32} {t : Nat} {e : Engine} {g : Group} (he : turnEngine t = e) (hfree : c.free e = true)
    (hg : (c.seqOf e).nextGroup = some g) (ht : deferred c (decodeGroup cp e (c.seqOf e) g) = decide (4 < t)) :
    c.turnOf cp words t = .go ((decodeGroup cp e (c.seqOf e) g).instr e) := by
  subst he
  rw [Core.turnOf]
  dsimp only
  rw [if_neg (by simp [hg]), hfree, hg]
  by_cases h4 : t ≤ 4
  · simp [h4, ht]
  · simp [h4, ht, not_le.1 h4]

end

/-- The turn in which an engine issues, without its WAITs. -/
def firstTurn (e : Engine) : Nat := match e with | .s => 1 | .l => 2 | .x => 3 | .w => 4

theorem turnEngine_firstTurn (e : Engine) : turnEngine (firstTurn e) = e ∧ turnEngine (firstTurn e + 4) = e := by cases e <;> exact ⟨rfl, rfl⟩

/-- The step of an agent at the turn of an engine that has a group. -/
theorem step_group {e : Engine} {g : Group} {s : State} (hc : s.checked = false) (hm : s.cur.moves = true) (hf : s.cur.frozen = false) (hfree : s.cur.free e = true)
    (hg : (s.cur.seqOf e).nextGroup = some g) (hn : s.nTurn = none)
    (ht : s.cur.turn = if deferred s.cur (decodeGroup s.isCp e (s.cur.seqOf e) g) then firstTurn e + 4 else firstTurn e) :
    step s = exec ((decodeGroup s.isCp e (s.cur.seqOf e) g).instr e) s.thawed := by
  have hseq : ({ s.cur with frozen := false } : Core).seqOf e = s.cur.seqOf e := by cases e <;> rfl
  have hturn : 1 ≤ s.cur.turn ∧ s.cur.turn ≤ 8 := by
    rw [ht]
    cases e <;> split <;> decide
  have hwhen : deferred s.cur (decodeGroup s.isCp e (s.cur.seqOf e) g) = decide (4 < s.cur.turn) ∧ turnEngine s.cur.turn = e := by
    rw [ht]
    cases deferred s.cur (decodeGroup s.isCp e (s.cur.seqOf e) g) with
    | false => exact ⟨by cases e <;> rfl, (turnEngine_firstTurn e).1⟩
    | true => exact ⟨by cases e <;> rfl, (turnEngine_firstTurn e).2⟩
  have hgo : s.thawed.cur.turnOf s.thawed.isCp (s.thawed.wordsOf s.thawed.here) s.thawed.cur.turn = .go ((decodeGroup s.isCp e (s.cur.seqOf e) g).instr e) := by
    rw [State.isCp_thawed, ← hseq]
    generalize s.thawed.wordsOf s.thawed.here = words
    rw [State.cur_thawed]
    exact turnOf_group hwhen.2 hfree (hseq ▸ hg) (hseq ▸ hwhen.1)
  rw [step_turns hc hm hf (by omega), scanTurns_go 8 (s.nTurn_thawed.trans hn) (by rw [State.cur_thawed]; exact hturn.2) hgo]
  rfl

/-- The instruction of a group as the claim tells it: it is due in the turn of its kind. -/
theorem group_issues {e : Engine} {g : Group} {i : Instr} {s : State} (hc : s.checked = false) (hm : s.cur.moves = true) (hf : s.cur.frozen = false) (hfree : s.cur.free e = true)
    (hg : (s.cur.seqOf e).nextGroup = some g) (hn : s.nTurn = none) (hd : decodeGroup s.isCp e (s.cur.seqOf e) g = .run i) :
    let waits : Prop := ∃ (en : Engine) (f : TokWord), i = .wait en f ∧ f.n.toNat ≤ (s.cur.tok f.tok.toNat).ceiling.toNat
    (¬waits → s.cur.turn = firstTurn e → step s = exec i s.thawed) ∧ (waits → s.cur.turn = firstTurn e + 4 → step s = exec i s.thawed) := by
  have hstep := step_group hc hm hf hfree hg hn
  rw [hd] at hstep
  refine ⟨fun hno ht => hstep ?_, fun ⟨en, f, hi, hle⟩ ht => hstep ?_⟩
  · rw [ht, if_neg]
    intro hdef
    unfold deferred at hdef
    split at hdef
    · next en f heq => exact hno ⟨en, f, Due.run.inj heq, of_decide_eq_true hdef⟩
    · cases hdef
  · subst hi
    rw [ht, if_pos (by rw [deferred]; exact decide_eq_true hle)]

/-- A group that decodes to nothing is the illegal instruction. -/
theorem group_illegal {e : Engine} {g : Group} {s : State} (hc : s.checked = false) (hm : s.cur.moves = true) (hf : s.cur.frozen = false) (hfree : s.cur.free e = true)
    (hg : (s.cur.seqOf e).nextGroup = some g) (hn : s.nTurn = none) (hd : decodeGroup s.isCp e (s.cur.seqOf e) g = .illegal g.code.word) (ht : s.cur.turn = firstTurn e) :
    step s = exec (.illegalInstruction e g.code.word) s.thawed := by
  have hstep := step_group hc hm hf hfree hg hn
  rw [hd] at hstep
  exact hstep ht

theorem groupsAreExecuted : Claim.GroupsAreExecuted := by
  intro e g s hc hm hf hfree hg hn first runs waits issues
  have hissue (i : Instr) (hd : decodeGroup s.isCp e (s.cur.seqOf e) g = .run i) : issues i := by
    cases e <;> exact group_issues hc hm hf hfree hg hn hd
  have hillegal (hd : decodeGroup s.isCp e (s.cur.seqOf e) g = .illegal g.code.word) (ht : s.cur.turn = first) : runs (.illegalInstruction e g.code.word) := by
    cases e <;> exact group_illegal hc hm hf hfree hg hn hd ht
  refine ⟨fun hd => hillegal (by simp [decodeGroup, hd]), fun i hd => ⟨fun hst => hissue i ?_, fun w hst hl => ⟨fun j hj => hissue j (by simp [decodeGroup, hd, hst, hl, hj]),
    fun hj => hillegal (by simp [decodeGroup, hd, hst, hl, hj])⟩⟩⟩
  rcases hst with hst | hl
  · simp [decodeGroup, hd, hst]
  · cases hst : g.code.st <;> simp [decodeGroup, hd, hst, hl]

/-- The token step of N, whose place has come, is executed. -/
theorem step_token {i : Instr} {s : State} (hc : s.checked = false) (hm : s.cur.moves = true) (hf : s.cur.frozen = false) (ht : s.cur.turn ≠ 0) (h : s.nTurn = some i) :
    step s = exec i s.thawed := by
  rw [step_turns hc hm hf ht, scanTurns_token 8 (s.nTurn_thawed.trans h)]
  rfl

theorem tokenStepsAreExecuted : Claim.TokenStepsAreExecuted := by
  intro n r w s hc hhere hm hf hrun hfault hstep hword
  refine ⟨fun ht hsig => step_token hc hm hf (by omega) ?_, fun ht hwait hcount => step_token hc hm hf (by omega) ?_⟩
  · simp [State.nTurn, hhere, ht, Core.nToken, hrun, hfault, hstep, hword, hsig]
  · have hdue : (decide ((fld w 0 16).toNat ≤ (s.cur.tok (fld w 55 5).toNat).ceiling.toNat) && decide ((s.cur.tok (fld w 55 5).toNat).count.toNat < (fld w 0 16).toNat)) = false := by
      rcases hcount with h | h
      · exact Bool.and_eq_false_iff.2 (.inl (decide_eq_false (not_le.2 h)))
      · exact Bool.and_eq_false_iff.2 (.inr (decide_eq_false (not_lt.2 h)))
    simp only [State.nTurn, hhere, ht, Core.nToken, hrun, hfault, hstep, hword, hwait, hdue]
    rfl

theorem eventsAreExecuted : Claim.EventsAreExecuted := by
  refine ⟨fun i rest s ha ht hfatal => ?_, fun s hc ha => by simp [step_eq, hc, ha]⟩
  rw [step_eq, if_neg (by simp [ha]), State.nextMove, if_neg (by simp [ht]), ha]
  simp [hfatal, Pick.answer]

end Sys2Proof.Machine
end

section
/-! PROOFS. A cycle in which nothing freezes (O50; R47, R84, R206, R215, R216): what an instruction may leave of its core so that the rest of the cycle passes, and that the core then does not freeze. -/

namespace Sys2Proof.Machine

open Sys2Proof.Claim

/-! Stops and ends of a cycle. -/

/-- An agent as a freeze and a stop see it. -/
def Core.standing (c : Core) : Bool × Mode := (c.frozen, c.mode)

theorem Core.stops {c : Core} {m : Mode} (hm : m ≠ .user) (h : c.standing = (false, m)) : c.frozen = false ∧ c.mode ≠ .user :=
  ⟨congrArg Prod.fst h, (congrArg Prod.snd h).trans_ne hm⟩

theorem Core.beginCopies_standing (st : CopyOp → BitVec 8) (c : Core) : (c.beginCopies st).standing = c.standing := by
  refine List.foldlRecOn (motive := fun d : Core => d.standing = c.standing) _ _ (List.foldlRecOn (motive := fun d : Core => d.standing = c.standing) _ _ rfl fun d hd k _ => ?_)
    fun d hd k _ => hd
  rw [Core.beginCopy]
  dsimp only
  split
  · exact hd
  · exact hd

theorem State.setAgent_standing {s : State} {m : Mover} {c : Core} (n : Nat) (h : c.standing = (s.agent m).standing) :
    ((s.setAgent m c).core n).standing = (s.core n).standing := by
  by_cases hm : m = .core n
  · subst hm
    rw [← State.agent_core, State.agent_setAgent_same]
    exact h
  · rw [← State.agent_core, State.agent_setAgent_other _ _ _ _ (Ne.symm hm)]
    rfl

theorem State.interrupt_core (s : State) (v n : Nat) : (s.interrupt v).core n = s.core n := by
  rw [State.interrupt]
  split <;> rfl

/-- A place in the escalation ring freezes and stops no agent. -/
theorem State.fillRing_standing (s : State) (x n : Nat) : ((s.fillRing x).core n).standing = (s.core n).standing := by
  rw [State.fillRing]
  split
  · split
    · rfl
    · rw [State.interrupt_core]
      exact State.setAgent_standing n rfl
  · rfl

/-- Time that passes freezes and stops no agent. -/
theorem State.pass_standing (s : State) (m : Mover) (k n : Nat) : ((s.pass m k).core n).standing = (s.core n).standing := State.setAgent_standing n rfl

theorem State.pass_frozen (s : State) (m : Mover) (k n : Nat) : ((s.pass m k).core n).frozen = (s.core n).frozen := congrArg Prod.fst (s.pass_standing m k n)

/-- An escalation stops the core, and does not freeze it. -/
theorem State.escalate_standing (s : State) (n : Nat) (hc hp : W64) : ((s.escalate (.core n) hc hp).core n).standing = ((s.core n).frozen, .escalated) := by
  rw [State.escalate, State.fillRing_standing]
  exact congrArg Core.standing (s.core_setCore_same n _)

/-- The WAITs that come before a fault change tokens and sequencers only. -/
theorem Core.settleBefore_keeps (c : Core) (r : Nat) : (c.settleBefore r).standing = c.standing ∧ (c.settleBefore r).inbox = c.inbox := by
  have hwait (d : Core) (e : Engine) : (d.settleWait e).standing = d.standing ∧ (d.settleWait e).inbox = d.inbox := by
    rw [Core.settleWait]
    dsimp only
    split
    · split
      · exact ⟨rfl, rfl⟩
      · split
        · cases e <;> exact ⟨rfl, rfl⟩
        · exact ⟨rfl, rfl⟩
    · exact ⟨rfl, rfl⟩
  refine List.foldlRecOn (motive := fun d : Core => d.standing = c.standing ∧ d.inbox = c.inbox) _ _ ⟨rfl, rfl⟩ fun d hd e _ => ?_
  split
  · exact ⟨(hwait d e).1.trans hd.1, (hwait d e).2.trans hd.2⟩
  · exact hd

/-- Taking a trap in user mode stops a core, and does not freeze it. -/
theorem State.takeTrap_standing {s : State} {n : Nat} (hin : (s.core n).inbox = []) (hmode : (s.core n).mode = .user) (t : TrapInfo) :
    ((s.takeTrap (.core n) t).core n).frozen = false ∧ ((s.takeTrap (.core n) t).core n).mode ≠ .user := by
  obtain ⟨d, hd⟩ : ∃ d, s.atStop (.core n) = d := ⟨_, rfl⟩
  have hdmode : (d.core n).mode = .user := by
    rw [← hd, s.atStop_core n hin, State.core_setCore_same]
    exact (congrArg Prod.snd (Core.beginCopies_standing _ _)).trans hmode
  have hno : (d.core n).mode ≠ .handler := by rw [hdmode]; decide
  cases hh : d.handler (d.core n) with
  | none =>
    rw [s.takeTrap_escalates d n t hd hno hh]
    have hst := State.escalate_standing (d.setAgent (.core n) ((d.core n).stopped (d.trapRegs (.core n) t))) n 0 0
    rw [← State.agent_core (d.setAgent _ _), State.agent_setAgent_same] at hst
    exact Core.stops (m := .escalated) (by decide) hst
  | some h =>
    rw [s.takeTrap_enters d n h.1 h.2 t hd hno hh]
    have hst := State.pass_standing (m := .core n) (k := d.cycleLen (.core n)) (n := n) (d.setAgent (.core n) { (d.core n).stopped (d.trapRegs (.core n) t) with
      mode := .handler
      now := (d.core n).now + 1
      es := { Seq.reset with free := (d.core n).now + 3, line := h.1, lane := 0 }
      fetch := { FetchUnit.reset with next := h.1, ready := (d.core n).now + 1 } })
    rw [← State.agent_core (d.setAgent _ _), State.agent_setAgent_same] at hst
    exact Core.stops (m := .handler) (by decide) hst

/-- A trap in user mode stops the core, and does not freeze it. -/
theorem State.syncTrap_standing {s : State} {n : Nat} (hhere : s.here = .core n) (hin : s.cur.inbox = []) (hmode : s.cur.mode = .user) (e : Engine) (t : TrapInfo) :
    ((s.syncTrap e t).core n).frozen = false ∧ ((s.syncTrap e t).core n).mode ≠ .user := by
  have hkeep (c : Core) (hc : c.standing = s.cur.standing ∧ c.inbox = s.cur.inbox) :
      (((s.setCur c).takeTrap s.here t).core n).frozen = false ∧ (((s.setCur c).takeTrap s.here t).core n).mode ≠ .user := by
    have hcur : (s.setCur c).core n = c := by rw [← State.agent_core, ← hhere, State.setCur, State.agent_setAgent_same]
    rw [hhere]
    exact State.takeTrap_standing (by rw [hcur, hc.2, hin]) (by rw [hcur]; exact (congrArg Prod.snd hc.1).trans hmode) t
  rw [State.syncTrap]
  split
  · exact hkeep _ (Core.settleBefore_keeps _ _)
  · exact hkeep _ ⟨rfl, rfl⟩

/-- A fatal error stops the core that raises it. -/
theorem State.raiseFatal_standing (s : State) (n k a : Nat) : ((s.raiseFatal (.core n) k a).core n).standing = ((s.core n).frozen, .held) :=
  congrArg Core.standing (s.core_setCore_same n _)

/-- The end of a cycle into which nothing has come freezes nothing. -/
theorem State.tick_frozen {s : State} {n : Nat} (hhere : s.here = .core n) (hin : s.cur.inbox = []) (href : s.cur.refusals = []) :
    (s.tick.core n).frozen = s.cur.frozen := by
  have hcur : s.cur = s.core n := by rw [State.cur, hhere, State.agent_core]
  rw [hcur] at hin href ⊢
  have hs0 : (s.landInbox n).reportFree n = s := by
    rw [State.landInbox, hin]
    simp [State.reportFree, href]
  simp only [State.tick, hhere, hs0]
  rw [State.pass_frozen, State.setCur, hhere, ← State.agent_core (s.setAgent _ _), State.agent_setAgent_same]
  exact congrArg Prod.fst (Core.beginCopies_standing _ _)

/-! The rest of a cycle. -/

/-- A sequencer that does nothing more in its cycle: it is not free, or its turns are over. -/
def Core.seqDone (c : Core) (e : Engine) : Prop :=
  c.free e = false ∨ firstTurn e + 4 < c.turn
    ∨ (firstTurn e < c.turn ∧ ∀ g, (c.seqOf e).nextGroup = some g → deferred c (decodeGroup false e (c.seqOf e) g) = false)

/-- A core in whose cycle nothing more happens. -/
structure Core.quiet (c : Core) : Prop where
  frozen : c.frozen = false
  mode : c.mode = .user
  nrun : c.nrun = none
  inbox : c.inbox = []
  refusals : c.refusals = []
  seqDone : ∀ e, c.seqDone e

/-- Nothing is done in the turn of a sequencer that does nothing more. -/
theorem Core.turnOf_seqDone {c : Core} {words : Nat → List W32} (h : c.seqDone (turnEngine c.turn)) (h8 : c.turn ≤ 8) :
    c.turnOf false words c.turn = .finish ∨ c.turnOf false words c.turn = .pass := by
  generalize hturn : c.turn = t at h h8
  have hfirst : firstTurn (turnEngine t) = t ∨ firstTurn (turnEngine t) + 4 = t ∨ t = 0 := by
    interval_cases t <;> simp [firstTurn, turnEngine]
  rw [Core.turnOf]
  dsimp only
  split
  · exact .inl rfl
  · right
    cases hfree : c.free (turnEngine t) with
    | false => rfl
    | true =>
      rcases h with h | h | ⟨h, hdef⟩
      · rw [hfree] at h
        cases h
      · omega
      · have h4 : ¬t ≤ 4 := by
          have : 1 ≤ firstTurn (turnEngine t) := by cases turnEngine t <;> decide
          omega
        cases hg : (c.seqOf (turnEngine t)).nextGroup with
        | none => simp [not_le.1 h4]
        | some g => simp [h4, hdef g hg]

/-- The end of a turn leaves a core quiet. -/
theorem Core.quiet.nextTurn {c : Core} (h : c.quiet) : ({ c with turn := c.turn + 1 } : Core).quiet := by
  refine ⟨h.frozen, h.mode, h.nrun, h.inbox, h.refusals, fun e => ?_⟩
  have hseq : ({ c with turn := c.turn + 1 } : Core).seqOf e = c.seqOf e := by cases e <;> rfl
  have hfree : ({ c with turn := c.turn + 1 } : Core).free e = c.free e := by rw [Core.free, hseq, Core.free]
  rcases h.seqDone e with h1 | h1 | ⟨h1, hdef⟩
  · exact .inl (hfree.trans h1)
  · exact .inr (.inl (Nat.lt_succ_of_lt h1))
  · refine .inr (.inr ⟨Nat.lt_succ_of_lt h1, fun g hg => ?_⟩)
    rw [hseq] at hg ⊢
    exact hdef g hg

/-- A deferral looks at the tokens. -/
theorem deferred_setSeq (c : Core) (e : Engine) (q : Seq) (d : Due) : deferred (c.setSeq e q) d = deferred c d := by
  unfold deferred
  cases e <;> rfl

/-- So does the end of a sequencer. -/
theorem Core.quiet.finish {c : Core} (h : c.quiet) (e : Engine) : ((c.setSeq e { c.seqOf e with ended := true } : Core)).quiet := by
  refine ⟨by rw [Core.setSeq_frozen, h.frozen], by rw [Core.setSeq_mode, h.mode], by rw [Core.setSeq_nrun, h.nrun], by rw [Core.setSeq_inbox, h.inbox],
    by rw [Core.setSeq_refusals, h.refusals], fun f => ?_⟩
  by_cases hf : f = e
  · subst hf
    exact .inl (by simp [Core.free])
  · have hseq := c.seqOf_setSeq_other e f { c.seqOf e with ended := true } hf
    have hfree : (c.setSeq e { c.seqOf e with ended := true }).free f = c.free f := by rw [Core.free, hseq, Core.setSeq_now, Core.setSeq_mode, Core.free]
    rw [Core.seqDone, hfree, hseq, Core.setSeq_turn]
    rcases h.seqDone f with h1 | h1 | ⟨h1, hdef⟩
    · exact .inl h1
    · exact .inr (.inl h1)
    · refine .inr (.inr ⟨h1, fun g hg => ?_⟩)
      exact (deferred_setSeq _ _ _ _).trans (hdef g hg)

/-- What is left of a quiet cycle passes without a freeze. -/
theorem scanTurns_quiet {k : Nat} (n : Nat) : ∀ {s : State}, s.here = .core k → s.cur.quiet → ∃ t, scanTurns s n = .rest t ∧ (t.core k).frozen = false := by
  have hend {s : State} (hhere : s.here = .core k) (h : s.cur.quiet) : ∃ t, s.endCycle = .rest t ∧ (t.core k).frozen = false := by
    rw [State.endCycle]
    split
    · exact ⟨_, rfl, (State.syncTrap_standing hhere h.inbox h.mode _ _).1⟩
    · exact ⟨_, rfl, (State.tick_frozen hhere h.inbox h.refusals).trans h.frozen⟩
  induction n with
  | zero => exact hend
  | succ n ih =>
    intro s hhere h
    have hn : s.nTurn = none := by simp [State.nTurn, hhere, Core.nToken, h.nrun]
    rw [scanTurns]
    simp only [hn]
    split
    · exact hend hhere h
    · next h8 =>
      have hcp : s.isCp = false := by rw [State.isCp, hhere]
      have hnext {c : Core} (hq : c.quiet) (ht : c.turn = s.cur.turn) :
          ∃ t, scanTurns (s.modCur fun _ => { c with turn := s.cur.turn + 1 }) n = .rest t ∧ (t.core k).frozen = false :=
        ih ((State.modCur_here _ _).trans hhere) (by rw [State.cur_modCur, ← ht]; exact hq.nextTurn)
      rw [hcp]
      rcases Core.turnOf_seqDone (words := s.wordsOf s.here) (h.seqDone _) (not_lt.1 h8) with hturn | hturn
      · rw [hturn]
        exact hnext (h.finish _) (Core.setSeq_turn _ _ _)
      · rw [hturn]
        exact hnext h rfl

/-! What an instruction may come to. -/

/-- What a step answers where core `k` does not freeze in the rest of the cycle: it has stopped, or it is quiet. -/
def settles (k : Nat) (r : Result) : Prop :=
  ∃ t, r = .next t ∧ (t.core k).frozen = false ∧ (t.here = .core k → (t.core k).mode = .user → (t.core k).turn ≠ 0 ∧ (t.core k).quiet)

/-- A core whose cycle opens with an instruction after which it settles does not freeze. -/
theorem freezes_settles {open_ : State → Pick} {k : Nat} {s s1 : State} {i : Instr} (hmode : (s.core k).mode = .user) (hturn : (s.core k).turn = 0) (hopen : open_ s = .run s1 i)
    (h : settles k (exec i s1)) (n : Nat) : freezes open_ (.core k) s n = false := by
  obtain ⟨t, ht, hfrozen, hquiet⟩ := h
  cases n with
  | zero => rfl
  | succ n =>
    simp only [freezes, State.agent_core, hturn, if_pos, hopen, ht, hfrozen, Bool.false_eq_true, if_false, hmode]
    split
    · next hsame =>
      obtain ⟨hturn', hq⟩ := hquiet hsame.2.2 hsame.1
      cases n with
      | zero => rfl
      | succ n =>
        obtain ⟨u, hu, huf⟩ := scanTurns_quiet 9 hsame.2.2 (by rwa [State.cur, hsame.2.2])
        simp only [freezes, State.agent_core, hturn', if_false, hu, huf]
    · rfl

/-- What an instruction that completes may change of its core: nothing that brings more to its cycle. -/
structure Core.stays (c d : Core) : Prop where
  frozen : d.frozen = c.frozen
  nrun : d.nrun = c.nrun
  inbox : d.inbox = c.inbox
  refusals : d.refusals = c.refusals
  ended : ∀ e, (c.seqOf e).ended = true → (d.seqOf e).ended = true

def State.stays (s t : State) : Prop := t.here = s.here ∧ s.cur.stays t.cur

/-- An effect after which the cycle has nothing more. -/
def Effect.calm (s : State) : Effect → Prop
  | .done t => s.stays t
  | .trap _ | .fatal _ _ | .block => True
  | .wait | .later _ => False

/-- Core 0 issues the group `g` of engine `e`, in the turn of its kind, while every other sequencer has ended. -/
structure Issuing (s : State) (e : Engine) (g : Group) : Prop where
  here : s.here = .core 0
  frozen : s.cur.frozen = false
  mode : s.cur.mode = .user
  nrun : s.cur.nrun = none
  inbox : s.cur.inbox = []
  refusals : s.cur.refusals = []
  others : ∀ f, f ≠ e → (s.cur.seqOf f).ended = true ∧ (s.cur.seqOf f).parked = false
  group : (s.cur.seqOf e).nextGroup = some g
  turn : s.cur.turn = if deferred s.cur (decodeGroup false e (s.cur.seqOf e) g) then firstTurn e + 4 else firstTurn e

/-! A sequencer that has moved is not free before its occupancy is over (R83). -/

theorem Seq.tidy_free (q : Seq) : q.tidy.free = q.free := by
  rw [Seq.tidy]
  split <;> rfl

theorem Seq.take_free (q : Seq) : q.take.free = q.free := by
  rw [Seq.take]
  split
  · rfl
  · dsimp only
    split <;> rfl

theorem Seq.skip_free (q : Seq) (n : Nat) : (q.skip n).free = q.free := by
  induction n generalizing q with
  | zero => rfl
  | succ n ih =>
    rw [Seq.skip]
    split
    · split
      · rw [ih, Seq.take_free]
      · rw [Seq.tidy_free]
    · exact q.tidy_free

theorem Seq.issued_free (q : Seq) (now occ : Nat) : (q.issued now occ).free = now + occ := by
  rw [Seq.issued]
  dsimp only
  rw [Seq.skip_free, Seq.tidy_free]

theorem Seq.openLoop_free (q : Seq) (now len count : Nat) : (q.openLoop now len count).free = now + 1 := by
  rw [Seq.openLoop]
  dsimp only
  rw [Seq.skip_free]

section
variable {s : State} {e : Engine} {g : Group}

/-- A core whose sequencer has moved on, or waits for the others in its PFEN, is quiet. -/
theorem Issuing.quiet_moved (hs : Issuing s e g) {d : Core} (hd : s.cur.stays d) (hmode : d.mode = .user) {q : Seq} (hq : d.now < q.free ∨ q.parked = true) :
    ({ d.setSeq e q with turn := d.turn + 1 } : Core).quiet := by
  obtain ⟨hfrozen, hnrun, hinbox, hrefusals, hended⟩ := hd
  refine ⟨(Core.setSeq_frozen _ _ _).trans (hfrozen.trans hs.frozen), (Core.setSeq_mode _ _ _).trans hmode, (Core.setSeq_nrun _ _ _).trans (hnrun.trans hs.nrun),
    (Core.setSeq_inbox _ _ _).trans (hinbox.trans hs.inbox), (Core.setSeq_refusals _ _ _).trans (hrefusals.trans hs.refusals), fun f => .inl ?_⟩
  have hseq : ({ d.setSeq e q with turn := d.turn + 1 } : Core).seqOf f = (d.setSeq e q).seqOf f := by cases f <;> rfl
  have hnow : ({ d.setSeq e q with turn := d.turn + 1 } : Core).now = d.now := Core.setSeq_now _ _ _
  rw [Core.free, hseq, hnow]
  by_cases hf : f = e
  · subst hf
    rw [Core.seqOf_setSeq_same]
    rcases hq with hq | hq
    · simp [hq]
    · simp [hq]
  · rw [Core.seqOf_setSeq_other _ _ _ _ hf, hended f (hs.others f hf).1]
    simp

/-- A core that is blocked in its turn is quiet after it. -/
theorem Issuing.quiet_blocked (hs : Issuing s e g) : ({ s.cur with turn := s.cur.turn + 1 } : Core).quiet := by
  have hseq (f : Engine) : ({ s.cur with turn := s.cur.turn + 1 } : Core).seqOf f = s.cur.seqOf f := by cases f <;> rfl
  refine ⟨hs.frozen, hs.mode, hs.nrun, hs.inbox, hs.refusals, fun f => ?_⟩
  by_cases hf : f = e
  · subst hf
    have hturn := hs.turn
    cases hdef : deferred s.cur (decodeGroup false f (s.cur.seqOf f) g) with
    | true =>
      rw [hdef, if_pos rfl] at hturn
      exact .inr (.inl (by dsimp only; omega))
    | false =>
      rw [hdef, if_neg Bool.false_ne_true] at hturn
      refine .inr (.inr ⟨by dsimp only; omega, fun g' hg' => ?_⟩)
      rw [hseq, hs.group] at hg'
      rw [hseq, ← Option.some.inj hg']
      exact hdef
  · exact .inl (by rw [Core.free, hseq, (hs.others f hf).1]; simp)

/-- After a calm effect the core settles. -/
theorem Issuing.settles (hs : Issuing s e g) {x : Effect} (hx : x.calm s) {occ : Nat} (hocc : 1 ≤ occ) : settles 0 (s.issueOcc e occ x) := by
  have hcore (f : Core → Core) {t : State} (ht : t.here = .core 0) : (t.modCur f).core 0 = f t.cur := by
    rw [← State.agent_core, ← ht, State.agent_modCur_same]
  have hcur : s.cur = s.core 0 := by rw [State.cur, hs.here, State.agent_core]
  cases x with
  | done t =>
    have ht := hx.1.trans hs.here
    refine ⟨_, rfl, ?_⟩
    rw [hcore _ ht]
    exact ⟨by rw [Core.issued_frozen, hx.2.frozen, hs.frozen], fun _ hm => ⟨Nat.succ_ne_zero _, hs.quiet_moved hx.2 (by rwa [Core.issued_mode] at hm) (.inl (by rw [Seq.issued_free]; omega))⟩⟩
  | trap i =>
    have hst := State.syncTrap_standing hs.here hs.inbox hs.mode e i
    exact ⟨_, rfl, hst.1, fun _ hm => absurd hm hst.2⟩
  | fatal k a =>
    have hst := Core.stops (m := .held) (by decide) ((s.raiseFatal_standing 0 k a).trans (by rw [← hcur, hs.frozen]))
    refine ⟨_, rfl, ?_⟩
    rw [hs.here]
    exact ⟨hst.1, fun _ hm => absurd hm hst.2⟩
  | block =>
    refine ⟨_, rfl, ?_⟩
    rw [hcore _ hs.here]
    exact ⟨hs.frozen, fun _ _ => ⟨Nat.succ_ne_zero _, hs.quiet_blocked⟩⟩
  | wait => exact hx.elim
  | later t => exact hx.elim

end

end Sys2Proof.Machine
end

section
/-! PROOFS. What instructions leave of their core (O50; R82 to R84): the operations that they share change nothing that brings more to the cycle. -/

namespace Sys2Proof.Machine

open Sys2Proof.Claim

/-! Of a core. -/

/-- What of a core decides whether its cycle has more. -/
def Core.course (c : Core) : Bool × Option NRun × List Inflow × List (BitVec 8 × Nat) × Seq × Seq × Seq × Seq :=
  (c.frozen, c.nrun, c.inbox, c.refusals, c.es, c.el, c.ex, c.ew)

theorem Core.stays.of_course {c d : Core} (h : d.course = c.course) : c.stays d := by
  simp only [Core.course, Prod.mk.injEq] at h
  obtain ⟨hf, hn, hi, hr, hs, hl, hx, hw⟩ := h
  refine ⟨hf, hn, hi, hr, fun e he => ?_⟩
  cases e
  · exact (congrArg Seq.ended hs).trans he
  · exact (congrArg Seq.ended hl).trans he
  · exact (congrArg Seq.ended hx).trans he
  · exact (congrArg Seq.ended hw).trans he

theorem Core.stays.refl (c : Core) : c.stays c := .of_course rfl

theorem Core.stays.trans {c d f : Core} (h : c.stays d) (k : d.stays f) : c.stays f :=
  ⟨k.frozen.trans h.frozen, k.nrun.trans h.nrun, k.inbox.trans h.inbox, k.refusals.trans h.refusals, fun e he => k.ended e (h.ended e he)⟩

theorem Core.stays.emits (c : Core) (e : Engine) (lat : Nat) (ws : List Write) : c.stays (c.emits e lat ws) := by
  rw [Core.emits_eq]
  exact .of_course rfl

/-! Of the state. -/

theorem State.stays.refl (s : State) : s.stays s := ⟨rfl, .refl _⟩

section
variable {s t : State}

theorem State.stays.setCur (h : s.stays t) {c : Core} (hc : t.cur.stays c) : s.stays (t.setCur c) :=
  ⟨(State.setAgent_here _ _ _).trans h.1, h.2.trans (by rwa [State.cur_setCur])⟩

/-- A change of the agent that keeps its course. -/
theorem State.stays.modCur (h : s.stays t) {f : Core → Core} (hf : t.cur.stays (f t.cur)) : s.stays (t.modCur f) := h.setCur hf

theorem State.stays.bump (h : s.stays t) : s.stays t.bump := h

theorem State.stays.emit (h : s.stays t) (e : Engine) (lat : Nat) (w : Write) : s.stays (t.modCur fun c => c.emit e lat w) := h.modCur (.of_course rfl)

theorem State.stays.emits (h : s.stays t) (e : Engine) (lat : Nat) (ws : List Write) : s.stays (t.modCur fun c => c.emits e lat ws) := h.modCur (.emits _ _ _ _)

theorem State.stays.putS (h : s.stays t) (e : Engine) (lat : Nat) (sd : BitVec 6) (v : W64) (pz : Option PRec) : s.stays (t.putS e lat sd v pz) := by
  cases pz with
  | none => exact h.emit _ _ _
  | some r => exact (h.emit _ _ _).bump

theorem State.stays.putP (h : s.stays t) (e : Engine) (lat n : Nat) (v m : W32) (pz : Option PRec) : s.stays (t.putP e lat n v m pz) := by
  cases pz with
  | none => exact h.emit _ _ _
  | some r => exact (h.emit _ _ _).bump

theorem State.stays.moveS (h : s.stays t) (e : Engine) (lat : Nat) (sd : BitVec 6) (v : Tagged 64) : s.stays (t.moveS e lat sd v) := h.emit _ _ _

end

/-! Effects. -/

section
variable {s : State}

/-- The instruction `i` of engine `e` has a calm effect. -/
def calmly (s : State) (i : Instr) (e : Engine) : Prop := ∃ occ x, 1 ≤ occ ∧ exec i s = s.issueOcc e occ x ∧ x.calm s

theorem calmly_issue {i : Instr} {e : Engine} {x : Effect} (hi : exec i s = s.issue e x) (hx : x.calm s) : calmly s i e := ⟨1, x, le_rfl, hi, hx⟩

/-- A check of poison traps, or goes on. -/
theorem calm_needClean {e : Engine} {rs : List (Option PRec)} {x : Effect} (h : x.calm s) : (needClean e rs x).calm s := by
  rw [needClean]
  split
  · trivial
  · exact h

/-- A scalar result enters flight. -/
theorem calmly_putS {i : Instr} {lat : Nat} {sd : BitVec 6} {v : W64} {pz : Option PRec} (hi : exec i s = s.issue .s (.done (s.putS .s lat sd v pz))) : calmly s i .s :=
  calmly_issue hi ((State.stays.refl s).putS _ _ _ _ _)

/-- So does a predicate. -/
theorem calmly_putP {i : Instr} {lat n : Nat} {v m : W32} {pz : Option PRec} (hi : exec i s = s.issue .s (.done (s.putP .s lat n v m pz))) : calmly s i .s :=
  calmly_issue hi ((State.stays.refl s).putP _ _ _ _ _ _)

/-- So does a value with its tag. -/
theorem calmly_moveS {i : Instr} {lat : Nat} {sd : BitVec 6} {v : Tagged 64} (hi : exec i s = s.issue .s (.done (s.moveS .s lat sd v))) : calmly s i .s :=
  calmly_issue hi ((State.stays.refl s).moveS _ _ _ _)

/-- So does any other write. -/
theorem calmly_emit {i : Instr} {e : Engine} {lat : Nat} {w : Write} (hi : exec i s = s.issue e (.done (s.modCur fun c => c.emit e lat w))) : calmly s i e :=
  calmly_issue hi ((State.stays.refl s).emit _ _ _)

end

/-! A bare machine. -/

/-- The module after reset, but for core 0 and for the clocks; of core 0 only the sequencers, the fetch unit, the code and the clocks differ from the reset values. -/
structure Bare (s : State) : Prop where
  module : s = { State.reset with cores := s.cores, fresh := s.fresh, ref := s.ref }
  core : s.cur = { Core.reset with
    mode := .user, es := s.cur.es, el := s.cur.el, ex := s.cur.ex, ew := s.cur.ew, fetch := s.cur.fetch, plane0 := s.cur.plane0, turn := s.cur.turn
    blockedBy := s.cur.blockedBy, stuck := s.cur.stuck, tref := s.cur.tref, tun := s.cur.tun }

section
variable {s : State}

theorem Bare.here (h : Bare s) : s.here = .core 0 := by rw [h.module]; rfl

theorem Bare.myCtx (h : Bare s) : s.myCtx = none := by
  have hc : s.cur.ctx = none := congrArg Core.ctx h.core
  rw [State.cur, h.here] at hc
  rw [State.myCtx, h.here]
  exact hc

theorem Bare.context (h : Bare s) (x : Nat) : s.context x = none := by rw [h.module]; rfl

theorem Bare.rs (h : Bare s) (n : Nat) : s.cur.rs n = Scalar.zero := by
  rw [Core.rs, congrArg Core.s h.core]
  split <;> rfl

/-- Without a context every address misses. -/
theorem Bare.translate (h : Bare s) (x : Nat) (c : Option Nat) (va n : Nat) (wr fetch : Bool) : s.translate x c va n wr fetch = .miss := by
  rw [State.translate, h.context]

theorem Bare.xlatMine (h : Bare s) (e : Engine) (va n : Nat) (wr : Bool) : s.xlatMine e va n wr = .error (.fatal fatalMiss va) := by
  rw [State.xlatMine, h.translate]

end

end Sys2Proof.Machine
end

section
/-! PROOFS. The instructions of S in a bare machine (O50; R87 to R122, R399 to R405): none freezes the core. -/

namespace Sys2Proof.Machine

open Sys2Proof.Claim

section
variable {s : State}

/-! Memory (R106 to R114). -/

theorem Bare.readUnit (h : Bare s) (e : Engine) (va n at_ : Nat) : s.readUnit e va n at_ = .error (.fatal fatalMiss (va % 2 ^ 52)) := by
  rw [State.readUnit, h.xlatMine]

theorem Bare.writeUnit (h : Bare s) (e : Engine) (lat va at_ : Nat) (d : List Byte) (poison : Bool) :
    s.writeUnit e lat va at_ d poison = .error (.fatal fatalMiss (va % 2 ^ 52)) := by
  rw [State.writeUnit, h.xlatMine]

theorem Bare.cur_core (h : Bare s) : s.core 0 = s.cur := by rw [State.cur, h.here, State.agent_core]

theorem Bare.me (h : Bare s) : s.me = 0 := by rw [State.me, h.here]

theorem Bare.isCp (h : Bare s) : s.isCp = false := by rw [State.isCp, h.here]

theorem Bare.mode (h : Bare s) : s.cur.mode = .user := congrArg Core.mode h.core

theorem Bare.stores (h : Bare s) : s.cur.stores = [] := congrArg Core.stores h.core

theorem calmly_ld (h : Bare s) (w : BitVec 2) (f : SImm) : calmly s (.ld w f) .s := by
  refine calmly_issue rfl (calm_needClean ?_)
  rw [loadEffect]
  split
  · trivial
  · rw [h.readUnit]
    trivial

theorem calmly_st (h : Bare s) (w : BitVec 2) (f : SImm) : calmly s (.st w f) .s := by
  refine calmly_issue rfl (calm_needClean ?_)
  split
  · trivial
  · rw [h.writeUnit]
    trivial

theorem calm_specFail (sd : BitVec 6) (a cause : Nat) : (specFail s sd a cause).calm s := (State.stays.refl s).putS _ _ _ _ _

/-- A speculative load defers its miss. -/
theorem calmly_ldSpec (h : Bare s) (w : BitVec 2) (f : SImm) : calmly s (.ldSpec w f) .s := by
  refine calmly_issue rfl (calm_needClean ?_)
  split
  · exact calm_specFail _ _ _
  · rw [h.translate]
    exact calm_specFail _ _ _

theorem calm_rmw (h : Bare s) (sd : BitVec 6) (va n : Nat) (host : Bool) (op : Nat → Nat × Bool) : (rmw s sd va n host op).calm s := by
  rw [rmw]
  split
  · trivial
  · rw [h.xlatMine]
    trivial

theorem calmly_cas (h : Bare s) (d : BitVec 1) (f : SReg) : calmly s (.cas d f) .s := calmly_issue rfl (calm_needClean (calm_rmw h _ _ _ _ _))

theorem calmly_amo (h : Bare s) (d : BitVec 1) (op : BitVec 4) (f : SReg) : calmly s (.amo d op f) .s := calmly_issue rfl (calm_needClean (calm_rmw h _ _ _ _ _))

theorem calmly_lda (h : Bare s) (d : BitVec 1) (f : SReg) : calmly s (.lda d f) .s := by
  refine calmly_issue rfl (calm_needClean ?_)
  split
  · trivial
  · rw [h.xlatMine]
    trivial

theorem calmly_stl (h : Bare s) (d : BitVec 1) (f : SReg) : calmly s (.stl d f) .s := by
  refine calmly_issue rfl (calm_needClean ?_)
  split
  · trivial
  · rw [h.xlatMine]
    trivial

theorem State.stays.show_ {t : State} (h : s.stays t) : s.stays (t.show_ t.here) := h.setCur (.of_course rfl)

theorem State.stays.bindLoads {t : State} (h : s.stays t) : s.stays t.bindLoads := h.modCur (.of_course rfl)

/-- Without open stores and loads a fence completes at once. -/
theorem calmly_fence (h : Bare s) (kind scope : BitVec 3) (f : SReg) : calmly s (.fence kind scope f) .s := by
  refine calmly_issue rfl ?_
  have hopen : s.fenceOpen = false := by rw [State.fenceOpen, Core.openStores, h.stores]; rfl
  have hlates (c : Nat) : s.rebindSince c = s := by rw [State.rebindSince, show s.cur.lates = [] from congrArg Core.lates h.core]; rfl
  have hdrop {t : State} (ht : s.stays t) (k : Nat) : s.stays (if k = 2 ∨ k = 3 then t.dropL1 scope.toNat else t) := by
    split
    · rw [State.dropL1]
      split
      · exact ht
      · exact ht.modCur (.of_course rfl)
    · exact ht
  have hstores (k : Nat) : s.stays (if k = 1 ∨ k = 2 ∨ k = 4 then (s.show_ s.here).modCur (fun c => if scope = 0 ∧ k ≠ 4 then { c with fences := c.fences + 1 } else c) else s) := by
    split
    · refine (State.stays.refl s).show_.modCur ?_
      split
      · exact .of_course rfl
      · exact .refl _
    · exact .refl s
  rw [hopen, hlates, ite_self]
  dsimp only
  rw [if_neg (by simp)]
  refine hdrop ?_ _
  split
  · exact hstores _
  · exact (hstores _).bindLoads

/-- The next ordinal of the journal (R387). -/
theorem Bare.ordinal (h : Bare s) (kind addr : Nat) : s.ordinal kind addr = .perform (s.modCur fun c => { c with ordinal := c.ordinal + 1 }) := by
  have hch : s.chillOf s.me = Chill.reset := by rw [h.module]; rfl
  rw [State.ordinal, h.isCp, hch, show s.cur.ordinal = 0 from congrArg Core.ordinal h.core]
  rfl

/-- PROBE and UNPIN of no byte change the journal at most. -/
theorem calmly_probe (h : Bare s) (f : SReg) : calmly s (.probe f) .s := by
  refine calmly_issue rfl (calm_needClean ?_)
  rw [h.rs f.sb.toNat]
  exact .refl s

theorem State.stays.note {t : State} (h : s.stays t) (kind addr : Nat) (v : W64) : s.stays (t.note kind addr v) := by
  rw [State.note]
  split
  · exact h
  · exact h

theorem calmly_unpin (h : Bare s) (f : SReg) : calmly s (.unpin f) .s := by
  refine calmly_issue rfl (calm_needClean ?_)
  have hpages : s.pagesIn (s.myCtx.getD 64) Scalar.zero.v.toNat Scalar.zero.v.toNat = [] := rfl
  rw [h.rs f.sa.toNat, h.rs f.sb.toNat]
  simp only [State.journalled, hpages, State.unpinPages, h.ordinal]
  exact ((State.stays.refl s).modCur (.of_course rfl)).note _ _ _

/-! Traps and the return from a handler (R115, R290, R291). -/

theorem calmly_uhret (h : Bare s) (f : SReg) : calmly s (.uhret f) .s :=
  calmly_issue (x := illegalInstr .s) (if_neg (by rw [h.mode]; decide)) trivial

theorem calmly_decline (h : Bare s) (f : SReg) : calmly s (.decline f) .s :=
  calmly_issue (x := illegalInstr .s) (if_neg (by rw [h.mode]; decide)) trivial

/-! System (R103, R116 to R121). -/

theorem calmly_clkdiv (f : SReg) : calmly s (.clkdiv f) .s := by
  refine calmly_issue rfl (calm_needClean ?_)
  split
  · trivial
  · exact (State.stays.refl s).emit _ _ _

theorem calmly_chk (f : SReg) : calmly s (.chk f) .s := by
  refine calmly_issue rfl ?_
  split
  · split
    · trivial
    · split
      · trivial
      · exact .refl s
  · split
    · split
      · trivial
      · split
        · trivial
        · exact .refl s
    · split
      · trivial
      · split
        · trivial
        · exact .refl s

/-- No drain is pending. -/
theorem calmly_yield (h : Bare s) (f : SReg) : calmly s (.yield f) .s := by
  have hstop : s.yieldStop s.me = none := by
    have hrec : s.recordOf s.cur = none := by rw [State.recordOf, show s.cur.run = none from congrArg Core.run h.core]
    have hswap : s.swapPending 0 = false := by rw [State.swapPending, h.cur_core, hrec]
    rw [State.yieldStop, h.me, h.cur_core, show s.cur.pre = 0 from congrArg Core.pre h.core, hswap]
    rfl
  refine calmly_issue rfl ?_
  rw [hstop]
  split
  · trivial
  · exact .refl s

/-- Without stores only the core's own view is noted as visible. -/
theorem Bare.drainAll (h : Bare s) : s.drainAll = s.show_ s.here := by
  rw [State.drainAll, State.publish, show (s.agent s.here).stores = [] from h.stores]
  rfl

theorem calmly_npost (h : Bare s) (f : SReg) : calmly s (.npost f) .s := by
  refine calmly_issue rfl (calm_needClean ?_)
  rw [show s.cur.ncmds = [] from congrArg Core.ncmds h.core]
  split
  · trivial
  · rw [if_neg (by decide), h.drainAll]
    exact (State.stays.refl s).show_.modCur (.of_course rfl)

theorem calmly_lpost (h : Bare s) (f : SReg) : calmly s (.lpost f) .s := by
  refine calmly_issue rfl (calm_needClean ?_)
  split
  · trivial
  · split
    · trivial
    · rw [h.xlatMine]
      trivial

theorem calmly_tkset (f : SReg) : calmly s (.tkset f) .s := by
  refine calmly_issue rfl (calm_needClean ?_)
  dsimp only
  split
  · trivial
  · exact (State.stays.refl s).modCur (.of_course rfl)

theorem calmly_sysrd (f : SImm) : calmly s (.sysrd f) .s := by
  refine calmly_issue rfl ?_
  split
  · exact ((State.stays.refl s).putS _ _ _ _ _).bump
  · trivial

theorem calmly_syswr (f : SImm) : calmly s (.syswr f) .s := by
  refine calmly_issue rfl (calm_needClean ?_)
  split
  · rw [writeSpos]
    split
    · trivial
    · exact (State.stays.refl s).modCur (.of_course rfl)
  · split
    · exact (State.stays.refl s).emit _ _ _
    · trivial

/-! Transfers (R58, R95 to R97). -/

theorem Core.stays.transfer (c : Core) (target : Nat) : c.stays (c.transfer target) :=
  ⟨rfl, rfl, rfl, rfl, fun e he => by cases e <;> exact he⟩

theorem calm_plainStream {x : Effect} (h : x.calm s) : (plainStream s x).calm s := by
  rw [plainStream]
  split
  · trivial
  · exact h

theorem calm_takeTransfer (target : Int) (link : Bool) : (takeTransfer s target link).calm s := by
  rw [takeTransfer]
  split
  · trivial
  · split
    · trivial
    · dsimp only
      split
      · exact ((State.stays.refl s).putS _ _ _ _ _).modCur (.transfer _ _)
      · exact (State.stays.refl s).modCur (.transfer _ _)

theorem calmly_branchTo {i : Instr} (f : Br) (target : Int) (link : Bool) (hi : exec i s = branchTo s f target link) : calmly s i .s := by
  refine ⟨_, _, ?_, hi, calm_plainStream (calm_needClean ?_)⟩
  · split <;> decide
  · split
    · exact calm_takeTransfer _ _
    · exact (State.stays.refl s).modCur (.of_course rfl)

theorem calmly_jumpReg {i : Instr} (f : SReg) (hi : exec i s = jumpReg s f) : calmly s i .s :=
  ⟨3, _, by decide, hi, calm_plainStream (calm_needClean (calm_takeTransfer _ _))⟩

theorem calmly_halt (f : SReg) : calmly s (.halt f) .s := by
  refine calmly_issue rfl (calm_plainStream ?_)
  split
  · trivial
  · refine (State.stays.refl s).modCur ⟨rfl, rfl, rfl, rfl, fun e he => ?_⟩
    cases e
    · rfl
    · exact he
    · exact he
    · exact he

/-! Barriers (R104, R105). -/

theorem Bare.barClose (h : Bare s) (x : Nat) (g : BitVec 8) : s.barClose x g = s := by
  rw [State.barClose, show s.barriers = [] by rw [h.module]; rfl]
  rfl

theorem Bare.member (h : Bare s) (g : BitVec 8) : s.cur.member g = none := by
  rw [Core.member, show s.cur.slots = [] from congrArg Core.slots h.core]
  rfl

/-- An arrival at a group of which the core is no member is an illegal operand. -/
theorem Bare.barArrive (h : Bare s) (f : SImm) (op : Option (BitVec 3)) (v : W64) (pz : Bool) : Machine.barArrive s f op v pz = illegalOperand .s := by
  simp only [Machine.barArrive, h.barClose, h.member]

theorem calmly_barv (h : Bare s) (f : SImm) : calmly s (.barv f) .s := by
  refine calmly_issue (x := illegalOperand .s) ?_ trivial
  rw [← h.barArrive f none 0 false]
  rfl

theorem calmly_barred (h : Bare s) (f : SImm) : calmly s (.barred f) .s := by
  refine calmly_issue (x := illegalOperand .s) ?_ trivial
  rw [← h.barArrive f (some (fld f.imm 11 3)) (s.cur.rs f.sa.toNat).v (s.cur.rs f.sa.toNat).pz.isSome]
  rfl

theorem calmly_barw (h : Bare s) (f : SImm) : calmly s (.barw f) .s := by
  refine calmly_issue (x := illegalOperand .s) ?_ trivial
  change execBarw f s = _
  simp only [execBarw, h.barClose, h.member]

/-! The erasure-coded groups (R399 to R405). -/

/-- The group is not enabled. -/
theorem calmly_ecIssue {i : Instr} (h : Bare s) {l : List (Option PRec)} {k : Effect} (hi : exec i s = ecIssue s l k) : calmly s i .s := by
  refine calmly_issue hi (calm_needClean ?_)
  have hshut : s.spe.shut = true := by
    rw [h.module]
    exact (by decide : Spe.reset.shut = true)
  rw [hshut]
  trivial

theorem calmly_ecstat (h : Bare s) (f : SReg) : calmly s (.ecstat f) .s := by
  refine calmly_issue rfl ?_
  rw [State.ecAllowed, h.myCtx]
  trivial

end

end Sys2Proof.Machine
end

section
/-! PROOFS. The instructions of L and W, and those that every engine has, in a bare machine (O50; R98 to R103, R112, R166 to R188): none freezes the core. -/

namespace Sys2Proof.Machine

open Sys2Proof.Claim

section
variable {s : State}

/-! Loops, tokens and PFEN (R98 to R103, R112). -/

/-- An instruction of a calm effect lets the core settle. -/
theorem Issuing.settles_calmly {e : Engine} {g : Group} (hs : Issuing s e g) {i : Instr} (h : calmly s i e) : Machine.settles 0 (exec i s) := by
  obtain ⟨occ, x, hocc, hi, hx⟩ := h
  rw [hi]
  exact hs.settles hx hocc

theorem Issuing.settles_issue {e : Engine} {g : Group} (hs : Issuing s e g) {x : Effect} (hx : x.calm s) : Machine.settles 0 (s.issue e x) := hs.settles hx le_rfl

/-- A core that is quiet after its turn settles. -/
theorem settles_quiet {t : State} {d : Core} (ht : t.core 0 = d) (hd : d.quiet) (hturn : d.turn ≠ 0) : Machine.settles 0 (.next t) :=
  ⟨t, rfl, by rw [ht, hd.frozen], fun _ _ => by rw [ht]; exact ⟨hturn, hd⟩⟩

theorem State.modCur_core_here {k : Nat} (hs : s.here = .core k) (f : Core → Core) : (s.modCur f).core k = f s.cur := by
  rw [← State.agent_core, ← hs, State.agent_modCur_same]

theorem Issuing.settles_loop {e : Engine} {g : Group} (hs : Issuing s e g) (len : BitVec 5) (st : StepWord) (count : Tagged 64) :
    Machine.settles 0 (loopWith s e len st count) := by
  rw [loopWith]
  dsimp only
  split
  · exact hs.settles_issue trivial
  · split
    · exact hs.settles_issue trivial
    · split
      · exact hs.settles_issue trivial
      · exact settles_quiet (State.modCur_core_here hs.here _) (hs.quiet_moved (.refl _) hs.mode (.inl (by rw [Seq.openLoop_free]; omega))) (Nat.succ_ne_zero _)

/-- One sequencer in its PFEN waits for the others, which have not parked. -/
theorem Issuing.settles_pfen {e : Engine} {g : Group} (hs : Issuing s e g) : Machine.settles 0 (pfenWord s e) := by
  obtain ⟨f, hf⟩ : ∃ f : Engine, f ≠ e := by
    cases e
    · exact ⟨.l, by decide⟩
    · exact ⟨.s, by decide⟩
    · exact ⟨.s, by decide⟩
    · exact ⟨.s, by decide⟩
  have hall : (s.modCur fun c => c.setSeq e { c.seqOf e with parked := true }).cur.allParked = false := by
    rw [State.cur_modCur]
    have hpark : ((s.cur.setSeq e { s.cur.seqOf e with parked := true }).seqOf f).parked = false := by
      rw [Core.seqOf_setSeq_other _ _ _ _ hf]
      exact (hs.others f hf).2
    rw [Core.allParked]
    cases f
    · rw [show (s.cur.setSeq e { s.cur.seqOf e with parked := true }).es.parked = false from hpark]; rfl
    · rw [show (s.cur.setSeq e { s.cur.seqOf e with parked := true }).el.parked = false from hpark]; simp
    · rw [show (s.cur.setSeq e { s.cur.seqOf e with parked := true }).ex.parked = false from hpark]; simp
    · rw [show (s.cur.setSeq e { s.cur.seqOf e with parked := true }).ew.parked = false from hpark]; simp
  rw [pfenWord, if_neg (by rw [hs.mode]; decide)]
  dsimp only
  rw [hall, if_neg Bool.false_ne_true]
  refine settles_quiet ((State.modCur_core_here ((State.modCur_here _ _).trans hs.here) _).trans (by rw [State.cur_modCur])) ?_ ?_
  · have hq := hs.quiet_moved (.refl _) hs.mode (q := { s.cur.seqOf e with parked := true }) (.inr rfl)
    rwa [← Core.setSeq_turn s.cur e] at hq
  · exact Nat.succ_ne_zero _

theorem calmly_sig (e : Engine) (f : TokWord) : calmly s (.sig e f) e := by
  refine calmly_issue rfl ?_
  split
  · exact .refl s
  · split
    · trivial
    · exact (State.stays.refl s).modCur (.of_course rfl)

theorem calmly_wait (e : Engine) (f : TokWord) : calmly s (.wait e f) e := by
  refine calmly_issue rfl ?_
  split
  · trivial
  · split
    · exact (State.stays.refl s).modCur (.of_course rfl)
    · trivial

theorem calmly_nop (e : Engine) (st : StepWord) : calmly s (.nop e st) e := calmly_issue (x := .done s) rfl (.refl s)

/-- The trap of TRAP stops the core. -/
theorem Issuing.settles_trap {g : Group} (hs : Issuing s .s g) (f : SReg) : Machine.settles 0 (execTrap f s) := by
  rw [execTrap, plainStream]
  cases s.cur.es.inLoop with
  | true => exact hs.settles_issue (x := illegalInstr .s) trivial
  | false =>
    have hcur : (s.modCur fun c => (c.issued .s 1).passed).cur = (s.cur.issued .s 1).passed := State.cur_modCur _ _
    obtain ⟨hfrozen, hmode⟩ := State.syncTrap_standing (s := s.modCur fun c => (c.issued .s 1).passed)
      ((State.modCur_here _ _).trans hs.here) (by rw [hcur]; exact hs.inbox) (by rw [hcur]; exact hs.mode) .s { TrapInfo.of 0x1F .s with detail := (f.sd ++ f.sa).zeroExtend 64 }
    exact ⟨_, rfl, hfrozen, fun _ hm => absurd hm hmode⟩

/-! Memory (R166 to R174). -/

theorem Bare.readUnits (h : Bare s) (e : Engine) (n k : Nat) (f : Nat → Nat × Nat) :
    s.readUnits e n ((List.range (k + 1)).map f) = .error (.fatal fatalMiss ((f 0).1 % 2 ^ 52)) := by
  rw [List.range_succ_eq_map, List.map_cons, State.readUnits]
  rw [h.readUnit]

theorem Bare.writeUnits (h : Bare s) (e : Engine) (lat k : Nat) (f : Nat → Nat × Nat × List Byte × Bool) :
    s.writeUnits e lat ((List.range (k + 1)).map f) = .error (.fatal fatalMiss ((f 0).1 % 2 ^ 52)) := by
  rw [List.range_succ_eq_map, List.map_cons, State.writeUnits]
  rw [h.writeUnit]

theorem calm_pushEntries (q lat : Nat) (es : List (List (W32 × Bool))) : (pushEntries s q lat es).calm s := by
  rw [pushEntries]
  split
  · trivial
  · exact (State.stays.refl s).modCur (.of_course rfl)

theorem calmly_vrd (f : SliceQ) : calmly s (.vrd f) .l := by
  refine calmly_issue rfl ?_
  split
  · trivial
  · exact calm_pushEntries _ _ _

theorem calmly_sprd (f : SliceQ) : calmly s (.sprd f) .l := by
  refine calmly_issue rfl ?_
  split
  · trivial
  · exact calm_pushEntries _ _ _

theorem calmly_vld (h : Bare s) (f : LWord) : calmly s (.vld f) .l := by
  refine calmly_issue rfl (calm_needClean ?_)
  split
  · trivial
  · split
    · trivial
    · rw [h.readUnits]
      trivial

theorem calmly_gath (h : Bare s) (f : LWord) : calmly s (.gath f) .l := by
  refine calmly_issue rfl (calm_needClean ?_)
  split
  · trivial
  · dsimp only
    split
    · trivial
    · split
      · trivial
      · split
        · trivial
        · rw [h.readUnits]
          trivial

theorem calm_mld (h : Bare s) (f : LWord) (tr : Bool) : (mld s f tr).calm s := by
  refine calm_needClean ?_
  split
  · trivial
  · split
    · trivial
    · rw [h.readUnits]
      trivial

theorem calmly_mldH (h : Bare s) (f : LWord) : calmly s (.mldH f) .l := calmly_issue rfl (calm_mld h f false)

theorem calmly_mldV (h : Bare s) (f : LWord) : calmly s (.mldV f) .l := calmly_issue rfl (calm_mld h f true)

theorem calmly_mst (h : Bare s) (f : MstWord) : calmly s (.mst f) .w := by
  refine calmly_issue rfl (calm_needClean ?_)
  split
  · trivial
  · split
    · trivial
    · dsimp only
      rw [h.writeUnits]
      trivial

theorem calmly_spwr (h : Bare s) (f : MstWord) : calmly s (.spwr f) .w := by
  refine calmly_issue rfl (calm_needClean ?_)
  split
  · trivial
  · split
    · trivial
    · dsimp only
      rw [h.writeUnits]
      trivial

/-- The first lane of SCAT misses. -/
theorem Bare.scatLanes (h : Bare s) (mask k : Nat) (f : Nat → Nat × Nat × W32 × Bool) :
    Machine.scatLanes s mask ((List.range (k + 1)).map f) = .error (.fatal fatalMiss (f 0).2.1) := by
  rw [List.range_succ_eq_map, List.map_cons, Machine.scatLanes]
  dsimp only
  rw [h.xlatMine]

theorem calmly_scat (h : Bare s) (f : LWord) : calmly s (.scat f) .w := by
  suffices hx : ∃ x : Effect, execScat f s = s.issue .w x ∧ x.calm s from hx.elim fun x hx => calmly_issue hx.1 hx.2
  rw [execScat]
  dsimp only
  split
  · exact ⟨_, rfl, trivial⟩
  · split
    · exact ⟨_, rfl, trivial⟩
    · split
      · exact ⟨_, rfl, trivial⟩
      · split
        · exact ⟨_, rfl, trivial⟩
        · rw [h.scatLanes]
          exact ⟨_, rfl, trivial⟩

/-! Descriptors, copies and maps (R175 to R185). -/

/-- Without tags a comparison of tags changes nothing. -/
theorem tagCheck_untagged (e : Engine) (off n : Nat) (h : s.cur.tg = []) : s.tagCheck e off n = .ok (s.setCur s.cur) := by
  rw [State.tagCheck, h]
  rfl

/-- A bank access that meets no other is noted. -/
theorem useBank_free (e : Engine) (at_ off : Nat) (h : s.cur.banks = []) :
    s.useBank e at_ off = .ok (s.modCur fun c => { c with banks := (s.cur.now + at_, bankOf off, blockOf off) :: c.banks }) :=
  if_neg (by simp [h])

theorem calmly_cdset (h : Bare s) (f : LWord) : calmly s (.cdset f) .l := by
  refine calmly_issue rfl (calm_needClean ?_)
  rw [localAddr]
  split
  · trivial
  · split
    · trivial
    · rw [tagCheck_untagged .l _ _ (congrArg Core.tg h.core)]
      dsimp only
      rw [useBank_free .l 0 _ (by rw [State.cur_setCur]; exact congrArg Core.banks h.core)]
      exact (((State.stays.refl s).setCur (.refl _)).modCur (.of_course rfl)).emit _ _ _

/-- After reset a copy descriptor covers no element, and names no tile. -/
theorem Bare.cdOf (h : Bare s) (n : Nat) : ∃ d, s.cur.cdOf n = (d, false) ∧ cdCount d = 0 ∧ cdAsrc d = false :=
  ⟨_, congrArg (tget (0, false) · n) (congrArg Core.cd h.core), by simp [cdCount, cdExt, fld], by simp [cdAsrc, bitAt]⟩

/-- A copy of no element is entered at once, or is refused. -/
theorem calm_copyStart (h : Bare s) {d : BitVec 512} (hcount : cdCount d = 0) (hasrc : cdAsrc d = false) (e : Engine) (f : CopyForm) (n loc : Nat) (o0 o1 : Int) :
    (copyStart s e f n d loc o0 o1).calm s := by
  have htiles : tilesOf d loc = [] := by rw [tilesOf, hasrc]; rfl
  have hchunks : chunksOf' f d loc o0 o1 = [] := by rw [chunksOf', hcount]; simp
  have hfar : farAddrs f d o0 o1 = [] := by cases f <;> simp [farAddrs, hcount]
  have hsealed (pins : List (Nat × Nat × Nat)) (t : State) : t.farSealed f d o0 o1 pins = false := by rw [State.farSealed, hcount]; simp
  rw [copyStart]
  split
  · trivial
  · simp only [htiles, hchunks, hfar, hsealed, Core.busyTiles, tagChunks, State.submit, ite_self]
    split
    · trivial
    · split
      · trivial
      · split
        · trivial
        · rw [if_neg Bool.false_ne_true, h.drainAll]
          refine State.stays.modCur ?_ (.of_course rfl)
          split
          · exact (State.stays.refl s).show_.modCur (.of_course rfl)
          · exact (State.stays.refl s).show_

theorem calmly_copyIssue {i : Instr} (h : Bare s) {e : Engine} {f : CopyForm} {w : LWord} (hi : exec i s = copyIssue s e f w) : calmly s i e := by
  obtain ⟨d, hd, hcount, hasrc⟩ := h.cdOf (fld w.off 0 4).toNat
  simp only [copyIssue, hd] at hi
  refine calmly_issue hi (calm_needClean ?_)
  rw [localAddr]
  split
  · trivial
  · exact calm_copyStart h hcount hasrc _ _ _ _ _ _

theorem calmly_waitcChunk (e : Engine) (f : LWord) : calmly s (.waitcChunk e f) e := by
  refine calmly_issue rfl (calm_needClean ?_)
  split
  · exact .refl s
  · trivial

theorem Core.fillPosts_course (m n : Nat) : ∀ c : Core, (c.fillPosts m n).course = c.course := by
  induction n with
  | zero => exact fun _ => rfl
  | succ n ih =>
    intro c
    rw [Core.fillPosts]
    split
    · split
      · rfl
      · exact ih _
    · rfl

theorem calmly_waitcPosting (e : Engine) (f : LWord) : calmly s (.waitcPosting e f) e := by
  refine calmly_issue rfl ?_
  split
  · trivial
  · split
    · exact ((State.stays.refl s).modCur (.of_course (Core.fillPosts_course _ _ _))).putS _ _ _ _ _
    · trivial

theorem calmly_seqset (f : LWord) : calmly s (.seqset f) .l := by
  refine calmly_issue rfl (calm_needClean ?_)
  split
  · trivial
  · split
    · trivial
    · exact (State.stays.refl s).emit _ _ _

/-! Remote stores (R186 to R188). -/

theorem calmly_stb (h : Bare s) (f : LWord) : calmly s (.stb f) .w := by
  refine calmly_issue rfl (calm_needClean ?_)
  have hrank (x r : Nat) : s.rankModule x r = none := by rw [State.rankModule, h.context]
  rw [hrank, h.drainAll]
  split
  · trivial
  · split
    · trivial
    · exact ((State.stays.refl s).show_.modCur (.of_course rfl)).modCur (.of_course rfl)

theorem calmly_bclose (h : Bare s) (f : LWord) : calmly s (.bclose f) .w := by
  refine calmly_issue rfl (calm_needClean ?_)
  have hbatch (t : Nat) : s.cur.batch t = [] := by rw [Core.batch, show s.cur.batches = [] from congrArg Core.batches h.core]; rfl
  have hmoving (t : Nat) : s.cur.batchMoving t = false := by rw [Core.batchMoving, show s.cur.copies = [] from congrArg Core.copies h.core]; rfl
  have hbanks : (List.range 8).filter (fun i => decide (128 * i < 16 * 0)) = [] := rfl
  simp only [hbatch, hmoving, hbanks, List.any_nil, List.length_nil, Bool.or_self, Bool.false_eq_true, if_false, List.map_nil, State.useBanks, ite_self]
  split
  · trivial
  · split
    · trivial
    · refine State.stays.putS (State.stays.modCur ?_ (.of_course rfl)) _ _ _ _ _
      split
      · exact .refl s
      · exact (State.stays.refl s).emit _ _ _

theorem calmly_pub (h : Bare s) (f : LWord) : calmly s (.pub f) .w := by
  refine calmly_issue rfl (calm_needClean ?_)
  rw [if_pos (show (s.cur.rs f.idx.toNat).v = 0 by rw [h.rs]; rfl)]
  exact .refl s

end

end Sys2Proof.Machine
end

section
/-! PROOFS. The instructions of X in a bare machine (O50; R42, R124 to R163): none freezes the core. -/

namespace Sys2Proof.Machine

open Sys2Proof.Claim

section
variable {s : State}

/-! Vector instructions (R42, R124 to R143). -/

theorem VecOut.stays {h : VecShape} {act : W32} {t : State} (ht : VecOut s h act t) : s.stays t := by
  obtain ⟨q, sr, ws, hc, -⟩ := ht.ran
  exact ⟨ht.others.here, .of_course (by rw [hc]; rfl)⟩

/-- The body of a vector instruction traps, or lands. -/
theorem VecBody.calm {h : VecShape} {act : W32} {x : Effect} (hx : VecBody s h act x) : x.calm s := by
  have hpos {q : BitVec 3} (hq : ¬ready s q h.pops) : 0 < h.pops := by
    refine Nat.pos_of_ne_zero fun h0 => hq ?_
    rw [h0]
    exact ⟨Nat.zero_le _, fun _ he => absurd he List.not_mem_nil⟩
  by_cases ha : ready s h.f.qa h.pops
  · by_cases hb : h.two = true → ready s h.f.qb h.pops
    · obtain ⟨t, rfl, ht⟩ := hx.lands ha hb
      exact ht.stays
    · obtain ⟨h2, hb⟩ := Classical.not_imp.1 hb
      rw [hx.noB (hpos hb) h2 ha hb]
      trivial
  · rw [hx.noA (hpos ha) ha]
    trivial

theorem Bare.rp (h : Bare s) (n : Nat) : (s.cur.rp n).pz = none := by
  rw [Core.rp, show s.cur.p = [] from congrArg Core.p h.core]
  split <;> rfl

/-- No guard is poisoned after reset. -/
theorem Bare.activeLanes (h : Bare s) (md : ModWord) : ∃ act, Claim.activeLanes s md act := by
  unfold Claim.activeLanes
  cases md with
  | none => exact ⟨_, rfl⟩
  | some m =>
    dsimp only
    split
    · exact ⟨_, h.rp _, rfl⟩
    · exact ⟨_, rfl⟩

theorem calmly_vector (h : Bare s) {i : Instr} {sh : VecShape} (hsh : vecShape i = some sh) : calmly s i .x := by
  obtain ⟨x, hx, hruns⟩ := vecShape_runs (s := s) hsh
  obtain ⟨act, ha⟩ := h.activeLanes sh.f.md
  refine calmly_issue hx ?_
  by_cases hd : legalDest sh.f sh.w
  · cases hok : sh.ok with
    | true => exact (hruns.body hd hok act ha).calm
    | false =>
      rw [hruns.part hd hok act ha]
      trivial
  · rw [hruns.dest hd]
    trivial

theorem Bare.queue (h : Bare s) (q : Nat) : s.cur.queue q = [] := by
  rw [Core.queue, show s.cur.q = [] from congrArg Core.q h.core]
  rfl

/-- An empty queue gives no entries. -/
theorem Bare.takeQ (h : Bare s) (q : Nat) {n : Nat} (hn : 0 < n) : s.cur.takeQ q n = none := by
  rw [Core.takeQ, h.queue]
  refine if_neg fun hlen => ?_
  simp at hlen
  omega

/-- An instruction that pops takes an entry or two. -/
theorem two_or_one_pos (p : Prop) [Decidable p] : 0 < if p then 2 else 1 := by
  split <;> decide

theorem calmly_vcmp (h : Bare s) (f : XVec) : calmly s (.vcmp f) .x := by
  refine calmly_issue rfl ?_
  rw [vcmp]
  dsimp only
  split
  · trivial
  · rw [pop2, h.takeQ _ (two_or_one_pos _)]
    trivial

theorem calmly_vext (h : Bare s) (f : XVec) (ext : BitVec 32) : calmly s (.vext f ext) .x := by
  suffices hx : ∃ x : Effect, execVext f ext s = s.issue .x x ∧ x.calm s from hx.elim fun x hx => calmly_issue hx.1 hx.2
  rw [execVext]
  generalize intType f.tr = p
  refine ⟨_, rfl, ?_⟩
  split
  · trivial
  · rw [pop1, entries, h.takeQ _ (two_or_one_pos _)]
    trivial

/-! Multiplies (R146 to R158). -/

/-- The operand descriptors after reset. -/
theorem Bare.odOf (h : Bare s) (n : Nat) : s.cur.odOf n = (0#128, false) := by
  rw [Core.odOf, show s.cur.od = [] from congrArg Core.od h.core]
  rfl

/-- What of the zero descriptor a multiply reads: a local panel of one k-step at address 0, which is in group A. -/
theorem od_zero : odKind 0#128 = 0 ∧ odK 0#128 = 1 ∧ odAddr 0#128 = 0 ∧ odPitch 0#128 = 0 ∧ odTr 0#128 = false := by
  refine ⟨?_, ?_, ?_, ?_, ?_⟩ <;> simp [odKind, odK, odAddr, odPitch, odTr, fld, bitAt]

/-- With the descriptors of reset a multiply is an illegal operand, or reads its B operand out of group A. -/
theorem Bare.mulOf (h : Bare s) (hx : s.cur.ex.levels = []) (m : MulOp) (f : XMat) :
    ∀ u, Machine.mulOf s m f = some u → u.k / (matFmt f.fmt.toNat).ks = 1 ∧ ∀ entry, groupsOk m (matFmt f.fmt.toNat) u entry 1 = false := by
  intro u hu
  obtain ⟨hkind, hk, haddr, hpitch, htr⟩ := od_zero
  have hstep : matStep s f 2 = 0 := by
    have hloop : (s.cur.seqOf .x).inLoop = false := by rw [Seq.inLoop, show (s.cur.seqOf .x).levels = [] from hx]; rfl
    rw [matStep]
    split
    · cases f.st with
      | none => rfl
      | some w => exact if_neg (by rw [hloop]; decide)
    · rfl
  cases m with
  | mma =>
    simp only [Machine.mulOf, h.odOf, hkind, hk, hstep, reduceCtorEq, if_false, false_and] at hu
    split at hu
    · cases hu
    · split at hu
      · cases hu
      · next hks =>
          have hone : (matFmt f.fmt.toNat).ks = 1 := Nat.dvd_one.1 (Nat.dvd_of_mod_eq_zero (not_not.1 (not_or.1 hks).1))
          split at hu
          · next a b _ hb =>
            cases hu
            rw [hone]
            refine ⟨Nat.div_one 1, fun entry => ?_⟩
            obtain ⟨x, hlocal, rfl⟩ := Option.map_eq_some_iff.1 hb
            simp only [localOf, htr, Bool.false_eq_true, if_false] at hlocal
            split at hlocal
            · cases hlocal
            · cases hlocal
              simp [groupsOk, Mul.pieces, Operand.pieces, localPieces, inGroup, haddr, hpitch]
          · cases hu
  | mmac => simp [Machine.mulOf, h.odOf, hkind] at hu
  | mmar => simp [Machine.mulOf, h.odOf, hkind] at hu
  | mconv => simp [Machine.mulOf, h.odOf, hkind] at hu

theorem Bare.multiply (h : Bare s) (hx : s.cur.ex.levels = []) (m : MulOp) (f : XMat) : 1 ≤ (Machine.multiply s m f).2 ∧ (Machine.multiply s m f).1.calm s := by
  have hprog : s.cur.mprog = none := congrArg Core.mprog h.core
  simp only [Machine.multiply, hprog, ite_self]
  split
  · exact ⟨le_rfl, trivial⟩
  · split
    · exact ⟨le_rfl, trivial⟩
    · split
      · exact ⟨le_rfl, trivial⟩
      · next u hu =>
        obtain ⟨hgroups, hno⟩ := h.mulOf hx m f u hu
        rw [hgroups, hno]
        exact ⟨le_rfl, trivial⟩

theorem calmly_multiply (h : Bare s) (hx : s.cur.ex.levels = []) {i : Instr} {m : MulOp} {f : XMat} (hi : exec i s = s.issueOcc .x (Machine.multiply s m f).2 (Machine.multiply s m f).1) :
    calmly s i .x :=
  ⟨_, _, (h.multiply hx m f).1, hi, (h.multiply hx m f).2⟩

/-! Accumulators (R157, R160 to R163). -/

theorem calmly_mshape (h : Bare s) (f : XMat) (ext : BitVec 32) : calmly s (.mshape f ext) .x := by
  refine calmly_issue rfl ?_
  split
  · trivial
  · rw [useBank_free .x 0 _ (congrArg Core.banks h.core)]
    dsimp only
    rw [tagCheck_untagged .x _ _ (by rw [State.cur_modCur]; exact congrArg Core.tg h.core)]
    exact (((State.stays.refl s).modCur (.of_course rfl)).setCur (.refl _)).emit _ _ _

/-- No tile is owned, copied or armed. -/
theorem Bare.busyTile (h : Bare s) (e : Engine) (t : Nat) : s.cur.ownedTile e t = none ∧ s.cur.copiedTile e t = none ∧ s.cur.armedTile e t = none := by
  have hmats : s.cur.allMats = [] := by rw [Core.allMats, h.core]; rfl
  have hsteps : s.cur.stepTiles = [] := by rw [Core.stepTiles, h.core]; rfl
  refine ⟨?_, ?_, ?_⟩
  · rw [Core.ownedTile, hmats]; rfl
  · rw [Core.copiedTile, hsteps, show s.cur.copies = [] from congrArg Core.copies h.core]; rfl
  · rw [Core.armedTile, show s.cur.arms = [] from congrArg Core.arms h.core]; rfl

theorem calmly_accz (h : Bare s) (f : XMat) : calmly s (.accz f) .x := by
  refine calmly_issue rfl ?_
  have hno (l : List Nat) : s.cur.busyTiles .x l = none := by
    induction l with
    | nil => rfl
    | cons t l ih =>
      obtain ⟨ho, hc, ha⟩ := h.busyTile .x t
      rw [Core.busyTiles, Core.busyTile, ho, hc, ha]
      exact ih
  rw [hno]
  exact (State.stays.refl s).emits _ _ _

theorem calmly_accrd (h : Bare s) (f : XMat) (ext : BitVec 32) : calmly s (.accrd f ext) .x := by
  refine calmly_issue rfl ?_
  obtain ⟨ho, hc, ha⟩ := h.busyTile .x f.tile.toNat
  simp only [Core.busyTile, ho, hc, ha, Option.or_none, ite_self]
  split
  · trivial
  · exact (State.stays.refl s).emits _ _ _

theorem calmly_accwr (h : Bare s) (f : XMat) (ext : BitVec 32) : calmly s (.accwr f ext) .x := by
  refine calmly_issue rfl ?_
  obtain ⟨ho, hc, ha⟩ := h.busyTile .x f.tile.toNat
  simp only [Core.busyTile, ho, hc, ha, Option.or_none]
  split
  · trivial
  · exact (State.stays.refl s).emit _ _ _

/-- The core is a member of no group. -/
theorem calmly_accarm (h : Bare s) (f : XMat) (ext : BitVec 32) : calmly s (.accarm f ext) .x := by
  refine calmly_issue rfl ?_
  rw [show s.cur.slots = [] from congrArg Core.slots h.core]
  trivial

theorem calmly_mexc (f : XMat) : calmly s (.mexc f) .x := by
  suffices hx : ∃ t : State, execMexc f s = s.issue .x (.done t) ∧ s.stays t from hx.elim fun t ht => calmly_issue ht.1 ht.2
  exact ⟨_, rfl, (State.stays.refl s).modCur (.of_course rfl)⟩

end

end Sys2Proof.Machine
end

section
/-! PROOFS. Whatever a group of a core decodes to, a bare machine does not freeze over it (O50; R73, R84). -/

namespace Sys2Proof.Machine

open Sys2Proof.Claim

/-- Engines have distinct spaces. -/
theorem Engine.eq_of_space {e f : Engine} {c d : Code} (h : some (f.space, d) = some (e.space, c)) : e = f := by
  have hsp : f.space = e.space := congrArg Prod.fst (Option.some.inj h)
  cases e with
  | s => cases f with
    | s => rfl
    | _ => cases hsp
  | l => cases f with
    | l => rfl
    | _ => cases hsp
  | x => cases f with
    | x => rfl
    | _ => cases hsp
  | w => cases f with
    | w => rfl
    | _ => cases hsp

/-- A calm instruction of the engine that the group is for lets the core settle. -/
theorem Issuing.settles_of {s : State} {e f : Engine} {g : Group} {i : Instr} {c d : Code} (hs : Issuing s e g) (h : calmly s i f) (hi : some (f.space, d) = some (e.space, c)) :
    Machine.settles 0 (exec i s) := by
  obtain rfl := Engine.eq_of_space hi
  exact hs.settles_calmly h

/-- An instruction that a group of the engine decodes to lets the core settle. -/
theorem Issuing.settles_encoded {s : State} {e : Engine} {g : Group} {i : Instr} {c : Code} (hs : Issuing s e g) (h : Bare s) (hx : s.cur.ex.levels = [])
    (hi : encode i = some (e.space, c)) : Machine.settles 0 (exec i s) := by
  cases i with
  | add f | sub f | mul f | mulh f | mulhu f | div f | divu f | rem f | remu f | min f | max f | minu f | maxu f | and f | or f | xor f | andn f | shl f | shr f | sra f | bext f
  | clz f | ctz f | popc f | sext f | zext f | bins f | sel f | addi f | andi f | ori f | xori f | shli f | shri f | srai f | tkrd f => exact hs.settles_of (calmly_putS rfl) hi
  | li f ext | lih f ext => exact hs.settles_of (calmly_putS rfl) hi
  | cmp cc f => exact hs.settles_of (calmly_putP rfl) hi
  | plog op f => exact hs.settles_of (calmly_putP rfl) hi
  | cmpiLo f | cmpiHi f | pset f => exact hs.settles_of (calmly_putP rfl) hi
  | mov f | movpToScalar f => exact hs.settles_of (calmly_moveS rfl) hi
  | movpToPredicate f => exact hs.settles_of (calmly_emit rfl) hi
  | ld w f => exact hs.settles_of (calmly_ld h w f) hi
  | st w f => exact hs.settles_of (calmly_st h w f) hi
  | ldSpec w f => exact hs.settles_of (calmly_ldSpec h w f) hi
  | lda d f => exact hs.settles_of (calmly_lda h d f) hi
  | stl d f => exact hs.settles_of (calmly_stl h d f) hi
  | cas d f => exact hs.settles_of (calmly_cas h d f) hi
  | amo d op f => exact hs.settles_of (calmly_amo h d op f) hi
  | fence kind scope f => exact hs.settles_of (calmly_fence h kind scope f) hi
  | probe f => exact hs.settles_of (calmly_probe h f) hi
  | unpin f => exact hs.settles_of (calmly_unpin h f) hi
  | pfen f => obtain rfl := Engine.eq_of_space (f := .s) hi; exact hs.settles_pfen
  | trap f => obtain rfl := Engine.eq_of_space (f := .s) hi; exact hs.settles_trap f
  | uhret f => exact hs.settles_of (calmly_uhret h f) hi
  | decline f => exact hs.settles_of (calmly_decline h f) hi
  | clkdiv f => exact hs.settles_of (calmly_clkdiv f) hi
  | chk f => exact hs.settles_of (calmly_chk f) hi
  | yield f => exact hs.settles_of (calmly_yield h f) hi
  | npost f => exact hs.settles_of (calmly_npost h f) hi
  | lpost f => exact hs.settles_of (calmly_lpost h f) hi
  | tkset f => exact hs.settles_of (calmly_tkset f) hi
  | sysrd f => exact hs.settles_of (calmly_sysrd f) hi
  | syswr f => exact hs.settles_of (calmly_syswr f) hi
  | br f | call f | jmpi f => exact hs.settles_of (calmly_branchTo f _ _ rfl) hi
  | jmp f | ret f => exact hs.settles_of (calmly_jumpReg f rfl) hi
  | halt f => exact hs.settles_of (calmly_halt f) hi
  | barv f => exact hs.settles_of (calmly_barv h f) hi
  | barred f => exact hs.settles_of (calmly_barred h f) hi
  | barw f => exact hs.settles_of (calmly_barw h f) hi
  | ecprot f | ecunprot f | ecseal f | ecclose f => exact hs.settles_of (calmly_ecIssue h rfl) hi
  | ecstat f => exact hs.settles_of (calmly_ecstat h f) hi
  | loopImm e' f => obtain rfl := Engine.eq_of_space (f := e') hi; exact hs.settles_loop f.len f.st ⟨f.cimm.zeroExtend 64, none⟩
  | loopReg e' f => obtain rfl := Engine.eq_of_space (f := e') hi; exact hs.settles_loop f.len f.st (s.cur.rs f.creg.toNat)
  | sig e' f => exact hs.settles_of (calmly_sig _ f) hi
  | wait e' f => exact hs.settles_of (calmly_wait _ f) hi
  | nop e' st => exact hs.settles_of (calmly_nop _ st) hi
  | pfenMark e' st => obtain rfl := Engine.eq_of_space (f := e') hi; exact hs.settles_pfen
  | waitcChunk e' f => exact hs.settles_of (calmly_waitcChunk _ f) hi
  | waitcPosting e' f => exact hs.settles_of (calmly_waitcPosting _ f) hi
  | vrd f => exact hs.settles_of (calmly_vrd f) hi
  | sprd f => exact hs.settles_of (calmly_sprd f) hi
  | vld f => exact hs.settles_of (calmly_vld h f) hi
  | gath f => exact hs.settles_of (calmly_gath h f) hi
  | mldH f => exact hs.settles_of (calmly_mldH h f) hi
  | mldV f => exact hs.settles_of (calmly_mldV h f) hi
  | odset f => exact hs.settles_of (calmly_emit rfl) hi
  | cdset f => exact hs.settles_of (calmly_cdset h f) hi
  | seqset f => exact hs.settles_of (calmly_seqset f) hi
  | xld f | xldT f | xldn f | xldf f => exact hs.settles_of (calmly_copyIssue h rfl) hi
  | xst f | xstn f | xstf f => exact hs.settles_of (calmly_copyIssue h rfl) hi
  | mst f => exact hs.settles_of (calmly_mst h f) hi
  | spwr f => exact hs.settles_of (calmly_spwr h f) hi
  | scat f => exact hs.settles_of (calmly_scat h f) hi
  | stb f => exact hs.settles_of (calmly_stb h f) hi
  | bclose f => exact hs.settles_of (calmly_bclose h f) hi
  | pub f => exact hs.settles_of (calmly_pub h f) hi
  | vadd f | vsub f | vmul f | vmin f | vmax f | vminnum f | vmaxnum f | vrcp f | vrsq f | vsqrt f | vexp2 f | vlog2 f | vclass f | viadd f | visub f | vimul f | vimulh f | viaddw f
  | vand f | vor f | vxor f | vshl f | vshr f | vsra f | vimin f | vimax f | vclz f | vpopc f | vscan f | vscanWide f | vred f | vperm f | vmov f | vlane f =>
    exact hs.settles_of (calmly_vector h rfl) hi
  | vfma f ext | vfms f ext | vfnma f ext | vimad f ext | vimadw f ext | vcvt f ext | vqmx f ext | vdqmx f ext | vrot f ext | vbcast f ext | vsel f ext | vins f ext =>
    exact hs.settles_of (calmly_vector h rfl) hi
  | vcmp f => exact hs.settles_of (calmly_vcmp h f) hi
  | vext f ext => exact hs.settles_of (calmly_vext h f ext) hi
  | mma f | mmac f | mmar f | mconv f => exact hs.settles_of (calmly_multiply h hx rfl) hi
  | mshape f ext => exact hs.settles_of (calmly_mshape h f ext) hi
  | accz f => exact hs.settles_of (calmly_accz h f) hi
  | accrd f ext => exact hs.settles_of (calmly_accrd h f ext) hi
  | accwr f ext => exact hs.settles_of (calmly_accwr h f ext) hi
  | accarm f ext => exact hs.settles_of (calmly_accarm h f ext) hi
  | mexc f => exact hs.settles_of (calmly_mexc f) hi
  | semwge f | semadd f | semset f | qsub f | intr f => cases e <;> cases hi
  | _ => cases hi

end Sys2Proof.Machine
end

section
/-! PROOFS. The start of a cycle of a bare core (O50; R10, R40, R57): nothing lands and nothing is due; fetch runs, and the turns begin. -/

namespace Sys2Proof.Machine

open Sys2Proof.Claim

/-- A core as after reset, but for what a bare machine leaves open. -/
def Core.bare (c : Core) : Core :=
  { Core.reset with
    mode := .user, es := c.es, el := c.el, ex := c.ex, ew := c.ew, fetch := c.fetch, plane0 := c.plane0, turn := c.turn
    blockedBy := c.blockedBy, stuck := c.stuck, tref := c.tref, tun := c.tun }

section
variable {s : State}

theorem Bare.core_bare (h : Bare s) : s.core 0 = (s.core 0).bare := by
  rw [h.cur_core]
  exact h.core

/-- A change of core 0 and of the clocks leaves a bare machine. -/
theorem Bare.of (h : Bare s) {t : State} (hm : t = { s with cores := t.cores, fresh := t.fresh, ref := t.ref }) (hc : t.core 0 = (t.core 0).bare) : Bare t := by
  have hmodule : t = { State.reset with cores := t.cores, fresh := t.fresh, ref := t.ref } :=
    hm.trans (congrArg (fun u : State => { u with cores := t.cores, fresh := t.fresh, ref := t.ref }) h.module)
  refine ⟨hmodule, ?_⟩
  rw [State.cur, show t.here = .core 0 by rw [hmodule]; rfl]
  exact hc

theorem Bare.setCore (h : Bare s) {c : Core} (hc : c = c.bare) : Bare (s.setCore 0 c) :=
  h.of rfl (by rwa [State.core_setCore_same])

theorem Bare.pass (h : Bare s) (k : Nat) : Bare (s.pass (.core 0) k) := by
  refine h.of rfl ?_
  have hcore : (s.pass (.core 0) k).core 0 = { s.core 0 with tref := (s.core 0).tref + k, tun := (s.core 0).tun + k * s.period (.core 0) } := State.core_setCore_same _ _ _
  rw [hcore, h.core_bare]
  rfl

theorem Bare.bump (h : Bare s) : Bare s.bump := h.of rfl h.core_bare

/-- No result is in flight. -/
theorem Bare.landDue (h : Bare s) : s.landDue (.core 0) = s.setCore 0 (s.core 0) := by
  have hcore := h.core_bare
  have hpend : (s.core 0).pend = [] := congrArg Core.pend hcore
  have hsame : ({ s.core 0 with pend := [], lates := [] } : Core) = s.core 0 := by
    rw [hcore]
    rfl
  have hlates : (s.core 0).lates = [] := congrArg Core.lates hcore
  simp only [State.landDue, State.agent_core, hpend, hlates, List.filter_nil, State.landAll, hsame]
  rfl

/-- No operation is in flight. -/
theorem Bare.growAll (h : Bare s) (n : Nat) : s.growAll 0 n = .ok s := by
  cases n with
  | zero => rfl
  | succ n =>
    rw [State.growAll, show (s.core 0).mats = [] from congrArg Core.mats h.core_bare]
    rfl

/-- The machine at the start of a cycle in which fetch leaves core 0 as `d`. -/
structure Opened (d : Core) (t : State) : Prop where
  bare : Bare t
  turn : (t.core 0).turn = d.turn
  stopped : (t.core 0).fetch.stopped = d.fetch.stopped
  seqOf : ∀ e, (t.core 0).seqOf e = d.seqOf e

theorem Bare.opened (h : Bare s) {c d : Core} (hc : c = c.bare) (hturn : c.turn = d.turn) (hstopped : c.fetch.stopped = d.fetch.stopped) (hseq : ∀ e, c.seqOf e = d.seqOf e) :
    Opened d (s.setCore 0 c) := by
  refine ⟨h.setCore hc, ?_, ?_, ?_⟩
  · rwa [State.core_setCore_same]
  · rwa [State.core_setCore_same]
  · rwa [State.core_setCore_same]

theorem Opened.pass {d : Core} (h : Opened d s) (k : Nat) : Opened d (s.pass (.core 0) k) := by
  have hcore : (s.pass (.core 0) k).core 0 = { s.core 0 with tref := (s.core 0).tref + k, tun := (s.core 0).tun + k * s.period (.core 0) } := State.core_setCore_same _ _ _
  refine ⟨h.bare.pass k, ?_, ?_, fun e => ?_⟩
  · rw [hcore, ← h.turn]
  · rw [hcore, ← h.stopped]
  · rw [hcore, ← h.seqOf]
    cases e <;> rfl

theorem Opened.refetch {d : Core} (h : Opened d s) (f : FetchUnit) (hf : f.stopped = d.fetch.stopped) : Opened d (s.setCore 0 { s.core 0 with fetch := f }) := by
  refine h.bare.opened ?_ h.turn hf fun e => ?_
  · rw [h.bare.core_bare]
    rfl
  · rw [← h.seqOf]
    cases e <;> rfl

theorem Opened.bump {d : Core} (h : Opened d s) : Opened d s.bump := ⟨h.bare.bump, h.turn, h.stopped, h.seqOf⟩

/-- What the start of a cycle makes of a core whose fetch has run: a line that came late costs time (R57). -/
def State.fetched (s : State) (n : Nat) (c : Core) : State :=
  let s2 := s.setCore n { c with blockedBy := c.blocker false (s.core n).lineWords, stuck := c.allStuck false (s.core n).lineWords }
  if (seqsOf false).any (fun e => c.mayLate e) then
    ((s2.setCore n { s2.core n with fetch := { c.fetch with seen := c.fetch.next } }).pass (.core n) (Config.freeDelay s2.fresh)).bump
  else s2

theorem openCycle_core (s : State) (n : Nat) :
    s.openCycle (.core n) = (s.landDue (.core n)).fetched n (Core.fetchAll { (s.landDue (.core n)).core n with turn := 1 } false ((s.landDue (.core n)).core n).lineWords) := by
  unfold State.openCycle
  generalize Core.fetchAll = fetchAll
  rfl

theorem Bare.fetched (h : Bare s) {d : Core} (hd : d = d.bare) : Opened d (s.fetched 0 d) := by
  have hfirst (b : Nat) (k : Bool) : Opened d (s.setCore 0 { d with blockedBy := b, stuck := k }) :=
    h.opened (by rw [hd]; rfl) rfl rfl fun e => by cases e <;> rfl
  unfold State.fetched
  extract_lets s2
  have h2 : Opened d s2 := hfirst _ _
  clear_value s2
  split
  · exact ((h2.refetch { d.fetch with seen := d.fetch.next } rfl).pass _).bump
  · exact h2

theorem Bare.openCycle (h : Bare s) {d : Core} (hfetch : Core.fetchAll { s.core 0 with turn := 1 } false (s.core 0).lineWords = d) (hd : d = d.bare) : Opened d (s.openCycle (.core 0)) := by
  rw [openCycle_core, h.landDue, State.core_setCore_same, hfetch]
  exact (h.setCore h.core_bare).fetched hd

/-- A change of core 0 that changes nothing writes it back. -/
theorem State.modCore_same {f : Core → Core} (hf : f (s.core 0) = s.core 0) : s.modCore 0 f = s.setCore 0 (s.core 0) := congrArg (s.setCore 0) hf

theorem Bare.thaw (h : Bare s) : s.modCore 0 (fun c => { c with frozen := false }) = s.setCore 0 (s.core 0) := by
  refine State.modCore_same ?_
  rw [h.core_bare]
  rfl

theorem Bare.keep_k0 (h : Bare s) : s.modCore 0 (fun c => { c with k0 := c.k }) = s.setCore 0 (s.core 0) := by
  refine State.modCore_same ?_
  rw [h.core_bare]
  rfl

theorem Bare.signalArms (h : Bare s) : s.modCore 0 Core.signalArms = s.setCore 0 (s.core 0) := by
  refine State.modCore_same ?_
  rw [Core.signalArms, show (s.core 0).arms = [] from congrArg Core.arms h.core_bare]
  rfl

theorem Bare.settleArms (h : Bare s) : s.settleArms 0 = s := by
  rw [State.settleArms, show (s.core 0).arms = [] from congrArg Core.arms h.core_bare]
  rfl

/-- A bare core begins its cycle with its turns. -/
theorem Bare.startCycle (h : Bare s) {d : Core} (hfetch : Core.fetchAll { s.core 0 with turn := 1 } false (s.core 0).lineWords = d) (hd : d = d.bare) :
    ∃ t, Opened d t ∧ s.startCycle 0 = scanTurns t 9 := by
  have hsame {t : State} (ht : Bare t ∧ t.core 0 = s.core 0) : Bare (t.setCore 0 (t.core 0)) ∧ (t.setCore 0 (t.core 0)).core 0 = s.core 0 :=
    ⟨ht.1.setCore ht.1.core_bare, (State.core_setCore_same _ _ _).trans ht.2⟩
  have hmats : (s.core 0).mats = [] := congrArg Core.mats h.core_bare
  unfold State.startCycle
  rw [h.thaw]
  have h1 := hsame ⟨h, rfl⟩
  generalize s.setCore 0 (s.core 0) = s1 at h1
  dsimp only
  rw [h1.1.here, h1.1.landDue]
  have h2 := hsame h1
  generalize s1.setCore 0 (s1.core 0) = s2 at h2
  rw [h2.2, hmats, h2.1.growAll, List.any_nil, List.any_nil, if_neg Bool.false_ne_true]
  dsimp only
  rw [if_neg Bool.false_ne_true, h2.1.keep_k0]
  have h3 := hsame h2
  generalize s2.setCore 0 (s2.core 0) = s3 at h3
  rw [h3.1.settleArms, h3.1.signalArms]
  have h4 := hsame h3
  generalize s3.setCore 0 (s3.core 0) = s4 at h4
  exact ⟨_, h4.1.openCycle (by rw [h4.2]; exact hfetch) hd, rfl⟩

end

end Sys2Proof.Machine
end

section
/-! PROOFS. The turns of a cycle in which one engine alone has a group (O50; R40, R47, R206): they come to the turn of the group. -/

namespace Sys2Proof.Machine

open Sys2Proof.Claim

/-- A bare core in whose cycle engine `e` alone issues, the instruction `i` of its group `g`. -/
structure Ready (s : State) (e : Engine) (g : Group) (i : Instr) : Prop where
  bare : Bare s
  stopped : s.cur.fetch.stopped = false
  others : ∀ f, f ≠ e → (s.cur.seqOf f).ended = true ∧ (s.cur.seqOf f).parked = false
  free : s.cur.free e = true
  group : (s.cur.seqOf e).nextGroup = some g
  decoded : decodeGroup false e (s.cur.seqOf e) g = .run i
  levels : s.cur.ex.levels = []

/-- The turn in which a bare core issues the instruction. -/
def issueTurn (e : Engine) (i : Instr) : Nat := if deferred Core.reset (.run i) then firstTurn e + 4 else firstTurn e

section
variable {s : State} {e : Engine} {g : Group} {i : Instr}

/-- Before an engine's turn the turns are those of others. -/
theorem turnEngine_early {t : Nat} (hpos : 1 ≤ t) (ht : t < firstTurn e) : turnEngine t ≠ e := by
  have h4 : t ≤ 3 := by cases e <;> simp only [firstTurn] at ht <;> omega
  interval_cases t <;> cases e <;> simp_all [turnEngine, firstTurn]

/-- Before the turn of an engine's WAITs its only turn is among the first four. -/
theorem turnEngine_first {t : Nat} (hpos : 1 ≤ t) (ht : t < firstTurn e + 4) (he : turnEngine t = e) : t ≤ 4 := by
  have h8 : t ≤ 7 := by cases e <;> simp only [firstTurn] at ht <;> omega
  subst he
  interval_cases t <;> simp_all [turnEngine, firstTurn]

theorem Bare.deferred (h : Bare s) (d : Due) : Machine.deferred s.cur d = Machine.deferred Core.reset d := by
  have htok (k : Nat) : s.cur.tok k = Core.reset.tok k := by rw [h.core]; rfl
  unfold Machine.deferred
  split
  · rw [htok]
  · rfl

theorem Ready.issuing (h : Ready s e g i) (ht : s.cur.turn = issueTurn e i) : Issuing s e g := by
  have hcore := h.bare.core
  refine ⟨h.bare.here, congrArg Core.frozen hcore, h.bare.mode, congrArg Core.nrun hcore, congrArg Core.inbox hcore, congrArg Core.refusals hcore, h.others, h.group, ?_⟩
  rw [h.decoded, h.bare.deferred]
  exact ht

/-- In an earlier turn nothing is done. -/
theorem Ready.turnOf_pass (h : Ready s e g i) {words : Nat → List W32} (hpos : 1 ≤ s.cur.turn) (ht : s.cur.turn < issueTurn e i) :
    s.cur.turnOf false words s.cur.turn = .pass := by
  have hdef := h.bare.deferred (.run i)
  rw [issueTurn, ← hdef] at ht
  rw [Core.turnOf]
  dsimp only
  rw [if_neg (by simp [h.stopped])]
  by_cases hf : turnEngine s.cur.turn = e
  · rw [hf, h.free, h.group]
    dsimp only
    rw [h.decoded]
    cases hd : Machine.deferred s.cur (.run i) with
    | false =>
      rw [hd, if_neg Bool.false_ne_true] at ht
      exact absurd hf (turnEngine_early hpos ht)
    | true =>
      rw [hd, if_pos rfl] at ht
      have h4 : s.cur.turn ≤ 4 := turnEngine_first hpos ht hf
      simp [h4]
  · have hno : s.cur.free (turnEngine s.cur.turn) = false := by
      rw [Core.free, (h.others _ hf).1]
      simp
    simp [hno]

theorem Bare.modCur (h : Bare s) (f : Core → Core) : s.modCur f = s.setCore 0 (f s.cur) := by
  rw [State.modCur, State.setCur, h.here]
  rfl

theorem Ready.nextTurn (h : Ready s e g i) : Ready (s.modCur fun c => { c with turn := c.turn + 1 }) e g i := by
  have hcur : (s.modCur fun c => { c with turn := c.turn + 1 }).cur = { s.cur with turn := s.cur.turn + 1 } := State.cur_modCur _ _
  have hseq (f : Engine) : ({ s.cur with turn := s.cur.turn + 1 } : Core).seqOf f = s.cur.seqOf f := by cases f <;> rfl
  refine ⟨?_, ?_, fun f hf => ?_, ?_, ?_, ?_, ?_⟩
  · rw [h.bare.modCur]
    exact h.bare.setCore (by rw [h.bare.core]; rfl)
  · rw [hcur, ← h.stopped]
  · rw [hcur, hseq]
    exact h.others f hf
  · rw [hcur, Core.free, hseq]
    exact h.free
  · rw [hcur, hseq, h.group]
  · rw [hcur, hseq, h.decoded]
  · rw [hcur, ← h.levels]

/-- In its turn the instruction issues. -/
theorem Ready.turnOf_go (h : Ready s e g i) {words : Nat → List W32} (ht : s.cur.turn = issueTurn e i) : s.cur.turnOf false words s.cur.turn = .go i := by
  have hturn : turnEngine s.cur.turn = e ∧ Machine.deferred s.cur (.run i) = decide (4 < s.cur.turn) := by
    rw [ht, h.bare.deferred, issueTurn]
    cases hd : Machine.deferred Core.reset (.run i) with
    | false => exact ⟨(turnEngine_firstTurn e).1, by cases e <;> rfl⟩
    | true => exact ⟨(turnEngine_firstTurn e).2, by cases e <;> rfl⟩
  have hgo := turnOf_group (words := words) hturn.1 h.free h.group (by rw [h.decoded]; exact hturn.2)
  rwa [h.decoded] at hgo

/-- The turns come to the one of the group. -/
theorem Ready.scan (n : Nat) : ∀ {s : State}, Ready s e g i → 1 ≤ s.cur.turn → s.cur.turn ≤ issueTurn e i → issueTurn e i ≤ s.cur.turn + n →
    ∃ t, scanTurns s (n + 1) = .run t i ∧ Ready t e g i ∧ t.cur.turn = issueTurn e i := by
  have h8 : issueTurn e i ≤ 8 := by
    rw [issueTurn]
    cases e <;> split <;> decide
  have hnone {s : State} (h : Ready s e g i) : s.nTurn = none := by
    simp [State.nTurn, h.bare.here, Core.nToken, show s.cur.nrun = none from congrArg Core.nrun h.bare.core]
  have hgo {s : State} (n : Nat) (h : Ready s e g i) (ht : s.cur.turn = issueTurn e i) : scanTurns s (n + 1) = .run s i :=
    scanTurns_go n (hnone h) (by omega) (by rw [h.bare.isCp]; exact h.turnOf_go ht)
  induction n with
  | zero =>
    intro s h hpos hle hge
    have ht : s.cur.turn = issueTurn e i := by omega
    exact ⟨s, hgo 0 h ht, h, ht⟩
  | succ n ih =>
    intro s h hpos hle hge
    rcases Nat.eq_or_lt_of_le hle with ht | hlt
    · exact ⟨s, hgo _ h ht, h, ht⟩
    · have hcur : (s.modCur fun c => { c with turn := c.turn + 1 }).cur = { s.cur with turn := s.cur.turn + 1 } := State.cur_modCur _ _
      obtain ⟨t, hscan, ht⟩ := ih h.nextTurn (by rw [hcur]; exact Nat.le_add_left _ _) (by rw [hcur]; exact hlt) (by rw [hcur]; dsimp only; omega)
      refine ⟨t, ?_, ht⟩
      rw [scanTurns]
      simp only [hnone h, h.bare.isCp, h.turnOf_pass hpos hlt, if_neg (not_lt.2 (show s.cur.turn ≤ 8 by omega))]
      exact hscan

end

end Sys2Proof.Machine
end

section
/-! PROOFS. From the instruction store to the instruction (O50; R53 to R57, R73): the word that the machine is given is fetched, decoded and executed by the next step. -/

namespace Sys2Proof.Machine

open Sys2Proof.Claim

/-! The line (R53 to R56). -/

/-- The words of the line with a word in lane 1. -/
def placedWords (e : Engine) (w : Nat) : List W32 :=
  [BitVec.ofNat 32 (0xA + 16 * spaceNibble e.space + (if extCount e.space (BitVec.ofNat 32 w) = 1 then 256 * 5 else 0)), BitVec.ofNat 32 w, BitVec.ofNat 32 (w >>> 32)]

/-- The group of the word. -/
def placedGroup (e : Engine) (w : Nat) : Group := ⟨0, 1, tableCode e.space w⟩

theorem extCount_eq (sp : Space) (w : W32) : extCount sp w = 1 ∨ extCount sp w = 0 := by
  have hif (p : Prop) [Decidable p] : (if p then 1 else 0) = 1 ∨ (if p then 1 else 0) = 0 := by
    split
    · exact .inl rfl
    · exact .inr rfl
  cases sp with
  | s => exact hif _
  | cp => exact hif _
  | l => exact .inr rfl
  | w => exact .inr rfl
  | x => exact hif _

/-- The line holds the word's group, and nothing else. -/
theorem readLine_placed (e : Engine) (w : Nat) : readLine false (placedWords e w ++ List.replicate 5 0) 0 = .groups [(e, placedGroup e w)] := by
  rcases extCount_eq e.space (BitVec.ofNat 32 w) with h | h
  · cases e <;> simp [readLine, parseLine, parseLanes, placedWords, placedGroup, spaceNibble, Engine.space, laneEngine, Building.close, Building.need, spaceOf, tableCode, h] at h ⊢
  · cases e <;> simp [readLine, parseLine, parseLanes, placedWords, placedGroup, spaceNibble, Engine.space, laneEngine, Building.close, Building.need, spaceOf, tableCode, h] at h ⊢

/-- The code of the active plane after reset, with the word placed. -/
theorem lineWords_placed (c : Core) (ws : List W32) (h3 : ws.length = 3) (ha : c.active = false) (hp : c.plane0 = tsetMany 0 [] 0 ws) : c.lineWords 0 = ws ++ List.replicate 5 0 := by
  match ws, h3 with
  | [a, b, d], _ =>
    simp [Core.lineWords, ha, hp, tsetMany, tget_tset, tget]
    rfl

/-! Fetch (R57, R208). -/

/-- Core 0 with the word placed, in a turn of its cycle. -/
def placedCore (e : Engine) (w turn : Nat) : Core :=
  { Core.reset with
    mode := .user, turn := turn, es := placedSeq 0 (e == .s), el := placedSeq 0 (e == .l), ex := placedSeq 0 (e == .x), ew := placedSeq 0 (e == .w)
    plane0 := tsetMany 0 [] 0 (placedWords e w) }

/-- The sequencer of the word with its group. -/
def placedQueue (e : Engine) (w : Nat) : Seq := { placedSeq 0 true with queue := [placedGroup e w] }

/-- Core 0 with the group delivered. -/
def fetchedCore (e : Engine) (w : Nat) : Core := { (placedCore e w 1).setSeq e (placedQueue e w) with fetch := { FetchUnit.reset with next := 1 } }

theorem Group.words_le (g : Group) : g.words ≤ 4 := by
  rw [Group.words]
  split <;> split <;> split <;> omega

section
variable (e : Engine) (w : Nat)

theorem placedCore_line : (placedCore e w 0).lineWords 0 = placedWords e w ++ List.replicate 5 0 := lineWords_placed _ _ rfl rfl rfl

theorem placedCore_seqOf (f : Engine) (k : Nat) : (placedCore e w k).seqOf f = placedSeq 0 (f == e) := by cases e <;> cases f <;> rfl

theorem fetchedCore_seqOf (f : Engine) : (fetchedCore e w).seqOf f = if f = e then placedQueue e w else placedSeq 0 false := by cases e <;> cases f <;> rfl

theorem placedCore_canRead (words : Nat → List W32) : (placedCore e w 1).canRead false words [(e, placedGroup e w)] = true := by
  have hread (f : Engine) : readableFor false words ((placedCore e w 1).seqOf f) f [(e, placedGroup e w)] = true := by
    have hwords := (placedGroup e w).words_le
    rw [placedCore_seqOf, readableFor]
    by_cases hf : e = f
    · subst hf
      simp [Seq.passedWords, placedSeq, Seq.reset]
      omega
    · simp [hf]
  rw [Core.canRead, show readableFor false words (placedCore e w 1).es .s _ = true from hread .s, show readableFor false words (placedCore e w 1).el .l _ = true from hread .l,
    show readableFor false words (placedCore e w 1).ex .x _ = true from hread .x, show readableFor false words (placedCore e w 1).ew .w _ = true from hread .w]
  simp

theorem placedCore_deliver : (placedCore e w 1).deliver [(e, placedGroup e w)] = (placedCore e w 1).setSeq e (placedQueue e w) := by
  cases e <;> rfl

theorem placedCore_fetchBlocked : (placedCore e w 1).fetchBlocked = false := by cases e <;> rfl

theorem readLine_placedCore : readLine false ((placedCore e w 0).lineWords 0) 0 = .groups [(e, placedGroup e w)] := by rw [placedCore_line, readLine_placed]

theorem placedCore_fetch : (placedCore e w 1).fetch = FetchUnit.reset := rfl

theorem placedCore_fetchOne : (placedCore e w 1).fetchOne false (placedCore e w 0).lineWords = some (fetchedCore e w) := by
  rw [Core.fetchOne, if_neg (by simp [placedCore_fetchBlocked, placedCore_fetch, FetchUnit.reset]), placedCore_fetch, show FetchUnit.reset.next = 0 from rfl, if_neg (by decide),
    readLine_placedCore]
  dsimp only
  rw [placedCore_canRead, if_pos rfl, placedCore_deliver]
  rfl

/-- The group lies ahead of its engine. -/
theorem placedCore_groupAhead : (placedCore e w 1).groupAhead false (placedCore e w 0).lineWords e = true := by
  have hahead : ahead false (placedCore e w 0).lineWords e 2048 0 = .group 0 1 := by
    rw [ahead, if_neg (by decide), readLine_placedCore]
    simp [placedGroup]
  rw [Core.groupAhead, Core.aheadOf, if_neg (by simp [placedCore_fetchBlocked, placedCore_fetch, FetchUnit.reset]), placedCore_fetch]
  dsimp only [FetchUnit.reset]
  rw [hahead]

/-- A sequencer that is not free, or has a group, needs no fetch. -/
theorem Core.fetchFor_idle {c : Core} {words : Nat → List W32} {f : Engine} (h : c.free f = false ∨ c.hasGroup f = true) (n : Nat) : c.fetchFor false words f n = c := by
  cases n with
  | zero => rfl
  | succ n =>
    rw [Core.fetchFor, if_neg]
    rcases h with h | h
    · simp [h]
    · simp [h]

theorem fetchedCore_idle (words : Nat → List W32) (f : Engine) (n : Nat) : (fetchedCore e w).fetchFor false words f n = fetchedCore e w := by
  refine Core.fetchFor_idle ?_ n
  rw [Core.free, Core.hasGroup, fetchedCore_seqOf]
  by_cases hf : f = e
  · rw [if_pos hf]
    exact .inr rfl
  · rw [if_neg hf]
    exact .inl (by simp [placedSeq])

theorem placedCore_fetchFor (n : Nat) : (placedCore e w 1).fetchFor false (placedCore e w 0).lineWords e (n + 1) = fetchedCore e w := by
  have hfree : (placedCore e w 1).free e = true := by cases e <;> rfl
  have hgroup : (placedCore e w 1).hasGroup e = false := by cases e <;> rfl
  rw [Core.fetchFor, if_pos (by simp [placedCore_groupAhead, hfree, hgroup]), placedCore_fetchOne]
  exact fetchedCore_idle e w _ e n

/-- Fetch reads the line for the engine of the word. -/
theorem placedCore_fetchAll : (placedCore e w 1).fetchAll false (placedCore e w 0).lineWords = fetchedCore e w := by
  have hother (f : Engine) (hf : f ≠ e) (n : Nat) : (placedCore e w 1).fetchFor false (placedCore e w 0).lineWords f n = placedCore e w 1 := by
    refine Core.fetchFor_idle (.inl ?_) n
    rw [Core.free, placedCore_seqOf, beq_false_of_ne hf]
    simp [placedSeq]
  have hown := placedCore_fetchFor e w 2048
  have hidle := fetchedCore_idle e w (placedCore e w 0).lineWords
  simp only [Core.fetchAll, List.foldl_cons, List.foldl_nil]
  cases e with
  | s => rw [hown, hidle, hidle, hidle]
  | l => rw [hother .s (by decide), hown, hidle, hidle]
  | x => rw [hother .s (by decide), hother .l (by decide), hown, hidle]
  | w => rw [hother .s (by decide), hother .l (by decide), hother .x (by decide), hown]

/-! The machine with the word placed. -/

/-- The machine after reset with the word placed for core 0. -/
def placedState : State := { State.reset.setCore 0 (placedCore e w 0) with here := .core 0, agenda := [], fatal := [] }

theorem withFetchWord_eq {nbits : Nat} {i : Instr} (hdec : decodeTableIn tableSpaces w = some (e.space, i)) : State.reset.withFetchWord nbits w = placedState e w := by
  cases e <;> simp only [State.withFetchWord, placeWord, hdec] <;> rfl

theorem placedState_core : (placedState e w).core 0 = placedCore e w 0 := State.core_setCore_same _ _ _

theorem placedState_bare : Bare (placedState e w) := by
  refine ⟨rfl, ?_⟩
  rw [State.cur, show (placedState e w).here = .core 0 from rfl, State.agent_core, placedState_core]
  rfl

/-- At its boundary a bare core enters its cycle. -/
theorem Bare.coreBoundary {s : State} (h : Bare s) : s.coreBoundary 0 = s.enterCycle 0 := by
  have hcore := h.core_bare
  have hmats : (s.core 0).mats = [] := congrArg Core.mats hcore
  have hlate : s.lateFault 0 = none := by
    rw [State.lateFault, Core.lateIngot, State.lateOperand, hmats, h.growAll]
    rfl
  have hmoved : s.movedPos 0 = none := by rw [State.movedPos, Core.movedNow, show (s.core 0).moved = none from congrArg Core.moved hcore, ite_self]
  have hheld : s.held = none := by rw [State.held, show s.cur.holds = [] from congrArg Core.holds h.core]; rfl
  have hretires : (s.core 0).retires = false := by rw [Core.retires, show (s.core 0).run = none from congrArg Core.run hcore]; rfl
  have hpre : (s.core 0).pre = 0 := congrArg Core.pre hcore
  have hmode : (s.core 0).mode = .user := congrArg Core.mode hcore
  have hasyncs : (s.core 0).asyncs = [] := congrArg Core.asyncs hcore
  simp [State.coreBoundary, hlate, hmoved, hheld, hretires, hpre, hmode, hasyncs]

/-- A step of a bare machine before a cycle is the first of its core's cycle. -/
theorem Bare.step {s : State} (h : Bare s) (ht : s.cur.turn = 0) : Machine.step s = (s.enterCycle 0).answer := by
  have hagenda : s.agenda = [] := by rw [h.module]; rfl
  have hfatal : s.fatal = [] := by rw [h.module]; rfl
  have hchecked : s.checked = false := by rw [h.module]; rfl
  have hmoves : s.cur.moves = true := by rw [h.core]; rfl
  rw [step_eq, hchecked, Bool.false_and, if_neg Bool.false_ne_true, State.nextMove, if_neg (by simp [ht]), hfatal, hagenda]
  dsimp only
  rw [State.moveHere, hmoves, h.here]
  simp [ht, h.coreBoundary]

variable {i : Instr}

/-- The turns of the cycle begin with the group at hand. -/
theorem ready_of_opened (hdec : decode e.space (tableCode e.space w) = some i) {t : State} (ht : Opened (fetchedCore e w) t) : Ready t e (placedGroup e w) i := by
  have hseq (f : Engine) : t.cur.seqOf f = if f = e then placedQueue e w else placedSeq 0 false := by rw [← ht.bare.cur_core, ht.seqOf, fetchedCore_seqOf]
  have hown : t.cur.seqOf e = placedQueue e w := (hseq e).trans (if_pos rfl)
  refine ⟨ht.bare, ?_, fun f hf => ?_, ?_, ?_, ?_, ?_⟩
  · rw [← ht.bare.cur_core, ht.stopped]
    rfl
  · rw [hseq, if_neg hf]
    exact ⟨rfl, rfl⟩
  · rw [Core.free, hown, ht.bare.mode]
    simp [placedQueue, placedSeq, Seq.reset]
  · rw [hown]
    rfl
  · rw [decodeGroup, show decode (spaceOf false e) (placedGroup e w).code = some i from hdec]
    rfl
  · rw [show t.cur.ex = _ from hseq .x]
    split <;> rfl

/-- The cycle opens with the instruction of the word. -/
theorem placedState_startCycle (hdec : decode e.space (tableCode e.space w) = some i) :
    ∃ t, (placedState e w).startCycle 0 = .run t i ∧ Ready t e (placedGroup e w) i ∧ t.cur.turn = issueTurn e i := by
  obtain ⟨t, ht, hstart⟩ := (placedState_bare e w).startCycle (d := fetchedCore e w)
    (by rw [placedState_core]; exact placedCore_fetchAll e w) (by cases e <;> rfl)
  have hturn : t.cur.turn = 1 := by rw [← ht.bare.cur_core, ht.turn]; cases e <;> rfl
  rw [hstart]
  exact (ready_of_opened e w hdec ht).scan 8 (by omega) (by rw [hturn, issueTurn]; cases e <;> split <;> decide) (by rw [hturn, issueTurn]; cases e <;> split <;> decide)

/-- The step of the machine with the word placed executes its instruction. -/
theorem placedState_step (hdec : decode e.space (tableCode e.space w) = some i) : ∃ t, Machine.step (placedState e w) = exec i t ∧ Bare t := by
  obtain ⟨t, hstart, hready, hturn⟩ := placedState_startCycle e w hdec
  have hcp : e.space ≠ .cp := by cases e <;> decide
  obtain ⟨-, sp, henc, hsp⟩ := decodeThenEncode i e.space (tableCode e.space w) hdec
  obtain rfl : sp = e.space := hsp.resolve_right fun h => hcp h.1
  have hsettles := (hready.issuing hturn).settles_encoded hready.bare hready.levels henc
  have hfreeze : freezes (State.startCycle 0) (.core 0) (placedState e w) 64 = false :=
    freezes_settles (by rw [placedState_core]; rfl) (by rw [placedState_core]; rfl) hstart hsettles 64
  refine ⟨t, ?_, hready.bare⟩
  rw [(placedState_bare e w).step (by rw [← (placedState_bare e w).cur_core, placedState_core]; rfl), State.enterCycle, hfreeze, if_neg Bool.false_ne_true, hstart]
  rfl

end

/-- What the table's decoder accepts, the space's decoder reads so. -/
theorem decode_of_decodeTableIn {w : Nat} {sp : Space} {i : Instr} : ∀ {sps : List Space}, decodeTableIn sps w = some (sp, i) → decode sp (tableCode sp w) = some i := by
  intro sps
  induction sps with
  | nil => intro h; cases h
  | cons sp' sps ih =>
    intro h
    rw [decodeTableIn] at h
    split at h
    · next j hj =>
      cases h
      exact hj
    · exact ih h

theorem storedWordsRun : Claim.StoredWordsRun := by
  intro nbits w sp i _ hdec hcp
  obtain ⟨e, rfl⟩ : ∃ e : Engine, e.space = sp := by
    cases sp with
    | s => exact ⟨.s, rfl⟩
    | cp => exact absurd rfl hcp
    | l => exact ⟨.l, rfl⟩
    | w => exact ⟨.w, rfl⟩
    | x => exact ⟨.x, rfl⟩
  obtain ⟨t, hstep, ht⟩ := placedState_step e w (decode_of_decodeTableIn hdec)
  refine ⟨t, by rw [withFetchWord_eq e w hdec, hstep], ht.here, by rw [ht.module]; rfl, congrArg Core.mode ht.core_bare, congrArg Core.now ht.core_bare⟩

/-- Settles O50: an engine's group, a token step of N and an event that is due are executed by the step that picks them, and so is a word from the instruction store, whose cycle nothing freezes. -/
theorem stepRunsTheDecodedInstruction : Obligations.StepRunsTheDecodedInstruction := ⟨groupsAreExecuted, tokenStepsAreExecuted, eventsAreExecuted, storedWordsRun⟩

end Sys2Proof.Machine
end

section
/-! PROOFS. Encoding loses no field (O52; R53, R59 to R65, R73): each form's fields are read back from its word, so what an instruction encodes to decodes to it. -/

namespace Sys2Proof

/-! Fields of a word that is put together from parts (R6). -/

/-- A field within the low part of a word. -/
theorem fld_append_low {v w lo len : Nat} (x : BitVec v) (y : BitVec w) (h : lo + len ≤ w) : fld (x ++ y) lo len = fld y lo len :=
  BitVec.extractLsb'_append_eq_of_add_le h

/-- A field within the high part of a word. -/
theorem fld_append_high {v w lo len : Nat} (x : BitVec v) (y : BitVec w) (h : w ≤ lo) : fld (x ++ y) lo len = fld x (lo - w) len :=
  BitVec.extractLsb'_append_eq_of_le h

/-- A code is a number below the bound of its field. -/
theorem exists_ofNat_eq {n : Nat} (b : BitVec n) : ∃ k < 2 ^ n, b = BitVec.ofNat n k := ⟨b.toNat, b.isLt, eq_ofNat_of_toNat rfl⟩

/-! The forms: the fields that a word was put together from are read from it. -/

section Forms
variable (op : BitVec 6)

theorem major_encReg (f : SReg) (fn : BitVec 8) : fld (encReg op f fn) 26 6 = op := by
  simp (disch := decide) only [encReg, fld_append_high, Nat.reduceSub, fld_all]

theorem func_encReg (f : SReg) (fn : BitVec 8) : fld (encReg op f fn) 0 8 = fn := by
  simp (disch := decide) only [encReg, fld_append_low, fld_all]

theorem regOf_encReg (f : SReg) (fn : BitVec 8) : regOf (encReg op f fn) f.st = f := by
  simp (disch := decide) only [regOf, encReg, fld_append_low, fld_append_high, Nat.reduceSub, fld_all]

theorem major_encImm (f : SImm) : fld (encImm op f) 26 6 = op := by
  simp (disch := decide) only [encImm, fld_append_high, Nat.reduceSub, fld_all]

theorem immOf_encImm (f : SImm) : immOf (encImm op f) f.st = f := by
  simp (disch := decide) only [immOf, encImm, fld_append_low, fld_append_high, Nat.reduceSub, fld_all]

/-- The width of a load or store stands in the low bits of its major code (R75). -/
theorem width_encImm (c : BitVec 4) (w : BitVec 2) (f : SImm) : fld (encImm (c ++ w) f) 26 2 = w := by
  simp (disch := decide) only [encImm, fld_append_low, fld_append_high, Nat.reduceSub, fld_all]

theorem major_encBr (f : Br) : fld (op ++ f.pred ++ f.inv ++ f.off) 26 6 = op := by
  simp (disch := decide) only [fld_append_high, Nat.reduceSub, fld_all]

theorem brOf_encBr (f : Br) : brOf (op ++ f.pred ++ f.inv ++ f.off) f.st = f := by
  simp (disch := decide) only [brOf, fld_append_low, fld_append_high, Nat.reduceSub, fld_all]

theorem major_encLw (f : LWord) : fld (encLw op f) 26 6 = op := by
  simp (disch := decide) only [encLw, fld_append_high, Nat.reduceSub, fld_all]

theorem lwOf_encLw (f : LWord) : lwOf (encLw op f) f.st = f := by
  simp (disch := decide) only [lwOf, encLw, fld_append_low, fld_append_high, Nat.reduceSub, fld_all]

/-- Bit 7 of a memory word lies in its offset field (R62). -/
theorem bit_encLw (f : LWord) : bitAt (encLw op f) 7 = bitAt f.off 7 := by
  simp only [bitAt, encLw, BitVec.getLsbD_append]
  rfl

theorem major_encVec (f : XVec) : fld (encVec op f) 26 6 = op := by
  simp (disch := decide) only [encVec, fld_append_high, Nat.reduceSub, fld_all]

theorem vecOf_encVec (f : XVec) : vecOf (encVec op f) f.st f.md = f := by
  simp (disch := decide) only [vecOf, encVec, fld_append_low, fld_append_high, Nat.reduceSub, fld_all]

theorem major_encMat (f : XMat) : fld (encMat op f) 26 6 = op := by
  simp (disch := decide) only [encMat, fld_append_high, Nat.reduceSub, fld_all]

theorem matOf_encMat (f : XMat) : matOf (encMat op f) f.st = f := by
  simp (disch := decide) only [matOf, encMat, fld_append_low, fld_append_high, Nat.reduceSub, fld_all]

theorem major_encSliceQ (f : SliceQ) : fld (op ++ f.reg ++ f.dir ++ f.slice ++ f.q ++ 0#8) 26 6 = op := by
  simp (disch := decide) only [fld_append_high, Nat.reduceSub, fld_all]

theorem sliceQOf_encSliceQ (f : SliceQ) : sliceQOf (op ++ f.reg ++ f.dir ++ f.slice ++ f.q ++ 0#8) f.st = f := by
  simp (disch := decide) only [sliceQOf, fld_append_low, fld_append_high, Nat.reduceSub, fld_all]

theorem low_encSliceQ (f : SliceQ) : fld (op ++ f.reg ++ f.dir ++ f.slice ++ f.q ++ 0#8) 0 8 = 0#8 := by
  simp (disch := decide) only [fld_append_low, fld_all]

theorem major_encMst (f : MstWord) : fld (op ++ f.base ++ f.reg ++ f.dir ++ f.slice ++ f.off) 26 6 = op := by
  simp (disch := decide) only [fld_append_high, Nat.reduceSub, fld_all]

theorem mstOf_encMst (f : MstWord) : mstOf (op ++ f.base ++ f.reg ++ f.dir ++ f.slice ++ f.off) f.st = f := by
  simp (disch := decide) only [mstOf, fld_append_low, fld_append_high, Nat.reduceSub, fld_all]

end Forms

/-! Decoding, from what the major code's parser reads (R73, R75 to R81). -/

section Spaces
variable {w : W32} {ext : Option W32} {st : StepWord} {md : ModWord} {i : Instr} {op : BitVec 6}

/-- A word of S with a major code of R75. -/
theorem decode_s (hwf : i.wf = true) (ho : fld w 26 6 = op) (hop : op.toNat < 60) (hext : ext.isSome = decide (op.toNat = 8 ∨ op.toNat = 9))
    (hp : parseS w ext st = some i) : decode .s ⟨w, ext, st, none⟩ = some i := by
  refine decode_eq_some_iff.2 ⟨?_, ?_, hwf, rfl⟩
  · rw [hext, extCount, ho]
    split <;> simp_all
  · rw [parse, ho, if_neg (by omega)]
    exact hp

/-- A word of the command processor's own codes (R321). -/
theorem decode_cp (hwf : i.wf = true) (hr : cpRefused i = false) (ho : fld w 26 6 = op) (hop : op.toNat < 60) (hp : parseCp w st = some i) :
    decode .cp ⟨w, none, st, none⟩ = some i := by
  refine decode_eq_some_iff.2 ⟨?_, ?_, hwf, hr⟩
  · rw [extCount_of_parseCp hp]
    rfl
  · rw [parse, ho, if_neg (by omega)]
    simp only [hp]
    rfl

/-- A word of L with a major code of R79. -/
theorem decode_l (hwf : i.wf = true) (ho : fld w 26 6 = op) (hop : op.toNat < 60) (hp : parseL w st = some i) : decode .l ⟨w, none, st, none⟩ = some i := by
  refine decode_eq_some_iff.2 ⟨rfl, ?_, hwf, rfl⟩
  rw [parse, ho, if_neg (by omega)]
  exact hp

/-- A word of W with a major code of R80. -/
theorem decode_w (hwf : i.wf = true) (ho : fld w 26 6 = op) (hop : op.toNat < 60) (hp : parseW w st = some i) : decode .w ⟨w, none, st, none⟩ = some i := by
  refine decode_eq_some_iff.2 ⟨rfl, ?_, hwf, rfl⟩
  rw [parse, ho, if_neg (by omega)]
  exact hp

/-- A word of X (R81), with the extension word that its major code requires. -/
theorem decode_x (hwf : i.wf = true) (ho : fld w 26 6 = op) (hop : op.toNat < 60)
    (hext : ext.isSome = decide ((if op.toNat ∈ [0x03, 0x04, 0x05, 0x15, 0x17, 0x22, 0x23, 0x24, 0x29, 0x2A, 0x2B, 0x2C, 0x2D, 0x34, 0x36, 0x37, 0x38] then 1 else 0) = 1))
    (hp : parseX w ext st md = some i) : decode .x ⟨w, ext, st, md⟩ = some i := by
  refine decode_eq_some_iff.2 ⟨?_, ?_, hwf, rfl⟩
  · rw [hext, extCount, ho]
  · rw [parse, ho, if_neg (by omega)]
    exact hp

/-- A common control word of any engine (R78). -/
theorem decode_common {e : Engine} (hwf : i.wf = true) (ho : fld w 26 6 = op) (hop : 60 ≤ op.toNat) (hp : parseCommon e w st = some i) :
    decode e.space ⟨w, none, st, none⟩ = some i := by
  refine decode_eq_some_iff.2 ⟨?_, ?_, hwf, by cases e <;> rfl⟩
  · rw [extCount_common (by rw [ho]; exact hop)]
    rfl
  · rw [parse.eq_def, ho, if_pos hop]
    cases e <;> exact hp

end Spaces

/-! The groups of S whose function code names the instruction (R76, R77). -/

/-- What an S word of major code `op` with function code `fn` is read as. -/
def parseFunc (op : BitVec 6) (f : SReg) (fn : BitVec 8) : Option Instr :=
  match op.toNat with
  | 0 => parseAlu f fn
  | 24 => parseMem f fn
  | 25 => parseFence f fn
  | 26 => parseSys f fn
  | 35 => parseControl f fn
  | 39 => parsePred f fn
  | 40 => parsePour f fn
  | _ => none

/-- The function codes decode as their tables say. -/
theorem decode_encReg {op : BitVec 6} {f : SReg} {fn : BitVec 8} {i : Instr} (hwf : i.wf = true) (h : parseFunc op f fn = some i) :
    decode .s ⟨encReg op f fn, none, f.st, none⟩ = some i := by
  unfold parseFunc at h
  split at h
  case h_8 => cases h
  all_goals
    rename_i hop
    refine decode_s hwf (major_encReg op f fn) (by omega) (by rw [hop]; rfl) ?_
    rw [parseS, major_encReg, hop, regOf_encReg, func_encReg]
    exact h

/-- The condition code of CMP (R76). -/
theorem parseAlu_cmp (f : SReg) (cc : BitVec 3) : parseAlu f (5#5 ++ cc) = some (.cmp cc f) := by
  obtain ⟨k, hk, rfl⟩ := exists_ofNat_eq cc
  interval_cases k <;> rfl

/-- The operation of AMO (R77). -/
theorem parseMem_amo (f : SReg) (d : BitVec 1) {o : BitVec 4} (ho : o.toNat ≤ 8) : parseMem f (amoFunc d o) = some (.amo d o f) := by
  obtain ⟨k, hk, rfl⟩ := exists_ofNat_eq d
  obtain ⟨j, hj, rfl⟩ := exists_ofNat_eq o
  replace ho : j ≤ 8 := by rwa [BitVec.toNat_ofNat, Nat.mod_eq_of_lt hj] at ho
  interval_cases k <;> interval_cases j <;> rfl

/-- The data size of LDA, STL and CAS (R77). -/
theorem parseMem_sized (f : SReg) (d : BitVec 1) :
    parseMem f (0#7 ++ d) = some (.lda d f) ∧ parseMem f (1#7 ++ d) = some (.stl d f) ∧ parseMem f (2#7 ++ d) = some (.cas d f) := by
  obtain ⟨k, hk, rfl⟩ := exists_ofNat_eq d
  interval_cases k <;> exact ⟨rfl, rfl, rfl⟩

/-- The kind and scope of FENCE (R77). -/
theorem parseFence_fence (f : SReg) (kind scope : BitVec 3) : parseFence f (0#2 ++ kind ++ scope) = some (.fence kind scope f) := by
  simp (disch := decide) only [parseFence, fld_append_low, fld_append_high, Nat.reduceSub, fld_all]
  rfl

/-- The operation of PLOG (R77). -/
theorem parsePred_plog (f : SReg) (o : BitVec 2) : parsePred f (0#6 ++ o) = some (.plog o f) := by
  obtain ⟨k, hk, rfl⟩ := exists_ofNat_eq o
  interval_cases k <;> rfl

/-! The forms with fields of their own (R75, R78 to R81, R98, R168, R321). -/

/-- LD, ST and LD.spec (R75): the width is read from the major code. -/
theorem parseS_width (w : BitVec 2) (f : SImm) :
    parseS (encImm (3#4 ++ w) f) none f.st = some (.ld w f) ∧ parseS (encImm (4#4 ++ w) f) none f.st = some (.st w f)
    ∧ parseS (encImm (5#4 ++ w) f) none f.st = some (.ldSpec w f) := by
  simp only [parseS, major_encImm, immOf_encImm, width_encImm]
  obtain ⟨k, hk, rfl⟩ := exists_ofNat_eq w
  interval_cases k <;> exact ⟨rfl, rfl, rfl⟩

/-- LD, ST and LD.spec decode under every width. -/
theorem decode_width {c : BitVec 4} {w : BitVec 2} {f : SImm} {i : Instr} (hwf : i.wf = true) (hc : c ∈ [3#4, 4#4, 5#4])
    (hp : parseS (encImm (c ++ w) f) none f.st = some i) : decode .s ⟨encImm (c ++ w) f, none, f.st, none⟩ = some i := by
  have hops : ∀ c ∈ [3#4, 4#4, 5#4], ∀ w : BitVec 2, (c ++ w).toNat < 60 ∧ ¬((c ++ w).toNat = 8 ∨ (c ++ w).toNat = 9) := by decide
  obtain ⟨hop, hext⟩ := hops c hc w
  exact decode_s hwf (major_encImm _ f) hop (decide_eq_false hext).symm hp

/-- A semaphore word of the command processor (R321). -/
theorem parseCp_sem (f : SemWord) (fn : BitVec 4) :
    parseCp (41#6 ++ f.sd ++ f.sa ++ f.sem ++ fn) f.st = match fn.toNat with
      | 0 => some (.semwge f)
      | 1 => some (.semadd f)
      | 2 => some (.semset f)
      | _ => none := by
  simp (disch := decide) only [parseCp, fld_append_low, fld_append_high, Nat.reduceSub, fld_all]
  rfl

theorem major_encSem (f : SemWord) (fn : BitVec 4) : fld (41#6 ++ f.sd ++ f.sa ++ f.sem ++ fn) 26 6 = 41#6 := by
  simp (disch := decide) only [fld_append_high, Nat.reduceSub, fld_all]

/-- A queue word of the command processor (R321). -/
theorem parseCp_queue (f : QueWord) (fn : BitVec 7) :
    parseCp (42#6 ++ f.sd ++ f.sa ++ 0#2 ++ f.q ++ f.ser ++ fn) f.st = match fn.toNat with
      | 0 => some (.qsub f)
      | 1 => some (.intr f)
      | _ => none := by
  simp (disch := decide) only [parseCp, fld_append_low, fld_append_high, Nat.reduceSub, fld_all]
  rfl

theorem major_encQueue (f : QueWord) (fn : BitVec 7) : fld (42#6 ++ f.sd ++ f.sa ++ 0#2 ++ f.q ++ f.ser ++ fn) 26 6 = 42#6 := by
  simp (disch := decide) only [fld_append_high, Nat.reduceSub, fld_all]

/-- LOOP with an immediate count (R98). -/
theorem decode_loopImm {e : Engine} {f : LoopImm} (hwf : (Instr.loopImm e f).wf = true) :
    decode e.space ⟨60#6 ++ f.len ++ 0#1 ++ 0#6 ++ f.cimm, none, f.st, none⟩ = some (.loopImm e f) := by
  have hb : bitAt (60#6 ++ f.len ++ 0#1 ++ 0#6 ++ f.cimm) 20 = false := by
    simp only [bitAt, BitVec.getLsbD_append]
    rfl
  refine decode_common hwf (op := 60#6) ?_ (by decide) ?_
  · simp (disch := decide) only [fld_append_high, Nat.reduceSub, fld_all]
  · simp (disch := decide) only [parseCommon, hb, fld_append_low, fld_append_high, Nat.reduceSub, fld_all]
    rfl

/-- LOOP with a register count (R98). -/
theorem decode_loopReg {e : Engine} {f : LoopReg} (hwf : (Instr.loopReg e f).wf = true) :
    decode e.space ⟨60#6 ++ f.len ++ 1#1 ++ f.creg ++ 0#14, none, f.st, none⟩ = some (.loopReg e f) := by
  have hb : bitAt (60#6 ++ f.len ++ 1#1 ++ f.creg ++ 0#14) 20 = true := by
    simp only [bitAt, BitVec.getLsbD_append]
    rfl
  refine decode_common hwf (op := 60#6) ?_ (by decide) ?_
  · simp (disch := decide) only [fld_append_high, Nat.reduceSub, fld_all]
  · simp (disch := decide) only [parseCommon, hb, fld_append_low, fld_append_high, Nat.reduceSub, fld_all]
    rfl

/-- SIG and WAIT (R98). -/
theorem decode_token {e : Engine} {f : TokWord} {op : BitVec 6} {i : Instr} (hop : op = 61#6 ∧ i = .sig e f ∨ op = 62#6 ∧ i = .wait e f) :
    decode e.space ⟨op ++ f.tok ++ 0#5 ++ f.n, none, f.st, none⟩ = some i := by
  have ho : fld (op ++ f.tok ++ 0#5 ++ f.n) 26 6 = op := by
    simp (disch := decide) only [fld_append_high, Nat.reduceSub, fld_all]
  obtain ⟨rfl, rfl⟩ | ⟨rfl, rfl⟩ := hop <;> refine decode_common rfl ho (by decide) ?_ <;>
    simp (disch := decide) only [parseCommon, fld_append_low, fld_append_high, Nat.reduceSub, fld_all] <;> rfl

/-- NOP and PFEN.mark (R78). -/
theorem decode_mark {e : Engine} {st : StepWord} {k : BitVec 2} {i : Instr} (hk : k = 0#2 ∧ i = .nop e st ∨ k = 1#2 ∧ i = .pfenMark e st) :
    decode e.space ⟨63#6 ++ k ++ 0#24, none, st, none⟩ = some i := by
  have ho : fld (63#6 ++ k ++ 0#24) 26 6 = 63#6 := by
    simp (disch := decide) only [fld_append_high, Nat.reduceSub, fld_all]
  obtain ⟨rfl, rfl⟩ | ⟨rfl, rfl⟩ := hk <;> exact decode_common rfl ho (by decide) rfl

/-- The two forms of WAITC belong to L and W, and differ in bit 7 of the offset field (R184). -/
theorem waitcChunk_wf {e : Engine} {f : LWord} (h : (Instr.waitcChunk e f).wf = true) : (e = .l ∨ e = .w) ∧ bitAt f.off 7 = false := by
  simp only [Instr.wf, Bool.and_eq_true, Bool.or_eq_true, beq_iff_eq] at h
  obtain ⟨he, hz⟩ := h
  exact ⟨he, by simpa [fld, bitAt] using congrArg (·.getLsbD 7) hz⟩

theorem waitcPosting_wf {e : Engine} {f : LWord} (h : (Instr.waitcPosting e f).wf = true) : (e = .l ∨ e = .w) ∧ bitAt f.off 7 = true := by
  simp only [Instr.wf, Bool.and_eq_true, Bool.or_eq_true, beq_iff_eq] at h
  obtain ⟨⟨he, -⟩, hb⟩ := h
  exact ⟨he, hb⟩

/-- WAITC (R184): bit 7 of its offset field names the form, in L and in W. -/
theorem decode_waitc {e : Engine} {f : LWord} {i : Instr} (hwf : i.wf = true) (he : e = .l ∨ e = .w)
    (hi : i = if bitAt f.off 7 then .waitcPosting e f else .waitcChunk e f) :
    decode e.space ⟨encLw 18#6 f, none, f.st, none⟩ = some i := by
  subst hi
  obtain rfl | rfl := he
  · refine decode_l hwf (major_encLw _ f) (by decide) ?_
    rw [parseL, major_encLw, bit_encLw, lwOf_encLw]
    exact (apply_ite some _ _ _).symm
  · refine decode_w hwf (major_encLw _ f) (by decide) ?_
    rw [parseW, major_encLw, bit_encLw, lwOf_encLw]
    exact (apply_ite some _ _ _).symm

/-- VRD and SPRD (R168). -/
theorem decode_sliceQ {op : BitVec 6} {f : SliceQ} {i : Instr} (hwf : i.wf = true) (hop : op = 0#6 ∧ i = .vrd f ∨ op = 5#6 ∧ i = .sprd f) :
    decode .l ⟨op ++ f.reg ++ f.dir ++ f.slice ++ f.q ++ 0#8, none, f.st, none⟩ = some i := by
  obtain ⟨rfl, rfl⟩ | ⟨rfl, rfl⟩ := hop <;> refine decode_l hwf (major_encSliceQ _ f) (by decide) ?_ <;>
    rw [parseL, major_encSliceQ, sliceQOf_encSliceQ, low_encSliceQ] <;> rfl

/-- Settles O52: each form of word, under the major and function code of its instruction, is read as the fields that it was put together from. -/
theorem encodeThenDecode : Obligations.EncodeThenDecode := by
  intro i sp c hwf h
  cases i <;> cases h
  case add | sub | mul | mulh | mulhu | div | divu | rem | remu | min | max | minu | maxu | and | or | xor | andn | shl | shr | sra | clz | ctz
    | popc | sext | zext | bext | bins | mov | sel | pfen | probe | unpin | trap | uhret | decline | clkdiv | chk | yield | npost | lpost | tkset
    | tkrd | jmp | ret | halt | pset | movpToScalar | movpToPredicate | ecprot | ecunprot | ecseal | ecclose | ecstat =>
    exact decode_encReg hwf rfl
  case cmp cc f => exact decode_encReg hwf (parseAlu_cmp f cc)
  case lda d f => exact decode_encReg hwf (parseMem_sized f d).1
  case stl d f => exact decode_encReg hwf (parseMem_sized f d).2.1
  case cas d f => exact decode_encReg hwf (parseMem_sized f d).2.2
  case amo d o f => exact decode_encReg hwf (parseMem_amo f d (of_decide_eq_true hwf))
  case fence kind scope f => exact decode_encReg hwf (parseFence_fence f kind scope)
  case plog o f => exact decode_encReg hwf (parsePred_plog f o)
  case addi | andi | ori | xori | shli | shri | srai | li | lih | cmpiLo | cmpiHi | sysrd | syswr | barv | barw | barred =>
    exact decode_s hwf (major_encImm _ _) (by decide) rfl (by rw [parseS, major_encImm, immOf_encImm]; rfl)
  case ld w f => exact decode_width hwf (by decide) (parseS_width w f).1
  case st w f => exact decode_width hwf (by decide) (parseS_width w f).2.1
  case ldSpec w f => exact decode_width hwf (by decide) (parseS_width w f).2.2
  case br | call | jmpi => exact decode_s hwf (major_encBr _ _) (by decide) rfl (by rw [parseS, major_encBr, brOf_encBr]; rfl)
  case semwge f | semadd f | semset f => exact decode_cp hwf rfl (major_encSem f _) (by decide) (parseCp_sem f _)
  case qsub f | intr f => exact decode_cp hwf rfl (major_encQueue f _) (by decide) (parseCp_queue f _)
  case loopImm => exact decode_loopImm hwf
  case loopReg => exact decode_loopReg hwf
  case sig => exact decode_token (.inl ⟨rfl, rfl⟩)
  case wait => exact decode_token (.inr ⟨rfl, rfl⟩)
  case nop => exact decode_mark (.inl ⟨rfl, rfl⟩)
  case pfenMark => exact decode_mark (.inr ⟨rfl, rfl⟩)
  case vrd => exact decode_sliceQ hwf (.inl ⟨rfl, rfl⟩)
  case sprd => exact decode_sliceQ hwf (.inr ⟨rfl, rfl⟩)
  case vld | gath | mldH | mldV | xld | xldT | xldn | xldf | odset | cdset | seqset =>
    exact decode_l hwf (major_encLw _ _) (by decide) (by rw [parseL, major_encLw, lwOf_encLw]; rfl)
  case mst | spwr => exact decode_w hwf (major_encMst _ _) (by decide) (by rw [parseW, major_encMst, mstOf_encMst]; rfl)
  case scat | xst | xstn | xstf | stb | bclose | pub =>
    exact decode_w hwf (major_encLw _ _) (by decide) (by rw [parseW, major_encLw, lwOf_encLw]; rfl)
  case waitcChunk e f =>
    obtain ⟨he, hz⟩ := waitcChunk_wf hwf
    exact decode_waitc hwf he (by rw [hz]; rfl)
  case waitcPosting e f =>
    obtain ⟨he, hb⟩ := waitcPosting_wf hwf
    exact decode_waitc hwf he (by rw [hb]; rfl)
  case mma | mmac | mmar | mconv | mshape | accz | accrd | accwr | accarm | mexc =>
    exact decode_x hwf (major_encMat _ _) (by decide) rfl (by rw [parseX, major_encMat, matOf_encMat]; rfl)
  all_goals exact decode_x hwf (major_encVec _ _) (by decide) rfl (by rw [parseX, major_encVec, vecOf_encVec]; rfl)

/-! The spec's own words (R53, R59, R73). -/

/-- Settles O51: closed facts, each the decoder run on one word of the spec. -/
theorem specWordsDecode : Obligations.SpecWordsDecode := by
  unfold Obligations.SpecWordsDecode
  dsimp only
  decide +kernel

end Sys2Proof
end

section
/-! PROOFS. Control transfers and HALT (O5; R58, R82, R95 to R97, R100, R209, R278, R289). -/

namespace Sys2Proof.Machine

open Sys2Proof.Claim

/-- The move past a group outside a loop body (R83, R206): the queue loses its head, and the sequencer may issue again `occ` cycles on. -/
theorem Seq.issued_outside_loop {q : Seq} (h : q.levels = []) (now occ : Nat) :
    q.issued now occ = { q with queue := q.queue.tail, lbuf := [], free := now + occ, line := q.pos.1, lane := q.pos.2 + 1 } := by
  obtain ⟨queue, lbuf, levels, free, parked, ended, line, lane, fromLine, fromLane⟩ := q
  obtain rfl : levels = [] := h
  rfl

theorem Core.issued_es {c : Core} (h : c.es.levels = []) (occ : Nat) :
    (c.issued .s occ).es = { c.es with queue := c.es.queue.tail, lbuf := [], free := c.now + occ, line := c.es.pos.1, lane := c.es.pos.2 + 1 } :=
  Seq.issued_outside_loop h c.now occ

/-- What an instruction of the table of transfers comes to (R95, R96). -/
theorem exec_transfer {i : Instr} {s : State} {o : TransferOp} (h : transferOp s i = some o) :
    exec i s = s.issueOcc .s (if o.taken then 3 else 1)
      (plainStream s (needClean .s [o.src] (if o.taken then takeTransfer s o.target o.link else .done (s.modCur Core.passed)))) := by
  cases i <;> cases h <;> rfl

/-- Outside a loop body a transfer and HALT go on; in one they are illegal (R100). -/
theorem plainStream_outside {s : State} (h : s.cur.es.levels = []) (x : Effect) : plainStream s x = x := by
  rw [plainStream, Seq.inLoop, h]
  rfl

theorem plainStream_inside {s : State} (h : s.cur.es.levels ≠ []) (x : Effect) : plainStream s x = .trap (TrapInfo.of 0x01 .s) := by
  rw [plainStream, Seq.inLoop, List.isEmpty_eq_false_iff.2 h]
  rfl

/-- The agent that transfers, with the link of a CALL in flight (R95). -/
def linked (s : State) (link : Bool) : Core := if link then s.cur.emit .s 1 (.scalar 63 (BitVec.ofNat 64 (s.ownLine .s + 1)) none) else s.cur

theorem linked_es (s : State) (link : Bool) : (linked s link).es = s.cur.es := by cases link <;> rfl

theorem linked_now (s : State) (link : Bool) : (linked s link).now = s.cur.now := by cases link <;> rfl

/-- A taken transfer that passes its checks (R58, R95, R96): of its agent the results in flight change by the link, and then fetch and the sequencers. -/
theorem takeTransfer_done {s : State} {target : Int} {link : Bool} (hh : s.cur.mode = .handler → s.inHandler target = true) (h0 : 0 ≤ target)
    (h1 : target < 2048) : ∃ t, takeTransfer s target link = .done t ∧ othersKeep s t
      ∧ t.cur = (linked s link).transfer target.toNat := by
  rw [takeTransfer, if_neg (fun ⟨hm, hn⟩ => by rw [hh hm] at hn; cases hn), if_neg (by omega)]
  cases link with
  | false => exact ⟨_, rfl, (othersKeep.refl s).modCur _, State.cur_modCur _ _⟩
  | true =>
    refine ⟨_, rfl, ?_, (State.cur_modCur _ _).trans ?_⟩ <;> rw [if_pos rfl, State.putS_none]
    · exact ((othersKeep.refl s).modCur _).modCur _
    · rw [State.cur_modCur]
      rfl

/-- What a transfer leaves of its agent beside fetch, results and sequencers; the move past it leaves the same. -/
theorem coreKeepsFetch_transfer (s : State) (link : Bool) (target : Nat) : coreKeepsFetch s.cur ((linked s link).transfer target) := by cases link <;> rfl

theorem coreKeepsFetch_passed (c : Core) : coreKeepsFetch c c.passed := rfl

theorem coreKeepsFetch_issued {c d : Core} (h : coreKeepsFetch c d) (e : Engine) (occ : Nat) : coreKeepsFetch c (d.issued e occ) := by
  rw [coreKeepsFetch] at h
  rw [coreKeepsFetch, h]
  cases e <;> rfl

/-- A transfer changes no group of another sequencer. -/
theorem sameGroups_transfer (s : State) (link : Bool) (target : Nat) {e : Engine} (he : e ≠ .s) :
    sameGroups (((linked s link).transfer target).seqOf e) (s.cur.seqOf e) := by
  cases e with
  | s => exact absurd rfl he
  | l | x | w => cases link <;> exact ⟨rfl, rfl, rfl, rfl, rfl⟩

/-- The groups of S after a transfer: what follows the transfer in its own line is discarded (R58). -/
theorem transferred_queue (c : Core) (target : Nat) : (c.transfer target).es.queue.tail = (c.es.queue.drop 1).filter (fun g => g.line ≠ c.es.pos.1) := by
  rw [Core.transfer]
  cases c.es.queue <;> rfl

theorem transferTaken : Claim.TransferTaken := by
  intro i s o ho htaken hsrc hlev h0 h1 hh
  obtain ⟨t, ht, hothers, hcur⟩ := takeTransfer_done (link := o.link) hh h0 h1
  refine ⟨t.modCur (fun c => c.issued .s 3), ?_, hothers.modCur _, ?_⟩
  · rw [exec_transfer ho, plainStream_outside hlev, hsrc, htaken, if_pos rfl, if_pos rfl, needClean_none, needClean_nil, ht]
    rfl
  · rw [State.cur_modCur, hcur]
    refine ⟨coreKeepsFetch_issued (coreKeepsFetch_transfer _ _ _) _ _, ?_⟩
    have hes : ((linked s o.link).transfer o.target.toNat).es.levels = [] := (congrArg Seq.levels (linked_es s o.link)).trans hlev
    have hended : (linked s o.link).es.ended = s.cur.es.ended := congrArg Seq.ended (linked_es _ _)
    have hqueue := transferred_queue (linked s o.link) o.target.toNat
    rw [linked_es] at hqueue
    rw [Core.issued_fetch, Core.issued_pend, Core.issued_es hes]
    refine ⟨rfl, congrArg (· + 1) (linked_now _ _), rfl, congrArg (· + 3) (linked_now _ _), hended, hqueue, fun e he => ?_, rfl⟩
    rw [Core.issued_seqOf_other _ _ _ _ he]
    exact sameGroups_transfer _ _ _ he

theorem transferNotTaken : Claim.TransferNotTaken := by
  intro i s o ho htaken hsrc hlev
  refine ⟨(s.modCur Core.passed).modCur (fun c => c.issued .s 1), ?_, ((othersKeep.refl s).modCur _).modCur _, ?_⟩
  · rw [exec_transfer ho, plainStream_outside hlev, hsrc, htaken]
    rfl
  · rw [State.cur_modCur, State.cur_modCur]
    exact ⟨coreKeepsFetch_issued (coreKeepsFetch_passed _) _ _, seqMoved_issued (fun g => by cases g <;> rfl) rfl rfl .s 1,
      Core.issued_fetch _ _ _, Core.issued_pend _ _ _⟩

theorem transferTraps : Claim.TransferTraps := by
  intro i s o ho
  refine ⟨fun hlev => ?_, fun hlev r hr => ?_, fun hlev hsrc htaken => ⟨fun hm hn => ?_, fun hh hrange => ?_⟩⟩
  · rw [traps, exec_transfer ho, plainStream_inside hlev]
    rfl
  · rw [traps, exec_transfer ho, plainStream_outside hlev, hr]
    rfl
  · rw [traps, exec_transfer ho, plainStream_outside hlev, hsrc, htaken, if_pos rfl, if_pos rfl, needClean_none, needClean_nil, takeTransfer,
      if_pos ⟨hm, by rw [hn]; rfl⟩]
    rfl
  · rw [traps, exec_transfer ho, plainStream_outside hlev, hsrc, htaken, if_pos rfl, if_pos rfl, needClean_none, needClean_nil, takeTransfer,
      if_neg (fun ⟨hm, hn⟩ => by rw [hh hm] at hn; cases hn), if_pos hrange]
    rfl

/-- What HALT leaves in a plain stream (R97). -/
def Core.halted (c : Core) : Core :=
  let d := c.transfer c.fetch.next
  { d with es := { d.es with ended := true }, fetch := { d.fetch with stopped := true } }

theorem coreKeepsFetch_halted (c : Core) : coreKeepsFetch c c.halted := rfl

/-- What HALT comes to (R97, R289). -/
theorem exec_halt (f : SReg) (s : State) : exec (.halt f) s =
    s.issue .s (plainStream s (if s.cur.mode = .handler then .trap (TrapInfo.of 0x01 .s) else .done (s.modCur Core.halted))) := rfl

theorem haltEndsTheStream : Claim.HaltEndsTheStream := by
  intro f s
  refine ⟨fun hm hlev => ?_, fun h => ?_⟩
  · refine completes_of_done (s' := s.modCur Core.halted) (e := .s) ?_ ⟨((othersKeep.refl s).modCur _).modCur _, ?_⟩
    · rw [exec_halt, plainStream_outside hlev, if_neg hm]
    · rw [State.cur_modCur, State.cur_modCur]
      refine ⟨coreKeepsFetch_issued (coreKeepsFetch_halted _) _ _, ?_⟩
      rw [Core.issued_fetch, Core.issued_pend, Core.issued_es (show s.cur.halted.es.levels = [] from hlev)]
      refine ⟨rfl, rfl, rfl, fun e he => ?_⟩
      · rw [Core.issued_seqOf_other _ _ _ _ he]
        cases e with
        | s => exact absurd rfl he
        | l | x | w => exact ⟨rfl, rfl, rfl, rfl, rfl⟩
  · rw [traps, exec_halt]
    by_cases hlev : s.cur.es.levels = []
    · rw [plainStream_outside hlev, if_pos (h.resolve_right (not_not_intro hlev))]
      rfl
    · rw [plainStream_inside hlev]
      rfl

/-- Settles O5: what a transfer comes to is said once, and each clause takes its own branch of it. -/
theorem controlTransfers : Obligations.ControlTransfers := ⟨transferTaken, transferNotTaken, transferTraps, haltEndsTheStream⟩

end Sys2Proof.Machine
end

section
/-! PROOFS. The events at a core between its cycles (O33; R55 to R57, R84, R172, R208, R239, R241 to R243, R282, R283). -/

namespace Sys2Proof.Machine

open Sys2Proof.Claim

/-! Fetch (R55 to R57, R208). -/

/-- A group that its sequencer takes is the last of its queue. -/
theorem Core.deliver_cons {c : Core} {x : Engine × Group} (hm : c.mode ≠ .handler) (h : takes (c.seqOf x.1) x.2) (gs : List (Engine × Group)) :
    c.deliver (x :: gs) = (c.setSeq x.1 { c.seqOf x.1 with queue := (c.seqOf x.1).queue ++ [x.2], lbuf := [] }).deliver gs := by
  obtain ⟨hended, hlevels, hplace⟩ := h
  refine congrArg (Core.deliver · gs) ?_
  dsimp only
  rw [if_neg (fun ⟨h, _⟩ => hm h), hended, if_neg Bool.false_ne_true, if_neg (by omega)]
  generalize c.seqOf x.1 = q at hlevels
  obtain ⟨queue, lbuf, levels, free, parked, ended, line, lane, fromLine, fromLane⟩ := q
  obtain rfl : levels = [] := hlevels
  rfl

/-- The groups of a line go to their queues in order. -/
theorem Core.deliver_queue {c : Core} {gs : List (Engine × Group)} (hm : c.mode ≠ .handler) (h : ∀ x ∈ gs, takes (c.seqOf x.1) x.2) (e : Engine) :
    ((c.deliver gs).seqOf e).queue = (c.seqOf e).queue ++ (gs.filter (fun x => x.1 = e)).map (·.2) := by
  induction gs generalizing c with
  | nil => exact (List.append_nil _).symm
  | cons x gs ih =>
    rw [Core.deliver_cons hm (h x List.mem_cons_self), ih (by rwa [Core.setSeq_mode])]
    · by_cases hx : x.1 = e
      · subst hx
        simp
      · rw [Core.seqOf_setSeq_other _ _ _ _ (Ne.symm hx), List.filter_cons_of_neg (by simpa using hx)]
    · intro y hy
      by_cases hx : y.1 = x.1
      · have hy' := h y (List.mem_cons_of_mem _ hy)
        rw [hx] at hy' ⊢
        rw [Core.seqOf_setSeq_same]
        exact hy'
      · rw [Core.seqOf_setSeq_other _ _ _ _ hx]
        exact h y (List.mem_cons_of_mem _ hy)

/-- Fetch may go on to its next line (R57, R58, R209). -/
structure Core.fetches (c : Core) : Prop where
  running : c.fetch.stopped = false
  legal : c.fetch.illegal = none
  within : c.fetch.pastEnd = false
  unblocked : c.fetchBlocked = false
  ready : c.fetch.ready ≤ c.now
  line : c.fetch.next < 2048

/-- What fetch does with the line that it reads. -/
theorem Core.fetchOne_of_fetches {c : Core} (h : c.fetches) (words : Nat → List W32) :
    c.fetchOne false words = match parseLine false c.fetch.next (words c.fetch.next) with
      | .error p => some { c with fetch := { c.fetch with illegal := some (c.fetch.next, p) } }
      | .ok gs => if c.canRead false words gs then some { c.deliver gs with fetch := { c.fetch with next := c.fetch.next + 1 } } else none := by
  obtain ⟨hrunning, hlegal, hwithin, hunblocked, hready, hline⟩ := h
  rw [Core.fetchOne, if_neg (by simp [hrunning, hlegal, hwithin, hunblocked, hready]), if_neg (by omega), readLine]
  cases parseLine false c.fetch.next (words c.fetch.next) <;> rfl

/-- A running core takes what fetch reads; the line has come (R57). -/
theorem exec_fetchLine {n : Nat} {s : State} {c : Core} (hm : (s.core n).mode = .user ∨ (s.core n).mode = .handler)
    (h : (s.core n).fetchOne false (s.wordsOf (.core n)) = some c) :
    exec (.fetchLine n) s = .next (s.setCore n { c with fetch := { c.fetch with seen := c.fetch.next } }) := by
  change execFetchLine n s = _
  unfold execFetchLine
  rw [if_neg (by rcases hm with hm | hm <;> simp [hm]), h]

theorem fetchReadsLines : Claim.FetchReadsLines := by
  intro n s
  refine ⟨fun hm hrunning hlegal hwithin hunblocked hready hline => ?_, fun hu hh => ⟨s, if_pos (by simp [hu, hh]), rfl⟩⟩
  have hone := Core.fetchOne_of_fetches ⟨hrunning, hlegal, hwithin, hunblocked, hready, hline⟩ (s.wordsOf (.core n))
  refine ⟨fun gs hparse hread htakes => ?_, fun p hparse => ?_⟩
  · rw [show s.wordsOf (.core n) (s.core n).fetch.next = (s.core n).lineWords (s.core n).fetch.next from rfl, hparse] at hone
    dsimp only at hone
    rw [if_pos hread] at hone
    refine ⟨_, exec_fetchLine (.inl hm) hone, ?_, fun e => ?_, ?_⟩ <;> rw [State.core_setCore_same]
    rw [← Core.deliver_queue (by rw [hm]; decide) htakes e]
    cases e <;> rfl
  · rw [show s.wordsOf (.core n) (s.core n).fetch.next = (s.core n).lineWords (s.core n).fetch.next from rfl, hparse] at hone
    exact ⟨_, exec_fetchLine (.inl hm) hone, rfl⟩

/-! Late data (R84, R241). -/

/-- What late units of loads may read again: values in flight and queue entries, each in its place, and lines of the L1. -/
def lateReads (c d : Core) : Prop :=
  d = { c with pend := d.pend, q := d.q, l1 := d.l1 } ∧ d.pend.map (fun p => (p.due, p.cyc, p.rank)) = c.pend.map (fun p => (p.due, p.cyc, p.rank))

theorem lateReads.refl (c : Core) : lateReads c c := ⟨rfl, rfl⟩

theorem lateReads.trans {c d e : Core} (h : lateReads c d) (k : lateReads d e) : lateReads c e := by
  refine ⟨?_, k.2.trans h.2⟩
  have he := k.1
  rw [h.1] at he
  exact he

/-- New values of results in flight stay in their places. -/
theorem lateReads_pend (c : Core) (f : Pend → Pend) (hf : ∀ p, ((f p).due, (f p).cyc, (f p).rank) = (p.due, p.cyc, p.rank)) :
    lateReads c { c with pend := c.pend.map f } :=
  ⟨rfl, by rw [List.map_map]; exact List.map_congr_left fun p _ => hf p⟩

theorem lateReads_put (c : Core) (u : LateUnit) (d : List (Byte × Bool)) : lateReads c (u.put d c) := by
  unfold LateUnit.put
  dsimp only
  split
  · refine lateReads_pend c _ fun p => ?_
    split
    · split <;> rfl
    · rfl
  · exact ⟨rfl, rfl⟩
  · refine lateReads_pend c _ fun p => ?_
    split
    · split <;> rfl
    · rfl

/-- Reading again for a late unit changes no more than that, and leaves memory and the other agents. -/
theorem rebind_reads (s : State) (u : LateUnit) : othersKeep s (s.rebind u) ∧ lateReads s.cur (s.rebind u).cur := by
  unfold State.rebind
  dsimp only
  split
  · exact ⟨othersKeep.refl s, lateReads.refl _⟩
  · refine ⟨(othersKeep.refl s).modCur _, ?_⟩
    rw [State.cur_modCur]
    exact lateReads.trans ⟨rfl, rfl⟩ (lateReads_put _ u _)

theorem rebindSome_reads (s : State) (last : Option (LateUnit × Bool)) (us : List LateUnit) :
    othersKeep s (s.rebindSome last us) ∧ lateReads s.cur (s.rebindSome last us).cur := by
  induction us generalizing s last with
  | nil => exact ⟨othersKeep.refl s, lateReads.refl _⟩
  | cons u rest ih =>
    have hone (again : Bool) : othersKeep s (if again then s.rebind u else s).bump ∧ lateReads s.cur (if again then s.rebind u else s).bump.cur := by
      cases again
      · exact ⟨(othersKeep.refl s).bump, lateReads.refl _⟩
      · exact ⟨(rebind_reads s u).1.bump, (rebind_reads s u).2⟩
    rw [State.rebindSome.eq_def]
    exact ⟨(hone _).1.trans (ih _ _).1, (hone _).2.trans (ih _ _).2⟩

/-- An agent for which reference cycles have passed. -/
def Core.passes (c : Core) (k period : Nat) : Core := { c with tref := c.tref + k, tun := c.tun + k * period }

theorem State.agent_pass (s : State) (m j : Mover) (k : Nat) : (s.pass m k).agent j = (s.setAgent m ((s.agent m).passes k (s.period m))).agent j := by
  cases j <;> rfl

/-- The machine while it moves agent `m`. -/
def State.asAgent (s : State) (m : Mover) : State := { s with here := m }

@[simp] theorem State.agent_asAgent (s : State) (h m : Mover) : (s.asAgent h).agent m = s.agent m := by cases m <;> rfl

theorem State.period_setAgent (s : State) (m j : Mover) (c : Core) : (s.setAgent m c).period j = s.period j := by cases m <;> cases j <;> rfl

/-- The conditions of an agent but those on late data that is due. -/
def Core.otherHolds (c : Core) : List Hold := c.holds.filter (fun h => !(h.kind = .data && decide (h.due ≤ c.now)))

/-- Late data has come: its conditions are met, and the freeze has lasted a free number of reference cycles (R84). -/
def State.dataCome (s : State) (m : Mover) : State :=
  (((s.setAgent m { s.agent m with holds := (s.agent m).otherHolds }).pass m (Config.freeDelay s.fresh))).bump

@[simp] theorem State.agent_bump (s : State) (m : Mover) : s.bump.agent m = s.agent m := by cases m <;> rfl

theorem State.agent_dataCome_same (s : State) (m : Mover) :
    (s.dataCome m).agent m = { s.agent m with holds := (s.agent m).otherHolds }.passes (Config.freeDelay s.fresh) (s.period m) := by
  rw [State.dataCome, State.agent_bump, State.agent_pass, State.agent_setAgent_same, State.agent_setAgent_same, State.period_setAgent]

theorem State.agent_dataCome_other (s : State) {m j : Mover} (h : j ≠ m) : (s.dataCome m).agent j = s.agent j := by
  rw [State.dataCome, State.agent_bump, State.agent_pass, State.agent_setAgent_other _ _ _ _ h, State.agent_setAgent_other _ _ _ _ h]

theorem State.dataCome_mem (s : State) (m : Mover) : (s.dataCome m).mem = s.mem := (State.pass_mem _ _ _).trans (State.setAgent_mem _ _ _)

/-- The arrival of late data, and a free choice of the late units that read again (R84, R241). -/
theorem exec_memoryDataArrival {n : Nat} {s : State} (h : ∃ h ∈ (s.agent (named n)).holds, h.kind = .data ∧ h.due ≤ (s.agent (named n)).now) :
    completes (.memoryDataArrival n) s fun t => lateReads ((s.dataCome (named n)).agent (named n)) (t.agent (named n))
      ∧ ((s.agent (named n)).lates = [] → t.agent (named n) = (s.dataCome (named n)).agent (named n))
      ∧ t.mem = s.mem ∧ ∀ m, m ≠ named n → t.agent m = s.agent m := by
  have hany : ((s.agent (named n)).holds.any (fun h => h.kind = .data && decide (h.due ≤ (s.agent (named n)).now))) = true := by
    simpa using h
  have hexec : exec (.memoryDataArrival n) s =
      .next ((((s.dataCome (named n)).asAgent (named n)).rebindSome none ((s.agent (named n)).lates.filter (·.acq.isNone))).asAgent s.here) := if_pos hany
  obtain ⟨hothers, hreads⟩ := rebindSome_reads ((s.dataCome (named n)).asAgent (named n)) none ((s.agent (named n)).lates.filter (·.acq.isNone))
  rw [State.cur, State.cur, hothers.here, State.agent_asAgent] at hreads
  refine ⟨_, hexec, ?_, fun hlates => ?_, ?_, fun m hm => ?_⟩
  · rw [State.agent_asAgent]
    exact hreads
  · rw [State.agent_asAgent, hlates]
    exact State.agent_asAgent _ _ _
  · exact (congrArg State.mem hothers.1).trans (s.dataCome_mem _)
  · rw [State.agent_asAgent, hothers.2 m hm, State.agent_asAgent, s.agent_dataCome_other hm]

/-- Without late data that is due nothing happens. -/
theorem exec_memoryDataArrival_none {n : Nat} {s : State} (h : ∀ h ∈ (s.agent (named n)).holds, h.kind = .data → (s.agent (named n)).now < h.due) :
    completes (.memoryDataArrival n) s fun t => t = s := by
  refine ⟨s, if_neg ?_, rfl⟩
  rw [Bool.not_eq_true, List.any_eq_false]
  intro x hx
  have := h x hx
  simp only [Bool.and_eq_true, decide_eq_true_eq, not_and]
  exact fun hk => Nat.not_le.2 (this hk)

/-! Pending traps (R282, R283). -/

/-- Without a multiply in flight no operand group is due. -/
theorem growAll_of_no_mats {s : State} {n : Nat} (h : (s.core n).mats = []) (k : Nat) : s.growAll n k = .ok s := by
  cases k with
  | zero => rfl
  | succ k => simp [State.growAll, h]

/-- With no multiply in flight and no position that a handler has given S, no synchronous fault is due (R282). -/
theorem faultDue_of_idle {s : State} {n : Nat} (hmats : (s.core n).mats = []) (hmoved : (s.core n).moved = none) : s.faultDue n = false := by
  have hingot : (s.core n).lateIngot = false := by rw [Core.lateIngot, hmats]; rfl
  have hoperand : s.lateOperand n = false := by rw [State.lateOperand, growAll_of_no_mats hmats]
  have hplace : (s.core n).movedNow = none := by rw [Core.movedNow, hmoved, ite_self]
  rw [State.faultDue, hingot, hoperand, hplace]
  rfl

/-- The oldest pending trap is taken in user mode, at a cycle boundary not before the resumption's cycle at which no synchronous fault is due (R282, R283). -/
theorem exec_trapTaken {n : Nat} {s : State} {tr : TrapInfo} {rest : List TrapInfo} (hasync : (s.core n).asyncs = tr :: rest)
    (hmode : (s.core n).mode = .user) (hturn : (s.core n).turn = 0) (hback : (s.core n).back ≤ (s.core n).now) (hpower : (s.core n).powered = true)
    (hfault : s.faultDue n = false) : exec (.trapTaken n) s = .next ((s.setCore n { s.core n with asyncs := rest }).takeTrap (.core n) tr) := by
  change execTrapTaken n s = _
  rw [execTrapTaken, hasync]
  exact if_pos ⟨hmode, hturn, hback, hpower, by rw [hfault]; rfl⟩

/-- Otherwise no trap is taken. -/
theorem exec_trapTaken_none {n : Nat} {s : State}
    (h : (s.core n).asyncs = [] ∨ (s.core n).mode ≠ .user ∨ (s.core n).turn ≠ 0 ∨ (s.core n).now < (s.core n).back ∨ s.faultDue n = true) :
    exec (.trapTaken n) s = .next s := by
  change execTrapTaken n s = _
  unfold execTrapTaken
  dsimp only
  split
  · next tr rest hasync =>
    refine if_neg fun ⟨hmode, hturn, hback, _, hfault⟩ => ?_
    rcases h with h | h | h | h | h
    · rw [h] at hasync; cases hasync
    · exact h hmode
    · exact h hturn
    · omega
    · rw [h] at hfault; cases hfault
  · rfl

theorem lateDataAndTraps : Claim.LateDataAndTraps := by
  refine ⟨fun n s => ⟨fun hdue => ?_, exec_memoryDataArrival_none⟩, fun n s => ⟨fun tr rest hasync hmode hturn hback hpower hfault => ?_, fun h => ?_, faultDue_of_idle⟩⟩
  · obtain ⟨t, ht, ⟨hcore, hplaces⟩, hlates, hmem, hothers⟩ := exec_memoryDataArrival hdue
    rw [State.agent_dataCome_same] at hcore hplaces hlates
    exact ⟨t, ht, Config.freeDelay s.fresh, hcore, hplaces, fun h => by rw [hlates h]; exact ⟨rfl, rfl, rfl⟩, hmem, hothers⟩
  · exact ⟨_, exec_trapTaken hasync hmode hturn hback hpower hfault, rfl⟩
  · exact ⟨_, exec_trapTaken_none h, rfl⟩

/-! Stores (R172, R239, R242, R243). -/

/-- An earlier store that has not been performed comes first: to a common byte (but on unordered pages, of another instruction and with no fence between), before a release, or both strongly ordered. -/
def PendStore.first (e st : PendStore) : Prop := e.done = false ∧
  ((e.meets st = true ∧ ¬(e.uo = true ∧ st.uo = true ∧ e.ep = st.ep ∧ ¬(e.cyc = st.cyc ∧ e.rank = st.rank))) ∨ (st.release = true ∧ e.uo = false) ∨ (st.so = true ∧ e.so = true))

theorem PendStore.first_iff (e st : PendStore) : e.first st ↔ (!e.done && e.holdsBack st) = true := by
  simp only [PendStore.first, PendStore.holdsBack, PendStore.sameIssue, Bool.and_eq_true, Bool.or_eq_true, Bool.not_eq_true', Bool.and_eq_false_iff,
    Bool.not_eq_false', beq_iff_eq, beq_eq_false_iff_ne, or_assoc]
  cases e.uo <;> cases st.uo <;> simp [imp_iff_not_or]

/-- Without a fence that waits, a store is ready once no earlier one comes first. -/
theorem storeReady_iff (earlier : List PendStore) (st : PendStore) : storeReady false earlier st = true ↔ ∀ e ∈ earlier, ¬e.first st := by
  simp [storeReady, PendStore.first_iff]

theorem not_storeReady (fence : Bool) {earlier : List PendStore} {e st : PendStore} (he : e ∈ earlier) (h : e.first st) : storeReady fence earlier st = false := by
  rw [PendStore.first_iff, Bool.and_eq_true] at h
  simp only [storeReady, Bool.not_eq_false', List.any_eq_true]
  exact ⟨e, he, by simp [h.1, h.2]⟩

/-- STORE_VISIBLE tries the store that it names once the agent, a fence or a window lets it and it is ready. -/
theorem exec_storeVisible {n k : Nat} {s : State} {st : PendStore} (hst : (s.agent (named n)).stores[k]? = some st) {fence : Bool}
    (hfence : (s.agent (named n)).holds.any (fun h => h.kind = .retry) = fence) : exec (.storeVisible n k) s =
      if ((st.seen || fence || isWin st.addr) && !st.done && storeReady fence ((s.agent (named n)).stores.take k) st) = true
      then .next (s.tryStore (named n) st) else .next s := by
  change execStoreVisible n k s = _
  unfold execStoreVisible
  dsimp only
  rw [show agentOf n = named n from rfl, hst, hfence]

theorem storesKeepTheirOrder : Claim.StoresKeepTheirOrder := by
  intro n k s st hst
  refine ⟨fun ⟨e, he, hfirst⟩ => ⟨s, ?_, rfl⟩, fun hnone hret hseen hdone hwin => ⟨_, ?_, rfl⟩⟩
  · rw [exec_storeVisible hst rfl, not_storeReady _ he hfirst, Bool.and_false, if_neg Bool.false_ne_true]
  · have hfence : (s.agent (named n)).holds.any (fun h => h.kind = .retry) = false := by simpa using hret
    rw [exec_storeVisible hst hfence, if_pos (by rw [hseen, hdone, (storeReady_iff _ _).2 hnone]; rfl), State.tryStore, hwin, if_neg Bool.false_ne_true]

/-- Settles O33: fetch takes a line's groups in order, by induction on them; late units put what they read into its place, by induction on the units; a trap and a store each go by the test that their event makes. -/
theorem eventsBetweenCycles : Obligations.EventsBetweenCycles := ⟨fetchReadsLines, lateDataAndTraps, storesKeepTheirOrder⟩

end Sys2Proof.Machine
end

section
/-! PROOFS. An event at one core that changes another (O59; R156, R291, R354): a core whose remote operand fails and whose record has no handler escalates, and the ring of its context then takes the oldest escalation that waits, whose core it may not be. -/

namespace Sys2Proof.Machine

open Sys2Proof.Claim

/-- A multiply whose first group comes from a rank that no context names (R156). -/
def lostMultiply : MatOp :=
  { tile := 0, fmt := 0, start := 0, groups := 1, g := 0, a := .remote 0 0 0, b := .remote 0 0 0, acc := [], line := 0, lane := 1, cyc := 0, kk := 0
    scA := [], scB := [], undo := some Seq.reset, part := false, src := [] }

/-- A context with an empty escalation ring. -/
def ringContext : Context :=
  { ptbr := 0, cores := [0, 1], rcount := 0, ranks := [], ownRank := 0, wdt := 0, save := 0, nslot := 0, slots := [], semFirst := 0, semCount := 0
    cqMask := 0, cqLevels := 0, lqTable := 0, lqs := [], escVector := 0, escCount := 0, usedPour := false, gens := [], onModule := true, dead := false }

/-- Core 0 holds the multiply, and an escalation of core 1 waits for a place of the ring. -/
def waitingEscalation : State :=
  { State.reset with
    cores := [(0, { Core.reset with mats := [lostMultiply] })]
    contexts := [(0, some ringContext)]
    escs := [⟨0, 1, false, 0, [], 0, 0, 0⟩] }

theorem growOp_lostMultiply : waitingEscalation.growOp 0 lostMultiply = .fail 1 0 := rfl

/-- The number that an agent's escalation has in the ring, in the state that an outcome answers. -/
def escalationOf (m : Mover) (r : Result) : Option Nat :=
  match r with
  | .next t => (t.agent m).escSeq
  | _ => none

/-- The model, run on the event of core 0: core 1's escalation has received number 1. -/
theorem escalationOf_remoteOperandFault : escalationOf (.core 1) (exec (.remoteOperandFault 0) waitingEscalation) = some 1 := by decide +kernel

/-- Refutes O59: the clause of REMOTE_OPERAND_FAULT says of a group that fails that no other core changes, in every state. Where an escalation of core 1 waits for a place of its context's ring (R354), the escalation of core 0 gives it its number, and core 1 changes. -/
theorem not_coreFormsAndEventsComplete : ¬ Obligations.CoreFormsAndEventsComplete := by
  rintro ⟨-, -, -, -, hremote, -⟩
  obtain ⟨t, ht, hothers⟩ := hremote 0 waitingEscalation lostMultiply Seq.reset rfl rfl (by decide) (by decide)
  rw [growOp_lostMultiply] at hothers
  have hkept : (t.core 1).escSeq = (waitingEscalation.core 1).escSeq := congrArg Core.escSeq (hothers 1 (by decide))
  have hnumber : (t.core 1).escSeq = some 1 := by
    have hrun := escalationOf_remoteOperandFault
    rwa [ht] at hrun
  rw [hnumber] at hkept
  exact absurd hkept (by decide)

end Sys2Proof.Machine
end

section
/-! PROOFS. Instructions that change their agent and move on (R82, R83, R154). -/

namespace Sys2Proof.Claim

open Sys2Proof.Machine

theorem othersKeep.mem {s t : State} (h : othersKeep s t) : t.mem = s.mem := by rw [h.1]

theorem othersKeep.me {s t : State} (h : othersKeep s t) : t.me = s.me := by rw [State.me, h.here, State.me]

end Sys2Proof.Claim

namespace Sys2Proof.Machine

open Sys2Proof.Claim

/-- An instruction with an occupancy of its own that changes its agent and moves on. -/
theorem completesFor_modCur {i : Instr} {s u : State} {e : Engine} {occ : Nat} {f : Core → Core} (hi : exec i s = s.issueOcc e occ (.done (u.modCur f))) :
    completes i s fun t => issuedFor u t e occ f :=
  ⟨_, hi, ((othersKeep.refl u).modCur f).modCur _, by rw [State.cur_modCur, State.cur_modCur]⟩

/-- With an occupancy of one cycle. -/
theorem completes_modCur {i : Instr} {s u : State} {e : Engine} {f : Core → Core} (hi : exec i s = s.issue e (.done (u.modCur f))) :
    completes i s fun t => issuedOn u t e f := completesFor_modCur hi

end Sys2Proof.Machine
end

section
/-! PROOFS. The accumulator instructions (O32; R157, R159 to R163): what each comes to once its tiles have been looked at. -/

namespace Sys2Proof.Machine

open Sys2Proof.Claim

/-! Tiles that something owns (R159, R162, R182). -/

/-- A tile trap is the accumulator-busy trap (R287). -/
def busyTrap (e : Engine) (x : Effect) : Prop := ∃ d, x = .trap { TrapInfo.of 0x17 e with detail := d }

theorem Core.ownedTile_busy {c : Core} {e : Engine} {t : Nat} {x : Effect} (h : c.ownedTile e t = some x) : busyTrap e x := by
  obtain ⟨o, -, rfl⟩ := Option.map_eq_some_iff.1 h
  exact ⟨_, rfl⟩

theorem Core.armedTile_busy {c : Core} {e : Engine} {t : Nat} {x : Effect} (h : c.armedTile e t = some x) : busyTrap e x := by
  obtain ⟨a, -, rfl⟩ := Option.map_eq_some_iff.1 h
  exact ⟨_, rfl⟩

theorem Core.copiedTile_busy {c : Core} {e : Engine} {t : Nat} {x : Effect} (h : c.copiedTile e t = some x) : busyTrap e x := by
  unfold Core.copiedTile at h
  split at h
  · exact ⟨_, (Option.some.inj h).symm⟩
  · split at h
    · exact ⟨_, (Option.some.inj h).symm⟩
    · cases h

theorem Core.busyTile_busy {c : Core} {e : Engine} {t : Nat} {x : Effect} (h : c.busyTile e t = some x) : busyTrap e x := by
  rcases Option.or_eq_some_iff.1 h with h | ⟨-, h⟩
  · exact c.ownedTile_busy h
  · rcases Option.or_eq_some_iff.1 h with h | ⟨-, h⟩
    · exact c.copiedTile_busy h
    · exact c.armedTile_busy h

theorem Core.busyTile_eq_none_iff (c : Core) (e : Engine) (t : Nat) :
    c.busyTile e t = none ↔ c.ownedTile e t = none ∧ c.copiedTile e t = none ∧ c.armedTile e t = none := by
  rw [Core.busyTile, Option.or_eq_none_iff, Option.or_eq_none_iff]

/-- Of tiles that nothing owns none is busy. -/
theorem Core.busyTiles_eq_none {c : Core} {e : Engine} {ts : List Nat} (h : ∀ t ∈ ts, c.busyTile e t = none) : c.busyTiles e ts = none := by
  induction ts with
  | nil => rfl
  | cons t rest ih =>
    rw [Core.busyTiles, h t List.mem_cons_self]
    exact ih fun u hu => h u (List.mem_cons_of_mem _ hu)

/-- One busy tile suffices for the trap. -/
theorem Core.busyTiles_busy {c : Core} {e : Engine} {ts : List Nat} (h : ∃ t ∈ ts, ∃ x, c.busyTile e t = some x) :
    ∃ x, c.busyTiles e ts = some x ∧ busyTrap e x := by
  induction ts with
  | nil => simp at h
  | cons t rest ih =>
    rw [Core.busyTiles]
    cases ht : c.busyTile e t with
    | some x => exact ⟨x, rfl, Core.busyTile_busy ht⟩
    | none =>
      refine ih ?_
      obtain ⟨u, hu, x, hx⟩ := h
      rcases List.mem_cons.1 hu with rfl | hu
      · rw [ht] at hx
        cases hx
      · exact ⟨u, hu, x, hx⟩

/-! What each instruction comes to. -/

section
variable {f : XMat} {ext : BitVec 32} {s : State} {n : Nat}

/-- MSHAPE of an aligned block whose bank is free and whose tags agree. -/
theorem exec_mshape {s1 s2 : State} {a : Nat} (ha : (ext.extractLsb' 0 21).toNat = a) (hal : a % 32 = 0) (hb : s.useBank .x 0 a = .ok s1)
    (ht : s1.tagCheck .x a 32 = .ok s2) : exec (.mshape f ext) s = s.issue .x (.done (s2.modCur fun c =>
      c.emit .x 2 (.shape (BitVec.ofNat 256 (leNat (s.mem.rdN (winBase s.me + a) 32))) (poisonedIn s.pz (winBase s.me + a) 32)))) := by
  subst ha
  change execMshape f ext s = _
  rw [execMshape, fld, if_neg (not_not.2 hal), hb]
  dsimp only
  rw [ht]
  rfl

/-- ACCZ looks at its tiles, and zeroes them all or none. -/
theorem exec_accz (hn : (f.odA ++ f.odB : BitVec 8).toNat + 1 = n) : exec (.accz f) s = s.issue .x
    ((s.cur.busyTiles .x ((List.range n).map fun i => (f.tile.toNat + i) % 1024)).getD
      (.done (s.modCur fun c => c.emits .x 2 ((List.range n).map fun i => .zeroTile ((f.tile.toNat + i) % 1024))))) := by
  subst hn
  change execAccz f s = _
  rw [execAccz, List.map_map]
  cases s.cur.busyTiles .x ((List.range ((f.odA ++ f.odB : BitVec 8).toNat + 1)).map fun i => (f.tile.toNat + i) % 1024) <;> rfl

/-- ACCRD of a tile that no multiply owns and that is not armed, nor copied where it is cleared. -/
theorem exec_accrd (hn : (ext.extractLsb' 0 8).toNat = n) (hreg : n ≤ 191) (howned : s.cur.ownedTile .x f.tile.toNat = none)
    (harmed : s.cur.armedTile .x f.tile.toNat = none) (hcopied : ext.getLsbD 8 = true → s.cur.copiedTile .x f.tile.toNat = none) :
    exec (.accrd f ext) s = s.issue .x (.done (s.modCur fun c => c.emits .x 4
      (.words (wordAddr s n 0 0) (s.words1024 (tileWord s.me f.tile.toNat 0 0)) :: if ext.getLsbD 8 then [.zeroTile f.tile.toNat] else []))) := by
  subst hn
  have hfree : (if bitAt ext 8 then s.cur.busyTile .x f.tile.toNat else (s.cur.ownedTile .x f.tile.toNat).or (s.cur.armedTile .x f.tile.toNat)) = none := by
    split
    · next hclr => exact (Core.busyTile_eq_none_iff _ _ _).2 ⟨howned, hcopied hclr, harmed⟩
    · rw [howned, harmed]; rfl
  change execAccrd f ext s = _
  rw [execAccrd, fld, if_neg (Nat.not_lt.2 hreg), hfree]
  rfl

/-- ACCWR to a tile that nothing owns. -/
theorem exec_accwr (hn : (ext.extractLsb' 0 8).toNat = n) (hreg : n ≤ 191) (hfree : s.cur.busyTile .x f.tile.toNat = none) :
    exec (.accwr f ext) s = s.issue .x (.done (s.modCur fun c => c.emit .x 4
      (.words (tileWord s.me f.tile.toNat 0 0) (s.words1024 (wordAddr s n 0 0))))) := by
  subst hn
  change execAccwr f ext s = _
  rw [execAccwr, fld, if_neg (Nat.not_lt.2 hreg), hfree]
  rfl

/-- A matrix register above m191 is an illegal operand of both. -/
theorem exec_accrd_illegal (hreg : 191 < (ext.extractLsb' 0 8).toNat) : exec (.accrd f ext) s = s.issue .x (illegalOperand .x) := by
  change execAccrd f ext s = _
  rw [execAccrd, fld, if_pos hreg]

theorem exec_accwr_illegal (hreg : 191 < (ext.extractLsb' 0 8).toNat) : exec (.accwr f ext) s = s.issue .x (illegalOperand .x) := by
  change execAccwr f ext s = _
  rw [execAccwr, fld, if_pos hreg]

/-- The arming that ACCARM draws (R162, R268). -/
def accArming (s : State) (f : XMat) (ext : BitVec 32) (m : Member) : Arming :=
  ⟨f.tile.toNat, 1, ext.extractLsb' 0 8, m.seq, none, ext.getLsbD 8, (ext.extractLsb' 16 8).toNat + 1, 0, 0,
    if ext.getLsbD 29 then some (ext.extractLsb' 24 5) else none, s.cur.ex.pos.1, s.cur.ex.pos.2, s.cur.tref, false, []⟩

/-- ACCARM of a tile that nothing owns by a member of the group, below 64 armed tiles. -/
theorem exec_accarm {m : Member} (hm : s.cur.slots.find? (fun m => m.group == ext.extractLsb' 0 8) = some m)
    (hfree : s.cur.busyTile .x f.tile.toNat = none) (hroom : (s.cur.arms.map (·.nt)).sum < 64) :
    exec (.accarm f ext) s = s.issue .x (.done (s.modCur fun c => (c.emit .x 1 (.arm (accArming s f ext m))).drawSeq (ext.extractLsb' 0 8))) := by
  change execAccarm f ext s = _
  rw [execAccarm, fld, hm]
  dsimp only
  rw [hfree, if_neg (Nat.not_le.2 hroom)]
  rfl

theorem exec_accarm_nonmember (hm : s.cur.slots.find? (fun m => m.group == ext.extractLsb' 0 8) = none) :
    exec (.accarm f ext) s = s.issue .x (illegalOperand .x) := by
  change execAccarm f ext s = _
  rw [execAccarm, fld, hm]

end

/-- MEXC answers the counters of a class, and clears them. -/
theorem exec_mexc (f : XMat) (s : State) : exec (.mexc f) s = s.issue .x (.done (s.modCur fun c =>
    { c.emit .x 2 (.scalar (f.tile.extractLsb' 4 6).toNat (tget 0 c.exc (f.tile.extractLsb' 0 4).toNat) none) with
      exc := tset 0 c.exc (f.tile.extractLsb' 0 4).toNat 0 })) := rfl

/-- Settles O32: each clause from what its instruction comes to. -/
theorem accumulatorInstructions : Obligations.AccumulatorInstructions := by
  refine ⟨fun f ext s s1 s2 a ha hal hb ht => ?_, fun f s n hn => ⟨fun hfree => ?_, fun ⟨i, hi, hx⟩ => ?_⟩,
    fun f ext s n hn => ⟨fun hreg howned harmed hcopied => ?_, fun hreg hfree => ?_, fun hreg => ?_⟩,
    fun f ext s g hg => ⟨fun m hm hfree hroom => ?_, fun hm => ?_⟩, fun f s => completes_modCur (exec_mexc f s)⟩
  · exact completes_modCur (exec_mshape ha hal hb ht)
  · have hz := exec_accz (s := s) hn
    rw [Core.busyTiles_eq_none (by simpa using hfree)] at hz
    exact completes_emits hz ((othersKeep.refl s).modCur _) (State.cur_modCur _ _)
  · obtain ⟨x, hbusy, d, rfl⟩ := Core.busyTiles_busy (c := s.cur) (e := .x) (ts := (List.range n).map fun i => (f.tile.toNat + i) % 1024)
      ⟨_, List.mem_map.2 ⟨i, List.mem_range.2 hi, rfl⟩, hx⟩
    have hz := exec_accz (s := s) hn
    rw [hbusy] at hz
    exact ⟨d, traps_of_trap hz⟩
  · exact completes_emits (exec_accrd hn hreg howned harmed hcopied) ((othersKeep.refl s).modCur _) (State.cur_modCur _ _)
  · exact completes_emit (exec_accwr hn hreg hfree) ((othersKeep.refl s).modCur _) (State.cur_modCur _ _)
  · subst hn
    exact ⟨traps_of_trap (exec_accrd_illegal hreg), traps_of_trap (exec_accwr_illegal hreg)⟩
  · subst hg
    exact completes_modCur (exec_accarm hm hfree hroom)
  · subst hg
    exact traps_of_trap (exec_accarm_nonmember hm)

end Sys2Proof.Machine
end

section
/-! PROOFS. What becomes visible in a core's window or in memory, and what leaves the module: no agent's place moves (R85, R181, R186, R239, R243, R251, R361). -/

namespace Sys2Proof.Machine

/-! Agents that stand. -/

/-- The agents are the same, and so is the one that issues. -/
def State.sameAgents (s t : State) : Prop := t.here = s.here ∧ t.cores = s.cores ∧ t.cps = s.cps

theorem State.sameAgents.refl (s : State) : s.sameAgents s := ⟨rfl, rfl, rfl⟩

theorem State.sameAgents.trans {s t u : State} (h : s.sameAgents t) (k : t.sameAgents u) : s.sameAgents u :=
  ⟨k.1.trans h.1, k.2.1.trans h.2.1, k.2.2.trans h.2.2⟩

theorem State.sameAgents.agent {s t : State} (h : s.sameAgents t) (m : Mover) : t.agent m = s.agent m := by
  cases m with
  | core n => exact congrArg (tget Core.reset · n) h.2.1
  | cp x => exact congrArg (tget Core.reset · x) h.2.2

theorem State.sameAgents.cur {s t : State} (h : s.sameAgents t) : t.cur = s.cur := by rw [State.cur, h.1, h.agent, State.cur]

theorem State.sameAgents_touch (s : State) (u : UnitAt) : s.sameAgents (s.touch u) := by
  unfold State.touch
  dsimp only
  split
  · exact .refl s
  · split <;> exact ⟨rfl, rfl, rfl⟩

/-- A write at the point of coherence changes memory. -/
theorem State.sameAgents_wrC (s : State) (pa : Nat) (d : List Byte) (poison : Bool) : s.sameAgents (s.wrC pa d poison) := by
  unfold State.wrC
  split
  · exact ⟨rfl, rfl, rfl⟩
  · dsimp only
    split
    · exact (s.sameAgents_touch _).trans ⟨rfl, rfl, rfl⟩
    · exact s.sameAgents_touch _

/-! Far reads (R181, R361). -/

theorem State.sameAgents_markLeaf (s : State) (a : Nat) (e : W64) (wr : Bool) : s.sameAgents (s.markLeaf a e wr).1 := by
  unfold State.markLeaf
  dsimp only
  generalize (e ||| 1#64 <<< 55 ||| if wr then 1#64 <<< 54 else 0) = marked
  split
  · exact .refl s
  · exact s.sameAgents_wrC _ _ _

/-- A translation without a cache marks the leaf. -/
theorem State.sameAgents_translate {s t : State} {x va n : Nat} {wr fetch : Bool} {tr : Trans} (h : s.translate x none va n wr fetch = .ok t tr) :
    s.sameAgents t := by
  unfold State.translate at h
  split at h
  · cases h
  · split at h
    · cases h
    · split at h
      · dsimp only at h
        split at h
        · cases h
          exact .refl s
        · cases h
      · split at h
        · cases h
        · cases h
        · dsimp only at h
          split at h
          · cases h
            exact s.sameAgents_markLeaf _ _ _
          · cases h

theorem State.sameAgents_gateRead {s t : State} {x va n : Nat} {c : Option Nat} {d : List (Byte × Bool)} (h : s.gateRead x c va n = .ok (t, d)) :
    s.sameAgents t := by
  unfold State.gateRead at h
  split at h
  any_goals cases h
  next s1 tr htr =>
    split at h
    any_goals cases h
    exact State.sameAgents_translate htr

/-- A read by rank reads under the translation, or asks another module. -/
theorem State.sameAgents_rankRead {s t : State} {x rank va n : Nat} {c : Option Nat} {d : List (Byte × Bool)}
    (h : s.rankRead x c rank va n = .ok (t, d)) : s.sameAgents t := by
  unfold State.rankRead at h
  split at h
  · cases h
  · split at h
    · exact State.sameAgents_gateRead h
    · split at h
      · cases h
      · cases h
        exact ⟨rfl, rfl, rfl⟩

/-! Stores that become visible (R186, R239, R243). -/

/-- Of an agent, no more than its stores and batches, results in flight, queues and L1, and what reaches its window, differs. -/
def Core.storesMove (c d : Core) : Prop :=
  d = { c with stores := d.stores, shown := d.shown, batches := d.batches, pend := d.pend, snap := d.snap, inbox := d.inbox, q := d.q, l1 := d.l1 }

theorem Core.storesMove.refl (c : Core) : c.storesMove c := rfl

theorem Core.storesMove.trans {c d e : Core} (h : c.storesMove d) (k : d.storesMove e) : c.storesMove e := by
  rw [Core.storesMove] at h k ⊢
  rw [h] at k
  exact k

/-- The same of every agent; the one that issues stays. -/
def State.storesMove (s t : State) : Prop := t.here = s.here ∧ ∀ m, (s.agent m).storesMove (t.agent m)

theorem State.storesMove.refl (s : State) : s.storesMove s := ⟨rfl, fun _ => .refl _⟩

theorem State.storesMove.trans {s t u : State} (h : s.storesMove t) (k : t.storesMove u) : s.storesMove u :=
  ⟨k.1.trans h.1, fun m => (h.2 m).trans (k.2 m)⟩

theorem State.sameAgents.storesMove {s t : State} (h : s.sameAgents t) : s.storesMove t := ⟨h.1, fun m => (h.agent m).symm ▸ .refl _⟩

theorem State.storesMove.cur {s t : State} (h : s.storesMove t) : s.cur.storesMove t.cur := by
  rw [State.cur, State.cur, h.1]
  exact h.2 _

theorem State.storesMove_setAgent (s : State) {m : Mover} {c : Core} (h : (s.agent m).storesMove c) : s.storesMove (s.setAgent m c) := by
  refine ⟨State.setAgent_here _ _ _, fun j => ?_⟩
  by_cases hj : j = m
  · rw [hj, State.agent_setAgent_same]
    exact h
  · rw [State.agent_setAgent_other _ _ _ _ hj]
    exact .refl _

theorem State.storesMove_foldl {α : Type} {f : State → α → State} (hf : ∀ (s : State) x, s.storesMove (f s x)) (s : State) (l : List α) : s.storesMove (l.foldl f s) :=
  List.foldlRecOn (motive := s.storesMove) l f (.refl s) fun t ht x _ => ht.trans (hf t x)

theorem State.storesMove_wrBase (s : State) (pa : Nat) (d : List Byte) (poison : Bool) : s.storesMove (s.wrBase pa d poison) :=
  State.sameAgents.storesMove ⟨rfl, rfl, rfl⟩

theorem State.storesMove_wrWin (s : State) (pa : Nat) (d : List Byte) (poison : Bool) : s.storesMove (s.wrWin pa d poison) := by
  unfold State.wrWin
  split
  · exact s.storesMove_wrBase _ _ _
  · next k _ =>
    split
    · exact s.storesMove_setAgent (m := .core k) rfl
    · exact State.sameAgents.storesMove ⟨rfl, rfl, rfl⟩

theorem State.storesMove_trimShown (s : State) (pa n : Nat) : s.storesMove (s.trimShown pa n) := by
  unfold State.trimShown
  split
  · exact .refl s
  · next k _ =>
    dsimp only
    split
    · exact s.storesMove_setAgent (m := .core k) rfl
    · exact .refl s

theorem State.storesMove_trimPassed (s : State) (pa n : Nat) (own : Option (Mover × Nat)) : s.storesMove (s.trimPassed pa n own) := by
  refine State.storesMove_foldl (fun t m => ?_) s _
  dsimp only
  split
  · exact t.storesMove_setAgent rfl
  · exact .refl t

theorem State.storesMove_pokeBy (s : State) (own : Option (Mover × Nat)) (pa : Nat) (d : List Byte) (poison : Bool) : s.storesMove (s.pokeBy own pa d poison) := by
  unfold State.pokeBy
  have hwin : s.storesMove ((s.trimShown pa d.length).wrWin pa d poison) := (s.storesMove_trimShown _ _).trans (State.storesMove_wrWin _ _ _ _)
  split
  · exact (s.storesMove_trimPassed _ _ _).trans (State.sameAgents_wrC _ _ _ _).storesMove
  · dsimp only
    split
    · exact hwin.trans (State.sameAgents.storesMove ⟨rfl, rfl, rfl⟩)
    · exact hwin

/-- What a late unit reads goes to a result in flight or to a queue. -/
theorem Core.storesMove.put {c d : Core} (h : c.storesMove d) (u : LateUnit) (bs : List (Byte × Bool)) : c.storesMove (u.put bs d) := by
  refine h.trans ?_
  rw [Core.storesMove, (lateReads_put d u bs).1]

theorem State.storesMove_retake (s : State) (a b : Mover) (st : PendStore) (scope : Nat) (u : LateUnit) : s.storesMove (s.retake a b st scope u) := by
  unfold State.retake
  split
  · exact .refl s
  · dsimp only
    split
    · split
      · refine (s.storesMove_setAgent (.put ?_ u _)).trans (State.sameAgents.storesMove ⟨rfl, rfl, rfl⟩)
        rfl
      · exact State.sameAgents.storesMove ⟨rfl, rfl, rfl⟩
    · exact .refl s

theorem State.storesMove_unsynced (s : State) (m : Mover) (st : PendStore) : s.storesMove (s.unsynced m st) := by
  unfold State.unsynced
  split
  · exact .refl s
  · dsimp only
    split
    · refine State.storesMove_foldl (fun t b => ?_) s _
      split
      · exact .refl t
      · exact State.storesMove_foldl (fun t u => t.storesMove_retake _ _ _ _ _) t _
    · exact .refl s

theorem State.storesMove_perform (s : State) (m : Mover) (st : PendStore) : s.storesMove (s.perform m st) := by
  unfold State.perform
  dsimp only
  refine (State.storesMove.trans (s.storesMove_setAgent ?_) (State.storesMove_pokeBy _ _ _ _ _)).trans (State.storesMove_unsynced _ _ _)
  split <;> rfl

theorem State.storesMove_tryStore (s : State) (m : Mover) (st : PendStore) : s.storesMove (s.tryStore m st) := by
  unfold State.tryStore
  split
  · split
    · exact s.storesMove_perform m st
    · exact .refl s
    · refine s.storesMove_setAgent ?_
      split <;> rfl
  · exact s.storesMove_perform m st

theorem State.storesMove_performAll (s : State) (m : Mover) (l : List PendStore) : s.storesMove (s.performAll m l) := by
  induction l generalizing s with
  | nil => exact .refl s
  | cons st rest ih =>
    rw [State.performAll]
    split
    · exact ih s
    · exact (s.storesMove_tryStore m st).trans (ih _)

/-- Making every store of the issuing agent visible moves stores only (R251). -/
theorem State.storesMove_drainAll (s : State) : s.storesMove s.drainAll :=
  (s.storesMove_performAll _ _).trans (State.storesMove_setAgent _ rfl)

end Sys2Proof.Machine
end

section
/-! PROOFS. Bank accesses and sequence tags of an instruction that nothing disturbs (R49, R151, R152, R185). -/

namespace Sys2Proof.Machine

open Sys2Proof.Claim

/-! An agent that is replaced twice. -/

section
variable {α : Type}

theorem tput_tput (t : Tab α) (k : Nat) (v w : α) : tput (tput t k v) k w = tput t k w := by
  induction t with
  | nil => simp [tput]
  | cons c rest ih =>
    obtain ⟨a, x⟩ := c
    rcases Nat.lt_trichotomy a k with h | h | h
    · simp [tput, h, ih]
    · simp [tput, h]
    · simp [tput, Nat.not_lt.2 h.le, h.ne']

theorem tdel_tput (t : Tab α) (k : Nat) (v : α) : tdel (tput t k v) k = tdel t k := by
  induction t with
  | nil => simp [tput, tdel]
  | cons c rest ih =>
    obtain ⟨a, x⟩ := c
    rcases Nat.lt_trichotomy a k with h | h | h
    · simp [tput, tdel, h, h.ne, ih]
    · simp [tput, tdel, h]
    · simp [tput, tdel, Nat.not_lt.2 h.le, h.ne']

/-- An entry that is not the default gives way to the next one. -/
theorem tset_tset [DecidableEq α] {d v : α} (h : v ≠ d) (t : Tab α) (k : Nat) (w : α) : tset d (tset d t k v) k w = tset d t k w := by
  simp only [tset, if_neg h, tput_tput, tdel_tput]

/-- What holds of the default and of each entry holds of what is read. -/
theorem tget_of_forall {p : α → Prop} {d : α} (hd : p d) {t : Tab α} (h : ∀ c ∈ t, p c.2) (k : Nat) : p (tget d t k) := by
  induction t with
  | nil => exact hd
  | cons c rest ih =>
    rw [tget_cons]
    split
    · exact h c List.mem_cons_self
    · exact ih fun e he => h e (List.mem_cons_of_mem _ he)

end

theorem State.setCur_setCur (s : State) {c : Core} (h : c ≠ Core.reset) (d : Core) : (s.setCur c).setCur d = s.setCur d := by
  rw [State.setCur, State.setCur_here, State.setCur, State.setCur]
  cases s.here with
  | core n => exact congrArg (fun l => { s with cores := l }) (tset_tset h _ _ _)
  | cp x => exact congrArg (fun l => { s with cps := l }) (tset_tset h _ _ _)

theorem Core.ne_reset_of_banks {c : Core} (h : c.banks ≠ []) : c ≠ Core.reset := fun hc => h (hc ▸ rfl)

/-! Banks (R151). -/

/-- The bank accesses of an instruction are among those of its core, the last one first. -/
def State.withBanks (s : State) (us : List (Nat × Nat × Nat)) : State := s.modCur fun c => { c with banks := us.reverse ++ c.banks }

/-- Accesses that clash neither with those of earlier instructions nor with each other are recorded. -/
theorem State.useBanks_free {s : State} {e : Engine} {us : List (Nat × Nat × Nat)} (hne : us ≠ []) (hold : ∀ a ∈ us, ∀ b ∈ s.cur.banks, bankClash a b = false)
    (hown : us.Pairwise fun a b => bankClash b a = false) : s.useBanks e us = .ok (s.withBanks us) := by
  induction us generalizing s with
  | nil => exact absurd rfl hne
  | cons u rest ih =>
    obtain ⟨hu, hrest⟩ := List.pairwise_cons.1 hown
    have hfree : s.cur.banks.any (bankClash u) = false := List.any_eq_false.2 fun b hb => by simp [hold u List.mem_cons_self b hb]
    rw [State.useBanks, hfree, if_neg Bool.false_ne_true]
    cases rest with
    | nil => rfl
    | cons v more =>
      rw [ih (List.cons_ne_nil _ _) ?_ hrest]
      · refine congrArg Except.ok ?_
        rw [State.withBanks, State.withBanks, State.modCur, State.modCur, State.modCur, State.setCur_setCur _ (Core.ne_reset_of_banks (List.cons_ne_nil _ _)), State.cur_setCur]
        simp
      · intro a ha b hb
        rw [State.cur_modCur] at hb
        rcases List.mem_cons.1 hb with rfl | hb
        · exact hu a ha
        · exact hold a (List.mem_cons_of_mem _ ha) b hb

theorem State.cur_withBanks (s : State) (us : List (Nat × Nat × Nat)) : (s.withBanks us).cur = { s.cur with banks := us.reverse ++ s.cur.banks } :=
  State.cur_modCur _ _

/-- The agent that stands is the one that was put. -/
theorem State.setCur_withBanks (s : State) {us : List (Nat × Nat × Nat)} (hne : us ≠ []) : (s.withBanks us).setCur (s.withBanks us).cur = s.withBanks us := by
  rw [State.cur_withBanks]
  exact State.setCur_setCur s (Core.ne_reset_of_banks (by simp [hne])) _

/-- Recording accesses changes the issuing agent only. -/
theorem othersKeep_useBanks {s t : State} {e : Engine} {us : List (Nat × Nat × Nat)} (h : s.useBanks e us = .ok t) : othersKeep s t := by
  induction us generalizing s with
  | nil => cases h; exact .refl _
  | cons u rest ih =>
    rw [State.useBanks] at h
    split at h
    · cases h
    · exact ((othersKeep.refl s).modCur _).trans (ih h)

/-! Tags (R152, R185). -/

theorem othersKeep_tagPieces {s t : State} {ps : List (Nat × Nat)} (h : s.tagPieces ps = .ok t) : othersKeep s t := by
  induction ps generalizing s with
  | nil => cases h; exact .refl _
  | cons p rest ih =>
    rw [State.tagPieces] at h
    split at h
    · cases h
    · next s1 hs1 =>
      refine othersKeep.trans ?_ (ih h)
      unfold State.tagCheck at hs1
      split at hs1
      · next c _ =>
        cases hs1
        exact (othersKeep.refl s).modCur fun _ => c
      · cases hs1

/-- No pending tag compares. -/
theorem Core.tagScan_idle {c : Core} (h : ∀ k ∈ c.tg, k.2.pending = false) (e : Engine) (off n : Nat) (ms : List Nat) : c.tagScan e off n ms = .ok c := by
  induction ms with
  | nil => rfl
  | cons m rest ih =>
    have hpending : (c.tag m).pending = false := tget_of_forall (p := fun t : TagEntry => t.pending = false) rfl h m
    have hcovers : (c.tag m).covers off n = false := by rw [TagEntry.covers, hpending, Bool.false_and, Bool.false_and]
    rw [Core.tagScan]
    dsimp only
    rw [hcovers, if_neg Bool.false_ne_true]
    exact ih

theorem State.tagPieces_idle {s : State} (hs : s.setCur s.cur = s) (h : ∀ k ∈ s.cur.tg, k.2.pending = false) (ps : List (Nat × Nat)) : s.tagPieces ps = .ok s := by
  induction ps with
  | nil => rfl
  | cons p rest ih =>
    rw [State.tagPieces, State.tagCheck, Core.tagScan_idle h]
    dsimp only
    rw [hs]
    exact ih

end Sys2Proof.Machine
end

section
/-! PROOFS. The issue of the matrix instructions (O30; R48, R146 to R158, R251, R278). -/

namespace Sys2Proof.Machine

open Sys2Proof.Claim

section
variable {m : MulOp} {f : XMat} {s : State}

theorem exec_mulInstr (m : MulOp) (f : XMat) (s : State) : exec (mulInstr m f) s = s.issueOcc .x (multiply s m f).2 (multiply s m f).1 := by
  cases m <;> rfl

/-! The checks of a multiply, in order (R146, R147, R150 to R152, R159, R278). -/

theorem multiply_badFormat (h : m.takes f.fmt.toNat = false) : multiply s m f = (illegalOperand .x, 1) := by
  simp [multiply, h]

/-- Descriptors that a stopped MMAR has kept are not read again. -/
theorem multiply_poisoned (ht : m.takes f.fmt.toNat = true) (hstop : stoppedMul s m = none)
    (h : (s.cur.odOf f.odA.toNat).2 = true ∨ (s.cur.odOf f.odB.toNat).2 = true) : multiply s m f = (poisonTrap .x ⟨1, 0⟩, 1) := by
  rw [stoppedMul] at hstop
  rcases h with h | h <;> simp [multiply, ht, hstop, h, dataPz]

/-- No descriptor, nor the shape register where it is used, is poisoned. -/
theorem poison_of_cleanMul (h : cleanMul s m f) :
    ((s.cur.odOf f.odA.toNat).2 || (s.cur.odOf f.odB.toNat).2 || (m == .mconv && s.cur.shapePz)) = false := by
  obtain ⟨ha, hb, hshape⟩ := h
  rw [ha, hb]
  by_cases hm : m = .mconv
  · simp [hshape hm]
  · simp [hm]

theorem multiply_misfit (ht : m.takes f.fmt.toNat = true) (hstop : stoppedMul s m = none) (hc : cleanMul s m f) (h : mulOf s m f = none) :
    multiply s m f = (illegalOperand .x, 1) := by
  rw [stoppedMul] at hstop
  simp [multiply, ht, hstop, poison_of_cleanMul hc, h]

/-- The pieces of scratchpad that an MMAC's segment takes, as its header in `u` tells. -/
def mulSpan (s u : State) (m : MulOp) (f : XMat) : List (Nat × Nat) :=
  if m = .mmac then u.segmentSpan u.me (odAddr (s.cur.odOf f.odB.toNat).1) (segNo s f) else []

/-- A multiply with its operands, from the check of its bank groups on. -/
def mulChecked (s : State) (m : MulOp) (f : XMat) (u : Mul) : Effect :=
  let fm := matFmt f.fmt.toNat
  let groups := u.k / fm.ks
  if !groupsOk m fm u (segEntry s f) groups then .trap (TrapInfo.of 0x12 .x)
  else
    match ((s.cur.copiedTile .x f.tile.toNat).or (s.cur.armedTile .x f.tile.toNat)).elim
        (s.useBanks .x (u.uses m fm (s.cur.now - firstGroup s m) groups)) Except.error with
    | .error e => e
    | .ok s1 =>
      match s1.tagPieces ((List.range groups).flatMap (fun g => (u.pieces fm g).1 ++ (u.pieces fm g).2)
          ++ (if m = .mmac then (segEntry s f, 16) :: mulSpan s s1 m f else [])) with
      | .error e => e
      | .ok z => mulStart z m f u (firstGroup s m) (firstCells s m f u) groups (mulSpan s s1 m f)

/-- A multiply whose operands are resolved goes on to its further checks, and occupies X for the groups that are left. -/
theorem multiply_resolved {u : Mul} (ht : m.takes f.fmt.toNat = true) (hc : stoppedMul s m = none → cleanMul s m f) (hu : mulNow s m f = some u) :
    multiply s m f = (mulChecked s m f u, u.k / (matFmt f.fmt.toNat).ks - firstGroup s m) := by
  rw [mulNow] at hu
  rw [mulChecked, firstCells, firstGroup, multiply]
  have hprog : (if m = .mmar then s.cur.mprog else none) = stoppedMul s m := rfl
  cases hstop : stoppedMul s m with
  | none =>
    rw [hstop] at hu hprog
    dsimp only at hu ⊢
    simp only [hprog, ht, poison_of_cleanMul (hc hstop), hu, Bool.not_true, Bool.and_false, Option.isNone_none, Bool.false_eq_true, if_false]
    rfl
  | some p =>
    rw [hstop] at hu hprog
    dsimp only at hu ⊢
    obtain rfl := Option.some.inj hu
    simp only [hprog, ht, Option.isNone_some, Bool.not_true, Bool.false_and, Bool.false_eq_true, if_false]
    rfl

theorem mulChecked_wrongGroup {u : Mul} (h : groupsOk m (matFmt f.fmt.toNat) u (segEntry s f) (u.k / (matFmt f.fmt.toNat).ks) = false) :
    mulChecked s m f u = .trap (TrapInfo.of 0x12 .x) := by
  rw [mulChecked, h]
  rfl

/-! Issue (R48, R154 to R156, R251). -/

/-- The places of a segment depend on memory only. -/
theorem mulSpan_of_othersKeep {u : State} (h : othersKeep s u) : mulSpan s u m f = mulSpan s s m f := by
  have hread : u.rdB = s.rdB := by funext a n; rw [State.rdB, h.mem, State.rdB]
  have hspan : u.segmentSpan = s.segmentSpan := by unfold State.segmentSpan; rw [hread]
  rw [mulSpan, mulSpan, hspan, h.me]

/-- What the issue of a multiply comes to by the read of its first group. -/
def mulRead (m : MulOp) (f : XMat) (p0 : Nat) : Grown → Effect
  | .wait => .wait
  | .fail sub a => .trap (remoteTrap sub a f.tile.toNat p0)
  | .dead e => .fatal fatalTable e
  | .ok s3 o' => .done (s3.modCur (fun c => { (holdLate c 1 (m = .mmar)) with mats := c.mats ++ [o'], mprog := if m = .mmar then none else c.mprog }))

/-- What the issue of a multiply comes to when it is put in flight as `o`, in the state in which it reads. -/
def mulBegun (s2 : State) (m : MulOp) (f : XMat) (u : Mul) (p0 : Nat) (o : MatOp) : Effect :=
  match u.b with
  | .ingot _ _ _ _ (some _) => .done (s2.modCur (fun c => { c with mats := c.mats ++ [{ o with g := o.groups }] }))
  | _ => mulRead m f p0 (s2.growOp s2.me o)

/-- A failed segment is not read (R155). -/
theorem mulBegun_failed {s2 : State} {u : Mul} {p0 : Nat} {o : MatOp} {c p sc cb x} (hb : u.b = .ingot c p sc cb (some x)) :
    mulBegun s2 m f u p0 o = .done (s2.modCur (fun c => { c with mats := c.mats ++ [{ o with g := o.groups }] })) := by
  rw [mulBegun, hb]

/-- Any other multiply reads its first group. -/
theorem mulBegun_reads {s2 : State} {u : Mul} {p0 : Nat} {o : MatOp} (hb : ∀ c p sc cb x, u.b ≠ .ingot c p sc cb (some x)) :
    mulBegun s2 m f u p0 o = mulRead m f p0 (s2.growOp s2.me o) := by
  rw [mulBegun]
  split
  · next hu => exact absurd hu (hb _ _ _ _ _)
  · rfl

/-- The multiply as the model puts it in flight is the claims'. -/
theorem mulStart_eq {z s2 : State} (u : Mul) (hz : othersKeep s z) (hs2 : s2 = if m = .mmar then z.drainAll else z) :
    mulStart z m f u (firstGroup s m) (firstCells s m f u) (u.k / (matFmt f.fmt.toNat).ks) (mulSpan s s m f)
      = mulBegun s2 m f u (firstGroup s m) (firstOp s s2 m f u) := by
  have hsrc : (mulSpan s s m f).map (fun p => (p.1, s2.rdB (winBase s2.me + p.1) p.2))
      = if m = .mmac then (s.segmentSpan s.me (odAddr (s.cur.odOf f.odB.toNat).1) (segNo s f)).map (fun p => (p.1, s.rdB (winBase s.me + p.1) p.2)) else [] := by
    by_cases hm : m = .mmac
    · subst hm
      rw [if_neg (by decide)] at hs2
      simp only [mulSpan, if_true, hs2, State.rdB, hz.mem, hz.me]
    · simp [mulSpan, hm]
  rw [mulStart, ← hs2, mulBegun, firstOp, ← hsrc]
  rfl

/-- An admitted multiply is begun. -/
theorem exec_admitted {z s2 : State} {u : Mul} (h : mulAdmitted s z m f u) (hs2 : s2 = if m = .mmar then z.drainAll else z) :
    exec (mulInstr m f) s = s.issueOcc .x (u.k / (matFmt f.fmt.toNat).ks - firstGroup s m) (mulBegun s2 m f u (firstGroup s m) (firstOp s s2 m f u)) := by
  obtain ⟨htakes, hclean, hu, hgroups, hcopied, harmed, s1, hbanks, htags⟩ := h
  have hspan : mulSpan s s1 m f = mulSpan s s m f := mulSpan_of_othersKeep (othersKeep_useBanks hbanks)
  rw [exec_mulInstr, multiply_resolved htakes hclean hu]
  have hpieces : (if m = .mmac then (segEntry s f, 16) :: mulSpan s s1 m f else [])
      = if m = .mmac then (segEntry s f, 16) :: s1.segmentSpan s1.me (odAddr (s.cur.odOf f.odB.toNat).1) (segNo s f) else [] := by
    by_cases hm : m = .mmac <;> simp [mulSpan, hm]
  rw [← hpieces, hspan] at htags
  have hchecked : mulChecked s m f u = mulStart z m f u (firstGroup s m) (firstCells s m f u) (u.k / (matFmt f.fmt.toNat).ks) (mulSpan s s m f) := by
    simp only [mulChecked, hgroups, hcopied, harmed, Option.or_none, Option.elim_none, hbanks, hspan, htags, Bool.not_true, Bool.false_eq_true, if_false]
  rw [hchecked, mulStart_eq u ((othersKeep_useBanks hbanks).trans (othersKeep_tagPieces htags)) hs2]

end

theorem multiplyIssues : Claim.MultiplyIssues := by
  intro m f s z s2 u hadmitted hs2
  have hexec := exec_admitted hadmitted hs2
  refine ⟨fun c p sc cb x hb => ?_, fun hb => ⟨fun s3 o' hgrow => ?_, fun sub a hgrow => ?_⟩⟩
  · rw [mulBegun_failed hb] at hexec
    exact completesFor_modCur hexec
  · rw [mulBegun_reads hb, hgrow] at hexec
    exact completesFor_modCur hexec
  · rw [mulBegun_reads hb, hgrow] at hexec
    exact hexec

/-! Traps (R146, R147, R150, R278). -/

/-- The trap of a multiply's checks. -/
theorem traps_of_multiply {m : MulOp} {f : XMat} {s : State} {t : TrapInfo} {occ : Nat} (h : multiply s m f = (.trap t, occ)) :
    traps (mulInstr m f) s .x t := by
  rw [traps, exec_mulInstr, h]
  rfl

theorem multiplyTraps : Claim.MultiplyTraps := by
  intro m f s
  refine ⟨fun ht => ?_, fun ht hstop h => ?_, fun ht hstop hc h => ?_, fun u ht hc hu h => ?_⟩
  · exact traps_of_multiply (multiply_badFormat ht)
  · exact traps_of_multiply (multiply_poisoned ht hstop h)
  · exact traps_of_multiply (multiply_misfit ht hstop hc h)
  · refine traps_of_multiply (occ := u.k / (matFmt f.fmt.toNat).ks - firstGroup s m) ?_
    rw [multiply_resolved ht hc hu, mulChecked_wrongGroup h]

/-! Reading a group (R152, R154, R156, R200). -/

/-- An operand that is in the core: the scratchpad, a convolution's input or a decoded ingot. -/
def Operand.isOwn : Operand → Bool
  | .remote _ _ _ => false
  | _ => true

theorem State.readGroup_own (s : State) (core : Nat) {o : Operand} (h : o.isOwn = true) (f : MatFmt) (t : Ety) (groups g : Nat) (sc : List (Byte × Bool)) :
    ∃ lines sc', s.readGroup core o f t groups g sc = .ok s lines sc' := by
  cases o with
  | remote => cases h
  | _ => exact ⟨_, _, rfl⟩

/-- The first group of a remote operand can be read where its row, and in a scaled format its scales, can. -/
theorem State.readGroup_remote {s z1 : State} {core addr pitch peer groups : Nat} {f : MatFmt} {t : Ety} {d : List (Byte × Bool)}
    (hrow : s.rankRead ((s.core core).ctx.getD 64) (some core) peer (addr % 2 ^ 52) 64 = .ok (z1, d))
    (hscale : f.mx = true → ∃ z2 sc, z1.rankRead ((s.core core).ctx.getD 64) (some core) peer ((addr + groups * pitch) % 2 ^ 52) 32 = .ok (z2, sc)) :
    ∃ z lines sc', s.readGroup core (.remote addr pitch peer) f t groups 0 [] = .ok z lines sc' := by
  rw [State.readGroup]
  simp only [Nat.zero_mul, Nat.add_zero, hrow, Nat.zero_div, Nat.mul_zero, List.isEmpty_nil, Bool.true_or, Bool.and_true]
  cases hmx : f.mx with
  | false => exact ⟨_, _, _, rfl⟩
  | true =>
    obtain ⟨z2, sc, hsc⟩ := hscale hmx
    simp only [hsc, if_true]
    exact ⟨_, _, _, rfl⟩

/-- Reading a group leaves the agents. -/
theorem State.sameAgents_readGroup {s t : State} {core : Nat} {o : Operand} {f : MatFmt} {e : Ety} {groups g : Nat} {sc sc' : List (Byte × Bool)}
    {lines : List (List Elem)} (h : s.readGroup core o f e groups g sc = .ok t lines sc') : s.sameAgents t := by
  cases o with
  | remote addr pitch peer =>
    rw [State.readGroup] at h
    dsimp only at h
    split at h
    any_goals cases h
    next s1 bs hrow =>
      split at h
      · split at h
        any_goals cases h
        next hsc => exact (State.sameAgents_rankRead hrow).trans (State.sameAgents_rankRead hsc)
      · cases h
        exact State.sameAgents_rankRead hrow
  | _ => cases h; exact .refl _

/-- A multiply with more of its groups read. -/
def MatOp.grows (o p : MatOp) : Prop := p = { o with g := p.g, b := p.b, acc := p.acc, scA := p.scA, scB := p.scB }

/-- The next group is read, and nothing else of the multiply and no agent differs. -/
theorem State.growOp_grows {s t : State} {core : Nat} {o p : MatOp} (h : s.growOp core o = .ok t p) : s.sameAgents t ∧ o.grows p := by
  rw [State.growOp] at h
  split at h
  · cases h
    unfold State.mixedOp
    split <;> exact ⟨⟨rfl, rfl, rfl⟩, rfl⟩
  · split at h
    any_goals cases h
    next hA =>
      split at h
      any_goals cases h
      next hB => exact ⟨(State.sameAgents_readGroup hA).trans (State.sameAgents_readGroup hB), by rw [MatOp.grows]⟩

/-- It is read where both operands' groups can be. -/
theorem State.growOp_reads {s : State} {core : Nat} {o : MatOp} (ha : o.a.isOwn = true)
    (hb : ∃ t lines sc', s.readGroup core o.b (matFmt o.fmt) (matFmt o.fmt).eb o.groups o.g o.scB = .ok t lines sc') : ∃ t p, s.growOp core o = .ok t p := by
  obtain ⟨linesA, scA, hA⟩ := s.readGroup_own core ha (matFmt o.fmt) (matFmt o.fmt).ea o.groups o.g o.scA
  obtain ⟨t, linesB, scB, hB⟩ := hb
  rw [State.growOp]
  split
  · exact ⟨_, _, rfl⟩
  · rw [hA]
    dsimp only
    rw [hB]
    exact ⟨_, _, rfl⟩

/-! Resolved operands (R147, R148, R155 to R158). -/

theorem matFmt_ks_pos (c : Nat) : 0 < (matFmt c).ks := by
  unfold matFmt
  dsimp only
  split <;> decide

/-- A shape within its limits has an element to reduce over. -/
theorem shapeOk_pos {v : BitVec 256} {ks w : Nat} (h : shapeOk v ks w = true) : 0 < (shapeOf v).fr * (shapeOf v).fs * (shapeOf v).c := by
  simp only [shapeOk, Bool.and_eq_true, decide_eq_true_eq] at h
  exact Nat.mul_pos (Nat.mul_pos (by omega) (by omega)) (by omega)

/-- What a multiply whose descriptors fit reads: at least one group, its A operand in the core, a local one for MMA and MMAR, and its B operand from a peer for MMAR alone. -/
structure Mul.Fits (u : Mul) (m : MulOp) (ks : Nat) : Prop where
  groups : 0 < u.k / ks
  ownA : u.a.isOwn = true
  localA : m = .mma ∨ m = .mmar → ∃ base pitch tr sa, u.a = .local base pitch tr sa
  ownB : m ≠ .mmar → u.b.isOwn = true
  remoteB : m = .mmar → ∃ addr pitch peer, u.b = .remote addr pitch peer

theorem mulOf_fits {s : State} {m : MulOp} {f : XMat} {u : Mul} (h : mulOf s m f = some u) : u.Fits m (matFmt f.fmt.toNat).ks := by
  unfold mulOf at h
  dsimp only at h
  rw [Option.ite_none_left_eq_some, Option.ite_none_left_eq_some, Option.ite_none_left_eq_some] at h
  obtain ⟨-, hshape, hdepth, h⟩ := h
  have hmod := not_not.1 (not_or.1 hdepth).1
  have hgroups {k : Nat} (hpos : 0 < k) (hmod : k % (matFmt f.fmt.toNat).ks = 0) : 0 < k / (matFmt f.fmt.toNat).ks :=
    Nat.div_pos (Nat.le_of_dvd hpos (Nat.dvd_of_mod_eq_zero hmod)) (matFmt_ks_pos _)
  cases m with
  | mma =>
    simp only [reduceCtorEq, if_false] at h
    split at h
    · next ha hb =>
      cases h
      obtain ⟨x, -, rfl⟩ := Option.map_eq_some_iff.1 ha
      obtain ⟨x, -, rfl⟩ := Option.map_eq_some_iff.1 hb
      exact ⟨hgroups (Nat.succ_pos _) hmod, rfl, fun _ => ⟨_, _, _, _, rfl⟩, fun _ => rfl, nofun⟩
    · cases h
  | mmac =>
    simp only [reduceCtorEq, if_false] at h
    split at h
    · next ha hb =>
      cases h
      obtain ⟨x, -, rfl⟩ := Option.map_eq_some_iff.1 ha
      obtain ⟨-, ⟨⟩⟩ := Option.ite_none_left_eq_some.1 hb
      exact ⟨hgroups (Nat.succ_pos _) hmod, rfl, nofun, fun _ => rfl, nofun⟩
    · cases h
  | mmar =>
    simp only [reduceCtorEq, if_false] at h
    split at h
    · next ha hb =>
      cases h
      obtain ⟨x, -, rfl⟩ := Option.map_eq_some_iff.1 ha
      obtain ⟨-, ⟨⟩⟩ := Option.ite_none_left_eq_some.1 hb
      exact ⟨hgroups (Nat.succ_pos _) hmod, rfl, fun _ => ⟨_, _, _, _, rfl⟩, fun hne => absurd rfl hne, fun _ => ⟨_, _, _, rfl⟩⟩
    · cases h
  | mconv =>
    simp only [if_true] at h
    split at h
    · next ha hb =>
      cases h
      cases ha
      obtain ⟨x, -, rfl⟩ := Option.map_eq_some_iff.1 hb
      exact ⟨hgroups (shapeOk_pos (by simpa using hshape)) hmod, rfl, nofun, fun _ => rfl, nofun⟩
    · cases h

/-! Bank accesses (R151). -/

theorem pieceUses_ne_nil {ps : List (Nat × Nat)} (h : ps ≠ []) (cyc : Nat) : pieceUses cyc ps ≠ [] := by
  cases ps with
  | nil => exact absurd rfl h
  | cons p rest => simp [pieceUses, List.eraseDups_cons]

theorem localPieces_ne_nil (base pitch : Nat) (tr : Bool) (ks w : Nat) (scale : Option Nat) (g : Nat) : localPieces base pitch tr ks w scale g ≠ [] := by
  cases tr <;> simp [localPieces]

/-- Every multiply accesses a bank in its first group. -/
theorem Mul.Fits.uses_ne_nil {u : Mul} {m : MulOp} {fm : MatFmt} (h : u.Fits m fm.ks) (c : Nat) : u.uses m fm c (u.k / fm.ks) ≠ [] := by
  have hlocal (hm : m = .mma ∨ m = .mmar) (cyc : Nat) : pieceUses cyc ((u.pieces fm 0).1 ++ (u.pieces fm 0).2) ≠ [] := by
    obtain ⟨base, pitch, tr, sa, ha⟩ := h.localA hm
    rw [Mul.pieces, ha]
    exact pieceUses_ne_nil (List.append_ne_nil_of_left_ne_nil (localPieces_ne_nil _ _ _ _ _ _ _) _) _
  intro hnil
  have hfirst := List.flatMap_eq_nil_iff.1 hnil 0 (List.mem_range.2 h.groups)
  cases m with
  | mma => exact hlocal (.inl rfl) _ hfirst
  | mmac => exact List.cons_ne_nil _ _ hfirst
  | mmar => exact hlocal (.inr rfl) _ hfirst
  | mconv => exact List.cons_ne_nil _ _ hfirst

/-! A multiply that completes. -/

/-- The multiply is in flight on its tile from this cycle on, and X goes on when its groups have passed. -/
def inFlight (s t : State) (f : XMat) (groups : Nat) : Prop :=
  (∃ o ∈ t.cur.mats, o.tile = f.tile.toNat ∧ o.fmt = f.fmt.toNat ∧ o.groups = groups ∧ o.cyc = s.cur.now ∧ o.start = s.cur.now)
    ∧ t.cur.ex = s.cur.ex.issued s.cur.now groups

/-- X and the cycle of the issuing agent are those of `s`. -/
def State.sameX (s t : State) : Prop := t.cur.ex = s.cur.ex ∧ t.cur.now = s.cur.now

section
variable {m : MulOp} {f : XMat} {s s2 : State} {u : Mul}

/-- The first group of an issue that is not a stopped MMAR's is group 0. -/
theorem firstGroup_eq_zero (h : stoppedMul s m = none) : firstGroup s m = 0 := by rw [firstGroup, h]

/-- The bank accesses of a multiply that issues now. -/
def mulUses (s : State) (m : MulOp) (f : XMat) (u : Mul) : List (Nat × Nat × Nat) :=
  u.uses m (matFmt f.fmt.toNat) s.cur.now (u.k / (matFmt f.fmt.toNat).ks)

/-- Nothing keeps the issue from its tile, its banks and its tags. -/
theorem mulAdmitted_of_free (htakes : m.takes f.fmt.toNat = true) (hstop : stoppedMul s m = none) (hclean : cleanMul s m f) (hu : mulOf s m f = some u)
    (hgroups : groupsOk m (matFmt f.fmt.toNat) u (segEntry s f) (u.k / (matFmt f.fmt.toNat).ks) = true) (hbusy : s.cur.busyTile .x f.tile.toNat = none)
    (hbanks : ∀ a ∈ mulUses s m f u, ∀ b ∈ s.cur.banks, bankClash a b = false) (huses : (mulUses s m f u).Pairwise fun a b => bankClash b a = false)
    (htags : ∀ k ∈ s.cur.tg, k.2.pending = false) : mulAdmitted s (s.withBanks (mulUses s m f u)) m f u := by
  obtain ⟨-, hcopied, harmed⟩ := (Core.busyTile_eq_none_iff _ _ _).1 hbusy
  have hne : mulUses s m f u ≠ [] := (mulOf_fits hu).uses_ne_nil s.cur.now
  refine ⟨htakes, fun _ => hclean, ?_, hgroups, hcopied, harmed, s.withBanks (mulUses s m f u), ?_, ?_⟩
  · rw [mulNow, hstop]
    exact hu
  · rw [firstGroup_eq_zero hstop, Nat.sub_zero]
    exact State.useBanks_free hne hbanks huses
  · exact State.tagPieces_idle (State.setCur_withBanks s hne) (by rw [State.cur_withBanks]; exact htags) _

/-- Up to the read of the first group X stands, for the stores that an MMAR makes visible too. -/
theorem sameX_of_firstRead {us : List (Nat × Nat × Nat)} (hs2 : s2 = if m = .mmar then (s.withBanks us).drainAll else s.withBanks us) : s.sameX s2 := by
  have hbanks : s.sameX (s.withBanks us) := by
    rw [State.sameX, State.cur_withBanks]
    exact ⟨rfl, rfl⟩
  rw [hs2]
  split
  · rw [State.sameX, (s.withBanks us).storesMove_drainAll.cur]
    exact hbanks
  · exact hbanks

/-- The first group of a multiply is read, of an MMAR where the row and the scales that its peer holds can be. -/
theorem growOp_firstOp (hfits : u.Fits m (matFmt f.fmt.toNat).ks) (hstop : stoppedMul s m = none)
    (hremote : m = .mmar → ∀ a pitch peer, u.b = .remote a pitch peer →
      ∃ z1 d, s2.rankRead ((s2.core s2.me).ctx.getD 64) (some s2.me) peer (a % 2 ^ 52) 64 = .ok (z1, d)
        ∧ ((matFmt f.fmt.toNat).mx = true → ∃ z2 sc, z1.rankRead ((s2.core s2.me).ctx.getD 64) (some s2.me) peer
            ((a + u.k / (matFmt f.fmt.toNat).ks * pitch) % 2 ^ 52) 32 = .ok (z2, sc))) :
    ∃ s3 p, s2.growOp s2.me (firstOp s s2 m f u) = .ok s3 p := by
  refine State.growOp_reads hfits.ownA ?_
  change ∃ t lines sc', State.readGroup _ _ u.b _ _ _ (firstGroup s m) [] = .ok t lines sc'
  by_cases hm : m = .mmar
  · obtain ⟨addr, pitch, peer, hb⟩ := hfits.remoteB hm
    obtain ⟨z1, d, hrow, hscale⟩ := hremote hm addr pitch peer hb
    rw [hb, firstGroup_eq_zero hstop]
    exact State.readGroup_remote hrow hscale
  · obtain ⟨lines, sc, hread⟩ := s2.readGroup_own s2.me (hfits.ownB hm) _ _ _ _ _
    exact ⟨s2, lines, sc, hread⟩

@[simp] theorem heldData_ex (c : Core) (lat : Nat) (late : Bool) : (heldData c lat late).ex = c.ex := by cases late <;> rfl
@[simp] theorem heldData_now (c : Core) (lat : Nat) (late : Bool) : (heldData c lat late).now = c.now := by cases late <;> rfl

/-- A multiply that has joined those in flight, in a state in which X stands. -/
theorem inFlight_of_issuedFor {t v : State} {g : Core → Core} {p : MatOp} (hx : s.sameX s2) (hstop : stoppedMul s m = none)
    (h : issuedFor v t .x (u.k / (matFmt f.fmt.toNat).ks) g) (hex : (g v.cur).ex = s2.cur.ex) (hnow : (g v.cur).now = s2.cur.now) (hmem : p ∈ (g v.cur).mats)
    (hp : (firstOp s s2 m f u).grows p) : inFlight s t f (u.k / (matFmt f.fmt.toNat).ks) := by
  obtain ⟨hsex, hsnow⟩ := hx
  rw [MatOp.grows] at hp
  rw [inFlight, h.2, Core.issued_mats]
  refine ⟨⟨p, hmem, ?_⟩, ?_⟩
  · rw [hp]
    refine ⟨rfl, rfl, rfl, hsnow, ?_⟩
    change s2.cur.now - firstGroup s m = s.cur.now
    rw [firstGroup_eq_zero hstop, Nat.sub_zero, hsnow]
  · have hseq := Core.issued_seqOf_same (g v.cur) .x (u.k / (matFmt f.fmt.toNat).ks)
    rw [← hsex, ← hsnow, ← hex, ← hnow]
    exact hseq

end

theorem multipliesComplete : Claim.MultipliesComplete := by
  intro m f s u
  dsimp only
  intro htakes hstop hclean hu hgroups hbusy hbanks huses htags hremote
  obtain ⟨s2, hs2⟩ : ∃ s2, s2 = if m = .mmar then (s.withBanks (mulUses s m f u)).drainAll else s.withBanks (mulUses s m f u) := ⟨_, rfl⟩
  have hx : s.sameX s2 := sameX_of_firstRead hs2
  have hissues := multiplyIssues m f s _ s2 u (mulAdmitted_of_free htakes hstop hclean hu hgroups hbusy hbanks huses htags) hs2
  dsimp only at hissues
  rw [firstGroup_eq_zero hstop, Nat.sub_zero] at hissues
  obtain ⟨hfailed, hreads⟩ := hissues
  by_cases hfail : ∃ c p sc cb x, u.b = .ingot c p sc cb (some x)
  · obtain ⟨c, p, sc, cb, x, hb⟩ := hfail
    obtain ⟨t, ht, hissued⟩ := hfailed c p sc cb x hb
    exact ⟨t, ht, inFlight_of_issuedFor hx hstop hissued rfl rfl (List.mem_append_right _ List.mem_cons_self) rfl⟩
  · obtain ⟨s3, p, hgrow⟩ : ∃ s3 p, s2.growOp s2.me (firstOp s s2 m f u) = .ok s3 p := by
      refine growOp_firstOp (mulOf_fits hu) hstop fun hm => ?_
      rw [if_pos hm] at hs2
      rw [hs2]
      exact hremote
    obtain ⟨hsame, hp⟩ := State.growOp_grows hgrow
    obtain ⟨t, ht, hissued⟩ := (hreads fun c p sc cb x hb => hfail ⟨c, p, sc, cb, x, hb⟩).1 s3 p hgrow
    refine ⟨t, ht, inFlight_of_issuedFor hx hstop hissued ?_ ?_ (List.mem_append_right _ List.mem_cons_self) hp⟩
    · rw [← hsame.cur]
      exact heldData_ex _ _ _
    · rw [← hsame.cur]
      exact heldData_now _ _ _

/-- Settles O30: a multiply whose checks pass is begun, by its first group; one that nothing disturbs passes them, and X stands until it joins those in flight; each check that fails has its trap. -/
theorem matrixMultiplies : Obligations.MatrixMultiplies := ⟨multiplyIssues, multipliesComplete, multiplyTraps⟩

end Sys2Proof.Machine
end
